-- ==== Sys2Proof/Word.lean ====
section
/-! DEFINITION. The word types of the HLN-920: bytes, 32-bit register words, 64-bit values. -/

namespace Sys2Proof

/-- A byte of memory. -/
abbrev Byte := BitVec 8

/-- A 32-bit register word (R3, R75). -/
abbrev Word := BitVec 32

/-- A 64-bit value: a register pair, a PC, an address, a mask (R38). -/
abbrev Dword := BitVec 64

end Sys2Proof
end

