-- ==== Sys2Proof/Config.lean ====
section
/-! DEFINITION. What the part fixes (R1, R2) and the free values, which nothing constrains. -/

namespace Sys2Proof.Config

/-- Vector cores of the package (R1). -/
def cores : Nat := 176

/-- Group slots of a core: 12 partitions of 8 (R131). -/
def slots : Nat := 96

/-- Lanes of a group (R3). -/
def lanes : Nat := 64

/-- Helm cores of the package (R1). -/
def helms : Nat := 64

/-- Core clocks of one meridian tick (R2). -/
def clocksPerTick : Nat := 16

/-- Core clock of the part, in clocks per microsecond (R2: 1.75 GHz). -/
def clocksPerMicro : Nat := 1750

/-- A byte whose value the spec does not state (log 12: DESIGN CHOICE, safe). -/
opaque freeByte : Nat → Byte

/-- A 32-bit word whose value the spec does not state (log 12: DESIGN CHOICE, safe). -/
opaque freeWord : Nat → Word

/-- A 64-bit value that the spec does not state (log 12: DESIGN CHOICE, safe). -/
opaque freeDword : Nat → Dword

/-- A choice that the spec leaves to the hardware, the firmware or chance (log 12: DESIGN CHOICE, safe). -/
opaque freeBool : Nat → Bool

/-- A byte that a host or a remote endpoint answers: by the clock and the physical address (log 12: DESIGN CHOICE,
safe). -/
opaque windowByte : Nat → Nat → Byte

/-- Whether the target of a request refuses it, which its own package decides: by the request's number (R364, R365)
(log 12: DESIGN CHOICE, safe). -/
opaque refused : Nat → Bool

/-- The memory row that holds a physical address (log 80: DESIGN CHOICE, safe). -/
opaque rowOf : Nat → Nat

/-- The corrected-error count of a row above which the firmware is told (log 80: DEDUCED, unsafe). -/
opaque rowThreshold : Nat

/-- Which of two neighbouring results a special function delivers on an operand for which the model's fixed precision
does not decide, if there is one (log 14: DESIGN CHOICE, safe): function number, rounding code, operand. -/
opaque hardToRound : Nat → Nat → Nat → Bool

end Sys2Proof.Config
end

