-- ==== Sys2Proof/Syntax.lean ====
section
/-! DEFINITION. The syntax of the HLN-920: operand forms, modifiers, and one constructor of `Instr` for each row
of spec/opcode_table.json. The words of the vector cores come first (02 R27 to R51), then the four words of the helm
cores (15 R313), then the steps of the machine that have no encoding (spec/95). -/

namespace Sys2Proof

/-! ## Operands (R12, R34 to R37) -/

/-- The identity constants, codes 0x1F8 to 0x1FF (R35). -/
inductive IdentConst where
  | lane | quad | group | team | ccore | core | depth | mlo
  deriving DecidableEq, Repr

/-- A 9-bit operand code, by its class (R34). `flt` holds the index of the float constant, code 0x1E0 + index. -/
inductive Operand where
  | v (n : Fin 256)
  | s (n : Fin 192)
  | int (n : Fin 32)
  | flt (c : Fin 24)
  | ident (c : IdentConst)
  deriving DecidableEq, Repr

/-- A V or S code: every destination, and every base of an address (R37, R16). -/
inductive Reg where
  | v (n : Fin 256)
  | s (n : Fin 192)
  deriving DecidableEq, Repr

/-- A register used as an operand. -/
def Reg.op : Reg → Operand
  | .v n => .v n
  | .s n => .s n

/-- The number a register name carries. -/
def Reg.num : Reg → Nat
  | .v n => n.val
  | .s n => n.val

abbrev VReg := Fin 256
abbrev SReg := Fin 192
abbrev PReg := Fin 8
abbrev MReg := Fin 8
abbrev HReg := Fin 16
abbrev Tile := Fin 128

/-- The guard of a word: `?Pp`, or `?!Pp` when `neg` (R14). No guard is `?P7`. -/
structure Guard where
  neg : Bool
  p : PReg
  deriving DecidableEq, Repr

/-- The guard of an unguarded word. -/
def Guard.always : Guard := { neg := false, p := 7 }

/-! ## Types, rounding, conditions (R29) -/

inductive IntTy where
  | i32 | n32 | i64 | n64
  deriving DecidableEq, Repr

inductive Ty32 where
  | i32 | n32
  deriving DecidableEq, Repr

inductive Ty16 where
  | i16 | n16
  deriving DecidableEq, Repr

inductive Ty8 where
  | i8 | n8
  deriving DecidableEq, Repr

/-- The signed types of INEG and IABS (R110). -/
inductive SignTy where
  | i32 | i64
  deriving DecidableEq, Repr

/-- The destination types of SHRND (R125). -/
inductive NarrowTy where
  | i32 | n32 | i16 | n16 | i8 | n8
  deriving DecidableEq, Repr

/-- The types of the FP32 and packed forms (R115). -/
inductive FTy where
  | f32 | f16x2 | bf16x2
  deriving DecidableEq, Repr

/-- The types of CVT (R119). -/
inductive CvtTy where
  | i32 | n32 | i64 | n64 | i16 | n16 | i8 | n8 | f32 | f16 | bf16 | f64 | e4m3 | e5m2
  deriving DecidableEq, Repr

/-- The type pairs of CVTP that pack (R121): destination, then source. -/
inductive PackPair where
  | f16FromF32 | bf16FromF32 | e4m3FromF16 | e4m3FromBf16 | e5m2FromF16 | e5m2FromBf16
  deriving DecidableEq, Repr

/-- The type pairs of CVTP.UNPK (R121): destination, then source. -/
inductive UnpackPair where
  | f32FromF16 | f32FromBf16 | f16FromE4m3 | f16FromE5m2 | bf16FromE4m3 | bf16FromE5m2
  deriving DecidableEq, Repr

/-- The types of GRED and GSCAN (R153). -/
inductive RedTy where
  | i32 | n32 | i64 | n64 | f32 | f64
  deriving DecidableEq, Repr

/-- The rounding modes (R29, R63). -/
inductive Rm where
  | rne | rtz | rdn | rup | rna
  deriving DecidableEq, Repr

/-- The conditions of ICMP (R29). -/
inductive Icc where
  | eq | ne | lt | le | gt | ge
  deriving DecidableEq, Repr

/-- The conditions of FCMP and DCMP (R102), in code order. -/
inductive Fcc where
  | eq | ne | lt | le | gt | ge | un | ord | ult | ule | ugt | uge | ueq | one
  deriving DecidableEq, Repr

/-! ## Memory modifiers (R17, R31) -/

inductive LdWidth where
  | w8 | w16 | w32 | w64 | w128 | x8 | x16
  deriving DecidableEq, Repr

inductive StWidth where
  | w8 | w16 | w32 | w64 | w128
  deriving DecidableEq, Repr

/-- The two widths of ACAS, LR, SC, PARTN and WAITV. -/
inductive AWidth where
  | w32 | w64
  deriving DecidableEq, Repr

inductive Ordering4 where
  | rlx | acq | rel | ar
  deriving DecidableEq, Repr

inductive Scope where
  | lane | grp | team | clu | die | dev | node
  deriving DecidableEq, Repr

/-- Ordering, scope and eviction of an FM word (R17). -/
structure MemMod where
  ord : Ordering4
  scope : Scope
  evict : Fin 8
  deriving DecidableEq, Repr

/-- The operations of ATOM (R31). -/
inductive AtomOp where
  | add | and | or | xor | min | max | minu | maxu | xchg | fadd
  deriving DecidableEq, Repr

/-- The conditions of WAITV (R31). -/
inductive WCond where
  | eq | ne | lt | ge
  deriving DecidableEq, Repr

/-- The access paths (R31). -/
inductive Path where
  | lane | copy | matrix | inbound | helm
  deriving DecidableEq, Repr

/-- The two scopes of PREF (R178). -/
inductive PrefScope where
  | lane | dev
  deriving DecidableEq, Repr

/-! ## Group, control, engine and system modifiers -/

inductive ShflMode where
  | idx | up | dn | xor
  deriving DecidableEq, Repr

inductive SegSize where
  | s64 | s16 | s4
  deriving DecidableEq, Repr

inductive SlideWidth where
  | e8 | e16 | e32
  deriving DecidableEq, Repr

inductive VoteMode where
  | all | any | uni
  deriving DecidableEq, Repr

inductive RedOp where
  | add | min | max | and | or | xor
  deriving DecidableEq, Repr

/-- How a TRAV names its holder (R256, R257). -/
inductive Sel where
  | none
  | hold (a : Operand)
  | core (a : Operand)
  deriving DecidableEq, Repr

/-- One REP step: 0, 1, 2 or 4 (R43). -/
inductive RepStep where
  | s0 | s1 | s2 | s4
  deriving DecidableEq, Repr

/-- The extension of MOVI (R30). -/
inductive MoviExt where
  | none | i64 | n64
  deriving DecidableEq, Repr

/-- The canonical kinds (R61), in code order. -/
inductive Kind where
  | int8g | int4g | e4m3 | e5m2 | fp16 | bf16
  deriving DecidableEq, Repr

inductive GSize where
  | g32 | g64 | g128
  deriving DecidableEq, Repr

/-- The operations of TSWP (R198). -/
inductive SweepOp where
  | add | mul | max | min | set
  deriving DecidableEq, Repr

/-- The formats of MLDZ (R212). -/
inductive LdFmt where
  | f32 | f16 | bf16
  deriving DecidableEq, Repr

/-- The formats of MSTZ (R212). -/
inductive StFmt where
  | f32 | f16 | bf16 | e4m3 | e5m2
  deriving DecidableEq, Repr

/-- The control registers of the user view (R224, R269). -/
inductive UReg where
  | lsw | ftz | fair | rdvz | dmr | dmrc | dmra | hint | spill | tretry | mer | grid | place
  | vdep | varr | vhar | vmus | vber | vgen
  deriving DecidableEq, Repr

/-- A control-register index: a register through the user or the supervisor view, or one of the three that exist only
in the supervisor view (R224). -/
inductive CReg where
  | user (r : UReg)
  | sv (r : UReg)
  | tring | trptr | stage
  deriving DecidableEq, Repr

/-! ## Pair halves (R39, R40) -/

/-- What a half does, with its modifier. -/
inductive HalfOp where
  | iadd2 | isub2 | imin2 (t : Ty32) | imax2 (t : Ty32) | and2 | or2 | xor2 | shl2 | shr2 | sar2 | mov2
  | fadd2 (rm : Rm) | fmul2 (rm : Rm) | fmin2 | fmax2 | padd2h (sat : Bool)
  deriving DecidableEq, Repr

/-- The guard (7 for none), destination and source of a half. -/
structure HalfArgs where
  g : PReg
  d : Fin 128
  a : Operand
  deriving DecidableEq, Repr

/-- A whole half: the second half of a pair word. -/
structure HalfWord where
  op : HalfOp
  args : HalfArgs
  deriving DecidableEq, Repr

/-! ## Registers of the I/O die that REGISTER_WRITE writes (R25) -/

/-- A register of the I/O die with no row of its own, or a table of it that the helm kernel or the firmware writes
(log 114: DESIGN CHOICE, safe). -/
inductive PkReg where
  | fltq | fltp | port (p : Fin 4) | hwin (p : Fin 4) | fab | fport (i : Fin 12) | orph | orpp | mchk
  /-- the root in a requester's context (R349) -/
  | ioRoot (p : Fin 4) (rid : BitVec 16)
  /-- an HDM decoder of a port (R354): base and size in GiB, in the low and the high half of the value -/
  | hdm (p : Fin 4) (i : Fin 2)
  /-- a shared range of so many pages of 2 MiB (R366) -/
  | shared (pages : Nat)
  /-- so many pages of 2 MiB that are exported to an endpoint (R364) -/
  | exported (e : Fin 1024) (pages : Nat)
  deriving DecidableEq, Repr

/-- How a host holds a line (R354). -/
inductive HostHold where
  | invalid | shared | exclusive
  deriving DecidableEq, Repr

/-- One request of a host or a device, or of a remote endpoint, at its home (R349, R365). -/
inductive InKind where
  | write (bytes : List Byte)
  | read (len : Nat)
  | atom (op : AtomOp) (w : AWidth) (val : Dword)
  | acas (w : AWidth) (cmp val : Dword)
  /-- SC, with whether its lane's reservation stands -/
  | sc (w : AWidth) (val : Dword) (held : Bool)
  /-- PARTN's update of its cursor, for data of so many bytes -/
  | partn (bytes : Nat)
  | hold (h : HostHold)
  deriving DecidableEq, Repr

/-- Whose request arrives at a port: the port and the requester ID (R349). -/
structure Requester where
  port : Fin 4
  rid : BitVec 16
  deriving DecidableEq, Repr

/-- Where the management firmware places one cluster (R333): die, column, row, whether it floats, the dispatch region. -/
structure Placement where
  die : Fin 2
  col : Nat
  row : Nat
  floating : Bool
  region : Fin 4
  deriving DecidableEq, Repr

/-! ## Instructions -/

/-- One constructor for each row of spec/opcode_table.json. -/
inductive Instr where
  -- integer forms (R110, R111)
  | iadd (g : Guard) (t : IntTy) (sat : Bool) (d : Reg) (a b : Operand)
  | isub (g : Guard) (t : IntTy) (sat : Bool) (d : Reg) (a b : Operand)
  | iaddc (g : Guard) (t : IntTy) (d : Reg) (a b c : Operand) (k : PReg)
  | imul (g : Guard) (t : IntTy) (sat : Bool) (d : Reg) (a b : Operand)
  | imulh (g : Guard) (t : IntTy) (d : Reg) (a b : Operand)
  | imad (g : Guard) (t : IntTy) (sat : Bool) (d : Reg) (a b c : Operand)
  | imadw (g : Guard) (t : Ty32) (d : Reg) (a b c : Operand)
  | ineg (g : Guard) (t : SignTy) (sat : Bool) (d : Reg) (a : Operand)
  | iabs (g : Guard) (t : SignTy) (sat : Bool) (d : Reg) (a : Operand)
  | imin (g : Guard) (t : IntTy) (d : Reg) (a b : Operand)
  | imax (g : Guard) (t : IntTy) (d : Reg) (a b : Operand)
  | iclamp (g : Guard) (t : IntTy) (d : Reg) (a b c : Operand)
  | lea (g : Guard) (t : Ty32) (d : Reg) (a b : Operand) (sh : Fin 16)
  -- logic, bit and move forms (R112 to R114, R30)
  | and (g : Guard) (t : IntTy) (d : Reg) (a b : Operand)
  | or (g : Guard) (t : IntTy) (d : Reg) (a b : Operand)
  | xor (g : Guard) (t : IntTy) (d : Reg) (a b : Operand)
  | andn (g : Guard) (t : IntTy) (d : Reg) (a b : Operand)
  | shl (g : Guard) (t : IntTy) (d : Reg) (a b : Operand)
  | shr (g : Guard) (t : IntTy) (d : Reg) (a b : Operand)
  | sar (g : Guard) (t : IntTy) (d : Reg) (a b : Operand)
  | rol (g : Guard) (t : IntTy) (d : Reg) (a b : Operand)
  | funnel (g : Guard) (t : Ty32) (d : Reg) (a b c : Operand)
  | popc (g : Guard) (t : IntTy) (d : Reg) (a : Operand)
  | clz (g : Guard) (t : IntTy) (d : Reg) (a : Operand)
  | ctz (g : Guard) (t : IntTy) (d : Reg) (a : Operand)
  | brev (g : Guard) (t : IntTy) (d : Reg) (a : Operand)
  | bfx (g : Guard) (t : Ty32) (d : Reg) (a b c : Operand)
  | bfi (g : Guard) (t : Ty32) (d : Reg) (a b c : Operand)
  | bperm (g : Guard) (t : Ty32) (d : Reg) (a b c : Operand)
  | sel (g : Guard) (t : IntTy) (d : Reg) (a b : Operand) (neg : Bool) (k : PReg)
  | mov (g : Guard) (t : IntTy) (d : Reg) (a : Operand)
  | movi (g : Guard) (ext : MoviExt) (d : Reg) (imm : Word)
  -- FP32 and packed halves (R115 to R117)
  | fadd (g : Guard) (t : FTy) (rm : Rm) (d : Reg) (a b : Operand)
  | fsub (g : Guard) (t : FTy) (rm : Rm) (d : Reg) (a b : Operand)
  | fmul (g : Guard) (t : FTy) (rm : Rm) (d : Reg) (a b : Operand)
  | ffma (g : Guard) (t : FTy) (rm : Rm) (d : Reg) (a b c : Operand)
  | fmin (g : Guard) (t : FTy) (d : Reg) (a b : Operand)
  | fmax (g : Guard) (t : FTy) (d : Reg) (a b : Operand)
  | frnd (g : Guard) (t : FTy) (rm : Rm) (d : Reg) (a : Operand)
  | ffrac (g : Guard) (t : FTy) (d : Reg) (a : Operand)
  -- FP64 (R118)
  | dadd (g : Guard) (rm : Rm) (d : Reg) (a b : Operand)
  | dsub (g : Guard) (rm : Rm) (d : Reg) (a b : Operand)
  | dmul (g : Guard) (rm : Rm) (d : Reg) (a b : Operand)
  | dfma (g : Guard) (rm : Rm) (d : Reg) (a b c : Operand)
  | dmin (g : Guard) (d : Reg) (a b : Operand)
  | dmax (g : Guard) (d : Reg) (a b : Operand)
  | drnd (g : Guard) (rm : Rm) (d : Reg) (a : Operand)
  -- conversions (R119 to R121)
  | cvt (g : Guard) (dst src : CvtTy) (sat : Bool) (rm : Rm) (d : Reg) (a : Operand)
  | cvtp (g : Guard) (p : PackPair) (sat : Bool) (rm : Rm) (d : Reg) (a b : Operand)
  | cvtpUnpk (g : Guard) (p : UnpackPair) (rm : Rm) (d : Reg) (a : Operand)
  -- special functions (R122)
  | frcp (g : Guard) (rm : Rm) (d : Reg) (a : Operand)
  | frsq (g : Guard) (rm : Rm) (d : Reg) (a : Operand)
  | fsqrt (g : Guard) (rm : Rm) (d : Reg) (a : Operand)
  | fexp2 (g : Guard) (rm : Rm) (d : Reg) (a : Operand)
  | flog2 (g : Guard) (rm : Rm) (d : Reg) (a : Operand)
  | fsin (g : Guard) (rm : Rm) (d : Reg) (a : Operand)
  | fcos (g : Guard) (rm : Rm) (d : Reg) (a : Operand)
  | ftanh (g : Guard) (rm : Rm) (d : Reg) (a : Operand)
  | fsgm (g : Guard) (rm : Rm) (d : Reg) (a : Operand)
  | ferf (g : Guard) (rm : Rm) (d : Reg) (a : Operand)
  -- packed integers (R123 to R126)
  | dp2 (g : Guard) (t : Ty16) (sat : Bool) (d : Reg) (a b c : Operand)
  | dp4 (g : Guard) (t : Ty8) (sat : Bool) (d : Reg) (a b c : Operand)
  | padd2 (g : Guard) (t : Ty16) (sat : Bool) (d : Reg) (a b : Operand)
  | psub2 (g : Guard) (t : Ty16) (sat : Bool) (d : Reg) (a b : Operand)
  | pmax2 (g : Guard) (t : Ty16) (d : Reg) (a b : Operand)
  | pmin2 (g : Guard) (t : Ty16) (d : Reg) (a b : Operand)
  | shrnd (g : Guard) (t : NarrowTy) (src64 : Bool) (sat : Bool) (d : Reg) (a b : Operand)
  | pack (g : Guard) (t : Ty16) (sat : Bool) (d : Reg) (a b : Operand)
  | sad4 (g : Guard) (d : Reg) (a b c : Operand)
  -- hash and strings (R127 to R129)
  | hash (g : Guard) (d : Reg) (a : Operand)
  | crc (g : Guard) (d : Reg) (a b : Operand)
  | scmp (g : Guard) (d : Reg) (a b c : Operand) (k : PReg)
  | seqm (g : Guard) (d : Reg) (a b : Operand)
  | sfold (g : Guard) (up : Bool) (d : Reg) (a : Operand)
  -- compares and predicates (R101 to R104)
  | icmp (g : Guard) (t : IntTy) (cc : Icc) (p : PReg) (a b : Operand)
  | fcmp (g : Guard) (cc : Fcc) (p : PReg) (a b : Operand)
  | dcmp (g : Guard) (cc : Fcc) (p : PReg) (a b : Operand)
  | plop (g : Guard) (t : Fin 16) (d a b : PReg)
  | pmov (g : Guard) (d : Reg)
  | pmovPw (g : Guard) (a : Operand)
  | pmovNz (g : Guard) (p : PReg) (a : Operand)
  | pmovBit (g : Guard) (p : PReg) (a b : Operand)
  -- pair words, by their first half (R39 to R42, R130)
  | iadd2 (h : HalfArgs) (o : HalfWord)
  | isub2 (h : HalfArgs) (o : HalfWord)
  | imin2 (t : Ty32) (h : HalfArgs) (o : HalfWord)
  | imax2 (t : Ty32) (h : HalfArgs) (o : HalfWord)
  | and2 (h : HalfArgs) (o : HalfWord)
  | or2 (h : HalfArgs) (o : HalfWord)
  | xor2 (h : HalfArgs) (o : HalfWord)
  | shl2 (h : HalfArgs) (o : HalfWord)
  | shr2 (h : HalfArgs) (o : HalfWord)
  | sar2 (h : HalfArgs) (o : HalfWord)
  | mov2 (h : HalfArgs) (o : HalfWord)
  | fadd2 (rm : Rm) (h : HalfArgs) (o : HalfWord)
  | fmul2 (rm : Rm) (h : HalfArgs) (o : HalfWord)
  | fmin2 (h : HalfArgs) (o : HalfWord)
  | fmax2 (h : HalfArgs) (o : HalfWord)
  | padd2h (sat : Bool) (h : HalfArgs) (o : HalfWord)
  -- group operations (R142 to R161, R248)
  | shfl (g : Guard) (m : MReg) (seg : SegSize) (mode : ShflMode) (k : PReg) (d : VReg) (a b : Operand)
  | slide (g : Guard) (m : MReg) (up : Bool) (w : SlideWidth) (d : VReg) (a b c : Operand)
  | vote (g : Guard) (m : MReg) (mode : VoteMode) (d a : PReg)
  | ballot (g : Guard) (m : MReg) (d : MReg) (a : PReg)
  | ballotR (g : Guard) (m : MReg) (d : Reg) (a : PReg)
  | gred (g : Guard) (m : MReg) (t : RedTy) (op : RedOp) (rm : Rm) (sat : Bool) (d : Reg) (a : Operand)
  | gscan (g : Guard) (m : MReg) (t : RedTy) (op : RedOp) (ex : Bool) (rm : Rm) (sat : Bool) (d : VReg) (a : Operand)
  | mskopAnd (g : Guard) (m : MReg) (d a b : MReg)
  | mskopOr (g : Guard) (m : MReg) (d a b : MReg)
  | mskopXor (g : Guard) (m : MReg) (d a b : MReg)
  | mskopAndn (g : Guard) (m : MReg) (d a b : MReg)
  | mskopNot (g : Guard) (m : MReg) (d a : MReg)
  | mskopLd (g : Guard) (m : MReg) (d : MReg) (a : Operand)
  | mskopSt (g : Guard) (m : MReg) (d : SReg) (a : MReg)
  | mskopLive (g : Guard) (m : MReg) (d : MReg)
  | mskopArrv (g : Guard) (m : MReg) (d : MReg)
  | tbar (g : Guard) (m : MReg) (id : Fin 16) (b : Operand)
  | cbar (g : Guard) (m : MReg) (id : Fin 8) (b : Operand)
  | rolesw (m : MReg) (a b : SReg)
  -- control transfers and lane life (R89 to R99, R256)
  | bra (g : Guard) (live : Fin 33) (off : Word)
  | call (g : Guard) (live : Fin 33) (frame : Fin 64) (off : Word)
  | trav (g : Guard) (live : Fin 33) (sel : Sel) (off : Word)
  | brx (g : Guard) (live : Fin 33) (a : Reg)
  | callx (g : Guard) (live : Fin 33) (a : Reg) (frame : Fin 64)
  | travx (g : Guard) (live : Fin 33) (a : Reg) (sel : Sel)
  | ret (g : Guard) (live : Fin 33)
  | exit (g : Guard)
  | yield (g : Guard)
  | bkpt (g : Guard) (n : Fin 4096)
  | spawn (g : Guard) (d : VReg) (a : Reg) (b : Operand)
  | rep (count : Fin 65) (d a b c : RepStep)
  | nop (g : Guard)
  -- memory (R170 to R179, R289 to R294)
  | ld (g : Guard) (w : LdWidth) (m : MemMod) (d : VReg) (a : Reg) (b : Operand) (off : BitVec 13)
  | st (g : Guard) (w : StWidth) (m : MemMod) (d : Operand) (a : Reg) (b : Operand) (off : BitVec 13)
  | sld (g : Guard) (w : LdWidth) (m : MemMod) (d : SReg) (a : SReg) (b : Operand) (off : BitVec 13)
  | atom (g : Guard) (op : AtomOp) (m : MemMod) (d : VReg) (a : Reg) (b : Operand) (off : BitVec 13)
  | atomW64 (g : Guard) (op : AtomOp) (m : MemMod) (d : VReg) (a : Reg) (b : Operand) (off : BitVec 13)
  | acas (g : Guard) (w : AWidth) (m : MemMod) (d : VReg) (a : Reg) (b : Operand) (off : BitVec 13)
  | lr (g : Guard) (w : AWidth) (m : MemMod) (d : VReg) (a : Reg) (off : BitVec 13)
  | sc (g : Guard) (w : AWidth) (m : MemMod) (d : VReg) (a : Reg) (b : Operand) (off : BitVec 13)
  | pref (g : Guard) (scope : PrefScope) (evict : Fin 8) (a : Reg) (off : BitVec 13)
  | partn (g : Guard) (w : AWidth) (m : MemMod) (d : VReg) (a : Reg) (b : Operand)
  | waitv (g : Guard) (cc : WCond) (w : AWidth) (acq : Bool) (scope : Scope) (d : Reg) (a : Reg) (b : Operand) (off : BitVec 13)
  | fence (g : Guard) (ord : Ordering4) (scope : Scope) (d : SReg)
  | xfence (g : Guard) (scope : Scope) (p q : Path)
  -- windows, copies, barriers, handles, sweeps (R181 to R198)
  | wmap (g : Guard) (w : Fin 4) (a b c : SReg)
  | wflush (g : Guard) (un : Bool) (w : Fin 4)
  | wdrop (g : Guard) (w : Fin 4)
  | cpy (g : Guard) (a : SReg)
  | cpyg (g : Guard) (a b : SReg)
  | bari (g : Guard) (a : Reg)
  | barx (g : Guard) (a : Reg) (b : Operand)
  | barw (g : Guard) (a : Reg) (b : Operand)
  | bart (g : Guard) (d : PReg) (a : Reg) (b : Operand)
  | hwait (g : Guard) (d : Option Reg) (h : HReg)
  | htest (g : Guard) (d : PReg) (h : HReg)
  | hcan (g : Guard) (h : HReg)
  | tswp (g : Guard) (op : SweepOp) (h : HReg) (i : Fin 2) (b : SReg)
  | tldi (g : Guard) (i : Fin 2) (a : SReg)
  -- the matrix engine (R201, R208, R210, R212)
  | macq (g : Guard)
  | mrel (g : Guard)
  | mma (g : Guard) (h : HReg) (t : Tile) (ka kb : Kind) (ga gb : GSize) (ovw : Bool) (a b : SReg) (c : Operand)
  | mmag (g : Guard) (h : HReg) (t : Tile) (ka kb : Kind) (ga gb : GSize) (ovw : Bool) (a : VReg) (b c : SReg)
  | mzero (g : Guard) (h : HReg) (t : Tile) (b : Operand)
  | mldz (g : Guard) (h : HReg) (f : LdFmt) (t : Tile) (a : SReg) (b : Operand)
  | mstz (g : Guard) (h : HReg) (f : StFmt) (rm : Rm) (sat : Bool) (t : Tile) (a : SReg) (b : Operand)
  -- lane transactions (R299, R303, R310, R311)
  | tbegin (d : VReg) (n : Fin 9) (off : Word)
  | tend
  | tabort (g : Guard) (retry : Bool) (u : Fin 16)
  | tstat (g : Guard) (d : Reg) (k : PReg)
  -- system (R226 to R235)
  | sysc (g : Guard) (n : Word) (d a : SReg)
  | crd (g : Guard) (d : Reg) (r : CReg)
  | cwr (g : Guard) (r : CReg) (a : Operand)
  | lnch (g : Guard) (d a : SReg)
  | sretReply (g : Guard) (d a b : SReg)
  | sretResume (g : Guard) (skip : Bool) (d a : SReg)
  | sretDrop (g : Guard) (d a : SReg)
  | mboxWait (g : Guard) (d : SReg)
  | mboxPop (g : Guard) (d a : SReg)
  | mboxStat (g : Guard) (d : SReg)
  | ctxsG (g : Guard) (d a b : SReg)
  | ctxsT (g : Guard) (d a b : SReg)
  | ctxlG (g : Guard) (d a b : SReg)
  | ctxlT (g : Guard) (d a b : SReg)
  | tinvAll (g : Guard)
  | tinvPage (g : Guard) (a : SReg)
  -- helm cores (R313)
  | htbegin (rd : Fin 32)
  | htend
  | htabort (u : Fin 16)
  | htstat (rd : Fin 32)
  -- steps of the cores; `c` is a core, `k` a group slot (8 × partition + slot)
  | repIssue (c k : Nat)
  | tack (c k : Nat)
  | asyncTrap (c k : Nat)
  | trapRecordWrite (c : Nat)
  | rendezvousComplete (c k : Nat)
  | rendezvousTimeout (c k : Nat)
  | growingAllotment (c k : Nat)
  -- steps of the ordering machine; `id` names an access, `n` a grain by its lowest address
  | satisfy (c id : Nat)
  | buffer (c id : Nat)
  | drain (c id : Nat)
  | perform (n : Nat)
  | expire (n : Nat)
  | ownerSurrender (n : Nat)
  | watchWake (c n : Nat)
  | watchPoll (c n : Nat)
  | windowFill (c t : Nat) (w : Fin 4) (blk : Nat)
  | windowSurrender (c t : Nat) (w : Fin 4) (blk : Nat)
  | translationWalk (c k : Nat) (va : Dword)
  -- what the I/O die does by its clock
  | completionTimeout (id : Nat)
  | linkDown (p : Fin 4)
  | lifetimeUpdate
  -- steps of the engines
  | copyWrite (c id e : Nat)
  | sweepElement (c id : Nat)
  | matrixStep (c : Nat)
  | gather (c : Nat)
  | engineGrant (c : Nat)
  | tileClear (c : Nat)
  -- transactions
  | commit (t : Nat)
  | anchorGrant (k : Nat)
  | expired (c k l : Nat)
  | helmConflict (h line : Nat) (wr : Bool)
  | helmCommit (t : Nat)
  | interrupt (h : Nat)
  -- voyage mode
  | voyagerSend (c i : Nat)
  | voyagerDelivery (c i : Nat)
  | harbourDrain (c : Nat)
  | musterTimeout (c : Nat) (pc : Dword)
  | muster (c : Nat)
  | chartAdopt (c : Nat)
  | holderLoss (c : Nat)
  -- mailbox and firmware
  | mailboxPost (c : Nat)
  | callReply (c : Nat)
  | faultServed (c : Nat)
  | faultRefused (c : Nat)
  | invalidate (c : Nat)
  | launchRequest (c : Nat)
  | storageFailure (c : Nat)
  | endTheGrid (c : Nat)
  | null (c : Nat)
  | fopen (c : Nat)
  | fclose (c : Nat)
  | fread (c : Nat)
  | fwrite (c : Nat)
  | fstat (c : Nat)
  | print (c : Nat)
  -- launch and dispatch
  | dependenceSatisfied (gid i : Nat)
  | teamStart (die : Fin 2) (gid q core : Nat)
  | stealRequest (die : Fin 2) (r : Fin 4)
  | gridComplete (gid : Nat)
  | badPageAppend (page : Nat)
  -- ports, hosts and storage
  -- `mem` marks a CXL.mem request of a host, whose address is physical
  | inboundWrite (p : Requester) (addr : Dword) (bytes : List Byte) (ro mem : Bool)
  | inboundRead (p : Requester) (addr : Dword) (len : Nat) (mem : Option HostHold)
  | writeAck (id : Nat)
  | mailboxPostSlot (p : Fin 4) (c : Nat) (bytes : List Byte)
  | helmInterruptWindow (h : Nat) (off width : Nat) (val : Word)
  | birsp (p : Fin 4) (line : Nat) (data : List Byte)
  | hostSnoop (line : Nat)
  | cxlGo (id : Nat)
  | portLinkUp (p : Fin 4) (width : Fin 6) (rate : Fin 8)
  | portRetrain (p : Fin 4)
  -- the fabric
  | fabricPortUp (i : Fin 12) (up : Bool)
  | fabricRetrain (i : Fin 12)
  | epidAssign (n : Fin 1024)
  | remoteRequest (e : Fin 1024) (addr : Nat) (m : MemMod) (k : InKind)
  | fabricInvalidation (n : Nat)
  | dieLoss (d : Fin 2)
  | packageLoss (e : Fin 1024)
  | orphanComplete
  -- error logs and lifetime counts
  | correctedError (u k addr syn : Nat) (ctx : BitVec 16)
  | uncorrectedError (u k addr syn : Nat) (ctx : BitVec 16)
  | linkReplay (u idx : Nat) (failed : Bool)
  | supervisorStop (c : Nat)
  | logClear (u k : Nat)
  | errorInject (v : Dword)
  | lifetimeSelect (v : Dword)
  | packageReset
  | registerWrite (r : PkReg) (v : Dword)
  | launchRecordTaken (places : List Placement)
  | orderlyShutdown
  deriving DecidableEq, Repr

end Sys2Proof
end

