-- ==== Sys2Proof/WellFormed.lean ====
section
/-! DEFINITION. What the syntax does not already rule out: the registers each word denotes and how they must be
aligned (R34, R38), the constants a typed form accepts (R36), and the conditions of each form (R49). -/

namespace Sys2Proof

/-! ## The registers a word denotes -/

/-- One operand of a word: the code, how many registers it denotes, the multiple its number must be, and whether the
word writes it. -/
structure Use where
  op : Operand
  n : Nat
  al : Nat
  wr : Bool
  deriving DecidableEq, Repr

/-- A 32-bit operand read. -/
def Use.r1 (o : Operand) : Use := { op := o, n := 1, al := 1, wr := false }

/-- A 64-bit operand read (R38). -/
def Use.r2 (o : Operand) : Use := { op := o, n := 2, al := 2, wr := false }

/-- An operand read at one or two registers. -/
def Use.rw (w64 : Bool) (o : Operand) : Use := if w64 then .r2 o else .r1 o

/-- A destination of `n` registers (R37, R38). -/
def Use.d (n : Nat) (r : Reg) : Use := { op := r.op, n := n, al := n, wr := true }

def IntTy.w64 : IntTy → Bool
  | .i32 | .n32 => false
  | .i64 | .n64 => true

def SignTy.w64 : SignTy → Bool
  | .i32 => false
  | .i64 => true

def RedTy.w64 : RedTy → Bool
  | .i64 | .n64 | .f64 => true
  | .i32 | .n32 | .f32 => false

def RedTy.float : RedTy → Bool
  | .f32 | .f64 => true
  | _ => false

def CvtTy.w64 : CvtTy → Bool
  | .i64 | .n64 | .f64 => true
  | _ => false

def CvtTy.float : CvtTy → Bool
  | .f32 | .f16 | .bf16 | .f64 | .e4m3 | .e5m2 => true
  | _ => false

def CvtTy.fp8 : CvtTy → Bool
  | .e4m3 | .e5m2 => true
  | _ => false

def AWidth.is64 : AWidth → Bool
  | .w32 => false
  | .w64 => true

/-- Bytes of an access. -/
def AWidth.bytes : AWidth → Nat
  | .w32 => 4
  | .w64 => 8

def LdWidth.bytes : LdWidth → Nat
  | .w8 | .x8 => 1
  | .w16 | .x16 => 2
  | .w32 => 4
  | .w64 => 8
  | .w128 => 16

def StWidth.bytes : StWidth → Nat
  | .w8 => 1
  | .w16 => 2
  | .w32 => 4
  | .w64 => 8
  | .w128 => 16

/-- Registers that hold an access of `b` bytes. -/
def regsOf (b : Nat) : Nat := if b ≤ 4 then 1 else b / 4

/-- Registers of a one- or two-register value. -/
def regs12 (w64 : Bool) : Nat := if w64 then 2 else 1

/-- Whether a control register is 64 bits wide (R224, R269). -/
def UReg.w64 : UReg → Bool
  | .dmrc | .dmra | .hint | .spill | .mer | .grid | .vdep | .varr | .vhar | .vmus => true
  | .lsw | .ftz | .fair | .rdvz | .dmr | .tretry | .place | .vber | .vgen => false

def CReg.w64 : CReg → Bool
  | .user r | .sv r => r.w64
  | .tring | .trptr | .stage => true

/-- Whether an index lies in the supervisor view, at 0x400 or above (R224). -/
def CReg.supervisor : CReg → Bool
  | .user _ => false
  | .sv _ | .tring | .trptr | .stage => true

/-- The operands of one half: D is read and written. -/
def HalfArgs.uses (h : HalfArgs) : List Use :=
  [{ op := .v ⟨h.d.val, by omega⟩, n := 1, al := 1, wr := true }, .r1 h.a]

def Sel.uses : Sel → List Use
  | .none => []
  | .hold a | .core a => [.r1 a]

/-- Every register operand of a word (R34, R38, R78). Steps and helm words have none. (log 76: DEDUCED, unsafe) -/
def Instr.uses : Instr → List Use
  | .iadd _ t _ d a b | .isub _ t _ d a b | .imul _ t _ d a b => [.d (regs12 t.w64) d, .rw t.w64 a, .rw t.w64 b]
  | .imulh _ t d a b | .imin _ t d a b | .imax _ t d a b => [.d (regs12 t.w64) d, .rw t.w64 a, .rw t.w64 b]
  | .iaddc _ t d a b c _ => [.d (regs12 t.w64) d, .rw t.w64 a, .rw t.w64 b, .r1 c]
  | .imad _ t _ d a b c => [.d (regs12 t.w64) d, .rw t.w64 a, .rw t.w64 b, .rw t.w64 c]
  | .iclamp _ t d a b c => [.d (regs12 t.w64) d, .rw t.w64 a, .rw t.w64 b, .rw t.w64 c]
  | .imadw _ _ d a b c => [.d 2 d, .r1 a, .r1 b, .r2 c]
  | .ineg _ t _ d a | .iabs _ t _ d a => [.d (regs12 t.w64) d, .rw t.w64 a]
  | .lea _ _ d a b _ => [.d 2 d, .r2 a, .r1 b]
  | .and _ t d a b | .or _ t d a b | .xor _ t d a b | .andn _ t d a b =>
    [.d (regs12 t.w64) d, .rw t.w64 a, .rw t.w64 b]
  | .shl _ t d a b | .shr _ t d a b | .sar _ t d a b | .rol _ t d a b => [.d (regs12 t.w64) d, .rw t.w64 a, .r1 b]
  | .funnel _ _ d a b c | .bfx _ _ d a b c | .bfi _ _ d a b c | .bperm _ _ d a b c => [.d 1 d, .r1 a, .r1 b, .r1 c]
  | .popc _ t d a | .clz _ t d a | .ctz _ t d a => [.d 1 d, .rw t.w64 a]
  | .brev _ t d a | .mov _ t d a => [.d (regs12 t.w64) d, .rw t.w64 a]
  | .sel _ t d a b _ _ => [.d (regs12 t.w64) d, .rw t.w64 a, .rw t.w64 b]
  | .movi _ ext d _ => [.d (if ext = .none then 1 else 2) d]
  | .fadd _ _ _ d a b | .fsub _ _ _ d a b | .fmul _ _ _ d a b => [.d 1 d, .r1 a, .r1 b]
  | .ffma _ _ _ d a b c => [.d 1 d, .r1 a, .r1 b, .r1 c]
  | .fmin _ _ d a b | .fmax _ _ d a b => [.d 1 d, .r1 a, .r1 b]
  | .frnd _ _ _ d a => [.d 1 d, .r1 a]
  | .ffrac _ _ d a => [.d 1 d, .r1 a]
  | .dadd _ _ d a b | .dsub _ _ d a b | .dmul _ _ d a b => [.d 2 d, .r2 a, .r2 b]
  | .dfma _ _ d a b c => [.d 2 d, .r2 a, .r2 b, .r2 c]
  | .dmin _ d a b | .dmax _ d a b => [.d 2 d, .r2 a, .r2 b]
  | .drnd _ _ d a => [.d 2 d, .r2 a]
  | .cvt _ dst src _ _ d a => [.d (regs12 dst.w64) d, .rw src.w64 a]
  | .cvtp _ _ _ _ d a b => [.d 1 d, .r1 a, .r1 b]
  | .cvtpUnpk _ _ _ d a => [.d 2 d, .r1 a]
  | .frcp _ _ d a | .frsq _ _ d a | .fsqrt _ _ d a | .fexp2 _ _ d a | .flog2 _ _ d a | .fsin _ _ d a | .fcos _ _ d a
  | .ftanh _ _ d a | .fsgm _ _ d a | .ferf _ _ d a => [.d 1 d, .r1 a]
  | .dp2 _ _ _ d a b c => [.d 1 d, .r1 a, .r1 b, .r1 c]
  | .dp4 _ _ _ d a b c => [.d 1 d, .r1 a, .r1 b, .r1 c]
  | .padd2 _ _ _ d a b | .psub2 _ _ _ d a b | .pack _ _ _ d a b => [.d 1 d, .r1 a, .r1 b]
  | .pmax2 _ _ d a b | .pmin2 _ _ d a b => [.d 1 d, .r1 a, .r1 b]
  | .shrnd _ _ src64 _ d a b => [.d 1 d, .rw src64 a, .r1 b]
  | .sad4 _ d a b c => [.d 1 d, .r1 a, .r1 b, .r1 c]
  | .hash _ d a => [.d 1 d, .r1 a]
  | .crc _ d a b | .seqm _ d a b => [.d 1 d, .r1 a, .r1 b]
  | .scmp _ d a b c _ => [.d 1 d, .r1 a, .r1 b, .r1 c]
  | .sfold _ _ d a => [.d 1 d, .r1 a]
  | .icmp _ t _ _ a b => [.rw t.w64 a, .rw t.w64 b]
  | .fcmp _ _ _ a b => [.r1 a, .r1 b]
  | .dcmp _ _ _ a b => [.r2 a, .r2 b]
  | .plop .. => []
  | .pmov _ d => [.d 1 d]
  | .pmovPw _ a | .pmovNz _ _ a => [.r1 a]
  | .pmovBit _ _ a b => [.r1 a, .r1 b]
  | .iadd2 h o | .isub2 h o | .and2 h o | .or2 h o | .xor2 h o | .shl2 h o | .shr2 h o | .sar2 h o | .mov2 h o
  | .fmin2 h o | .fmax2 h o => h.uses ++ o.args.uses
  | .imin2 _ h o | .imax2 _ h o => h.uses ++ o.args.uses
  | .fadd2 _ h o | .fmul2 _ h o => h.uses ++ o.args.uses
  | .padd2h _ h o => h.uses ++ o.args.uses
  | .shfl _ _ _ _ _ d a b => [.d 1 (.v d), .r1 a, .r1 b]
  | .slide _ _ _ _ d a b c => [.d 1 (.v d), .r1 a, .r1 b, .r1 c]
  | .vote .. | .ballot .. => []
  | .ballotR _ _ d _ => [.d 2 d]
  | .gred _ _ t _ _ _ d a => [.d (regs12 t.w64) d, .rw t.w64 a]
  | .gscan _ _ t _ _ _ _ d a => [.d (regs12 t.w64) (.v d), .rw t.w64 a]
  | .mskopAnd .. | .mskopOr .. | .mskopXor .. | .mskopAndn .. | .mskopNot .. | .mskopLive .. | .mskopArrv .. => []
  | .mskopLd _ _ _ a => [.r2 a]
  | .mskopSt _ _ d _ => [.d 2 (.s d)]
  | .tbar _ _ _ b | .cbar _ _ _ b => [.r1 b]
  | .rolesw _ a b => [.r1 (.s a), .r2 (.s b)]
  | .bra .. | .call .. | .ret .. | .exit .. | .yield .. | .bkpt .. | .rep .. | .nop .. => []
  | .trav _ _ sl _ => sl.uses
  | .brx _ _ a | .callx _ _ a _ => [.r2 a.op]
  | .travx _ _ a sl => .r2 a.op :: sl.uses
  | .spawn _ d a b => [.d 1 (.v d), .r2 a.op, .r1 b]
  | .ld _ w _ d a b _ => [.d (regsOf w.bytes) (.v d), .r2 a.op, .r1 b]
  | .st _ w _ d a b _ =>
    [{ op := d, n := regsOf w.bytes, al := regsOf w.bytes, wr := false }, .r2 a.op, .r1 b]
  | .sld _ w _ d a b _ => [.d (regsOf w.bytes) (.s d), .r2 (.s a), .r1 b]
  | .atom _ _ _ d a b _ => [.d 1 (.v d), .r2 a.op, .r1 b]
  | .atomW64 _ _ _ d a b _ => [.d 2 (.v d), .r2 a.op, .r2 b]
  | .acas _ w _ d a b _ => [.d (regs12 w.is64) (.v d), .r2 a.op, .rw w.is64 b]
  | .lr _ w _ d a _ => [.d (regs12 w.is64) (.v d), .r2 a.op]
  | .sc _ w _ d a b _ => [.d 1 (.v d), .r2 a.op, .rw w.is64 b]
  | .pref _ _ _ a _ => [.r2 a.op]
  | .partn _ w _ d a b => [.d 1 (.v d), .r2 a.op, .rw w.is64 b]
  | .waitv _ _ w _ _ d a b _ => [.d (regs12 w.is64) d, .r2 a.op, .rw w.is64 b]
  | .fence _ _ _ d => [.d 2 (.s d)]
  | .xfence .. => []
  | .wmap _ _ a b c => [.r2 (.s a), .r1 (.s b), .r1 (.s c)]
  | .wflush .. | .wdrop .. => []
  | .cpy _ a => [.r2 (.s a)]
  | .cpyg _ a b => [.r2 (.s a), .r2 (.s b)]
  | .bari _ a => [.r2 a.op]
  | .barx _ a b | .barw _ a b | .bart _ _ a b => [.r2 a.op, .r1 b]
  | .hwait _ d _ => match d with | some r => [.d 1 r] | none => []
  | .htest .. | .hcan .. => []
  | .tswp _ _ _ _ b => [.r1 (.s b)]
  | .tldi _ _ a => [.r2 (.s a)]
  | .macq .. | .mrel .. => []
  | .mma _ _ _ _ _ _ _ _ a b c => [.r1 (.s a), .r1 (.s b), .r1 c]
  | .mmag _ _ _ _ _ _ _ _ a b c => [.r1 (.v a), .r1 (.s b), { op := .s c, n := 4, al := 4, wr := false }]
  | .mzero _ _ _ b => [.r1 b]
  | .mldz _ _ _ _ a b => [.r1 (.s a), .r1 b]
  | .mstz _ _ _ _ _ _ a b => [.r1 (.s a), .r1 b]
  | .tbegin d n _ => if n = 0 then [] else [{ op := .v d, n := n.val, al := 1, wr := false }]
  | .tend | .tabort .. => []
  | .tstat _ d _ => [.d 1 d]
  | .sysc _ _ d a => [.d 2 (.s d), { op := .s a, n := 12, al := 4, wr := false }]
  | .crd _ d r => [.d (regs12 r.w64) d]
  | .cwr _ r a => [.rw r.w64 a]
  | .lnch _ d a => [.d 2 (.s d), .r2 (.s a)]
  | .sretReply _ d a b => [.d 1 (.s d), .r1 (.s a), .r2 (.s b)]
  | .sretResume _ _ d a | .sretDrop _ d a | .mboxPop _ d a => [.d 1 (.s d), .r1 (.s a)]
  | .mboxWait _ d | .mboxStat _ d => [.d 1 (.s d)]
  | .ctxsG _ d a b | .ctxsT _ d a b | .ctxlG _ d a b | .ctxlT _ d a b => [.d 1 (.s d), .r1 (.s a), .r2 (.s b)]
  | .tinvAll _ => []
  | .tinvPage _ a => [.r2 (.s a)]
  | _ => []

/-! ## Conditions on single operands -/

/-- An operand's register number is the multiple its form requires; constants have no number (R38). -/
def Use.aligned (u : Use) : Bool :=
  match u.op with
  | .v n => n.val % u.al = 0
  | .s n => n.val % u.al = 0
  | _ => true

/-- The scalar registers that an S code denotes all exist (R34): below 192 in any group, and below the group's
allotment `scal` when the word is decoded for it. -/
def Use.inScal (scal : Nat) (u : Use) : Bool :=
  match u.op with
  | .s n => n.val + u.n ≤ scal
  | _ => true

/-- A float form takes no identity constant (R36). -/
def Operand.noIdent : Operand → Bool
  | .ident _ => false
  | _ => true

def Operand.isV : Operand → Bool
  | .v _ => true
  | _ => false

def Operand.isConst : Operand → Bool
  | .v _ | .s _ => false
  | _ => true

/-- A vector register's bank, if the operand is one (R18, R42). -/
def Operand.bank : Operand → Option Nat
  | .v n => some (n.val % 4)
  | _ => none

def HalfOp.float : HalfOp → Bool
  | .fadd2 _ | .fmul2 _ | .fmin2 | .fmax2 => true
  | _ => false

/-- The bank rules of a pair word, and the constants of a float half (R36, R42). -/
def pairOk (f : Bool) (h : HalfArgs) (o : HalfWord) : Bool :=
  h.d.val % 4 ≠ o.args.d.val % 4
    && (h.a.bank = none || h.a.bank ≠ o.args.a.bank)
    && (!f || h.a.noIdent) && (!o.op.float || o.args.a.noIdent)

/-- The pairings the matrix engine accepts, and the group sizes of a float kind (R207, R208). -/
def kindsOk (ka kb : Kind) (ga gb : GSize) : Bool :=
  match ka, kb with
  | .e4m3, .e4m3 | .e4m3, .e5m2 | .e5m2, .e4m3 | .e5m2, .e5m2 | .fp16, .fp16 | .bf16, .bf16 => ga = .g32 && gb = .g32
  | .int8g, .int8g | .int8g, .int4g | .int4g, .int8g | .int4g, .int4g => true
  | _, _ => false

/-- SAT and rounding of a CVT (R119, R120). -/
def cvtOk (dst src : CvtTy) (sat : Bool) (rm : Rm) (a : Operand) : Bool :=
  dst ≠ src
    && (!sat || dst.fp8 || (!dst.float && !src.float))
    && (dst.float || src.float || rm = .rne)
    && (!src.float || a.noIdent) && (!src.fp8 || !a.isConst)

def PackPair.fp8 : PackPair → Bool
  | .f16FromF32 | .bf16FromF32 => false
  | _ => true

def UnpackPair.srcFp8 : UnpackPair → Bool
  | .f32FromF16 | .f32FromBf16 => false
  | _ => true

def MemMod.loadOk (m : MemMod) : Bool := m.ord = .rlx || m.ord = .acq
def MemMod.storeOk (m : MemMod) : Bool := m.ord = .rlx || m.ord = .rel

/-- The conditions each form adds to its operands' (R49, and the rule of the form). -/
def Instr.formOk : Instr → Bool
  | .fadd _ _ _ _ a b | .fsub _ _ _ _ a b | .fmul _ _ _ _ a b => a.noIdent && b.noIdent
  | .fmin _ _ _ a b | .fmax _ _ _ a b => a.noIdent && b.noIdent
  | .ffma _ _ _ _ a b c => a.noIdent && b.noIdent && c.noIdent
  | .frnd _ _ _ _ a => a.noIdent
  | .ffrac _ _ _ a => a.noIdent
  | .dadd _ _ _ a b | .dsub _ _ _ a b | .dmul _ _ _ a b => a.noIdent && b.noIdent
  | .dfma _ _ _ a b c => a.noIdent && b.noIdent && c.noIdent
  | .dmin _ _ a b | .dmax _ _ a b => a.noIdent && b.noIdent
  | .drnd _ _ _ a => a.noIdent
  | .cvt _ dst src sat rm _ a => cvtOk dst src sat rm a
  | .cvtp _ p sat _ _ a b => (!sat || p.fp8) && a.noIdent && b.noIdent
  | .cvtpUnpk _ p _ _ a => a.noIdent && (!p.srcFp8 || !a.isConst)
  | .frcp _ _ _ a | .frsq _ _ _ a | .fsqrt _ _ _ a | .fexp2 _ _ _ a | .flog2 _ _ _ a | .fsin _ _ _ a | .fcos _ _ _ a
  | .ftanh _ _ _ a | .fsgm _ _ _ a | .ferf _ _ _ a => a.noIdent
  | .icmp _ _ _ p _ _ => p ≠ 7
  | .fcmp _ _ p a b | .dcmp _ _ p a b => p ≠ 7 && a.noIdent && b.noIdent
  | .plop _ _ d _ _ => d ≠ 7
  | .pmovNz _ p _ | .pmovBit _ p _ _ => p ≠ 7
  | .iadd2 h o | .isub2 h o | .and2 h o | .or2 h o | .xor2 h o | .shl2 h o | .shr2 h o | .sar2 h o | .mov2 h o =>
    pairOk false h o
  | .imin2 _ h o | .imax2 _ h o => pairOk false h o
  | .padd2h _ h o => pairOk false h o
  | .fmin2 h o | .fmax2 h o => pairOk true h o
  | .fadd2 _ h o | .fmul2 _ h o => pairOk true h o
  | .slide _ _ _ _ _ _ b _ => !b.isV
  | .vote _ _ _ d _ => d ≠ 7
  | .ballot _ _ d _ => d ≠ 7
  | .gred _ _ t op rm sat _ a =>
    (!t.float || (a.noIdent && (op = .add || op = .min || op = .max)))
      && (rm = .rne || (t.float && op = .add)) && (!sat || (!t.float && op = .add))
  | .gscan _ _ t op _ rm sat _ a =>
    (!t.float || (a.noIdent && (op = .add || op = .min || op = .max)))
      && (rm = .rne || (t.float && op = .add)) && (!sat || (!t.float && op = .add))
  | .mskopAnd _ _ d _ _ | .mskopOr _ _ d _ _ | .mskopXor _ _ d _ _ | .mskopAndn _ _ d _ _ => d ≠ 7
  | .mskopNot _ _ d _ => d ≠ 7
  | .mskopLd _ _ d a => d ≠ 7 && !a.isV
  | .mskopLive _ _ d | .mskopArrv _ _ d => d ≠ 7
  | .tbar _ _ _ b | .cbar _ _ _ b => !b.isV
  | .call _ _ f _ => f ≠ 0
  | .callx _ _ _ f => f ≠ 0
  | .rep n _ _ _ _ => n ≠ 0
  | .ld _ _ m _ _ _ _ => m.loadOk
  | .st _ _ m _ _ _ _ => m.storeOk
  | .sld _ _ m _ _ b _ => m.loadOk && !b.isV
  | .lr _ _ m _ _ _ => m.loadOk
  | .sc _ _ m _ _ _ _ => m.storeOk
  | .fence _ o _ _ => o ≠ .rlx
  | .xfence _ k p q => p ≠ q && k ≠ .lane && k ≠ .grp
  | .bart _ d _ _ => d ≠ 7
  | .htest _ d _ => d ≠ 7
  | .mma _ _ _ ka kb ga gb _ _ _ c => kindsOk ka kb ga gb && !c.isV
  | .mmag _ _ _ ka kb ga gb _ _ _ _ => kindsOk ka kb ga gb
  | .mzero _ _ _ b => !b.isV
  | .mldz _ _ _ _ _ b => !b.isV
  | .mstz _ _ f rm sat _ _ b => !b.isV && (f ≠ .f32 || rm = .rne) && (!sat || f = .e4m3 || f = .e5m2)
  | .tbegin d n _ => d.val + n.val ≤ 256
  | .crd _ d r => match r with
    | .user .lsw | .sv .lsw => d.op.isV
    | _ => true
  | _ => true

/-- The guard of a word, where the word has one (R14). -/
def Instr.guard : Instr → Option Guard
  | .iadd g .. | .isub g .. | .iaddc g .. | .imul g .. | .imulh g .. | .imad g .. | .imadw g .. | .ineg g .. | .iabs g ..
  | .imin g .. | .imax g .. | .iclamp g .. | .lea g .. | .and g .. | .or g .. | .xor g .. | .andn g .. | .shl g ..
  | .shr g .. | .sar g .. | .rol g .. | .funnel g .. | .popc g .. | .clz g .. | .ctz g .. | .brev g .. | .bfx g ..
  | .bfi g .. | .bperm g .. | .sel g .. | .mov g .. | .movi g .. | .fadd g .. | .fsub g .. | .fmul g .. | .ffma g ..
  | .fmin g .. | .fmax g .. | .frnd g .. | .ffrac g .. | .dadd g .. | .dsub g .. | .dmul g .. | .dfma g .. | .dmin g ..
  | .dmax g .. | .drnd g .. | .cvt g .. | .cvtp g .. | .cvtpUnpk g .. | .frcp g .. | .frsq g .. | .fsqrt g ..
  | .fexp2 g .. | .flog2 g .. | .fsin g .. | .fcos g .. | .ftanh g .. | .fsgm g .. | .ferf g .. | .dp2 g .. | .dp4 g ..
  | .padd2 g .. | .psub2 g .. | .pmax2 g .. | .pmin2 g .. | .shrnd g .. | .pack g .. | .sad4 g .. | .hash g .. | .crc g ..
  | .scmp g .. | .seqm g .. | .sfold g .. | .icmp g .. | .fcmp g .. | .dcmp g .. | .plop g .. | .pmov g .. | .pmovPw g ..
  | .pmovNz g .. | .pmovBit g .. | .shfl g .. | .slide g .. | .vote g .. | .ballot g .. | .ballotR g .. | .gred g ..
  | .gscan g .. | .mskopAnd g .. | .mskopOr g .. | .mskopXor g .. | .mskopAndn g .. | .mskopNot g .. | .mskopLd g ..
  | .mskopSt g .. | .mskopLive g .. | .mskopArrv g .. | .tbar g .. | .cbar g .. | .bra g .. | .call g .. | .trav g ..
  | .brx g .. | .callx g .. | .travx g .. | .ret g .. | .exit g | .yield g | .bkpt g .. | .spawn g .. | .nop g
  | .ld g .. | .st g .. | .sld g .. | .atom g .. | .atomW64 g .. | .acas g .. | .lr g .. | .sc g .. | .pref g ..
  | .partn g .. | .waitv g .. | .fence g .. | .xfence g .. | .wmap g .. | .wflush g .. | .wdrop g .. | .cpy g ..
  | .cpyg g .. | .bari g .. | .barx g .. | .barw g .. | .bart g .. | .hwait g .. | .htest g .. | .hcan g .. | .tswp g ..
  | .tldi g .. | .macq g | .mrel g | .mma g .. | .mmag g .. | .mzero g .. | .mldz g .. | .mstz g .. | .tabort g ..
  | .tstat g .. | .sysc g .. | .crd g .. | .cwr g .. | .lnch g .. | .sretReply g .. | .sretResume g .. | .sretDrop g ..
  | .mboxWait g .. | .mboxPop g .. | .mboxStat g .. | .ctxsG g .. | .ctxsT g .. | .ctxlG g .. | .ctxlT g ..
  | .tinvAll g | .tinvPage g .. => some g
  | _ => none

/-- The never-true guard is no guard (R49). -/
def Instr.guardOk (i : Instr) : Bool :=
  match i.guard with
  | some g => !(g.neg && g.p = 7)
  | none => true

/-- A well-formed word: R34 to R38 for each operand, the conditions of its form, and a guard that can hold. (log 21:
DEDUCED, unsafe; 76: DEDUCED, unsafe) -/
def Instr.wf (i : Instr) : Bool :=
  i.uses.all Use.aligned && i.uses.all (Use.inScal 192) && i.formOk && i.guardOk

/-- Whether every scalar register that a word denotes lies in a group's allotment (R34). -/
def Instr.inScal (scal : Nat) (i : Instr) : Bool := i.uses.all (Use.inScal scal)

end Sys2Proof
end

