-- ==== Sys2Proof/Decode.lean ====
section
/-! DEFINITION. The encodings of 02 (R27 to R49) and of the helm extension (R313): the fields of a word, the code of
every operand and modifier, the encoder, and the decoder. The decoder reads a candidate from the fields that a form
uses, and accepts it when the candidate is well formed and its own encoding is the word: so a reserved bit that is 1
and an unused field that is not 0 are refused (R49), in every form at once. -/

namespace Sys2Proof

/-! ## Fields of a word (R28, R29, R31, R32) -/

/-- The pieces of `w`: `n` bits from bit `k`. -/
def bitsAt (w k n : Nat) : Nat := w / 2 ^ k % 2 ^ n

def fPair (w : Nat) : Bool := w / 2 ^ 63 % 2 = 1
def fMajor (w : Nat) : Nat := w / 2 ^ 56 % 128
def fGuard (w : Nat) : Guard := { neg := w / 2 ^ 55 % 2 = 1, p := ⟨w / 2 ^ 52 % 8, by omega⟩ }
def fD (w : Nat) : Fin 512 := ⟨w / 2 ^ 43 % 512, by omega⟩
def fA (w : Nat) : Fin 512 := ⟨w / 2 ^ 34 % 512, by omega⟩
def fB (w : Nat) : Fin 512 := ⟨w / 2 ^ 25 % 512, by omega⟩
def fC (w : Nat) : Fin 512 := ⟨w / 2 ^ 16 % 512, by omega⟩
/-- The four nibbles of X: [15:12], [11:8], [7:4], [3:0]. -/
def fX3 (w : Nat) : Fin 16 := ⟨w / 2 ^ 12 % 16, by omega⟩
def fX2 (w : Nat) : Fin 16 := ⟨w / 2 ^ 8 % 16, by omega⟩
def fX1 (w : Nat) : Fin 16 := ⟨w / 2 ^ 4 % 16, by omega⟩
def fX0 (w : Nat) : Fin 16 := ⟨w % 16, by omega⟩
/-- The modifier [33:32] and the immediate of an FI word (R30). -/
def fMod (w : Nat) : Fin 4 := ⟨w / 2 ^ 32 % 4, by omega⟩
def fImm (w : Nat) : Fin (2 ^ 32) := ⟨w % 2 ^ 32, by omega⟩
/-- The offset of an FM word (R28). -/
def fOff (w : Nat) : Fin (2 ^ 13) := ⟨w / 2 ^ 12 % 2 ^ 13, by omega⟩
/-- Ordering, scope, eviction of an FM word (R31). -/
def fOrd (w : Nat) : Fin 4 := ⟨w / 2 ^ 6 % 4, by omega⟩
def fScope (w : Nat) : Fin 8 := ⟨w / 2 ^ 3 % 8, by omega⟩
def fEvict (w : Nat) : Fin 8 := ⟨w % 8, by omega⟩
/-- The extras [42:32] of an FB word (R32). -/
def fExtra (w : Nat) : Fin 2048 := ⟨w / 2 ^ 32 % 2048, by omega⟩

/-- The top of a full word: major, guard, D (R28). -/
def packTop (major : Fin 128) (g : Guard) (d : Fin 512) : Nat :=
  major.val * 2 ^ 56 + (if g.neg then 2 ^ 55 else 0) + g.p.val * 2 ^ 52 + d.val * 2 ^ 43

/-- A plain or FX word (R28), X given by its nibbles. -/
def packX (major : Fin 128) (g : Guard) (d a b c : Fin 512) (x3 x2 x1 x0 : Fin 16) : Nat :=
  packTop major g d + a.val * 2 ^ 34 + b.val * 2 ^ 25 + c.val * 2 ^ 16
    + x3.val * 2 ^ 12 + x2.val * 2 ^ 8 + x1.val * 2 ^ 4 + x0.val

/-- An FI word (R30). -/
def packI (major : Fin 128) (g : Guard) (d a : Fin 512) (m : Fin 4) (imm : Fin (2 ^ 32)) : Nat :=
  packTop major g d + a.val * 2 ^ 34 + m.val * 2 ^ 32 + imm.val

/-- An FM word (R31). -/
def packM (major : Fin 128) (g : Guard) (d a b : Fin 512) (off : Fin (2 ^ 13)) (kind : Fin 16) (ord : Fin 4)
    (scope evict : Fin 8) : Nat :=
  packTop major g d + a.val * 2 ^ 34 + b.val * 2 ^ 25 + off.val * 2 ^ 12 + kind.val * 2 ^ 8 + ord.val * 2 ^ 6
    + scope.val * 2 ^ 3 + evict.val

/-- An FB word (R32). -/
def packB (major : Fin 128) (g : Guard) (d : Fin 512) (extra : Fin 2048) (off : Fin (2 ^ 32)) : Nat :=
  packTop major g d + extra.val * 2 ^ 32 + off.val

/-! ## Parts of a nibble -/

/-- Three bits above one: rounding above SAT (R29). -/
def nib31 (hi : Fin 8) (lo : Bool) : Fin 16 := ⟨hi.val * 2 + lo.toNat, by have := lo.toNat_le; omega⟩
def nibHi (x : Fin 16) : Fin 8 := ⟨x.val / 2, by omega⟩
def nibLo (x : Fin 16) : Bool := x.val % 2 = 1
/-- One bit above three. -/
def nib13 (hi : Bool) (lo : Fin 8) : Fin 16 := ⟨hi.toNat * 8 + lo.val, by have := hi.toNat_le; omega⟩
def nibTop (x : Fin 16) : Bool := x.val / 8 = 1
def nibLow3 (x : Fin 16) : Fin 8 := ⟨x.val % 8, by omega⟩
/-- Two bits above two. -/
def nib22 (hi lo : Fin 4) : Fin 16 := ⟨hi.val * 4 + lo.val, by omega⟩
def nibHi2 (x : Fin 16) : Fin 4 := ⟨x.val / 4, by omega⟩
def nibLo2 (x : Fin 16) : Fin 4 := ⟨x.val % 4, by omega⟩
/-- A Boolean as a field. -/
def bit16 (b : Bool) : Fin 16 := if b then 1 else 0
def bit4 (b : Bool) : Fin 4 := if b then 1 else 0
def up16 (p : Fin 8) : Fin 16 := ⟨p.val, by omega⟩
def up16' (p : Fin 4) : Fin 16 := ⟨p.val, by omega⟩
def up512 (p : Fin 8) : Fin 512 := ⟨p.val, by omega⟩
/-- A number in the low three bits of a D, A or B field (R29, R156). -/
def low3 (x : Fin 512) : Fin 8 := ⟨x.val % 8, by omega⟩

/-! ## Operand codes (R34, R35) -/

def IdentConst.code : IdentConst → Nat
  | .lane => 0x1F8 | .quad => 0x1F9 | .group => 0x1FA | .team => 0x1FB | .ccore => 0x1FC | .core => 0x1FD
  | .depth => 0x1FE | .mlo => 0x1FF

def IdentConst.ofIndex : Nat → IdentConst
  | 0 => .lane | 1 => .quad | 2 => .group | 3 => .team | 4 => .ccore | 5 => .core | 6 => .depth | _ => .mlo

theorem IdentConst.code_lt (c : IdentConst) : c.code < 512 := by cases c <;> decide

def Operand.code : Operand → Fin 512
  | .v n => ⟨n.val, by omega⟩
  | .s n => ⟨0x100 + n.val, by omega⟩
  | .int n => ⟨0x1C0 + n.val, by omega⟩
  | .flt c => ⟨0x1E0 + c.val, by omega⟩
  | .ident c => ⟨c.code, c.code_lt⟩

def Operand.ofCode (x : Fin 512) : Operand :=
  if h : x.val < 0x100 then .v ⟨x.val, h⟩
  else if h : x.val < 0x1C0 then .s ⟨x.val - 0x100, by omega⟩
  else if h : x.val < 0x1E0 then .int ⟨x.val - 0x1C0, by omega⟩
  else if h : x.val < 0x1F8 then .flt ⟨x.val - 0x1E0, by omega⟩
  else .ident (.ofIndex (x.val - 0x1F8))

def Reg.code (r : Reg) : Fin 512 := r.op.code

/-- A destination or a base: a V or S code (R37, R16). -/
def Reg.ofCode (x : Fin 512) : Option Reg :=
  if h : x.val < 0x100 then some (.v ⟨x.val, h⟩)
  else if h : x.val < 0x1C0 then some (.s ⟨x.val - 0x100, by omega⟩)
  else none

def vCode (v : VReg) : Fin 512 := ⟨v.val, by omega⟩
def vOf (x : Fin 512) : Option VReg := if h : x.val < 0x100 then some ⟨x.val, h⟩ else none
def sCode (s : SReg) : Fin 512 := ⟨0x100 + s.val, by omega⟩
def sOf (x : Fin 512) : Option SReg :=
  if h : 0x100 ≤ x.val ∧ x.val < 0x1C0 then some ⟨x.val - 0x100, by omega⟩ else none
def liveCode (n : Fin 33) : Fin 512 := ⟨n.val, by omega⟩
def liveOf (x : Fin 512) : Option (Fin 33) := if h : x.val < 33 then some ⟨x.val, h⟩ else none
def tileCode (t : Tile) : Fin 512 := ⟨t.val, by omega⟩
def tileOf (x : Fin 512) : Tile := ⟨x.val % 128, by omega⟩

/-! ## Codes of types and modifiers -/

def IntTy.code : IntTy → Fin 16
  | .i32 => 0 | .n32 => 1 | .i64 => 2 | .n64 => 3
def IntTy.ofCode : Fin 16 → Option IntTy
  | 0 => some .i32 | 1 => some .n32 | 2 => some .i64 | 3 => some .n64 | _ => none

def Ty32.code : Ty32 → Fin 16
  | .i32 => 0 | .n32 => 1
def Ty32.ofCode : Fin 16 → Option Ty32
  | 0 => some .i32 | 1 => some .n32 | _ => none

def Ty16.code : Ty16 → Fin 16
  | .i16 => 4 | .n16 => 5
def Ty16.ofCode : Fin 16 → Option Ty16
  | 4 => some .i16 | 5 => some .n16 | _ => none

def Ty8.code : Ty8 → Fin 16
  | .i8 => 6 | .n8 => 7
def Ty8.ofCode : Fin 16 → Option Ty8
  | 6 => some .i8 | 7 => some .n8 | _ => none

def SignTy.code : SignTy → Fin 16
  | .i32 => 0 | .i64 => 2
def SignTy.ofCode : Fin 16 → Option SignTy
  | 0 => some .i32 | 2 => some .i64 | _ => none

def NarrowTy.code : NarrowTy → Fin 16
  | .i32 => 0 | .n32 => 1 | .i16 => 4 | .n16 => 5 | .i8 => 6 | .n8 => 7
def NarrowTy.ofCode : Fin 16 → Option NarrowTy
  | 0 => some .i32 | 1 => some .n32 | 4 => some .i16 | 5 => some .n16 | 6 => some .i8 | 7 => some .n8 | _ => none

def FTy.code : FTy → Fin 16
  | .f32 => 8 | .f16x2 => 9 | .bf16x2 => 10
def FTy.ofCode : Fin 16 → Option FTy
  | 8 => some .f32 | 9 => some .f16x2 | 10 => some .bf16x2 | _ => none

def CvtTy.code : CvtTy → Fin 16
  | .i32 => 0 | .n32 => 1 | .i64 => 2 | .n64 => 3 | .i16 => 4 | .n16 => 5 | .i8 => 6 | .n8 => 7
  | .f32 => 8 | .f16 => 9 | .bf16 => 10 | .f64 => 11 | .e4m3 => 12 | .e5m2 => 13
def CvtTy.ofCode : Fin 16 → Option CvtTy
  | 0 => some .i32 | 1 => some .n32 | 2 => some .i64 | 3 => some .n64 | 4 => some .i16 | 5 => some .n16
  | 6 => some .i8 | 7 => some .n8 | 8 => some .f32 | 9 => some .f16 | 10 => some .bf16 | 11 => some .f64
  | 12 => some .e4m3 | 13 => some .e5m2 | _ => none

/-- Destination and source codes of a CVTP that packs (R121). -/
def PackPair.dst : PackPair → Fin 16
  | .f16FromF32 => 9 | .bf16FromF32 => 10 | .e4m3FromF16 => 12 | .e4m3FromBf16 => 12 | .e5m2FromF16 => 13
  | .e5m2FromBf16 => 13
def PackPair.src : PackPair → Fin 16
  | .f16FromF32 => 8 | .bf16FromF32 => 8 | .e4m3FromF16 => 9 | .e4m3FromBf16 => 10 | .e5m2FromF16 => 9
  | .e5m2FromBf16 => 10
def PackPair.ofCodes (d s : Fin 16) : Option PackPair :=
  match d.val, s.val with
  | 9, 8 => some .f16FromF32 | 10, 8 => some .bf16FromF32 | 12, 9 => some .e4m3FromF16 | 12, 10 => some .e4m3FromBf16
  | 13, 9 => some .e5m2FromF16 | 13, 10 => some .e5m2FromBf16 | _, _ => none

/-- Destination and source codes of a CVTP that unpacks (R121). -/
def UnpackPair.dst : UnpackPair → Fin 16
  | .f32FromF16 => 8 | .f32FromBf16 => 8 | .f16FromE4m3 => 9 | .f16FromE5m2 => 9 | .bf16FromE4m3 => 10
  | .bf16FromE5m2 => 10
def UnpackPair.src : UnpackPair → Fin 16
  | .f32FromF16 => 9 | .f32FromBf16 => 10 | .f16FromE4m3 => 12 | .f16FromE5m2 => 13 | .bf16FromE4m3 => 12
  | .bf16FromE5m2 => 13
def UnpackPair.ofCodes (d s : Fin 16) : Option UnpackPair :=
  match d.val, s.val with
  | 8, 9 => some .f32FromF16 | 8, 10 => some .f32FromBf16 | 9, 12 => some .f16FromE4m3 | 9, 13 => some .f16FromE5m2
  | 10, 12 => some .bf16FromE4m3 | 10, 13 => some .bf16FromE5m2 | _, _ => none

def RedTy.code : RedTy → Fin 16
  | .i32 => 0 | .n32 => 1 | .i64 => 2 | .n64 => 3 | .f32 => 8 | .f64 => 11
def RedTy.ofCode : Fin 16 → Option RedTy
  | 0 => some .i32 | 1 => some .n32 | 2 => some .i64 | 3 => some .n64 | 8 => some .f32 | 11 => some .f64 | _ => none

def Rm.code : Rm → Fin 8
  | .rne => 0 | .rtz => 1 | .rdn => 2 | .rup => 3 | .rna => 4
def Rm.ofCode : Fin 8 → Option Rm
  | 0 => some .rne | 1 => some .rtz | 2 => some .rdn | 3 => some .rup | 4 => some .rna | _ => none

def Icc.code : Icc → Fin 16
  | .eq => 0 | .ne => 1 | .lt => 2 | .le => 3 | .gt => 4 | .ge => 5
def Icc.ofCode : Fin 16 → Option Icc
  | 0 => some .eq | 1 => some .ne | 2 => some .lt | 3 => some .le | 4 => some .gt | 5 => some .ge | _ => none

def Fcc.code : Fcc → Fin 16
  | .eq => 0 | .ne => 1 | .lt => 2 | .le => 3 | .gt => 4 | .ge => 5 | .un => 6 | .ord => 7 | .ult => 8 | .ule => 9
  | .ugt => 10 | .uge => 11 | .ueq => 12 | .one => 13
def Fcc.ofCode : Fin 16 → Option Fcc
  | 0 => some .eq | 1 => some .ne | 2 => some .lt | 3 => some .le | 4 => some .gt | 5 => some .ge | 6 => some .un
  | 7 => some .ord | 8 => some .ult | 9 => some .ule | 10 => some .ugt | 11 => some .uge | 12 => some .ueq
  | 13 => some .one | _ => none

def LdWidth.code : LdWidth → Fin 16
  | .w8 => 0 | .w16 => 1 | .w32 => 2 | .w64 => 3 | .w128 => 4 | .x8 => 5 | .x16 => 6
def LdWidth.ofCode : Fin 16 → Option LdWidth
  | 0 => some .w8 | 1 => some .w16 | 2 => some .w32 | 3 => some .w64 | 4 => some .w128 | 5 => some .x8
  | 6 => some .x16 | _ => none

def StWidth.code : StWidth → Fin 16
  | .w8 => 0 | .w16 => 1 | .w32 => 2 | .w64 => 3 | .w128 => 4
def StWidth.ofCode : Fin 16 → Option StWidth
  | 0 => some .w8 | 1 => some .w16 | 2 => some .w32 | 3 => some .w64 | 4 => some .w128 | _ => none

def Ordering4.code : Ordering4 → Fin 4
  | .rlx => 0 | .acq => 1 | .rel => 2 | .ar => 3
def Ordering4.ofCode : Fin 4 → Ordering4
  | 0 => .rlx | 1 => .acq | 2 => .rel | 3 => .ar

def Scope.code : Scope → Fin 8
  | .lane => 0 | .grp => 1 | .team => 2 | .clu => 3 | .die => 4 | .dev => 5 | .node => 6
def Scope.ofCode : Fin 8 → Option Scope
  | 0 => some .lane | 1 => some .grp | 2 => some .team | 3 => some .clu | 4 => some .die | 5 => some .dev
  | 6 => some .node | _ => none

def AtomOp.code : AtomOp → Fin 16
  | .add => 0 | .and => 1 | .or => 2 | .xor => 3 | .min => 4 | .max => 5 | .minu => 6 | .maxu => 7 | .xchg => 8
  | .fadd => 9
def AtomOp.ofCode : Fin 16 → Option AtomOp
  | 0 => some .add | 1 => some .and | 2 => some .or | 3 => some .xor | 4 => some .min | 5 => some .max
  | 6 => some .minu | 7 => some .maxu | 8 => some .xchg | 9 => some .fadd | _ => none

def AWidth.bit : AWidth → Bool
  | .w32 => false | .w64 => true
def AWidth.ofBit : Bool → AWidth
  | false => .w32 | true => .w64

def WCond.code : WCond → Fin 4
  | .eq => 0 | .ne => 1 | .lt => 2 | .ge => 3
def WCond.ofCode : Fin 4 → WCond
  | 0 => .eq | 1 => .ne | 2 => .lt | 3 => .ge

def Path.code : Path → Fin 8
  | .lane => 0 | .copy => 1 | .matrix => 2 | .inbound => 3 | .helm => 4
def Path.ofCode : Fin 8 → Option Path
  | 0 => some .lane | 1 => some .copy | 2 => some .matrix | 3 => some .inbound | 4 => some .helm | _ => none

def PrefScope.code : PrefScope → Fin 8
  | .lane => 0 | .dev => 5
def PrefScope.ofCode : Fin 8 → Option PrefScope
  | 0 => some .lane | 5 => some .dev | _ => none

def ShflMode.code : ShflMode → Fin 4
  | .idx => 0 | .up => 1 | .dn => 2 | .xor => 3
def ShflMode.ofCode : Fin 4 → ShflMode
  | 0 => .idx | 1 => .up | 2 => .dn | 3 => .xor

def SegSize.code : SegSize → Fin 4
  | .s64 => 0 | .s16 => 1 | .s4 => 2
def SegSize.ofCode : Fin 4 → Option SegSize
  | 0 => some .s64 | 1 => some .s16 | 2 => some .s4 | _ => none

def SlideWidth.code : SlideWidth → Fin 4
  | .e8 => 0 | .e16 => 1 | .e32 => 2
def SlideWidth.ofCode : Fin 4 → Option SlideWidth
  | 0 => some .e8 | 1 => some .e16 | 2 => some .e32 | _ => none

def VoteMode.code : VoteMode → Fin 16
  | .all => 0 | .any => 1 | .uni => 2
def VoteMode.ofCode : Fin 16 → Option VoteMode
  | 0 => some .all | 1 => some .any | 2 => some .uni | _ => none

def RedOp.code : RedOp → Fin 8
  | .add => 0 | .min => 1 | .max => 2 | .and => 3 | .or => 4 | .xor => 5
def RedOp.ofCode : Fin 8 → Option RedOp
  | 0 => some .add | 1 => some .min | 2 => some .max | 3 => some .and | 4 => some .or | 5 => some .xor | _ => none

/-- Mode and selector code of a TRAV (R256). -/
def Sel.mode : Sel → Fin 4
  | .none => 0 | .hold _ => 1 | .core _ => 2
def Sel.code : Sel → Fin 512
  | .none => 0 | .hold a | .core a => a.code
def Sel.ofCodes (m : Fin 4) (x : Fin 512) : Option Sel :=
  match m with
  | 0 => some .none | 1 => some (.hold (.ofCode x)) | 2 => some (.core (.ofCode x)) | 3 => Option.none

def RepStep.code : RepStep → Fin 4
  | .s0 => 0 | .s1 => 1 | .s2 => 2 | .s4 => 3
def RepStep.ofCode : Fin 4 → RepStep
  | 0 => .s0 | 1 => .s1 | 2 => .s2 | 3 => .s4

def MoviExt.code : MoviExt → Fin 4
  | .none => 0 | .i64 => 1 | .n64 => 2
def MoviExt.ofCode : Fin 4 → Option MoviExt
  | 0 => some .none | 1 => some .i64 | 2 => some .n64 | 3 => Option.none

def Kind.code : Kind → Fin 8
  | .int8g => 0 | .int4g => 1 | .e4m3 => 2 | .e5m2 => 3 | .fp16 => 4 | .bf16 => 5
def Kind.ofCode : Fin 8 → Option Kind
  | 0 => some .int8g | 1 => some .int4g | 2 => some .e4m3 | 3 => some .e5m2 | 4 => some .fp16 | 5 => some .bf16
  | _ => none

def GSize.code : GSize → Fin 4
  | .g32 => 0 | .g64 => 1 | .g128 => 2
def GSize.ofCode : Fin 4 → Option GSize
  | 0 => some .g32 | 1 => some .g64 | 2 => some .g128 | 3 => none

def SweepOp.code : SweepOp → Fin 16
  | .add => 0 | .mul => 1 | .max => 2 | .min => 3 | .set => 4
def SweepOp.ofCode : Fin 16 → Option SweepOp
  | 0 => some .add | 1 => some .mul | 2 => some .max | 3 => some .min | 4 => some .set | _ => none

def LdFmt.code : LdFmt → Fin 16
  | .f32 => 8 | .f16 => 9 | .bf16 => 10
def LdFmt.ofCode : Fin 16 → Option LdFmt
  | 8 => some .f32 | 9 => some .f16 | 10 => some .bf16 | _ => none

def StFmt.code : StFmt → Fin 16
  | .f32 => 8 | .f16 => 9 | .bf16 => 10 | .e4m3 => 12 | .e5m2 => 13
def StFmt.ofCode : Fin 16 → Option StFmt
  | 8 => some .f32 | 9 => some .f16 | 10 => some .bf16 | 12 => some .e4m3 | 13 => some .e5m2 | _ => none

/-- The user index of a control register (R224, R269). -/
def UReg.index : UReg → Nat
  | .lsw => 0x000 | .ftz => 0x001 | .fair => 0x002 | .rdvz => 0x003 | .dmr => 0x004 | .dmrc => 0x005
  | .dmra => 0x006 | .hint => 0x007 | .spill => 0x008 | .tretry => 0x009 | .mer => 0x00A | .grid => 0x00B
  | .place => 0x00C | .vdep => 0x010 | .varr => 0x011 | .vhar => 0x012 | .vmus => 0x013 | .vber => 0x014
  | .vgen => 0x015
def UReg.ofIndex : Nat → Option UReg
  | 0x000 => some .lsw | 0x001 => some .ftz | 0x002 => some .fair | 0x003 => some .rdvz | 0x004 => some .dmr
  | 0x005 => some .dmrc | 0x006 => some .dmra | 0x007 => some .hint | 0x008 => some .spill | 0x009 => some .tretry
  | 0x00A => some .mer | 0x00B => some .grid | 0x00C => some .place | 0x010 => some .vdep | 0x011 => some .varr
  | 0x012 => some .vhar | 0x013 => some .vmus | 0x014 => some .vber | 0x015 => some .vgen | _ => none

/-- A control-register index: the supervisor view reaches user register i at 0x400 + i (R224). -/
def CReg.index : CReg → Nat
  | .user r => r.index
  | .sv r => 0x400 + r.index
  | .tring => 0x800
  | .trptr => 0x801
  | .stage => 0x802

theorem UReg.index_lt (r : UReg) : r.index < 0x16 := by cases r <;> decide

theorem CReg.index_lt (r : CReg) : r.index < 2 ^ 32 := by
  cases r with
  | user r => have := r.index_lt; simp only [CReg.index]; omega
  | sv r => have := r.index_lt; simp only [CReg.index]; omega
  | _ => decide

def CReg.code (r : CReg) : Fin (2 ^ 32) := ⟨r.index, r.index_lt⟩

def CReg.ofIndex (i : Nat) : Option CReg :=
  if i < 0x400 then (UReg.ofIndex i).map .user
  else if i < 0x800 then (UReg.ofIndex (i - 0x400)).map .sv
  else match i with
    | 0x800 => some .tring | 0x801 => some .trptr | 0x802 => some .stage | _ => none

/-! ## Pair halves (R39, R40) -/

def HalfOp.code : HalfOp → Nat
  | .iadd2 => 0 | .isub2 => 1 | .imin2 _ => 2 | .imax2 _ => 3 | .and2 => 4 | .or2 => 5 | .xor2 => 6 | .shl2 => 7
  | .shr2 => 8 | .sar2 => 9 | .mov2 => 10 | .fadd2 _ => 11 | .fmul2 _ => 12 | .fmin2 => 13 | .fmax2 => 14
  | .padd2h _ => 15

/-- The modifier field of a half (R40). -/
def HalfOp.modifier : HalfOp → Nat
  | .imin2 t | .imax2 t => match t with | .i32 => 0 | .n32 => 1
  | .fadd2 rm | .fmul2 rm => rm.code.val
  | .padd2h sat => sat.toNat
  | _ => 0

def HalfOp.ofCodes (op m : Nat) : Option HalfOp :=
  match op with
  | 0 => some .iadd2
  | 1 => some .isub2
  | 2 => some (.imin2 (if m = 1 then .n32 else .i32))
  | 3 => some (.imax2 (if m = 1 then .n32 else .i32))
  | 4 => some .and2
  | 5 => some .or2
  | 6 => some .xor2
  | 7 => some .shl2
  | 8 => some .shr2
  | 9 => some .sar2
  | 10 => some .mov2
  | 11 => (Rm.ofCode ⟨m % 8, by omega⟩).map .fadd2
  | 12 => (Rm.ofCode ⟨m % 8, by omega⟩).map .fmul2
  | 13 => some .fmin2
  | 14 => some .fmax2
  | 15 => some (.padd2h (m = 1))
  | _ => none

/-- The 31 bits of a half (R39). -/
def HalfWord.encode (h : HalfWord) : Nat :=
  h.op.code * 2 ^ 26 + h.args.g.val * 2 ^ 23 + h.args.d.val * 2 ^ 15 + h.args.a.code.val * 2 ^ 6 + h.op.modifier

def HalfWord.ofBits (x : Nat) : Option HalfWord :=
  (HalfOp.ofCodes (x / 2 ^ 26 % 32) (x % 64)).map fun op =>
    { op := op
      args := { g := ⟨x / 2 ^ 23 % 8, by omega⟩, d := ⟨x / 2 ^ 15 % 128, by omega⟩,
                a := .ofCode ⟨x / 2 ^ 6 % 512, by omega⟩ } }

/-- The instruction of a pair word, by its first half. -/
def pairInstr (h o : HalfWord) : Instr :=
  match h.op with
  | .iadd2 => .iadd2 h.args o
  | .isub2 => .isub2 h.args o
  | .imin2 t => .imin2 t h.args o
  | .imax2 t => .imax2 t h.args o
  | .and2 => .and2 h.args o
  | .or2 => .or2 h.args o
  | .xor2 => .xor2 h.args o
  | .shl2 => .shl2 h.args o
  | .shr2 => .shr2 h.args o
  | .sar2 => .sar2 h.args o
  | .mov2 => .mov2 h.args o
  | .fadd2 rm => .fadd2 rm h.args o
  | .fmul2 rm => .fmul2 rm h.args o
  | .fmin2 => .fmin2 h.args o
  | .fmax2 => .fmax2 h.args o
  | .padd2h sat => .padd2h sat h.args o

/-- The first half of a pair word. -/
def Instr.firstHalf : Instr → Option (HalfWord × HalfWord)
  | .iadd2 h o => some ({ op := .iadd2, args := h }, o)
  | .isub2 h o => some ({ op := .isub2, args := h }, o)
  | .imin2 t h o => some ({ op := .imin2 t, args := h }, o)
  | .imax2 t h o => some ({ op := .imax2 t, args := h }, o)
  | .and2 h o => some ({ op := .and2, args := h }, o)
  | .or2 h o => some ({ op := .or2, args := h }, o)
  | .xor2 h o => some ({ op := .xor2, args := h }, o)
  | .shl2 h o => some ({ op := .shl2, args := h }, o)
  | .shr2 h o => some ({ op := .shr2, args := h }, o)
  | .sar2 h o => some ({ op := .sar2, args := h }, o)
  | .mov2 h o => some ({ op := .mov2, args := h }, o)
  | .fadd2 rm h o => some ({ op := .fadd2 rm, args := h }, o)
  | .fmul2 rm h o => some ({ op := .fmul2 rm, args := h }, o)
  | .fmin2 h o => some ({ op := .fmin2, args := h }, o)
  | .fmax2 h o => some ({ op := .fmax2, args := h }, o)
  | .padd2h sat h o => some ({ op := .padd2h sat, args := h }, o)
  | _ => none

/-- A pair word (R39). -/
def packPair (h o : HalfWord) : Nat := 2 ^ 63 + h.encode * 2 ^ 32 + o.encode * 2

/-! ## The encoder -/

/-- The guard of a form that takes none (R299, R303, R160, R43). -/
def noGuard : Guard := Guard.always

/-- A plain word of type `t`, rounding `rm`, SAT (R29). -/
def packStd (major : Fin 128) (g : Guard) (t : Fin 16) (rm : Fin 8) (sat : Bool) (sub sel : Fin 16) (d a b c : Fin 512) :
    Nat :=
  packX major g d a b c t (nib31 rm sat) sub sel

/-- An FM word with its ordering, scope and eviction (R17). -/
def packMem (major : Fin 128) (g : Guard) (kind : Fin 16) (m : MemMod) (d a b : Fin 512) (off : BitVec 13) : Nat :=
  packM major g d a b off.toFin kind m.ord.code m.scope.code m.evict

/-- The X field of MMA and MMAG (R208): handle, kinds, group sizes, mode. -/
def packMma (major : Fin 128) (g : Guard) (h : HReg) (t : Tile) (ka kb : Kind) (ga gb : GSize) (ovw : Bool)
    (a b c : Fin 512) : Nat :=
  packTop major g (tileCode t) + a.val * 2 ^ 34 + b.val * 2 ^ 25 + c.val * 2 ^ 16 + h.val * 2 ^ 12
    + ka.code.val * 2 ^ 9 + kb.code.val * 2 ^ 6 + ga.code.val * 2 ^ 4 + gb.code.val * 2 ^ 2 + ovw.toNat

/-- The X field of BKPT and CALLX: twelve bits above the selector (R93, R89). -/
def packSel (major : Fin 128) (g : Guard) (d a b c : Fin 512) (hi : Fin 4096) (sel : Fin 16) : Nat :=
  packTop major g d + a.val * 2 ^ 34 + b.val * 2 ^ 25 + c.val * 2 ^ 16 + hi.val * 2 ^ 4 + sel.val

def repImm (n : Fin 65) (d a b c : RepStep) : Fin (2 ^ 32) :=
  ⟨d.code.val * 2 ^ 14 + a.code.val * 2 ^ 12 + b.code.val * 2 ^ 10 + c.code.val * 2 ^ 8 + n.val, by omega⟩

/-- A group word (R33, R142): member mask in X[14:12]. -/
def packGrp (major : Fin 128) (g : Guard) (m : MReg) (d a b c : Fin 512) (x2 x1 x0 : Fin 16) : Nat :=
  packX major g d a b c (up16 m) x2 x1 x0

/-- An MSKOP word (R156): the operation in X[7:4]. -/
def packMsk (g : Guard) (m : MReg) (op : Fin 16) (d a b : Fin 512) : Nat := packGrp 0x5E g m d a b 0 0 op 0

/-- The word of an instruction; steps and helm words have none. -/
def Instr.encode : Instr → Option Nat
  -- integer (R110, R111)
  | .iadd g t sat d a b => some (packStd 0x00 g t.code 0 sat 0 0 d.code a.code b.code 0)
  | .isub g t sat d a b => some (packStd 0x01 g t.code 0 sat 0 0 d.code a.code b.code 0)
  | .iaddc g t d a b c k => some (packStd 0x02 g t.code 0 false (up16 k) 0 d.code a.code b.code c.code)
  | .imul g t sat d a b => some (packStd 0x03 g t.code 0 sat 0 0 d.code a.code b.code 0)
  | .imulh g t d a b => some (packStd 0x04 g t.code 0 false 0 0 d.code a.code b.code 0)
  | .imad g t sat d a b c => some (packStd 0x05 g t.code 0 sat 0 0 d.code a.code b.code c.code)
  | .imadw g t d a b c => some (packStd 0x06 g t.code 0 false 0 0 d.code a.code b.code c.code)
  | .ineg g t sat d a => some (packStd 0x07 g t.code 0 sat 0 0 d.code a.code 0 0)
  | .iabs g t sat d a => some (packStd 0x08 g t.code 0 sat 0 0 d.code a.code 0 0)
  | .imin g t d a b => some (packStd 0x09 g t.code 0 false 0 0 d.code a.code b.code 0)
  | .imax g t d a b => some (packStd 0x0A g t.code 0 false 0 0 d.code a.code b.code 0)
  | .iclamp g t d a b c => some (packStd 0x0B g t.code 0 false 0 0 d.code a.code b.code c.code)
  | .lea g t d a b s => some (packStd 0x0C g t.code 0 false s 0 d.code a.code b.code 0)
  -- logic, bit, move (R112 to R114, R30)
  | .and g t d a b => some (packStd 0x10 g t.code 0 false 0 0 d.code a.code b.code 0)
  | .or g t d a b => some (packStd 0x11 g t.code 0 false 0 0 d.code a.code b.code 0)
  | .xor g t d a b => some (packStd 0x12 g t.code 0 false 0 0 d.code a.code b.code 0)
  | .andn g t d a b => some (packStd 0x13 g t.code 0 false 0 0 d.code a.code b.code 0)
  | .shl g t d a b => some (packStd 0x14 g t.code 0 false 0 0 d.code a.code b.code 0)
  | .shr g t d a b => some (packStd 0x15 g t.code 0 false 0 0 d.code a.code b.code 0)
  | .sar g t d a b => some (packStd 0x16 g t.code 0 false 0 0 d.code a.code b.code 0)
  | .rol g t d a b => some (packStd 0x17 g t.code 0 false 0 0 d.code a.code b.code 0)
  | .funnel g t d a b c => some (packStd 0x18 g t.code 0 false 0 0 d.code a.code b.code c.code)
  | .popc g t d a => some (packStd 0x19 g t.code 0 false 0 0 d.code a.code 0 0)
  | .clz g t d a => some (packStd 0x19 g t.code 0 false 0 1 d.code a.code 0 0)
  | .ctz g t d a => some (packStd 0x19 g t.code 0 false 0 2 d.code a.code 0 0)
  | .brev g t d a => some (packStd 0x19 g t.code 0 false 0 3 d.code a.code 0 0)
  | .bfx g t d a b c => some (packStd 0x1A g t.code 0 false 0 0 d.code a.code b.code c.code)
  | .bfi g t d a b c => some (packStd 0x1B g t.code 0 false 0 0 d.code a.code b.code c.code)
  | .bperm g t d a b c => some (packStd 0x1C g t.code 0 false 0 0 d.code a.code b.code c.code)
  | .sel g t d a b neg k => some (packStd 0x1D g t.code 0 false (nib13 neg k) 0 d.code a.code b.code 0)
  | .mov g t d a => some (packStd 0x1E g t.code 0 false 0 0 d.code a.code 0 0)
  | .movi g e d imm => some (packI 0x1F g d.code 0 e.code imm.toFin)
  -- FP32 and packed halves (R115)
  | .fadd g t rm d a b => some (packStd 0x20 g t.code rm.code false 0 0 d.code a.code b.code 0)
  | .fsub g t rm d a b => some (packStd 0x21 g t.code rm.code false 0 0 d.code a.code b.code 0)
  | .fmul g t rm d a b => some (packStd 0x22 g t.code rm.code false 0 0 d.code a.code b.code 0)
  | .ffma g t rm d a b c => some (packStd 0x23 g t.code rm.code false 0 0 d.code a.code b.code c.code)
  | .fmin g t d a b => some (packStd 0x24 g t.code 0 false 0 0 d.code a.code b.code 0)
  | .fmax g t d a b => some (packStd 0x25 g t.code 0 false 0 0 d.code a.code b.code 0)
  | .frnd g t rm d a => some (packStd 0x26 g t.code rm.code false 0 0 d.code a.code 0 0)
  | .ffrac g t d a => some (packStd 0x27 g t.code 0 false 0 0 d.code a.code 0 0)
  -- FP64 (R118)
  | .dadd g rm d a b => some (packStd 0x30 g 0xB rm.code false 0 0 d.code a.code b.code 0)
  | .dsub g rm d a b => some (packStd 0x31 g 0xB rm.code false 0 0 d.code a.code b.code 0)
  | .dmul g rm d a b => some (packStd 0x32 g 0xB rm.code false 0 0 d.code a.code b.code 0)
  | .dfma g rm d a b c => some (packStd 0x33 g 0xB rm.code false 0 0 d.code a.code b.code c.code)
  | .dmin g d a b => some (packStd 0x34 g 0xB 0 false 0 0 d.code a.code b.code 0)
  | .dmax g d a b => some (packStd 0x35 g 0xB 0 false 0 0 d.code a.code b.code 0)
  | .drnd g rm d a => some (packStd 0x36 g 0xB rm.code false 0 0 d.code a.code 0 0)
  -- conversions (R119, R121)
  | .cvt g t s sat rm d a => some (packStd 0x38 g t.code rm.code sat s.code 0 d.code a.code 0 0)
  | .cvtp g p sat rm d a b => some (packStd 0x39 g p.dst rm.code sat p.src 0 d.code a.code b.code 0)
  | .cvtpUnpk g p rm d a => some (packStd 0x39 g p.dst rm.code false p.src 1 d.code a.code 0 0)
  -- special functions (R122)
  | .frcp g rm d a => some (packStd 0x3A g 8 rm.code false 0 0 d.code a.code 0 0)
  | .frsq g rm d a => some (packStd 0x3A g 8 rm.code false 0 1 d.code a.code 0 0)
  | .fsqrt g rm d a => some (packStd 0x3A g 8 rm.code false 0 2 d.code a.code 0 0)
  | .fexp2 g rm d a => some (packStd 0x3A g 8 rm.code false 0 3 d.code a.code 0 0)
  | .flog2 g rm d a => some (packStd 0x3A g 8 rm.code false 0 4 d.code a.code 0 0)
  | .fsin g rm d a => some (packStd 0x3A g 8 rm.code false 0 5 d.code a.code 0 0)
  | .fcos g rm d a => some (packStd 0x3A g 8 rm.code false 0 6 d.code a.code 0 0)
  | .ftanh g rm d a => some (packStd 0x3A g 8 rm.code false 0 7 d.code a.code 0 0)
  | .fsgm g rm d a => some (packStd 0x3A g 8 rm.code false 0 8 d.code a.code 0 0)
  | .ferf g rm d a => some (packStd 0x3A g 8 rm.code false 0 9 d.code a.code 0 0)
  -- packed integers (R123, R125)
  | .dp2 g t sat d a b c => some (packStd 0x40 g t.code 0 sat 0 0 d.code a.code b.code c.code)
  | .dp4 g t sat d a b c => some (packStd 0x41 g t.code 0 sat 0 0 d.code a.code b.code c.code)
  | .padd2 g t sat d a b => some (packStd 0x42 g t.code 0 sat 0 0 d.code a.code b.code 0)
  | .psub2 g t sat d a b => some (packStd 0x43 g t.code 0 sat 0 0 d.code a.code b.code 0)
  | .pmax2 g t d a b => some (packStd 0x44 g t.code 0 false 0 0 d.code a.code b.code 0)
  | .pmin2 g t d a b => some (packStd 0x45 g t.code 0 false 0 0 d.code a.code b.code 0)
  | .shrnd g t s64 sat d a b => some (packStd 0x46 g t.code 0 sat (bit16 s64) 0 d.code a.code b.code 0)
  | .pack g t sat d a b => some (packStd 0x47 g t.code 0 sat 0 0 d.code a.code b.code 0)
  | .sad4 g d a b c => some (packStd 0x47 g 7 0 false 0 1 d.code a.code b.code c.code)
  -- hash and strings (R127)
  | .hash g d a => some (packStd 0x48 g 0 0 false 0 0 d.code a.code 0 0)
  | .crc g d a b => some (packStd 0x49 g 0 0 false 0 0 d.code a.code b.code 0)
  | .scmp g d a b c k => some (packStd 0x4A g 0 0 false (up16 k) 0 d.code a.code b.code c.code)
  | .seqm g d a b => some (packStd 0x4B g 0 0 false 0 0 d.code a.code b.code 0)
  | .sfold g up d a => some (packStd 0x4C g 0 0 false (bit16 up) 0 d.code a.code 0 0)
  -- compares and predicates (R101 to R104)
  | .icmp g t cc p a b => some (packStd 0x50 g t.code 0 false cc.code 0 (up512 p) a.code b.code 0)
  | .fcmp g cc p a b => some (packStd 0x51 g 8 0 false cc.code 0 (up512 p) a.code b.code 0)
  | .dcmp g cc p a b => some (packStd 0x52 g 0xB 0 false cc.code 0 (up512 p) a.code b.code 0)
  | .plop g t d a b => some (packStd 0x53 g 0 0 false t 0 (up512 d) (up512 a) (up512 b) 0)
  | .pmov g d => some (packStd 0x54 g 0 0 false 0 0 d.code 0 0 0)
  | .pmovPw g a => some (packStd 0x54 g 0 0 false 1 0 0 a.code 0 0)
  | .pmovNz g p a => some (packStd 0x54 g 0 0 false 2 0 (up512 p) a.code 0 0)
  | .pmovBit g p a b => some (packStd 0x54 g 0 0 false 3 0 (up512 p) a.code b.code 0)
  -- pair words (R39)
  | .iadd2 h o => some (packPair { op := .iadd2, args := h } o)
  | .isub2 h o => some (packPair { op := .isub2, args := h } o)
  | .imin2 t h o => some (packPair { op := .imin2 t, args := h } o)
  | .imax2 t h o => some (packPair { op := .imax2 t, args := h } o)
  | .and2 h o => some (packPair { op := .and2, args := h } o)
  | .or2 h o => some (packPair { op := .or2, args := h } o)
  | .xor2 h o => some (packPair { op := .xor2, args := h } o)
  | .shl2 h o => some (packPair { op := .shl2, args := h } o)
  | .shr2 h o => some (packPair { op := .shr2, args := h } o)
  | .sar2 h o => some (packPair { op := .sar2, args := h } o)
  | .mov2 h o => some (packPair { op := .mov2, args := h } o)
  | .fadd2 rm h o => some (packPair { op := .fadd2 rm, args := h } o)
  | .fmul2 rm h o => some (packPair { op := .fmul2 rm, args := h } o)
  | .fmin2 h o => some (packPair { op := .fmin2, args := h } o)
  | .fmax2 h o => some (packPair { op := .fmax2, args := h } o)
  | .padd2h sat h o => some (packPair { op := .padd2h sat, args := h } o)
  -- group operations (R149 to R160, R248)
  | .shfl g m s md k d a b =>
    some (packGrp 0x58 g m (vCode d) a.code b.code 0 (up16 k) (nib22 s.code md.code) 0)
  | .slide g m up w d a b c =>
    some (packGrp 0x59 g m (vCode d) a.code b.code c.code 0 (nib22 (bit4 up) w.code) 0)
  | .vote g m md d a => some (packGrp 0x5A g m (up512 d) (up512 a) 0 0 0 md.code 0)
  | .ballot g m d a => some (packGrp 0x5B g m (up512 d) (up512 a) 0 0 0 0 0)
  | .ballotR g m d a => some (packGrp 0x5B g m d.code (up512 a) 0 0 0 1 0)
  | .gred g m t op rm sat d a =>
    some (packGrp 0x5C g m d.code a.code 0 0 t.code (nib13 false op.code) (nib31 rm.code sat))
  | .gscan g m t op ex rm sat d a =>
    some (packGrp 0x5D g m (vCode d) a.code 0 0 t.code (nib13 ex op.code) (nib31 rm.code sat))
  | .mskopAnd g m d a b => some (packMsk g m 0 (up512 d) (up512 a) (up512 b))
  | .mskopOr g m d a b => some (packMsk g m 1 (up512 d) (up512 a) (up512 b))
  | .mskopXor g m d a b => some (packMsk g m 2 (up512 d) (up512 a) (up512 b))
  | .mskopAndn g m d a b => some (packMsk g m 3 (up512 d) (up512 a) (up512 b))
  | .mskopNot g m d a => some (packMsk g m 4 (up512 d) (up512 a) 0)
  | .mskopLd g m d a => some (packMsk g m 5 (up512 d) a.code 0)
  | .mskopSt g m d a => some (packMsk g m 6 (sCode d) (up512 a) 0)
  | .mskopLive g m d => some (packMsk g m 7 (up512 d) 0 0)
  | .mskopArrv g m d => some (packMsk g m 8 (up512 d) 0 0)
  | .tbar g m n b => some (packGrp 0x5F g m 0 0 b.code 0 0 n 0)
  | .cbar g m n b => some (packGrp 0x5F g m 0 0 b.code 0 0 (up16 n) 1)
  | .rolesw m a b => some (packGrp 0x5F noGuard m 0 (sCode a) (sCode b) 0 0 0 2)
  -- control (R89, R93, R256, R43)
  | .bra g n off => some (packB 0x60 g (liveCode n) 0 off.toFin)
  | .call g n f off => some (packB 0x61 g (liveCode n) ⟨f.val, by omega⟩ off.toFin)
  | .trav g n s off => some (packB 0x62 g (liveCode n) ⟨s.mode.val * 512 + s.code.val, by omega⟩ off.toFin)
  | .brx g n a => some (packSel 0x63 g (liveCode n) a.code 0 0 0 0)
  | .callx g n a f => some (packSel 0x63 g (liveCode n) a.code 0 0 ⟨f.val, by omega⟩ 1)
  | .travx g n a s => some (packSel 0x63 g (liveCode n) a.code s.code 0 ⟨s.mode.val, by omega⟩ 2)
  | .ret g n => some (packSel 0x64 g (liveCode n) 0 0 0 0 0)
  | .exit g => some (packSel 0x64 g 0 0 0 0 0 1)
  | .yield g => some (packSel 0x64 g 0 0 0 0 0 2)
  | .bkpt g n => some (packSel 0x64 g 0 0 0 0 n 3)
  | .spawn g d a b => some (packSel 0x65 g (vCode d) a.code b.code 0 0 0)
  | .rep n d a b c => some (packI 0x66 noGuard 0 0 0 (repImm n d a b c))
  | .nop g => some (packSel 0x67 g 0 0 0 0 0 0)
  -- memory (R31)
  | .ld g w m d a b off => some (packMem 0x68 g w.code m (vCode d) a.code b.code off)
  | .st g w m d a b off => some (packMem 0x69 g w.code m d.code a.code b.code off)
  | .sld g w m d a b off => some (packMem 0x6A g w.code m (sCode d) (sCode a) b.code off)
  | .atom g op m d a b off => some (packMem 0x6B g op.code m (vCode d) a.code b.code off)
  | .atomW64 g op m d a b off => some (packMem 0x6C g op.code m (vCode d) a.code b.code off)
  | .acas g w m d a b off => some (packMem 0x6D g (bit16 w.bit) m (vCode d) a.code b.code off)
  | .lr g w m d a off => some (packMem 0x6D g (if w.bit then 3 else 2) m (vCode d) a.code 0 off)
  | .sc g w m d a b off => some (packMem 0x6D g (if w.bit then 5 else 4) m (vCode d) a.code b.code off)
  | .pref g s e a off => some (packM 0x6E g 0 a.code 0 off.toFin 0 0 s.code e)
  | .partn g w m d a b => some (packMem 0x6E g (if w.bit then 2 else 1) m (vCode d) a.code b.code 0)
  | .waitv g cc w acq s d a b off =>
    some (packM 0x6E g d.code a.code b.code off.toFin (nib13 true ⟨w.bit.toNat * 4 + cc.code.val, by
      have := w.bit.toNat_le; omega⟩) (bit4 acq) s.code 0)
  | .fence g o s d => some (packM 0x6F g (sCode d) 0 0 0 0 o.code s.code 0)
  | .xfence g s p q => some (packM 0x6F g 0 0 ⟨p.code.val * 64 + q.code.val * 8, by omega⟩ 0 1 3 s.code 0)
  -- windows, copies, barriers, handles, sweeps (R182 to R198)
  | .wmap g w a b c => some (packX 0x70 g 0 (sCode a) (sCode b) (sCode c) 0 0 (up16' w) 0)
  | .wflush g un w => some (packX 0x71 g 0 0 0 0 0 0 (nib22 (bit4 un) w) 0)
  | .wdrop g w => some (packX 0x71 g 0 0 0 0 0 0 (up16' w) 1)
  | .cpy g a => some (packX 0x72 g 0 (sCode a) 0 0 0 0 0 0)
  | .cpyg g a b => some (packX 0x72 g 0 (sCode a) (sCode b) 0 0 0 0 1)
  | .bari g a => some (packX 0x73 g 0 a.code 0 0 0 0 0 0)
  | .barx g a b => some (packX 0x73 g 0 a.code b.code 0 0 0 0 1)
  | .barw g a b => some (packX 0x73 g 0 a.code b.code 0 0 0 0 2)
  | .bart g p a b => some (packX 0x73 g (up512 p) a.code b.code 0 0 0 0 3)
  | .hwait g d h =>
    some (match d with
      | some r => packX 0x74 g r.code 0 0 0 0 1 h 0
      | none => packX 0x74 g 0 0 0 0 0 0 h 0)
  | .htest g p h => some (packX 0x74 g (up512 p) 0 0 0 0 0 h 1)
  | .hcan g h => some (packX 0x74 g 0 0 0 0 0 0 h 2)
  | .tswp g op h i b => some (packX 0x75 g 0 0 (sCode b) 0 0 h op.code ⟨i.val, by omega⟩)
  | .tldi g i a => some (packX 0x76 g 0 (sCode a) 0 0 0 0 ⟨i.val, by omega⟩ 0)
  -- matrix (R201, R208, R210, R212)
  | .macq g => some (packX 0x78 g 0 0 0 0 0 0 0 0)
  | .mrel g => some (packX 0x78 g 0 0 0 0 0 0 0 1)
  | .mma g h t ka kb ga gb ovw a b c => some (packMma 0x79 g h t ka kb ga gb ovw (sCode a) (sCode b) c.code)
  | .mmag g h t ka kb ga gb ovw a b c => some (packMma 0x7A g h t ka kb ga gb ovw (vCode a) (sCode b) (sCode c))
  | .mzero g h t b => some (packX 0x7B g (tileCode t) 0 b.code 0 h 0 0 0)
  | .mldz g h f t a b => some (packX 0x7B g (tileCode t) (sCode a) b.code 0 h f.code 0 1)
  | .mstz g h f rm sat t a b => some (packX 0x7B g (tileCode t) (sCode a) b.code 0 h f.code (nib31 rm.code sat) 2)
  -- transactions (R299, R303, R310, R311)
  | .tbegin d n off => some (packB 0x7C noGuard (vCode d) ⟨n.val, by omega⟩ off.toFin)
  | .tend => some (packX 0x7D noGuard 0 0 0 0 0 0 0 0)
  | .tabort g r u => some (packX 0x7D g 0 0 0 0 0 (bit16 r) u 1)
  | .tstat g d k => some (packX 0x7D g d.code 0 0 0 0 0 (up16 k) 2)
  -- system (R226 to R235)
  | .sysc g n d a => some (packI 0x7E g (sCode d) (sCode a) 0 n.toFin)
  | .crd g d r => some (packI 0x7E g d.code 0 1 r.code)
  | .cwr g r a => some (packI 0x7E g 0 a.code 2 r.code)
  | .lnch g d a => some (packX 0x7F g (sCode d) (sCode a) 0 0 0 0 0 0)
  | .sretReply g d a b => some (packX 0x7F g (sCode d) (sCode a) (sCode b) 0 0 0 0 1)
  | .sretResume g k d a => some (packX 0x7F g (sCode d) (sCode a) 0 0 0 0 (nib22 (bit4 k) 1) 1)
  | .sretDrop g d a => some (packX 0x7F g (sCode d) (sCode a) 0 0 0 0 2 1)
  | .mboxWait g d => some (packX 0x7F g (sCode d) 0 0 0 0 0 0 2)
  | .mboxPop g d a => some (packX 0x7F g (sCode d) (sCode a) 0 0 0 0 1 2)
  | .mboxStat g d => some (packX 0x7F g (sCode d) 0 0 0 0 0 2 2)
  | .ctxsG g d a b => some (packX 0x7F g (sCode d) (sCode a) (sCode b) 0 0 0 0 3)
  | .ctxsT g d a b => some (packX 0x7F g (sCode d) (sCode a) (sCode b) 0 0 0 1 3)
  | .ctxlG g d a b => some (packX 0x7F g (sCode d) (sCode a) (sCode b) 0 0 0 0 4)
  | .ctxlT g d a b => some (packX 0x7F g (sCode d) (sCode a) (sCode b) 0 0 0 1 4)
  | .tinvAll g => some (packX 0x7F g 0 0 0 0 0 0 0 5)
  | .tinvPage g a => some (packX 0x7F g 0 (sCode a) 0 0 0 0 2 5)
  | _ => none

/-! ## The decoder -/

def dReg (w : Nat) : Option Reg := Reg.ofCode (fD w)
def aReg (w : Nat) : Option Reg := Reg.ofCode (fA w)
def aOp (w : Nat) : Operand := .ofCode (fA w)
def bOp (w : Nat) : Operand := .ofCode (fB w)
def cOp (w : Nat) : Operand := .ofCode (fC w)
def fRm (w : Nat) : Option Rm := Rm.ofCode (nibHi (fX2 w))
def fSat (w : Nat) : Bool := nibLo (fX2 w)
def fMem (w : Nat) : Option MemMod :=
  (Scope.ofCode (fScope w)).map fun s => { ord := .ofCode (fOrd w), scope := s, evict := fEvict w }
def fMask (w : Nat) : MReg := nibLow3 (fX3 w)
def fOff13 (w : Nat) : BitVec 13 := .ofFin (fOff w)
def fOff32 (w : Nat) : Word := .ofFin (fImm w)

/-- Majors 0x00 to 0x0F. -/
def parseInteger (w : Nat) : Option Instr := do
  let g := fGuard w
  match fMajor w with
  | 0x00 => some (.iadd g (← IntTy.ofCode (fX3 w)) (fSat w) (← dReg w) (aOp w) (bOp w))
  | 0x01 => some (.isub g (← IntTy.ofCode (fX3 w)) (fSat w) (← dReg w) (aOp w) (bOp w))
  | 0x02 => some (.iaddc g (← IntTy.ofCode (fX3 w)) (← dReg w) (aOp w) (bOp w) (cOp w) (nibLow3 (fX1 w)))
  | 0x03 => some (.imul g (← IntTy.ofCode (fX3 w)) (fSat w) (← dReg w) (aOp w) (bOp w))
  | 0x04 => some (.imulh g (← IntTy.ofCode (fX3 w)) (← dReg w) (aOp w) (bOp w))
  | 0x05 => some (.imad g (← IntTy.ofCode (fX3 w)) (fSat w) (← dReg w) (aOp w) (bOp w) (cOp w))
  | 0x06 => some (.imadw g (← Ty32.ofCode (fX3 w)) (← dReg w) (aOp w) (bOp w) (cOp w))
  | 0x07 => some (.ineg g (← SignTy.ofCode (fX3 w)) (fSat w) (← dReg w) (aOp w))
  | 0x08 => some (.iabs g (← SignTy.ofCode (fX3 w)) (fSat w) (← dReg w) (aOp w))
  | 0x09 => some (.imin g (← IntTy.ofCode (fX3 w)) (← dReg w) (aOp w) (bOp w))
  | 0x0A => some (.imax g (← IntTy.ofCode (fX3 w)) (← dReg w) (aOp w) (bOp w))
  | 0x0B => some (.iclamp g (← IntTy.ofCode (fX3 w)) (← dReg w) (aOp w) (bOp w) (cOp w))
  | 0x0C => some (.lea g (← Ty32.ofCode (fX3 w)) (← dReg w) (aOp w) (bOp w) (fX1 w))
  | _ => none

/-- Majors 0x10 to 0x1F. -/
def parseLogic (w : Nat) : Option Instr := do
  let g := fGuard w
  match fMajor w with
  | 0x10 => some (.and g (← IntTy.ofCode (fX3 w)) (← dReg w) (aOp w) (bOp w))
  | 0x11 => some (.or g (← IntTy.ofCode (fX3 w)) (← dReg w) (aOp w) (bOp w))
  | 0x12 => some (.xor g (← IntTy.ofCode (fX3 w)) (← dReg w) (aOp w) (bOp w))
  | 0x13 => some (.andn g (← IntTy.ofCode (fX3 w)) (← dReg w) (aOp w) (bOp w))
  | 0x14 => some (.shl g (← IntTy.ofCode (fX3 w)) (← dReg w) (aOp w) (bOp w))
  | 0x15 => some (.shr g (← IntTy.ofCode (fX3 w)) (← dReg w) (aOp w) (bOp w))
  | 0x16 => some (.sar g (← IntTy.ofCode (fX3 w)) (← dReg w) (aOp w) (bOp w))
  | 0x17 => some (.rol g (← IntTy.ofCode (fX3 w)) (← dReg w) (aOp w) (bOp w))
  | 0x18 => some (.funnel g (← Ty32.ofCode (fX3 w)) (← dReg w) (aOp w) (bOp w) (cOp w))
  | 0x19 => match (fX0 w).val with
    | 0 => some (.popc g (← IntTy.ofCode (fX3 w)) (← dReg w) (aOp w))
    | 1 => some (.clz g (← IntTy.ofCode (fX3 w)) (← dReg w) (aOp w))
    | 2 => some (.ctz g (← IntTy.ofCode (fX3 w)) (← dReg w) (aOp w))
    | 3 => some (.brev g (← IntTy.ofCode (fX3 w)) (← dReg w) (aOp w))
    | _ => none
  | 0x1A => some (.bfx g (← Ty32.ofCode (fX3 w)) (← dReg w) (aOp w) (bOp w) (cOp w))
  | 0x1B => some (.bfi g (← Ty32.ofCode (fX3 w)) (← dReg w) (aOp w) (bOp w) (cOp w))
  | 0x1C => some (.bperm g (← Ty32.ofCode (fX3 w)) (← dReg w) (aOp w) (bOp w) (cOp w))
  | 0x1D => some (.sel g (← IntTy.ofCode (fX3 w)) (← dReg w) (aOp w) (bOp w) (nibTop (fX1 w)) (nibLow3 (fX1 w)))
  | 0x1E => some (.mov g (← IntTy.ofCode (fX3 w)) (← dReg w) (aOp w))
  | 0x1F => some (.movi g (← MoviExt.ofCode (fMod w)) (← dReg w) (fOff32 w))
  | _ => none

/-- Majors 0x20 to 0x3F. -/
def parseFloat (w : Nat) : Option Instr := do
  let g := fGuard w
  match fMajor w with
  | 0x20 => some (.fadd g (← FTy.ofCode (fX3 w)) (← fRm w) (← dReg w) (aOp w) (bOp w))
  | 0x21 => some (.fsub g (← FTy.ofCode (fX3 w)) (← fRm w) (← dReg w) (aOp w) (bOp w))
  | 0x22 => some (.fmul g (← FTy.ofCode (fX3 w)) (← fRm w) (← dReg w) (aOp w) (bOp w))
  | 0x23 => some (.ffma g (← FTy.ofCode (fX3 w)) (← fRm w) (← dReg w) (aOp w) (bOp w) (cOp w))
  | 0x24 => some (.fmin g (← FTy.ofCode (fX3 w)) (← dReg w) (aOp w) (bOp w))
  | 0x25 => some (.fmax g (← FTy.ofCode (fX3 w)) (← dReg w) (aOp w) (bOp w))
  | 0x26 => some (.frnd g (← FTy.ofCode (fX3 w)) (← fRm w) (← dReg w) (aOp w))
  | 0x27 => some (.ffrac g (← FTy.ofCode (fX3 w)) (← dReg w) (aOp w))
  | 0x30 => some (.dadd g (← fRm w) (← dReg w) (aOp w) (bOp w))
  | 0x31 => some (.dsub g (← fRm w) (← dReg w) (aOp w) (bOp w))
  | 0x32 => some (.dmul g (← fRm w) (← dReg w) (aOp w) (bOp w))
  | 0x33 => some (.dfma g (← fRm w) (← dReg w) (aOp w) (bOp w) (cOp w))
  | 0x34 => some (.dmin g (← dReg w) (aOp w) (bOp w))
  | 0x35 => some (.dmax g (← dReg w) (aOp w) (bOp w))
  | 0x36 => some (.drnd g (← fRm w) (← dReg w) (aOp w))
  | 0x38 => some (.cvt g (← CvtTy.ofCode (fX3 w)) (← CvtTy.ofCode (fX1 w)) (fSat w) (← fRm w) (← dReg w) (aOp w))
  | 0x39 => match (fX0 w).val with
    | 0 => some (.cvtp g (← PackPair.ofCodes (fX3 w) (fX1 w)) (fSat w) (← fRm w) (← dReg w) (aOp w) (bOp w))
    | 1 => some (.cvtpUnpk g (← UnpackPair.ofCodes (fX3 w) (fX1 w)) (← fRm w) (← dReg w) (aOp w))
    | _ => none
  | 0x3A => match (fX0 w).val with
    | 0 => some (.frcp g (← fRm w) (← dReg w) (aOp w))
    | 1 => some (.frsq g (← fRm w) (← dReg w) (aOp w))
    | 2 => some (.fsqrt g (← fRm w) (← dReg w) (aOp w))
    | 3 => some (.fexp2 g (← fRm w) (← dReg w) (aOp w))
    | 4 => some (.flog2 g (← fRm w) (← dReg w) (aOp w))
    | 5 => some (.fsin g (← fRm w) (← dReg w) (aOp w))
    | 6 => some (.fcos g (← fRm w) (← dReg w) (aOp w))
    | 7 => some (.ftanh g (← fRm w) (← dReg w) (aOp w))
    | 8 => some (.fsgm g (← fRm w) (← dReg w) (aOp w))
    | 9 => some (.ferf g (← fRm w) (← dReg w) (aOp w))
    | _ => none
  | _ => none

/-- Majors 0x40 to 0x57. -/
def parsePacked (w : Nat) : Option Instr := do
  let g := fGuard w
  match fMajor w with
  | 0x40 => some (.dp2 g (← Ty16.ofCode (fX3 w)) (fSat w) (← dReg w) (aOp w) (bOp w) (cOp w))
  | 0x41 => some (.dp4 g (← Ty8.ofCode (fX3 w)) (fSat w) (← dReg w) (aOp w) (bOp w) (cOp w))
  | 0x42 => some (.padd2 g (← Ty16.ofCode (fX3 w)) (fSat w) (← dReg w) (aOp w) (bOp w))
  | 0x43 => some (.psub2 g (← Ty16.ofCode (fX3 w)) (fSat w) (← dReg w) (aOp w) (bOp w))
  | 0x44 => some (.pmax2 g (← Ty16.ofCode (fX3 w)) (← dReg w) (aOp w) (bOp w))
  | 0x45 => some (.pmin2 g (← Ty16.ofCode (fX3 w)) (← dReg w) (aOp w) (bOp w))
  | 0x46 => some (.shrnd g (← NarrowTy.ofCode (fX3 w)) (nibLo (fX1 w)) (fSat w) (← dReg w) (aOp w) (bOp w))
  | 0x47 => match (fX0 w).val with
    | 0 => some (.pack g (← Ty16.ofCode (fX3 w)) (fSat w) (← dReg w) (aOp w) (bOp w))
    | 1 => some (.sad4 g (← dReg w) (aOp w) (bOp w) (cOp w))
    | _ => none
  | 0x48 => some (.hash g (← dReg w) (aOp w))
  | 0x49 => some (.crc g (← dReg w) (aOp w) (bOp w))
  | 0x4A => some (.scmp g (← dReg w) (aOp w) (bOp w) (cOp w) (nibLow3 (fX1 w)))
  | 0x4B => some (.seqm g (← dReg w) (aOp w) (bOp w))
  | 0x4C => some (.sfold g (nibLo (fX1 w)) (← dReg w) (aOp w))
  | 0x50 => some (.icmp g (← IntTy.ofCode (fX3 w)) (← Icc.ofCode (fX1 w)) (low3 (fD w)) (aOp w) (bOp w))
  | 0x51 => some (.fcmp g (← Fcc.ofCode (fX1 w)) (low3 (fD w)) (aOp w) (bOp w))
  | 0x52 => some (.dcmp g (← Fcc.ofCode (fX1 w)) (low3 (fD w)) (aOp w) (bOp w))
  | 0x53 => some (.plop g (fX1 w) (low3 (fD w)) (low3 (fA w)) (low3 (fB w)))
  | 0x54 => match (fX1 w).val with
    | 0 => some (.pmov g (← dReg w))
    | 1 => some (.pmovPw g (aOp w))
    | 2 => some (.pmovNz g (low3 (fD w)) (aOp w))
    | 3 => some (.pmovBit g (low3 (fD w)) (aOp w) (bOp w))
    | _ => none
  | _ => none

/-- Majors 0x58 to 0x5F. -/
def parseGroup (w : Nat) : Option Instr := do
  let g := fGuard w
  let m := fMask w
  match fMajor w with
  | 0x58 => some (.shfl g m (← SegSize.ofCode (nibHi2 (fX1 w))) (.ofCode (nibLo2 (fX1 w))) (nibLow3 (fX2 w))
      (← vOf (fD w)) (aOp w) (bOp w))
  | 0x59 => some (.slide g m (nibHi2 (fX1 w) = 1) (← SlideWidth.ofCode (nibLo2 (fX1 w))) (← vOf (fD w))
      (aOp w) (bOp w) (cOp w))
  | 0x5A => some (.vote g m (← VoteMode.ofCode (fX1 w)) (low3 (fD w)) (low3 (fA w)))
  | 0x5B => match (fX1 w).val with
    | 0 => some (.ballot g m (low3 (fD w)) (low3 (fA w)))
    | 1 => some (.ballotR g m (← dReg w) (low3 (fA w)))
    | _ => none
  | 0x5C => some (.gred g m (← RedTy.ofCode (fX2 w)) (← RedOp.ofCode (nibLow3 (fX1 w))) (← Rm.ofCode (nibHi (fX0 w)))
      (nibLo (fX0 w)) (← dReg w) (aOp w))
  | 0x5D => some (.gscan g m (← RedTy.ofCode (fX2 w)) (← RedOp.ofCode (nibLow3 (fX1 w))) (nibTop (fX1 w))
      (← Rm.ofCode (nibHi (fX0 w))) (nibLo (fX0 w)) (← vOf (fD w)) (aOp w))
  | 0x5E => match (fX1 w).val with
    | 0 => some (.mskopAnd g m (low3 (fD w)) (low3 (fA w)) (low3 (fB w)))
    | 1 => some (.mskopOr g m (low3 (fD w)) (low3 (fA w)) (low3 (fB w)))
    | 2 => some (.mskopXor g m (low3 (fD w)) (low3 (fA w)) (low3 (fB w)))
    | 3 => some (.mskopAndn g m (low3 (fD w)) (low3 (fA w)) (low3 (fB w)))
    | 4 => some (.mskopNot g m (low3 (fD w)) (low3 (fA w)))
    | 5 => some (.mskopLd g m (low3 (fD w)) (aOp w))
    | 6 => some (.mskopSt g m (← sOf (fD w)) (low3 (fA w)))
    | 7 => some (.mskopLive g m (low3 (fD w)))
    | 8 => some (.mskopArrv g m (low3 (fD w)))
    | _ => none
  | 0x5F => match (fX0 w).val with
    | 0 => some (.tbar g m (fX1 w) (bOp w))
    | 1 => some (.cbar g m (nibLow3 (fX1 w)) (bOp w))
    | 2 => some (.rolesw m (← sOf (fA w)) (← sOf (fB w)))
    | _ => none
  | _ => none

/-- The twelve bits above the selector of BKPT and CALLX. -/
def fHi12 (w : Nat) : Fin 4096 := ⟨w / 2 ^ 4 % 4096, by omega⟩

/-- Majors 0x60 to 0x67. -/
def parseControl (w : Nat) : Option Instr := do
  let g := fGuard w
  match fMajor w with
  | 0x60 => some (.bra g (← liveOf (fD w)) (fOff32 w))
  | 0x61 => some (.call g (← liveOf (fD w)) ⟨(fExtra w).val % 64, by omega⟩ (fOff32 w))
  | 0x62 => some (.trav g (← liveOf (fD w)) (← Sel.ofCodes ⟨(fExtra w).val / 512, by omega⟩ ⟨(fExtra w).val % 512, by omega⟩)
      (fOff32 w))
  | 0x63 => match (fX0 w).val with
    | 0 => some (.brx g (← liveOf (fD w)) (← aReg w))
    | 1 => some (.callx g (← liveOf (fD w)) (← aReg w) ⟨(fHi12 w).val % 64, by omega⟩)
    | 2 => some (.travx g (← liveOf (fD w)) (← aReg w) (← Sel.ofCodes ⟨(fHi12 w).val % 4, by omega⟩ (fB w)))
    | _ => none
  | 0x64 => match (fX0 w).val with
    | 0 => some (.ret g (← liveOf (fD w)))
    | 1 => some (.exit g)
    | 2 => some (.yield g)
    | 3 => some (.bkpt g (fHi12 w))
    | _ => none
  | 0x65 => some (.spawn g (← vOf (fD w)) (← aReg w) (bOp w))
  | 0x66 =>
    let imm := (fImm w).val
    if h : imm % 128 < 65 then
      some (.rep ⟨imm % 128, h⟩ (.ofCode ⟨imm / 2 ^ 14 % 4, by omega⟩) (.ofCode ⟨imm / 2 ^ 12 % 4, by omega⟩)
        (.ofCode ⟨imm / 2 ^ 10 % 4, by omega⟩) (.ofCode ⟨imm / 2 ^ 8 % 4, by omega⟩))
    else none
  | 0x67 => some (.nop g)
  | _ => none

/-- The kind of an FM word (R31). -/
def fKind (w : Nat) : Fin 16 := fX2 w

/-- Majors 0x68 to 0x6F. (log 124: DEDUCED, unsafe) -/
def parseMemory (w : Nat) : Option Instr := do
  let g := fGuard w
  match fMajor w with
  | 0x68 => some (.ld g (← LdWidth.ofCode (fKind w)) (← fMem w) (← vOf (fD w)) (← aReg w) (bOp w) (fOff13 w))
  | 0x69 => some (.st g (← StWidth.ofCode (fKind w)) (← fMem w) (.ofCode (fD w)) (← aReg w) (bOp w) (fOff13 w))
  | 0x6A => some (.sld g (← LdWidth.ofCode (fKind w)) (← fMem w) (← sOf (fD w)) (← sOf (fA w)) (bOp w) (fOff13 w))
  | 0x6B => some (.atom g (← AtomOp.ofCode (fKind w)) (← fMem w) (← vOf (fD w)) (← aReg w) (bOp w) (fOff13 w))
  | 0x6C => some (.atomW64 g (← AtomOp.ofCode (fKind w)) (← fMem w) (← vOf (fD w)) (← aReg w) (bOp w) (fOff13 w))
  | 0x6D => match (fKind w).val with
    | 0 => some (.acas g .w32 (← fMem w) (← vOf (fD w)) (← aReg w) (bOp w) (fOff13 w))
    | 1 => some (.acas g .w64 (← fMem w) (← vOf (fD w)) (← aReg w) (bOp w) (fOff13 w))
    | 2 => some (.lr g .w32 (← fMem w) (← vOf (fD w)) (← aReg w) (fOff13 w))
    | 3 => some (.lr g .w64 (← fMem w) (← vOf (fD w)) (← aReg w) (fOff13 w))
    | 4 => some (.sc g .w32 (← fMem w) (← vOf (fD w)) (← aReg w) (bOp w) (fOff13 w))
    | 5 => some (.sc g .w64 (← fMem w) (← vOf (fD w)) (← aReg w) (bOp w) (fOff13 w))
    | _ => none
  | 0x6E => match (fKind w).val with
    | 0 => some (.pref g (← PrefScope.ofCode (fScope w)) (fEvict w) (← aReg w) (fOff13 w))
    | 1 => some (.partn g .w32 (← fMem w) (← vOf (fD w)) (← aReg w) (bOp w))
    | 2 => some (.partn g .w64 (← fMem w) (← vOf (fD w)) (← aReg w) (bOp w))
    | _ => some (.waitv g (.ofCode (nibLo2 (fKind w))) (.ofBit ((fKind w).val / 4 % 2 = 1)) (fOrd w = 1)
        (← Scope.ofCode (fScope w)) (← dReg w) (← aReg w) (bOp w) (fOff13 w))
  | 0x6F => match (fKind w).val with
    | 0 => some (.fence g (.ofCode (fOrd w)) (← Scope.ofCode (fScope w)) (← sOf (fD w)))
    | 1 => some (.xfence g (← Scope.ofCode (fScope w)) (← Path.ofCode ⟨(fB w).val / 64, by omega⟩)
        (← Path.ofCode ⟨(fB w).val / 8 % 8, by omega⟩))
    | _ => none
  | _ => none

/-- Majors 0x70 to 0x77. -/
def parseEngine (w : Nat) : Option Instr := do
  let g := fGuard w
  match fMajor w with
  | 0x70 => some (.wmap g (nibLo2 (fX1 w)) (← sOf (fA w)) (← sOf (fB w)) (← sOf (fC w)))
  | 0x71 => match (fX0 w).val with
    | 0 => some (.wflush g (nibHi2 (fX1 w) = 1) (nibLo2 (fX1 w)))
    | 1 => some (.wdrop g (nibLo2 (fX1 w)))
    | _ => none
  | 0x72 => match (fX0 w).val with
    | 0 => some (.cpy g (← sOf (fA w)))
    | 1 => some (.cpyg g (← sOf (fA w)) (← sOf (fB w)))
    | _ => none
  | 0x73 => match (fX0 w).val with
    | 0 => some (.bari g (← aReg w))
    | 1 => some (.barx g (← aReg w) (bOp w))
    | 2 => some (.barw g (← aReg w) (bOp w))
    | 3 => some (.bart g (low3 (fD w)) (← aReg w) (bOp w))
    | _ => none
  | 0x74 => match (fX0 w).val with
    | 0 => if (fX2 w).val = 1 then some (.hwait g (some (← dReg w)) (fX1 w)) else some (.hwait g none (fX1 w))
    | 1 => some (.htest g (low3 (fD w)) (fX1 w))
    | 2 => some (.hcan g (fX1 w))
    | _ => none
  | 0x75 => some (.tswp g (← SweepOp.ofCode (fX1 w)) (fX2 w) ⟨(fX0 w).val % 2, by omega⟩ (← sOf (fB w)))
  | 0x76 => some (.tldi g ⟨(fX1 w).val % 2, by omega⟩ (← sOf (fA w)))
  | _ => none

/-- Kinds and group sizes of an MMA (R208). -/
def fKindA (w : Nat) : Option Kind := Kind.ofCode ⟨w / 2 ^ 9 % 8, by omega⟩
def fKindB (w : Nat) : Option Kind := Kind.ofCode ⟨w / 2 ^ 6 % 8, by omega⟩
def fSizeA (w : Nat) : Option GSize := GSize.ofCode ⟨w / 2 ^ 4 % 4, by omega⟩
def fSizeB (w : Nat) : Option GSize := GSize.ofCode ⟨w / 2 ^ 2 % 4, by omega⟩

/-- Majors 0x78 to 0x7D. -/
def parseMatrix (w : Nat) : Option Instr := do
  let g := fGuard w
  match fMajor w with
  | 0x78 => match (fX0 w).val with
    | 0 => some (.macq g)
    | 1 => some (.mrel g)
    | _ => none
  | 0x79 => some (.mma g (fX3 w) (tileOf (fD w)) (← fKindA w) (← fKindB w) (← fSizeA w) (← fSizeB w) (w % 4 = 1)
      (← sOf (fA w)) (← sOf (fB w)) (cOp w))
  | 0x7A => some (.mmag g (fX3 w) (tileOf (fD w)) (← fKindA w) (← fKindB w) (← fSizeA w) (← fSizeB w) (w % 4 = 1)
      (← vOf (fA w)) (← sOf (fB w)) (← sOf (fC w)))
  | 0x7B => match (fX0 w).val with
    | 0 => some (.mzero g (fX3 w) (tileOf (fD w)) (bOp w))
    | 1 => some (.mldz g (fX3 w) (← LdFmt.ofCode (fX2 w)) (tileOf (fD w)) (← sOf (fA w)) (bOp w))
    | 2 => some (.mstz g (fX3 w) (← StFmt.ofCode (fX2 w)) (← Rm.ofCode (nibHi (fX1 w))) (nibLo (fX1 w)) (tileOf (fD w))
        (← sOf (fA w)) (bOp w))
    | _ => none
  | 0x7C =>
    if h : (fExtra w).val < 9 then some (.tbegin (← vOf (fD w)) ⟨(fExtra w).val, h⟩ (fOff32 w)) else none
  | 0x7D => match (fX0 w).val with
    | 0 => some .tend
    | 1 => some (.tabort g ((fX2 w).val = 1) (fX1 w))
    | 2 => some (.tstat g (← dReg w) (nibLow3 (fX1 w)))
    | _ => none
  | _ => none

/-- Majors 0x7E and 0x7F. -/
def parseSystem (w : Nat) : Option Instr := do
  let g := fGuard w
  match fMajor w with
  | 0x7E => match (fMod w).val with
    | 0 => some (.sysc g (fOff32 w) (← sOf (fD w)) (← sOf (fA w)))
    | 1 => some (.crd g (← dReg w) (← CReg.ofIndex (fImm w).val))
    | 2 => some (.cwr g (← CReg.ofIndex (fImm w).val) (aOp w))
    | _ => none
  | 0x7F => match (fX0 w).val, (fX1 w).val with
    | 0, _ => some (.lnch g (← sOf (fD w)) (← sOf (fA w)))
    | 1, 0 => some (.sretReply g (← sOf (fD w)) (← sOf (fA w)) (← sOf (fB w)))
    | 1, 1 => some (.sretResume g false (← sOf (fD w)) (← sOf (fA w)))
    | 1, 5 => some (.sretResume g true (← sOf (fD w)) (← sOf (fA w)))
    | 1, 2 => some (.sretDrop g (← sOf (fD w)) (← sOf (fA w)))
    | 2, 0 => some (.mboxWait g (← sOf (fD w)))
    | 2, 1 => some (.mboxPop g (← sOf (fD w)) (← sOf (fA w)))
    | 2, 2 => some (.mboxStat g (← sOf (fD w)))
    | 3, 0 => some (.ctxsG g (← sOf (fD w)) (← sOf (fA w)) (← sOf (fB w)))
    | 3, 1 => some (.ctxsT g (← sOf (fD w)) (← sOf (fA w)) (← sOf (fB w)))
    | 4, 0 => some (.ctxlG g (← sOf (fD w)) (← sOf (fA w)) (← sOf (fB w)))
    | 4, 1 => some (.ctxlT g (← sOf (fD w)) (← sOf (fA w)) (← sOf (fB w)))
    | 5, 0 => some (.tinvAll g)
    | 5, 2 => some (.tinvPage g (← sOf (fA w)))
    | _, _ => none
  | _ => none

/-- Pair words (R39). -/
def parsePair (w : Nat) : Option Instr := do
  some (pairInstr (← HalfWord.ofBits (w / 2 ^ 32 % 2 ^ 31)) (← HalfWord.ofBits (w / 2 % 2 ^ 31)))

/-- The candidate of a word, by its major opcode (R46). -/
def parse (w : Nat) : Option Instr :=
  if fPair w then parsePair w
  else
    let m := fMajor w
    if m < 0x10 then parseInteger w
    else if m < 0x20 then parseLogic w
    else if m < 0x40 then parseFloat w
    else if m < 0x58 then parsePacked w
    else if m < 0x60 then parseGroup w
    else if m < 0x68 then parseControl w
    else if m < 0x70 then parseMemory w
    else if m < 0x78 then parseEngine w
    else if m < 0x7E then parseMatrix w
    else parseSystem w

/-- The instruction of a 64-bit word, or none where the word is ILLEGAL for every group (R49). (log 76: DEDUCED,
unsafe) -/
def decode (w : Nat) : Option Instr :=
  match parse w with
  | some i => if i.encode = some w ∧ i.wf then some i else none
  | none => none

/-! ## The helm extension (R313) -/

/-- The four helm instructions' words, in the R and I formats of custom-0. -/
def Instr.encodeHelm : Instr → Option Nat
  | .htbegin rd => some (rd.val * 2 ^ 7 + 0x0B)
  | .htend => some 0x100B
  | .htabort u => some (u.val * 2 ^ 20 + 0x200B)
  | .htstat rd => some (0x3000 + rd.val * 2 ^ 7 + 0x0B)
  | _ => none

/-- The helm extension's instruction of a 32-bit word; none for a reserved or broken encoding of custom-0 and for
every word of another major opcode. -/
def decodeHelm (w : Nat) : Option Instr :=
  let cand : Instr :=
    match w / 2 ^ 12 % 8 with
    | 0 => .htbegin ⟨w / 2 ^ 7 % 32, by omega⟩
    | 1 => .htend
    | 2 => .htabort ⟨w / 2 ^ 20 % 16, by omega⟩
    | _ => .htstat ⟨w / 2 ^ 7 % 32, by omega⟩
  if cand.encodeHelm = some w then some cand else none

/-- Whether a helm word lies in the extension's opcode, custom-0 (R313). -/
def isCustom0 (w : Nat) : Bool := w % 128 = 0x0B

/-! ## Words in bytes (R27) -/

/-- The value of bytes, the first at the lowest address. -/
def leNat : List Byte → Nat
  | [] => 0
  | b :: bs => b.toNat + 256 * leNat bs

/-- The `n` low bytes of a value, lowest address first. -/
def leBytes : Nat → Nat → List Byte
  | 0, _ => []
  | n + 1, v => BitVec.ofNat 8 v :: leBytes n (v / 256)

/-- The instruction at the head of a byte stream of a vector core, with the rest. -/
def decodeBytes (bs : List Byte) : Option (Instr × List Byte) :=
  if bs.length < 8 then none else (decode (leNat (bs.take 8))).map fun i => (i, bs.drop 8)

/-- The instruction that the decoder reads from a word laid out as spec/opcode_table.json numbers its bits: 32-bit rows
are helm words, laid out and read back through their four bytes; every other row is a 64-bit word. -/
def decodeTableWord (nbits w : Nat) : Option Instr :=
  if nbits = 0 then none
  else if nbits ≤ 32 then decodeHelm (leNat (leBytes 4 (w % 2 ^ nbits)))
  else decode (leNat (leBytes 8 (w % 2 ^ nbits)))

end Sys2Proof
end

