-- ==== Sys2Proof/Machine/Fp.lean ====
section
/-! DEFINITION. Floating-point values, rounding and flags (03 R53 to R57, R63 to R67), computed exactly: a finite value
is an integer mantissa times a power of two, and only `fpRound` loses bits. -/

namespace Sys2Proof.Machine

/-! ## Flags (R65, R108) -/

/-- Sticky flags, at their places in the lane status word. -/
abbrev Flags := BitVec 32

def flNX : Flags := 1
def flUF : Flags := 2
def flOF : Flags := 4
def flDZ : Flags := 8
def flNV : Flags := 16
def flSAT : Flags := 32

def flIf (b : Bool) (f : Flags) : Flags := if b then f else 0

/-! ## Formats (R53) -/

/-- What the codes with an all-ones exponent field are. -/
inductive TopKind where
  | ieee
  | e4m3
  | finite
  deriving DecidableEq, Repr

/-- A format: exponent width, mantissa width, bias, and its top exponent. -/
structure Fmt where
  eb : Nat
  mb : Nat
  bias : Nat
  top : TopKind
  deriving DecidableEq, Repr

def fmt64 : Fmt := { eb := 11, mb := 52, bias := 1023, top := .ieee }
def fmt32 : Fmt := { eb := 8, mb := 23, bias := 127, top := .ieee }
def fmt16 : Fmt := { eb := 5, mb := 10, bias := 15, top := .ieee }
def fmtB16 : Fmt := { eb := 8, mb := 7, bias := 127, top := .ieee }
def fmtE5m2 : Fmt := { eb := 5, mb := 2, bias := 15, top := .ieee }
def fmtE4m3 : Fmt := { eb := 4, mb := 3, bias := 7, top := .e4m3 }
def fmtE3m2 : Fmt := { eb := 3, mb := 2, bias := 3, top := .finite }
def fmtE2m3 : Fmt := { eb := 2, mb := 3, bias := 1, top := .finite }
def fmtE2m1 : Fmt := { eb := 2, mb := 1, bias := 1, top := .finite }

/-- Bits of a code. -/
def fmtWidth (f : Fmt) : Nat := 1 + f.eb + f.mb

/-- The largest finite magnitude, as a code without its sign (R53). -/
def fmtMax (f : Fmt) : Nat :=
  match f.top with
  | .ieee => (2 ^ f.eb - 1) * 2 ^ f.mb - 1
  | .e4m3 => 2 ^ (f.eb + f.mb) - 2
  | .finite => 2 ^ (f.eb + f.mb) - 1

/-- The code of infinity, where the format has one. -/
def fmtInf (f : Fmt) : Nat := (2 ^ f.eb - 1) * 2 ^ f.mb

/-- The default NaN (R54). -/
def fmtNaN (f : Fmt) : Nat :=
  match f.top with
  | .ieee => (2 ^ f.eb - 1) * 2 ^ f.mb + 2 ^ (f.mb - 1)
  | _ => 2 ^ (f.eb + f.mb) - 1

/-- The sign bit over a magnitude. -/
def fmtSigned (f : Fmt) (neg : Bool) (mag : Nat) : Nat := (if neg then 2 ^ (f.eb + f.mb) else 0) + mag

/-! ## Values -/

/-- A floating-point value: a NaN, an infinity, or (−1)^neg × m × 2^e. -/
inductive FVal where
  | nan (signalling : Bool)
  | inf (neg : Bool)
  | fin (neg : Bool) (m : Nat) (e : Int)
  deriving DecidableEq, Repr

/-- The value of a code (R53, R54). -/
def fpRead (f : Fmt) (code : Nat) : FVal :=
  let neg : Bool := code / 2 ^ (f.eb + f.mb) % 2 = 1
  let ex := code / 2 ^ f.mb % 2 ^ f.eb
  let m := code % 2 ^ f.mb
  let finite : FVal :=
    if ex = 0 then .fin neg m (1 - (f.bias : Int) - f.mb)
    else .fin neg (2 ^ f.mb + m) ((ex : Int) - f.bias - f.mb)
  match f.top with
  | .ieee =>
    if ex = 2 ^ f.eb - 1 then (if m = 0 then .inf neg else .nan (m < 2 ^ (f.mb - 1))) else finite
  | .e4m3 => if ex = 2 ^ f.eb - 1 ∧ m = 2 ^ f.mb - 1 then .nan false else finite
  | .finite => finite

/-- Reading an operand under a flush bit: a subnormal is a zero of its sign (R66). -/
def fpReadF (f : Fmt) (flush : Bool) (code : Nat) : FVal :=
  match fpRead f code with
  | .fin neg m e => if flush ∧ m < 2 ^ f.mb then .fin neg 0 e else .fin neg m e
  | v => v

def FVal.isNaN : FVal → Bool
  | .nan _ => true
  | _ => false

def FVal.isSNaN : FVal → Bool
  | .nan s => s
  | _ => false

def FVal.isZero : FVal → Bool
  | .fin _ m _ => m = 0
  | _ => false

def FVal.neg : FVal → Bool
  | .nan _ => false
  | .inf n => n
  | .fin n _ _ => n

def FVal.negate : FVal → FVal
  | .nan s => .nan s
  | .inf n => .inf !n
  | .fin n m e => .fin (!n) m e

/-! ## Rounding (R63 to R66) -/

/-- Whether the kept part rises by one: `up` says the rest is above half, `tie` that it is exactly half, `more` that it
is not zero. -/
def roundsUp (rm : Rm) (neg : Bool) (k : Nat) (above tie more : Bool) : Bool :=
  match rm with
  | .rne => above || (tie && k % 2 = 1)
  | .rna => above || tie
  | .rtz => false
  | .rdn => neg && more
  | .rup => !neg && more

/-- (m + δ) × 2^e on the grid of step 2^q, 0 < δ < 1 when `sticky`, else δ = 0: the multiple, and whether it is
inexact. -/
def roundAt (rm : Rm) (neg : Bool) (m : Nat) (e : Int) (sticky : Bool) (q : Int) : Nat × Bool :=
  if q ≤ e then (m * 2 ^ (e - q).toNat, sticky)
  else
    let sh := (q - e).toNat
    let k := m / 2 ^ sh
    let r := m % 2 ^ sh
    let half := 2 ^ (sh - 1)
    let more : Bool := r ≠ 0 || sticky
    let above : Bool := r > half || (r = half && sticky)
    let tie : Bool := r = half && !sticky
    (if roundsUp rm neg k above tie more then k + 1 else k, more)

/-- What an overflow delivers (R64): the magnitude's code. `sat` matters for E4M3 and E5M2 only. -/
def overflowMag (f : Fmt) (rm : Rm) (sat neg : Bool) : Nat :=
  let toInf : Bool := match rm with
    | .rne | .rna => true
    | .rtz => false
    | .rdn => neg
    | .rup => !neg
  if !toInf then fmtMax f
  else match f.top with
    | .ieee => if sat then fmtMax f else fmtInf f
    | .e4m3 => if sat then fmtMax f else fmtNaN f
    | .finite => fmtMax f

/-- The code and flags of a nonzero exact value (m + δ) × 2^e (R63 to R66). -/
def fpRound (f : Fmt) (rm : Rm) (flush sat neg : Bool) (m : Nat) (e : Int) (sticky : Bool) : Nat × Flags :=
  let emin : Int := 1 - f.bias
  let lg : Int := Nat.log2 m + e
  let qu := lg - f.mb
  let ku := (roundAt rm neg m e sticky qu).1
  let tiny : Bool := (if ku < 2 ^ (f.mb + 1) then lg else lg + 1) < emin
  let qmin := emin - f.mb
  let q := if qu < qmin then qmin else qu
  let (k, inexact) := roundAt rm neg m e sticky q
  if tiny && flush then (fmtSigned f neg 0, flUF ||| flNX)
  else
    let mag := ((q + f.mb + f.bias - 1).toNat) * 2 ^ f.mb + k
    if mag > fmtMax f then
      let o := overflowMag f rm sat neg
      (if f.top = .e4m3 ∧ o = fmtNaN f then o else fmtSigned f neg o, flOF ||| flNX)
    else (fmtSigned f neg mag, flIf inexact flNX ||| flIf (tiny && inexact) flUF)

/-- The code and flags of an exact value, zeros included: a zero keeps the sign `neg`. -/
def fpRoundZ (f : Fmt) (rm : Rm) (flush sat neg : Bool) (m : Nat) (e : Int) : Nat × Flags :=
  if m = 0 then (fmtSigned f neg 0, 0) else fpRound f rm flush sat neg m e false

/-! ## Exact arithmetic -/

/-- An integer times a power of two, at the exponent `e' ≤ e`. -/
def scaleTo (neg : Bool) (m : Nat) (e e' : Int) : Int :=
  let v : Int := (m * 2 ^ (e - e').toNat : Nat)
  if neg then -v else v

/-- A signed exact result, rounded; an exact zero takes the sign `zneg`. -/
def fpDeliver (f : Fmt) (rm : Rm) (flush sat : Bool) (v : Int) (e : Int) (zneg : Bool) : Nat × Flags :=
  if v = 0 then (fmtSigned f zneg 0, 0) else fpRound f rm flush sat (v < 0) v.natAbs e false

/-- The sign of an exact zero sum of operands of signs `n1` and `n2` (R115). -/
def zeroSumNeg (rm : Rm) (bothZero : Bool) (n1 n2 : Bool) : Bool :=
  if bothZero && n1 = n2 then n1 else rm = .rdn

/-- a + b (R115). -/
def fpAddV (f : Fmt) (rm : Rm) (flush : Bool) (a b : FVal) : Nat × Flags :=
  let nv := flIf (a.isSNaN || b.isSNaN) flNV
  match a, b with
  | .nan _, _ | _, .nan _ => (fmtNaN f, nv)
  | .inf n, .inf n' => if n = n' then (fmtSigned f n (fmtInf f), 0) else (fmtNaN f, flNV)
  | .inf n, _ => (fmtSigned f n (fmtInf f), 0)
  | _, .inf n => (fmtSigned f n (fmtInf f), 0)
  | .fin n m e, .fin n' m' e' =>
    let q := min e e'
    fpDeliver f rm flush false (scaleTo n m e q + scaleTo n' m' e' q) q (zeroSumNeg rm (m = 0 && m' = 0) n n')

/-- a × b (R115). -/
def fpMulV (f : Fmt) (rm : Rm) (flush : Bool) (a b : FVal) : Nat × Flags :=
  let nv := flIf (a.isSNaN || b.isSNaN) flNV
  let neg := a.neg != b.neg
  match a, b with
  | .nan _, _ | _, .nan _ => (fmtNaN f, nv)
  | .inf _, .inf _ => (fmtSigned f neg (fmtInf f), 0)
  | .inf _, v | v, .inf _ => if v.isZero then (fmtNaN f, flNV) else (fmtSigned f neg (fmtInf f), 0)
  | .fin _ m e, .fin _ m' e' => fpRoundZ f rm flush false neg (m * m') (e + e')

/-- a × b + c with one rounding (R115). -/
def fpFmaV (f : Fmt) (rm : Rm) (flush : Bool) (a b c : FVal) : Nat × Flags :=
  let snan := a.isSNaN || b.isSNaN || c.isSNaN
  let neg := a.neg != b.neg
  let zeroInf : Bool := match a, b with
    | .inf _, v | v, .inf _ => v.isZero
    | _, _ => false
  if zeroInf then (fmtNaN f, flNV)
  else match a, b, c with
    | .nan _, _, _ | _, .nan _, _ | _, _, .nan _ => (fmtNaN f, flIf snan flNV)
    | .fin _ m e, .fin _ m' e', .fin n m'' e'' =>
      let q := min (e + e') e''
      fpDeliver f rm flush false (scaleTo neg (m * m') (e + e') q + scaleTo n m'' e'' q) q
        (zeroSumNeg rm (m * m' = 0 && m'' = 0) neg n)
    | .fin .., .fin .., .inf n => (fmtSigned f n (fmtInf f), 0)
    | _, _, .inf n => if n = neg then (fmtSigned f n (fmtInf f), 0) else (fmtNaN f, flNV)
    | _, _, .fin .. => (fmtSigned f neg (fmtInf f), 0)

/-- −1, 0 or 1 as a < b, a = b, a > b; −0 equals +0. -/
def fpCompare (a b : FVal) : Int :=
  match a, b with
  | .inf n, .inf n' => if n = n' then 0 else if n then -1 else 1
  | .inf n, _ => if n then -1 else 1
  | _, .inf n => if n then 1 else -1
  | .fin n m e, .fin n' m' e' =>
    let q := min e e'
    let x := scaleTo n m e q
    let y := scaleTo n' m' e' q
    if x < y then -1 else if x = y then 0 else 1
  | _, _ => 0

/-- The code of a value of the format itself; a NaN gives the default NaN. -/
def fpCode (f : Fmt) : FVal → Nat
  | .nan _ => fmtNaN f
  | .inf n => fmtSigned f n (fmtInf f)
  | .fin n m e => (fpRoundZ f .rne false false n m e).1

/-- FMIN and FMAX (R116). -/
def fpMinMaxV (f : Fmt) (max : Bool) (a b : FVal) : Nat × Flags :=
  let nv := flIf (a.isSNaN || b.isSNaN) flNV
  if a.isNaN && b.isNaN then (fmtNaN f, nv)
  else if a.isNaN then (fpCode f b, nv)
  else if b.isNaN then (fpCode f a, nv)
  else
    let c := fpCompare a b
    let less : Bool := c < 0 || (c = 0 && a.neg && !b.neg)
    (fpCode f (if less != max then a else b), 0)

/-- The magnitude of RoundInt (R73), and whether it is inexact. -/
def fpToIntMag (rm : Rm) (neg : Bool) (m : Nat) (e : Int) : Nat × Bool := roundAt rm neg m e false 0

/-- FRND (R117). -/
def fpRndV (f : Fmt) (rm : Rm) (a : FVal) : Nat × Flags :=
  match a with
  | .nan s => (fmtNaN f, flIf s flNV)
  | .inf n => (fmtSigned f n (fmtInf f), 0)
  | .fin n m e => ((fpRoundZ f .rne false false n (fpToIntMag rm n m e).1 0).1, 0)

/-- FFRAC (R117). -/
def fpFracV (f : Fmt) (a : FVal) : Nat × Flags :=
  match a with
  | .nan s => (fmtNaN f, flIf s flNV)
  | .inf _ => (fmtNaN f, flNV)
  | .fin n m e =>
    if e ≥ 0 then (fmtSigned f n 0, 0)
    else ((fpRoundZ f .rne false false n (m % 2 ^ (-e).toNat) e).1, 0)

/-! ## The forms on codes -/

def fpAdd (f : Fmt) (rm : Rm) (fz : Bool) (a b : Nat) : Nat × Flags :=
  fpAddV f rm fz (fpReadF f fz a) (fpReadF f fz b)
def fpSub (f : Fmt) (rm : Rm) (fz : Bool) (a b : Nat) : Nat × Flags :=
  fpAddV f rm fz (fpReadF f fz a) (fpReadF f fz b).negate
def fpMul (f : Fmt) (rm : Rm) (fz : Bool) (a b : Nat) : Nat × Flags :=
  fpMulV f rm fz (fpReadF f fz a) (fpReadF f fz b)
def fpFma (f : Fmt) (rm : Rm) (fz : Bool) (a b c : Nat) : Nat × Flags :=
  fpFmaV f rm fz (fpReadF f fz a) (fpReadF f fz b) (fpReadF f fz c)
def fpMin (f : Fmt) (fz : Bool) (a b : Nat) : Nat × Flags :=
  fpMinMaxV f false (fpReadF f fz a) (fpReadF f fz b)
def fpMax (f : Fmt) (fz : Bool) (a b : Nat) : Nat × Flags :=
  fpMinMaxV f true (fpReadF f fz a) (fpReadF f fz b)
def fpRnd (f : Fmt) (rm : Rm) (fz : Bool) (a : Nat) : Nat × Flags := fpRndV f rm (fpReadF f fz a)
def fpFrac (f : Fmt) (fz : Bool) (a : Nat) : Nat × Flags := fpFracV f (fpReadF f fz a)

/-- The condition of FCMP and DCMP, and its NV flag (R102). -/
def fpCond (f : Fmt) (fz : Bool) (cc : Fcc) (a b : Nat) : Bool × Flags :=
  let x := fpReadF f fz a
  let y := fpReadF f fz b
  let un := x.isNaN || y.isNaN
  let c := fpCompare x y
  let r : Bool := match cc with
    | .eq => !un && c = 0
    | .ne => un || c ≠ 0
    | .lt => !un && c < 0
    | .le => !un && c ≤ 0
    | .gt => !un && c > 0
    | .ge => !un && c ≥ 0
    | .un => un
    | .ord => !un
    | .ult => un || c < 0
    | .ule => un || c ≤ 0
    | .ugt => un || c > 0
    | .uge => un || c ≥ 0
    | .ueq => un || c = 0
    | .one => !un && c ≠ 0
  let quietNv : Bool := match cc with
    | .lt | .le | .gt | .ge => un
    | _ => false
  (r, flIf (x.isSNaN || y.isSNaN || quietNv) flNV)

/-! ## Conversions (R67) -/

/-- Float to float. `fzS` and `fzD` flush the source and the destination; `sat` chooses for E4M3 and E5M2. -/
def cvtFF (fs fd : Fmt) (rm : Rm) (fzS fzD sat : Bool) (a : Nat) : Nat × Flags :=
  match fpReadF fs fzS a with
  | .nan s => (fmtNaN fd, flIf s flNV)
  | .inf n =>
    match fd.top with
    | .ieee => (fmtSigned fd n (fmtInf fd), 0)
    | _ => if sat then (fmtSigned fd n (fmtMax fd), 0) else (fmtNaN fd, flNV)
  | .fin n m e => fpRoundZ fd rm fzD sat n m e

/-- Float to an integer of range [lo, hi] (CvtInt). -/
def cvtFI (fs : Fmt) (rm : Rm) (fz : Bool) (lo hi : Int) (a : Nat) : Int × Flags :=
  match fpReadF fs fz a with
  | .nan _ => (0, flNV)
  | .inf n => (if n then lo else hi, flNV)
  | .fin n m e =>
    let (k, inexact) := fpToIntMag rm n m e
    let v : Int := if n then -(k : Int) else k
    if v < lo then (lo, flNV) else if v > hi then (hi, flNV) else (v, flIf inexact flNX)

/-- Integer to float. -/
def cvtIF (fd : Fmt) (rm : Rm) (fz sat : Bool) (v : Int) : Nat × Flags :=
  fpRoundZ fd rm fz sat (v < 0) v.natAbs 0

/-- The E4M3 code of a value of a 6-bit or 4-bit format (R62). -/
def expandE4m3 (fs : Fmt) (a : Nat) : Nat := fpCode fmtE4m3 (fpRead fs a)

end Sys2Proof.Machine
end

