-- ==== Sys2Proof/Machine/Special.lean ====
section
/-! DEFINITION. The special functions (05 R122). FRCP, FRSQ and FSQRT are exact integer computations. The others are
computed in fixed point with 512 fractional bits; the result is delivered when both ends of the error interval round
alike (log 14: DESIGN CHOICE, safe). -/

namespace Sys2Proof.Machine

/-- Fractional bits of the fixed-point computation. -/
def spP : Nat := 512
/-- One, in fixed point. -/
def spOne : Nat := 2 ^ 512
/-- A bound on the error of every fixed-point result below, in units of 2^-512. (log 14: DESIGN CHOICE, safe) -/
def spErr : Nat := 2 ^ 40

/-- ⌊π × 2^640⌋. -/
def spPi640 : Nat :=
  0x3243f6a8885a308d313198a2e03707344a4093822299f31d0082efa98ec4e6c89452821e638d01377be5466cf34e90c6cc0ac29b7c97c50dd3f84d5b5b54709179216d5d98979fb1bd1310ba698dfb5ac
/-- ⌊ln 2 × 2^512⌋. -/
def spLn2 : Nat :=
  0xb17217f7d1cf79abc9e3b39803f2f6af40f343267298b62d8a0d175b8baafa2be7b876206debac98559552fb4afa1b10ed2eae35c138214427573b291169b825
/-- ⌊2 ÷ √π × 2^512⌋. -/
def spTwoOverSqrtPi : Nat :=
  0x120dd750429b6d11ae3a914fed7fd8688281341d7587cea2e7342b06199cc416180eb39f0b24e1e2281806c12d98f35d77a3e9ddc91c394f0e9eedf0efffd84a2

/-- The integer square root, bit by bit: `k` bits of the root remain to be tried. -/
def isqrtBits (n : Nat) : Nat → Nat → Nat
  | 0, r => r
  | k + 1, r => isqrtBits n k (if (r + 2 ^ k) * (r + 2 ^ k) ≤ n then r + 2 ^ k else r)

def isqrt (n : Nat) : Nat := isqrtBits n (Nat.log2 n / 2 + 1) 0

/-- Σ of the terms tⱼ, tⱼ₊₁ = tⱼ × z ÷ (d j) in fixed point, with alternating signs when `alt`: the sum of the even
terms and the sum of the odd terms. -/
def spSeries (z : Nat) (d : Nat → Nat) : Nat → Nat → Nat → Nat × Nat → Nat × Nat
  | 0, _, _, acc => acc
  | fuel + 1, j, t, (ev, od) =>
    let acc := if j % 2 = 0 then (ev + t, od) else (ev, od + t)
    spSeries z d fuel (j + 1) (t * z / spOne / d j) acc

/-- e^r for fixed-point 0 ≤ r < 1. -/
def spExpSmall (r : Nat) : Nat :=
  let (e, o) := spSeries r (fun j => j + 1) 110 0 spOne (0, 0)
  e + o

/-- e^y for y = v ÷ 2^512, as (M, n) with e^y = M × 2^(n − 512), 1 ≤ M ÷ 2^512 < 2. -/
def spExp (v : Int) : Nat × Int :=
  let n := Int.fdiv v spLn2
  (spExpSmall (v - n * spLn2).toNat, n)

/-- sin r and cos r for fixed-point 0 ≤ r < 2. -/
def spSinCos (r : Nat) : Nat × Nat :=
  let z := r * r / spOne
  let (se, so) := spSeries z (fun j => (2 * j + 2) * (2 * j + 3)) 70 0 r (0, 0)
  let (ce, co) := spSeries z (fun j => (2 * j + 1) * (2 * j + 2)) 70 0 spOne (0, 0)
  (se - so, ce - co)

/-- ln t for fixed-point 1 ≤ t < 2: twice the artanh series of (t − 1) ÷ (t + 1). -/
def spLnTerms (z2 : Nat) : Nat → Nat → Nat → Nat → Nat
  | 0, _, _, acc => acc
  | fuel + 1, j, p, acc => spLnTerms z2 fuel (j + 1) (p * z2 / spOne) (acc + p / (2 * j + 1))

def spLn (t : Nat) : Nat :=
  let z := (t - spOne) * spOne / (t + spOne)
  2 * spLnTerms (z * z / spOne) 170 0 z 0

/-- erf's series: Σ (−1)^k x^(2k+1) ÷ (k! (2k+1)), even and odd terms apart. -/
def spErfTerms (z : Nat) : Nat → Nat → Nat → Nat × Nat → Nat × Nat
  | 0, _, _, acc => acc
  | fuel + 1, k, p, (ev, od) =>
    let t := p / (2 * k + 1)
    spErfTerms z fuel (k + 1) (p * z / spOne / (k + 1)) (if k % 2 = 0 then (ev + t, od) else (ev, od + t))

/-- m × 2^e in fixed point, rounded down. (log 14: DESIGN CHOICE, safe) -/
def spFix (m : Nat) (e : Int) : Nat :=
  if e + 512 ≥ 0 then m * 2 ^ (e + 512).toNat else m / 2 ^ (-(e + 512)).toNat

/-- Delivers a value known only to lie between v − spErr and v + spErr units of 2^e, and to be irrational. `fn` and
`arg` name the computation, where the precision does not decide between the two roundings. (log 14: DESIGN CHOICE,
safe) -/
def spDeliver (fn : Nat) (rm : Rm) (fz neg : Bool) (v : Nat) (e : Int) (arg : Nat) : Nat × Flags :=
  let lo := fpRound fmt32 rm fz false neg (v - spErr) e true
  let hi := fpRound fmt32 rm fz false neg (v + spErr) e true
  if lo = hi ∨ Config.hardToRound fn rm.code.val arg then lo else hi

/-- A value just below 1, at least 1 − 2^-50. -/
def spJustBelowOne (rm : Rm) (fz neg : Bool) : Nat × Flags :=
  fpRound fmt32 rm fz false neg (2 ^ 50 - 1) (-50) true

def sp1 : Nat := 0x3F800000

/-- FRCP: 1 ÷ x. -/
def fRcp (rm : Rm) (fz : Bool) (a : Nat) : Nat × Flags :=
  match fpReadF fmt32 fz a with
  | .nan s => (fmtNaN fmt32, flIf s flNV)
  | .inf n => (fmtSigned fmt32 n 0, 0)
  | .fin n m e =>
    if m = 0 then (fmtSigned fmt32 n (fmtInf fmt32), flDZ)
    else fpRound fmt32 rm fz false n (2 ^ 80 / m) (-80 - e) (2 ^ 80 % m ≠ 0)

/-- √(m × 2^e) as (root, exponent, inexact), with more than 60 bits. -/
def spRoot (m : Nat) (e : Int) : Nat × Int × Bool :=
  let (m', e') := if e % 2 = 0 then (m, e) else (2 * m, e - 1)
  let n := m' * 2 ^ 120
  let r := isqrt n
  (r, e' / 2 - 60, r * r ≠ n)

/-- FRSQ: 1 ÷ √x. -/
def fRsq (rm : Rm) (fz : Bool) (a : Nat) : Nat × Flags :=
  match fpReadF fmt32 fz a with
  | .nan s => (fmtNaN fmt32, flIf s flNV)
  | .inf n => if n then (fmtNaN fmt32, flNV) else (0, 0)
  | .fin n m e =>
    if m = 0 then (fmtSigned fmt32 n (fmtInf fmt32), flDZ)
    else if n then (fmtNaN fmt32, flNV)
    else
      let (m', e') := if e % 2 = 0 then (m, e) else (2 * m, e - 1)
      let y := 2 ^ 200 / m'
      let r := isqrt y
      fpRound fmt32 rm fz false false r (-100 - e' / 2) (r * r ≠ y || 2 ^ 200 % m' ≠ 0)

/-- FSQRT: √x. -/
def fSqrt (rm : Rm) (fz : Bool) (a : Nat) : Nat × Flags :=
  match fpReadF fmt32 fz a with
  | .nan s => (fmtNaN fmt32, flIf s flNV)
  | .inf n => if n then (fmtNaN fmt32, flNV) else (fmtInf fmt32, 0)
  | .fin n m e =>
    if m = 0 then (fmtSigned fmt32 n 0, 0)
    else if n then (fmtNaN fmt32, flNV)
    else
      let (r, q, inexact) := spRoot m e
      fpRound fmt32 rm fz false false r q inexact

/-- FEXP2: 2^x. -/
def fExp2 (rm : Rm) (fz : Bool) (a : Nat) : Nat × Flags :=
  match fpReadF fmt32 fz a with
  | .nan s => (fmtNaN fmt32, flIf s flNV)
  | .inf n => (if n then 0 else fmtInf fmt32, 0)
  | .fin n m e =>
    if m = 0 then (sp1, 0)
    else if e ≥ 0 ∨ m % 2 ^ (-e).toNat = 0 then
      let k : Int := scaleTo n (m / 2 ^ (-e).toNat) (max e 0) 0
      fpRound fmt32 rm fz false false 1 (max (-1000) (min 1000 k)) false
    else
      -- x = k + f ÷ 2^512 with 0 < f < 1
      let x : Int := if n then -(spFix m e : Int) else spFix m e
      let k := Int.fdiv x spOne
      let f := (x - k * spOne).toNat
      spDeliver 3 rm fz false (spExpSmall (f * spLn2 / spOne)) (max (-1000) (min 1000 k) - 512) a

/-- FLOG2: log2 x. -/
def fLog2 (rm : Rm) (fz : Bool) (a : Nat) : Nat × Flags :=
  match fpReadF fmt32 fz a with
  | .nan s => (fmtNaN fmt32, flIf s flNV)
  | .inf n => if n then (fmtNaN fmt32, flNV) else (fmtInf fmt32, 0)
  | .fin n m e =>
    if m = 0 then (fmtSigned fmt32 true (fmtInf fmt32), flDZ)
    else if n then (fmtNaN fmt32, flNV)
    else
      let lg := Nat.log2 m
      let k : Int := lg + e
      if m = 2 ^ lg then fpRoundZ fmt32 rm fz false (k < 0) k.natAbs 0
      else
        let t := m * 2 ^ (512 - lg)
        let v : Int := k * spOne + (spLn t * spOne / spLn2 : Nat)
        spDeliver 4 rm fz (v < 0) v.natAbs (-512) a

/-- sin and cos of |x|: the quotient of x by π ÷ 2, and sin and cos of the rest. -/
def spReduce (m : Nat) (e : Int) : Nat × Nat × Nat :=
  -- x and π ÷ 2 in units of 2^-641; the rest is then cut to 512 fractional bits
  let x := if e + 641 ≥ 0 then m * 2 ^ (e + 641).toNat else m / 2 ^ (-(e + 641)).toNat
  let q := x / spPi640
  let r := (x - q * spPi640) / 2 ^ 129
  (q, spSinCos r)

/-- FSIN, in radians. -/
def fSin (rm : Rm) (fz : Bool) (a : Nat) : Nat × Flags :=
  match fpReadF fmt32 fz a with
  | .nan s => (fmtNaN fmt32, flIf s flNV)
  | .inf _ => (fmtNaN fmt32, flNV)
  | .fin n m e =>
    if m = 0 then (fmtSigned fmt32 n 0, 0)
    else
      let (q, s, c) := spReduce m e
      spDeliver 5 rm fz (n != (q / 2 % 2 = 1)) (if q % 2 = 0 then s else c) (-512) a

/-- FCOS, in radians. -/
def fCos (rm : Rm) (fz : Bool) (a : Nat) : Nat × Flags :=
  match fpReadF fmt32 fz a with
  | .nan s => (fmtNaN fmt32, flIf s flNV)
  | .inf _ => (fmtNaN fmt32, flNV)
  | .fin _ m e =>
    if m = 0 then (sp1, 0)
    else
      let (q, s, c) := spReduce m e
      spDeliver 6 rm fz ((q + 1) / 2 % 2 = 1) (if q % 2 = 0 then c else s) (-512) a

/-- FTANH: (e^2x − 1) ÷ (e^2x + 1). -/
def fTanh (rm : Rm) (fz : Bool) (a : Nat) : Nat × Flags :=
  match fpReadF fmt32 fz a with
  | .nan s => (fmtNaN fmt32, flIf s flNV)
  | .inf n => (fmtSigned fmt32 n sp1, 0)
  | .fin n m e =>
    if m = 0 then (fmtSigned fmt32 n 0, 0)
    else
      let x := spFix m e
      if x ≥ 20 * spOne then spJustBelowOne rm fz n
      else
        let (mm, k) := spExp (2 * (x : Int))
        let ex := mm * 2 ^ k.toNat
        spDeliver 7 rm fz n ((ex - spOne) * spOne / (ex + spOne)) (-512) a

/-- FSGM: 1 ÷ (1 + e^−x). -/
def fSgm (rm : Rm) (fz : Bool) (a : Nat) : Nat × Flags :=
  match fpReadF fmt32 fz a with
  | .nan s => (fmtNaN fmt32, flIf s flNV)
  | .inf n => (if n then 0 else sp1, 0)
  | .fin n m e =>
    if m = 0 then (0x3F000000, 0)
    else
      let x := spFix m e
      if !n && x ≥ 40 * spOne then spJustBelowOne rm fz false
      else if n && x ≥ 200 * spOne then fpRound fmt32 rm fz false false 1 (-280) true
      else
        -- e^−x = M × 2^(k − 512)
        let (mm, k) := spExp (if n then (x : Int) else -(x : Int))
        if k ≥ 0 then spDeliver 8 rm fz false (spOne * 2 ^ 812 / (spOne + mm * 2 ^ k.toNat)) (-812) a
        else spDeliver 8 rm fz false (spOne * spOne / (spOne + mm / 2 ^ (-k).toNat)) (-512) a

/-- FERF. -/
def fErf (rm : Rm) (fz : Bool) (a : Nat) : Nat × Flags :=
  match fpReadF fmt32 fz a with
  | .nan s => (fmtNaN fmt32, flIf s flNV)
  | .inf n => (fmtSigned fmt32 n sp1, 0)
  | .fin n m e =>
    if m = 0 then (fmtSigned fmt32 n 0, 0)
    else
      let x := spFix m e
      if x ≥ 6 * spOne then spJustBelowOne rm fz n
      else
        let (ev, od) := spErfTerms (x * x / spOne) 320 0 x (0, 0)
        let v := (ev - od) * spTwoOverSqrtPi / spOne
        -- the error grows with the largest term, below e^36 < 2^52
        let lo := fpRound fmt32 rm fz false n (v - 2 ^ 70) (-512) true
        let hi := fpRound fmt32 rm fz false n (v + 2 ^ 70) (-512) true
        if lo = hi ∨ Config.hardToRound 9 rm.code.val a then lo else hi

end Sys2Proof.Machine
end

