-- ==== Sys2Proof/Machine/Flags.lean ====
section
/-! DEFINITION. Integer arithmetic with its flag: Signed, Unsigned, Wrap and Sat of the helper glossary (03 R52, R73),
and the integer, packed, hash and string computations of one lane (05 R110 to R114, R123 to R129, R71 to R74). Every
operand arrives as a 64-bit value, a 32-bit one with zeros above; every result leaves with the flags it sets. -/

namespace Sys2Proof.Machine

/-! ## The helpers (R73) -/

/-- Unsigned(v, n). -/
def uval (n v : Nat) : Nat := v % 2 ^ n

/-- Signed(v, n). -/
def sval (n v : Nat) : Int := if v % 2 ^ n < 2 ^ (n - 1) then (v % 2 ^ n : Nat) else (v % 2 ^ n : Nat) - 2 ^ n

/-- The value of a pattern under a signedness. -/
def ival (signed : Bool) (n v : Nat) : Int := if signed then sval n v else uval n v

/-- Wrap(x, n). -/
def wrapI (n : Nat) (x : Int) : Nat := (x % 2 ^ n).toNat

def minOf (signed : Bool) (n : Nat) : Int := if signed then -2 ^ (n - 1) else 0
def maxOf (signed : Bool) (n : Nat) : Int := if signed then 2 ^ (n - 1) - 1 else 2 ^ n - 1

/-- Sat(x, t), with the SAT flag when it clamps. -/
def satI (signed : Bool) (n : Nat) (x : Int) : Int × Flags :=
  if x < minOf signed n then (minOf signed n, flSAT)
  else if x > maxOf signed n then (maxOf signed n, flSAT)
  else (x, 0)

/-- The narrowing of R52: Sat with SAT, Wrap without; the pattern and the flags. -/
def narrowI (sat signed : Bool) (n : Nat) (x : Int) : Nat × Flags :=
  if sat then (wrapI n (satI signed n x).1, (satI signed n x).2) else (wrapI n x, 0)

/-- ShrRound(x, n) (R72). -/
def shrRound (x : Int) (n : Nat) : Int := if n = 0 then x else Int.fdiv (x + 2 ^ (n - 1)) (2 ^ n)

/-! ## Types -/

def IntTy.signed : IntTy → Bool
  | .i32 | .i64 => true
  | .n32 | .n64 => false

def IntTy.width : IntTy → Nat
  | .i32 | .n32 => 32
  | .i64 | .n64 => 64

def Ty32.signed : Ty32 → Bool
  | .i32 => true
  | .n32 => false

def Ty16.signed : Ty16 → Bool
  | .i16 => true
  | .n16 => false

def Ty8.signed : Ty8 → Bool
  | .i8 => true
  | .n8 => false

def SignTy.width : SignTy → Nat
  | .i32 => 32
  | .i64 => 64

def NarrowTy.signed : NarrowTy → Bool
  | .i32 | .i16 | .i8 => true
  | .n32 | .n16 | .n8 => false

def NarrowTy.width : NarrowTy → Nat
  | .i32 | .n32 => 32
  | .i16 | .n16 => 16
  | .i8 | .n8 => 8

/-! ## Integer forms (R110, R111) -/

/-- The value of an operand under a type. -/
def tval (t : IntTy) (v : Nat) : Int := ival (IntTy.signed t) (IntTy.width t) v

/-- A result of type `t`. -/
def tnarrow (t : IntTy) (sat : Bool) (x : Int) : Nat × Flags := narrowI sat (IntTy.signed t) (IntTy.width t) x

def aluAdd (t : IntTy) (sat : Bool) (a b : Nat) : Nat × Flags := tnarrow t sat (tval t a + tval t b)
def aluSub (t : IntTy) (sat : Bool) (a b : Nat) : Nat × Flags := tnarrow t sat (tval t a - tval t b)
def aluMul (t : IntTy) (sat : Bool) (a b : Nat) : Nat × Flags := tnarrow t sat (tval t a * tval t b)
def aluMulH (t : IntTy) (a b : Nat) : Nat := wrapI (IntTy.width t) (Int.fdiv (tval t a * tval t b) (2 ^ IntTy.width t))
def aluMad (t : IntTy) (sat : Bool) (a b c : Nat) : Nat × Flags := tnarrow t sat (tval t a * tval t b + tval t c)
def aluMadW (t : Ty32) (a b c : Nat) : Nat :=
  wrapI 64 (ival (Ty32.signed t) 32 a * ival (Ty32.signed t) 32 b + ival (Ty32.signed t) 64 c)
def aluNeg (t : SignTy) (sat : Bool) (a : Nat) : Nat × Flags :=
  narrowI sat true (SignTy.width t) (-(sval (SignTy.width t) a))
def aluAbs (t : SignTy) (sat : Bool) (a : Nat) : Nat × Flags :=
  narrowI sat true (SignTy.width t) ((sval (SignTy.width t) a).natAbs)
def aluMin (t : IntTy) (a b : Nat) : Nat := wrapI (IntTy.width t) (min (tval t a) (tval t b))
def aluMax (t : IntTy) (a b : Nat) : Nat := wrapI (IntTy.width t) (max (tval t a) (tval t b))
def aluClamp (t : IntTy) (a b c : Nat) : Nat := wrapI (IntTy.width t) (min (max (tval t a) (tval t b)) (tval t c))
def aluLea (t : Ty32) (a b sh : Nat) : Nat := wrapI 64 ((uval 64 a : Nat) + ival (Ty32.signed t) 32 b * 2 ^ sh)

/-- IADDC: the sum and the carry out (R111). -/
def aluAddC (t : IntTy) (a b c : Nat) : Nat × Bool :=
  let w := IntTy.width t
  let u := uval w a + uval w b + c % 2
  (u % 2 ^ w, u ≥ 2 ^ w)

/-! ## Logic and bit forms (R112 to R114) -/

def aluAnd (w a b : Nat) : Nat := Nat.land (uval w a) (uval w b)
def aluOr (w a b : Nat) : Nat := Nat.lor (uval w a) (uval w b)
def aluXor (w a b : Nat) : Nat := Nat.xor (uval w a) (uval w b)
def aluAndn (w a b : Nat) : Nat := Nat.land (uval w a) (2 ^ w - 1 - uval w b)
def aluShl (w a b : Nat) : Nat := uval w a * 2 ^ (b % w) % 2 ^ w
def aluShr (w a b : Nat) : Nat := uval w a / 2 ^ (b % w)
def aluSar (w a b : Nat) : Nat := wrapI w (Int.fdiv (sval w a) (2 ^ (b % w)))
def aluRol (w a b : Nat) : Nat := uval w a * 2 ^ (b % w) % 2 ^ w + uval w a / 2 ^ (w - b % w)
def aluFunnel (a b c : Nat) : Nat := (uval 32 a * 2 ^ 32 + uval 32 b) / 2 ^ (c % 32) % 2 ^ 32

/-- The number of 1 bits among the low `w`. -/
def popCount : Nat → Nat → Nat
  | 0, _ => 0
  | w + 1, a => a % 2 + popCount w (a / 2)

/-- Trailing zeros; `w` when there is no 1 bit. -/
def ctzCount : Nat → Nat → Nat
  | 0, _ => 0
  | w + 1, a => if a % 2 = 1 then 0 else 1 + ctzCount w (a / 2)

/-- The low `w` bits in reverse order. -/
def bitReverse : Nat → Nat → Nat
  | 0, _ => 0
  | w + 1, a => a % 2 * 2 ^ w + bitReverse w (a / 2)

def aluClz (w a : Nat) : Nat := ctzCount w (bitReverse w a)

def aluBfx (t : Ty32) (a b c : Nat) : Nat :=
  let p := b % 256
  let n := c % 256
  if p ≥ 32 ∨ n = 0 then 0
  else
    let k := min n (32 - p)
    wrapI 32 (ival (Ty32.signed t) k (uval 32 a / 2 ^ p))

def aluBfi (a b c : Nat) : Nat :=
  let p := c % 256
  let n := c / 256 % 256
  let b := uval 32 b
  if p ≥ 32 ∨ n = 0 then b
  else
    let k := min n (32 - p)
    b / 2 ^ (p + k) * 2 ^ (p + k) + a % 2 ^ k * 2 ^ p + b % 2 ^ p

/-- Byte `i` of a value. -/
def byteOf (a i : Nat) : Nat := a / 2 ^ (8 * i) % 256

/-- Four bytes as a word. -/
def ofBytes4 (f : Nat → Nat) : Nat := f 0 + f 1 * 2 ^ 8 + f 2 * 2 ^ 16 + f 3 * 2 ^ 24

def aluBperm (a b c : Nat) : Nat :=
  let y (k : Nat) : Nat := if k < 4 then byteOf a k else byteOf b (k - 4)
  ofBytes4 fun i =>
    let s := c / 2 ^ (4 * i) % 16
    if s ≥ 8 then (if y (s % 8) ≥ 128 then 0xFF else 0) else y s

/-! ## Packed integers (R123 to R126, R71, R72) -/

/-- 16-bit element `i`. -/
def half16 (a i : Nat) : Nat := a / 2 ^ (16 * i) % 2 ^ 16

def aluDp2 (t : Ty16) (sat : Bool) (a b c : Nat) : Nat × Flags :=
  let x (v i : Nat) : Int := ival (Ty16.signed t) 16 (half16 v i)
  narrowI sat true 32 (sval 32 c + x a 0 * x b 0 + x a 1 * x b 1)

def aluDp4 (t : Ty8) (sat : Bool) (a b c : Nat) : Nat × Flags :=
  let x (v i : Nat) : Int := ival (Ty8.signed t) 8 (byteOf v i)
  narrowI sat true 32 (sval 32 c + x a 0 * x b 0 + x a 1 * x b 1 + x a 2 * x b 2 + x a 3 * x b 3)

/-- An operation on two 16-bit elements. -/
def elem2 (f : Nat → Nat × Flags) : Nat × Flags :=
  let r0 := f 0
  let r1 := f 1
  (r0.1 + r1.1 * 2 ^ 16, r0.2 ||| r1.2)

def aluPadd2 (t : Ty16) (sat : Bool) (a b : Nat) : Nat × Flags :=
  elem2 fun i => narrowI sat (Ty16.signed t) 16 (ival (Ty16.signed t) 16 (half16 a i) + ival (Ty16.signed t) 16 (half16 b i))
def aluPsub2 (t : Ty16) (sat : Bool) (a b : Nat) : Nat × Flags :=
  elem2 fun i => narrowI sat (Ty16.signed t) 16 (ival (Ty16.signed t) 16 (half16 a i) - ival (Ty16.signed t) 16 (half16 b i))
def aluPmax2 (t : Ty16) (a b : Nat) : Nat :=
  (elem2 fun i =>
    (wrapI 16 (max (ival (Ty16.signed t) 16 (half16 a i)) (ival (Ty16.signed t) 16 (half16 b i))), 0)).1
def aluPmin2 (t : Ty16) (a b : Nat) : Nat :=
  (elem2 fun i =>
    (wrapI 16 (min (ival (Ty16.signed t) 16 (half16 a i)) (ival (Ty16.signed t) 16 (half16 b i))), 0)).1

/-- SHRND (R125): the narrowed result extended to 32 bits under the type's signedness. -/
def aluShrnd (t : NarrowTy) (src64 sat : Bool) (a b : Nat) : Nat × Flags :=
  let n := uval 32 b % 64
  let y := shrRound (sval (if src64 then 64 else 32) a) n
  let r := narrowI sat (NarrowTy.signed t) (NarrowTy.width t) y
  (wrapI 32 (ival (NarrowTy.signed t) (NarrowTy.width t) r.1), r.2)

def aluPack (t : Ty16) (sat : Bool) (a b : Nat) : Nat × Flags :=
  elem2 fun i => narrowI sat (Ty16.signed t) 16 (sval 32 (if i = 0 then a else b))

def aluSad4 (a b c : Nat) : Nat :=
  let d (i : Nat) : Nat := ((byteOf a i : Int) - byteOf b i).natAbs
  (uval 32 c + d 0 + d 1 + d 2 + d 3) % 2 ^ 32

/-! ## Hash and strings (R74, R128, R129) -/

/-- Hash32. -/
def hash32 (x : Nat) : Nat :=
  let h := x * 0x9E3779B1 % 2 ^ 32
  let h := Nat.xor h (h / 2 ^ 15)
  let h := h * 0x85EBCA77 % 2 ^ 32
  Nat.xor h (h / 2 ^ 13)

def crcBits : Nat → Nat → Nat
  | 0, c => c
  | n + 1, c => crcBits n (if c % 2 = 1 then Nat.xor (c / 2) 0x82F63B78 else c / 2)

/-- CrcStep. -/
def crcStep (c d : Nat) : Nat := crcBits 32 (Nat.xor (uval 32 c) (uval 32 d))

def aluSeqm (a b : Nat) : Nat :=
  let eq (i : Nat) : Nat := if byteOf a i = byteOf b i then 2 ^ i else 0
  let nul (i : Nat) : Nat := if byteOf a i = 0 then 2 ^ (i + 4) else 0
  eq 0 + eq 1 + eq 2 + eq 3 + nul 0 + nul 1 + nul 2 + nul 3

def aluSfold (up : Bool) (a : Nat) : Nat :=
  ofBytes4 fun i =>
    let x := byteOf a i
    if up then (if 0x61 ≤ x ∧ x ≤ 0x7A then x - 0x20 else x)
    else (if 0x41 ≤ x ∧ x ≤ 0x5A then x + 0x20 else x)

/-- SCMP's loop over the bytes from `i`: the order and whether a difference was met. -/
def scmpFrom (a b : Nat) : Nat → Nat → Int × Bool
  | 0, _ => (0, false)
  | m + 1, i =>
    if byteOf a i ≠ byteOf b i then (if byteOf a i < byteOf b i then -1 else 1, true) else scmpFrom a b m (i + 1)

/-- SCMP (R129): the result and the decided predicate. -/
def aluScmp (a b c : Nat) : Nat × Bool :=
  let n := uval 32 c
  let r := scmpFrom a b (min n 4) 0
  (wrapI 32 r.1, n ≤ 4 || r.2)

/-! ## Compares (R101) -/

def icmpCond (t : IntTy) (cc : Icc) (a b : Nat) : Bool :=
  let x := tval t a
  let y := tval t b
  match cc with
  | .eq => x = y
  | .ne => x ≠ y
  | .lt => x < y
  | .le => x ≤ y
  | .gt => x > y
  | .ge => x ≥ y

/-! ## FP32 and packed halves (R115 to R117) -/

/-- An operation of `t` on one operand, element by element. -/
def fElem1 (t : FTy) (f : Fmt → Nat → Nat × Flags) (a : Nat) : Nat × Flags :=
  match t with
  | .f32 => f fmt32 a
  | .f16x2 => elem2 fun i => f fmt16 (half16 a i)
  | .bf16x2 => elem2 fun i => f fmtB16 (half16 a i)

def fElem2 (t : FTy) (f : Fmt → Nat → Nat → Nat × Flags) (a b : Nat) : Nat × Flags :=
  match t with
  | .f32 => f fmt32 a b
  | .f16x2 => elem2 fun i => f fmt16 (half16 a i) (half16 b i)
  | .bf16x2 => elem2 fun i => f fmtB16 (half16 a i) (half16 b i)

def fElem3 (t : FTy) (f : Fmt → Nat → Nat → Nat → Nat × Flags) (a b c : Nat) : Nat × Flags :=
  match t with
  | .f32 => f fmt32 a b c
  | .f16x2 => elem2 fun i => f fmt16 (half16 a i) (half16 b i) (half16 c i)
  | .bf16x2 => elem2 fun i => f fmtB16 (half16 a i) (half16 b i) (half16 c i)

/-! ## CVT and CVTP (R67, R119 to R121) -/

/-- The format of a float conversion type. -/
def cvtFmt : CvtTy → Fmt
  | .f16 => fmt16
  | .bf16 => fmtB16
  | .f64 => fmt64
  | .e4m3 => fmtE4m3
  | .e5m2 => fmtE5m2
  | _ => fmt32

/-- Signedness and width of an integer conversion type. -/
def cvtSigned : CvtTy → Bool
  | .i32 | .i64 | .i16 | .i8 => true
  | _ => false

def cvtWidth : CvtTy → Nat
  | .i64 | .n64 => 64
  | .i16 | .n16 => 16
  | .i8 | .n8 => 8
  | _ => 32

/-- The flush bit that governs a conversion type (R66): FP8 values are never flushed. (log 20: DEDUCED, unsafe) -/
def cvtFlush (fz32 fz64 : Bool) : CvtTy → Bool
  | .f64 => fz64
  | .f32 | .f16 | .bf16 => fz32
  | _ => false

/-- An integer result placed as R119: sign- or zero-extended to 32 bits. -/
def cvtPlace (t : CvtTy) (pattern : Nat) : Nat :=
  if cvtWidth t < 32 then wrapI 32 (ival (cvtSigned t) (cvtWidth t) pattern) else pattern

/-- CVT. -/
def aluCvt (dst src : CvtTy) (sat : Bool) (rm : Rm) (fz32 fz64 : Bool) (a : Nat) : Nat × Flags :=
  let fs := cvtFmt src
  let fd := cvtFmt dst
  if src.float then
    let x := uval (fmtWidth fs) a
    if dst.float then cvtFF fs fd rm (cvtFlush fz32 fz64 src) (cvtFlush fz32 fz64 dst) sat x
    else
      let r := cvtFI fs rm (cvtFlush fz32 fz64 src) (minOf (cvtSigned dst) (cvtWidth dst))
        (maxOf (cvtSigned dst) (cvtWidth dst)) x
      (cvtPlace dst (wrapI (cvtWidth dst) r.1), r.2)
  else
    let x := ival (cvtSigned src) (cvtWidth src) a
    if dst.float then cvtIF fd rm (cvtFlush fz32 fz64 dst) sat x
    else
      let r := narrowI sat (cvtSigned dst) (cvtWidth dst) x
      (cvtPlace dst r.1, r.2)

/-- Two converted values at bits 0 and `w`. -/
def two (w : Nat) (x y : Nat × Flags) : Nat × Flags := (x.1 + y.1 * 2 ^ w, x.2 ||| y.2)

/-- CVTP that packs (R121). -/
def aluCvtp (p : PackPair) (sat : Bool) (rm : Rm) (fz32 : Bool) (a b : Nat) : Nat × Flags :=
  let narrow (fs fd : Fmt) : Nat × Flags :=
    let c (v i : Nat) : Nat × Flags := cvtFF fs fd rm fz32 false sat (half16 v i)
    two 16 (two 8 (c a 0) (c a 1)) (two 8 (c b 0) (c b 1))
  match p with
  | .f16FromF32 => two 16 (cvtFF fmt32 fmt16 rm fz32 fz32 false a) (cvtFF fmt32 fmt16 rm fz32 fz32 false b)
  | .bf16FromF32 => two 16 (cvtFF fmt32 fmtB16 rm fz32 fz32 false a) (cvtFF fmt32 fmtB16 rm fz32 fz32 false b)
  | .e4m3FromF16 => narrow fmt16 fmtE4m3
  | .e4m3FromBf16 => narrow fmtB16 fmtE4m3
  | .e5m2FromF16 => narrow fmt16 fmtE5m2
  | .e5m2FromBf16 => narrow fmtB16 fmtE5m2

/-- CVTP that unpacks into a register pair (R121). (log 20: DEDUCED, unsafe) -/
def aluCvtpUnpk (p : UnpackPair) (rm : Rm) (fz32 : Bool) (a : Nat) : Nat × Flags :=
  let wide (fs : Fmt) : Nat × Flags :=
    let c (i : Nat) : Nat × Flags := cvtFF fs fmt32 rm fz32 fz32 false (half16 a i)
    two 32 (c 0) (c 1)
  let bytes (fs fd : Fmt) : Nat × Flags :=
    let c (i : Nat) : Nat × Flags := cvtFF fs fd rm false fz32 false (byteOf a i)
    two 32 (two 16 (c 0) (c 1)) (two 16 (c 2) (c 3))
  match p with
  | .f32FromF16 => wide fmt16
  | .f32FromBf16 => wide fmtB16
  | .f16FromE4m3 => bytes fmtE4m3 fmt16
  | .f16FromE5m2 => bytes fmtE5m2 fmt16
  | .bf16FromE4m3 => bytes fmtE4m3 fmtB16
  | .bf16FromE5m2 => bytes fmtE5m2 fmtB16

end Sys2Proof.Machine
end

