-- ==== Sys2Proof/Machine/State.lean ====
section
/-! DEFINITION. The state of an HLN-920 package: lanes, groups, teams, cores, helm cores, homes, the I/O die, and the
tape that says which agent moves next. Everything is plain data; a vector register, a scratchpad byte or a byte of
memory that no entry lists is 0. -/

namespace Sys2Proof.Machine

/-- Words by number or address, sorted, with no entry that is 0: one form for each content. -/
abbrev Sparse (w : Nat) := List (Nat × BitVec w)

/-- Bytes by address (R319). An address that is not listed reads 0x00 (log 2: DESIGN CHOICE, unsafe). -/
abbrev Memory := List Host.Cell

/-- A set of lanes; bit l stands for lane l. -/
abbrev Mask := BitVec 64

/-- Where an access acts: a byte of global memory by its physical address, or a byte of a team's scratchpad (R163). -/
inductive Place where
  | glob (pa : Nat)
  | scr (core team off : Nat)
  deriving DecidableEq, Repr

/-! ## Lanes (R75 to R78, R108, R175, R296) -/

inductive Status where
  | idle | live | exited
  deriving DecidableEq, Repr

/-- A return record (R86). -/
structure Ret where
  pc : Dword
  base : Nat
  deriving DecidableEq, Repr

/-- Why a live lane is parked (R77, R240). -/
inductive Wait where
  /-- not parked -/
  | ready
  /-- WAITV (R294) -/
  | waitv
  /-- a pending handle (R196); `lead` marks the lane that writes an S destination -/
  | hwait (h : HReg) (d : Option Reg) (lead : Bool)
  /-- a byte barrier's next flip (R188) -/
  | barw (p : Place)
  /-- arrived at the group's rendezvous (R143) -/
  | rendezvous
  /-- arrived at a team or cluster barrier that had this phase (R158, R240) -/
  | barrier (phase : Bool)
  /-- an outstanding SYSC (R228) -/
  | sysc
  /-- a SYSC that waits for an entry (R228) -/
  | mailbox
  /-- queued for the matrix engine (R200) -/
  | macq
  /-- waiting for a place in the owner queue (R200) -/
  | macqFull
  /-- YIELD's hold (R96) -/
  | yield
  /-- a LNCH that waits for an entry of queue `p` (R233) -/
  | launch (p : Nat)
  /-- parked behind another pending rendezvous (R146) -/
  | behind
  /-- a ROLESW that waits for register units (R161) -/
  | grow
  /-- a TBEGIN that waits for anchor lock `k`, or for its earlier stores (R300): snapshot registers, handler -/
  | tbegin (k : Option Nat) (d n : Nat) (handler : Dword)
  /-- a commit's end (R303) -/
  | tend (ticket : Nat)
  /-- MBOX.WAIT in the supervisor group (R230) -/
  | mbox (d : Nat) (lead : Bool)
  /-- TINV in the supervisor group (R234) -/
  | tinv (ids : List Nat)
  /-- CTXS.G in the supervisor group (R235): the target slot, the image, the result register -/
  | ctxsG (k img d : Nat) (lead : Bool)
  /-- CTXS.T in the supervisor group (R235): the team, the image, the result register -/
  | ctxsT (t img d : Nat) (lead : Bool)
  /-- CTXL.G in the supervisor group (R235): the partition, the image, the result register -/
  | ctxlG (part img d : Nat) (lead : Bool)
  /-- CTXL.T in the supervisor group (R235): the team, the image, the result register -/
  | ctxlT (t img d : Nat) (lead : Bool)
  /-- an HWAIT of an image whose word has not been fetched since (R240) -/
  | refetch
  deriving DecidableEq, Repr

/-- One read record (R296): where the load was, and the bytes that it took from memory, each with its address. -/
structure ReadRec where
  pa : Nat
  bytes : List (Nat × Byte)
  gr : Nat
  deriving DecidableEq, Repr

/-- An open transaction of a lane (R296). `writes` holds the masked bytes of the speculative sectors. -/
structure Txn where
  restart : Dword
  handler : Dword
  d : Nat
  regs : List Word
  preds : BitVec 8
  depth : Nat
  base : Nat
  cab : List Ret
  spill : Nat
  reads : List ReadRec
  writes : Memory
  /-- where its stores stand, as (address, bytes, grain size) -/
  masked : List (Nat × Nat × Nat)
  anchor : Option Nat
  deriving DecidableEq, Repr

structure Lane where
  status : Status
  pc : Dword
  preds : BitVec 8
  base : Nat
  depth : Nat
  /-- oldest first, at most four -/
  cab : List Ret
  spill : Nat
  fibre : Word
  starve : Nat
  lsw : Word
  wait : Wait
  /-- by physical register number -/
  regs : Sparse 32
  /-- the reserved 32 B granule, by its lowest place -/
  resv : Option Place
  txn : Option Txn
  /-- (log 6: DESIGN CHOICE, unsafe) -/
  txnStart : Dword
  conflict : Option Nat
  deriving DecidableEq, Repr

/-- A slot that no fibre has entered. (log 3: DESIGN CHOICE, unsafe; 6: DESIGN CHOICE, unsafe) -/
def Lane.empty : Lane :=
  { status := .idle, pc := 0, preds := 0x80, base := 0, depth := 0, cab := [], spill := 0, fibre := 0, starve := 0,
    lsw := 0, wait := .ready, regs := [], resv := none, txn := none, txnStart := 0, conflict := none }

/-! ## Groups (R136, R142 to R148) -/

/-- A rendezvous (R142, R148): pending, or complete and waiting at a team or cluster barrier (R158). The clock count is
`base` plus the clocks since `since`. -/
structure Rdv where
  pc : Dword
  /-- its word; none after a load until it has been fetched (R148) -/
  word : Option Instr
  captured : Mask
  arrived : Mask
  guards : Mask
  /-- children of SPAWN, which count as arrived (R95) (log 90: DEDUCED, unsafe) -/
  excused : Mask
  /-- lane, then the operands that it supplied -/
  ops : List (Nat × Nat × Nat × Nat)
  base : Nat
  since : Nat
  deriving DecidableEq, Repr

/-- What a lane takes from a word: a value, flags, a predicate. -/
structure Res where
  val : Nat := 0
  flags : Word := 0
  pred : Option (PReg × Bool) := none
  deriving DecidableEq, Repr

/-- A complete rendezvous whose result the exchange network has not written (R145): the clock of the write; the result
of each participant with its register; a mask; the lanes that had arrived, and where they go on. (log 119: DEDUCED,
unsafe) -/
structure RdvOut where
  writeAt : Nat
  dest : Option (Reg × Nat)
  res : List (Nat × Res)
  mask : Option (MReg × Mask)
  arrived : Mask
  goto : Dword
  deriving DecidableEq, Repr

/-- The repeat state of REP (R44, R99): the word as encoded, the index of the next issue, the steps, the issue set. -/
structure RepState where
  /-- the repeated word, as REP examined it (R45); none after a load until it has been fetched (log 16: DESIGN CHOICE,
  safe) -/
  word : Option Nat
  count : Nat
  next : Nat
  d : RepStep
  a : RepStep
  b : RepStep
  c : RepStep
  set : Mask
  deriving DecidableEq, Repr

/-- A tack (R83): its set, the words it has issued, and whether it ends with the present word or REP. -/
structure TackState where
  set : Mask
  words : Nat
  last : Bool
  deriving DecidableEq, Repr

/-- A trap record's contents (R221). -/
structure TrapRec where
  mask : Mask
  pc : Dword
  addr : Nat
  info : Nat
  cause : Nat
  kind : Nat
  slot : Nat
  team : Nat
  grid : Dword
  /-- names the word that raised it; 0 where no word did -/
  wid : Nat
  deriving DecidableEq, Repr

/-- An iterator record (R197). -/
structure Iter where
  addr : Nat
  extent : List Nat
  stride : List Int
  sat : Bool
  rm : Rm
  ty : Nat
  deriving DecidableEq, Repr

structure Grp where
  grid : Dword
  team : Nat
  index : Nat
  prio : Nat
  alloc : Nat
  scal : Nat
  supervisor : Bool
  lanes : List Lane
  sregs : Sparse 32
  masks : List Mask
  handles : List Word
  iters : List (Option Iter)
  rdv : Option Rdv
  /-- complete rendezvous whose results are on their way (R145) (log 119: DEDUCED, unsafe) -/
  outs : List RdvOut := []
  /-- arrivals at team and cluster barriers that have not completed -/
  bars : List Rdv
  rep : Option RepState
  tack : Option TackState
  stop : Option TrapRec
  /-- causes detected and not yet taken, oldest first (R220) -/
  causes : List TrapRec
  /-- the lanes for which the group's next word waits to issue and makes the core drain (R290, R292) -/
  draining : Mask
  /-- the bound below which lie the accesses that its XFENCE, when it waits to issue, follows (R292) (log 100:
  DEDUCED, unsafe) -/
  fence : Option Nat := none
  /-- stopped at its issue boundary by a CTXS (R236); to retire once its ticketed commits end, by SRET.DROP (R229) -/
  frozen : Bool
  dropped : Bool
  /-- the D register of an outstanding SYSC -/
  sysc : Option Nat
  /-- the allotment that a ROLESW waits for -/
  growth : Option Nat
  ftz : Word
  fair : Word
  rdvz : Word
  dmr : Word
  dmrc : Dword
  dmra : Dword
  hint : Dword
  spill : Dword
  tretry : Word
  deriving DecidableEq, Repr

/-! ## Teams (R137, R158, R181, R186, R249, R291) -/

/-- A team or cluster barrier; `all` when the first arrival gave N = 0. -/
structure Barrier where
  expect : Nat
  arrived : Nat
  phase : Bool
  all : Bool
  deriving DecidableEq, Repr

def Barrier.zero : Barrier := { expect := 0, arrived := 0, phase := false, all := false }

/-- A window block: invalid, or valid with its mask of dirty sectors (R181). -/
inductive Block where
  | invalid
  | valid (pa : Nat) (dirty : BitVec 16)
  deriving DecidableEq, Repr

/-- A mapped window (R182). -/
structure Window where
  va : Nat
  off : Nat
  len : Nat
  blocks : List Block
  deriving DecidableEq, Repr

structure Team where
  num : Nat
  grid : Dword
  /-- the linear index of its cluster, and the cluster core it stands on -/
  cluster : Nat
  ccore : Nat
  /-- physical cores of the cluster, by cluster core index -/
  place : List Nat
  /-- the scratchpad allotment, in bytes, and its contents -/
  shared : Nat
  bytes : Memory
  bars : List Barrier
  /-- the cluster barriers, kept at cluster core 0 -/
  cbars : List Barrier
  wins : List (Option Window)
  fails : List Dword
  retired : Bool
  /-- CTXS.T has saved it, and the credits that its core held then (R268) (log 15: DESIGN CHOICE, safe) -/
  away : Bool := false
  vcred : List Nat := []
  deriving DecidableEq, Repr

/-! ## Accesses and the ordering machine (R273 to R288) -/

/-- Where a load writes: a physical vector register of its lane, or a scalar register. -/
inductive Dst where
  | none
  | v (phys n : Nat)
  | s (num n : Nat)
  deriving DecidableEq, Repr

inductive AccKind where
  | load (signed : Bool)
  | store
  | atom (op : AtomOp)
  /-- ACAS with its compare value -/
  | acas (cmp : Nat)
  | lr
  | sc
  /-- PARTN, with the width of its data -/
  | partn (w : Nat)
  | waitv (cc : WCond) (cmp : Nat)
  deriving DecidableEq, Repr

/-- Where WAITV's watch stands (R294, R295). -/
inductive Watch where
  | no
  | entry
  | poll (nextAt interval : Nat)
  deriving DecidableEq, Repr

/-- One access of a lane: pending, or in the outbound buffer, where it stays until it is performed. -/
structure Acc where
  id : Nat
  /-- names its word: the first access number of the word -/
  wid : Nat
  slot : Nat
  lane : Nat
  /-- the lanes for which it is an acquire beside its own (R172) -/
  also : Mask
  team : Nat
  index : Nat
  grid : Dword
  kind : AccKind
  place : Place
  va : Nat
  /-- bytes of the access -/
  n : Nat
  ord : Ordering4
  scope : Scope
  /-- the data, or the second operand -/
  val : Nat
  dst : Dst
  /-- the grain size of its page, and whether the page lies in a shared range -/
  gr : Nat
  shr : Bool
  nc : Bool
  norepl : Bool
  noAlloc : Bool
  /-- a load of a transaction, and the speculative bytes that it takes: those of its issue (R302) -/
  txn : Bool
  /-- (log 16: DESIGN CHOICE, safe) -/
  own : List (Nat × Byte)
  /-- physical registers, from the first to below the second, that an abort has restored and this load no longer
  writes (log 16: DESIGN CHOICE, safe; 19: DEDUCED, unsafe) -/
  spared : Nat × Nat
  watch : Watch
  /-- a buffered store: drained to its home, and registered as a release (R281) -/
  drained : Bool
  registered : Bool
  /-- the clock of its issue (R284, R318) (log 16: DESIGN CHOICE, safe) -/
  since : Nat := 0
  /-- its request holds an outstanding-request entry (R167) (log 98: DEDUCED, unsafe) -/
  entry : Bool := true
  deriving DecidableEq, Repr

/-- A write that waits at its home (R276): the access of a core, an inbound write, a remote one. -/
inductive Source where
  | acc (core id : Nat)
  | inbound (id : Nat)
  | remote (e : Nat)
  /-- a store of a helm core -/
  | helm (h id : Nat)
  /-- the A and D bits of a walk of the tables at `root` for `va`, a core's or a helm core's, with the entry that it read (R324) -/
  | walker (core : Option Nat) (root va entry : Nat)
  /-- entry `n` of the fault-address queue (R322) -/
  | fault (n : Nat)
  /-- what an event reads or writes; `n` tells the accesses of one event apart -/
  | turn (i : Instr) (n : Nat)
  /-- the load or the atomic of a helm core at a pc -/
  | helmAt (h : Nat) (pc : Dword)
  /-- the lock request of a commit (R303) -/
  | commit (ticket : Nat)
  /-- the ownership request and the read of a window block's fill (R183) -/
  | fill (core team w blk : Nat)
  /-- the image that a core's supervisor writes (R236) -/
  | image (core n : Nat)
  /-- what the firmware stores at the completion of a grid (R337) -/
  | grid (id n : Nat)
  /-- a load that the word of a group makes at its own issue (R192) -/
  | word (core slot : Nat)
  /-- the atomic of a remote endpoint at an address (R365) -/
  | remoteAtom (e pa : Nat) (k : InKind)
  deriving DecidableEq, Repr

/-- An entry of a grain's queue. -/
structure PWrite where
  src : Source
  pa : Nat
  bytes : List Byte
  /-- the bytes are OR-ed into memory: the A and D bits of a page-table entry (R324) -/
  orr : Bool := false
  /-- an atomic, a lock or an ownership request: it acts when it stands at the head, and its bytes say only how many
  it touches (log 25: DEDUCED, unsafe) -/
  rmw : Bool := false
  deriving DecidableEq, Repr

/-- Who holds an Owned grain (R273). -/
inductive Owner where
  | window (core team w blk : Nat)
  | release (core : Nat)
  deriving DecidableEq, Repr

/-- A lease copy (R274): an L1's, a replica slice's (R275) or a fabric copy (R367). -/
inductive Holder where
  | l1 (core : Nat)
  /-- (log 23: DESIGN CHOICE, safe) -/
  | replica (slice : Nat)
  deriving DecidableEq, Repr

structure Lease where
  holder : Holder
  expiry : Nat
  deriving DecidableEq, Repr

/-- A grain at its home. -/
structure Home where
  grain : Nat
  size : Nat
  queue : List PWrite
  horizon : Nat
  len : Nat
  /-- the expiry of the latest lease, whether a write has entered since, whether its length may double at the next
  grant -/
  latest : Nat
  wrote : Bool
  owner : Option Owner
  /-- another agent's access has been forwarded to the owner -/
  asked : Bool
  leases : List Lease
  /-- one more than the clock at which a read was last served (R317) (log 16: DESIGN CHOICE, safe) -/
  readAt : Nat := 0
  deriving DecidableEq, Repr

/-- A watch entry of a slice (R295). -/
structure WatchEntry where
  slice : Nat
  grain : Nat
  size : Nat
  core : Nat
  /-- the words of the core that watch the grain -/
  words : Nat
  deriving DecidableEq, Repr

/-- A wake on its way to a core (R294): the grain and its performed bytes. -/
structure Wake where
  grain : Nat
  size : Nat
  bytes : List Byte
  deriving DecidableEq, Repr

/-! ## Translation (R324 to R326) -/

/-- A leaf as a TLB holds it: its virtual base, its size, its physical base and its attributes. -/
structure Leaf where
  va : Nat
  size : Nat
  pa : Nat
  r : Bool
  w : Bool
  x : Bool
  u : Bool
  dirty : Bool
  gr : Nat
  shr : Bool
  nc : Bool
  io : Bool
  norepl : Bool
  deriving DecidableEq, Repr

structure TlbEntry where
  asid : Nat
  leaf : Leaf
  deriving DecidableEq, Repr

/-! ## Engines (R192 to R217) -/

/-- A course record (R190, R191). -/
structure Dim where
  bcast : Bool
  sstride : Int
  dstride : Int
  extent : Nat
  deriving DecidableEq, Repr

structure Course where
  src : Nat
  dst : Nat
  bar : Nat
  grec : Nat
  side : Nat
  ctrl : Nat
  dims : List Dim
  deriving DecidableEq, Repr

/-- What a copy-engine job does. A copy keeps the addresses of its course record and of its index list. -/
inductive JobKind where
  | cpy (rec_ list : Nat) (c : Course) (idx : Option (List Nat))
  | sweep (h : HReg) (op : SweepOp) (it : Iter) (b : Nat) (flush : Bool)
  deriving DecidableEq, Repr

/-- A copy or a sweep (R192, R198): elements below `next` and those of `extra` are done. -/
structure Job where
  id : Nat
  slot : Nat
  team : Nat
  grid : Dword
  word : Nat
  kind : JobKind
  next : Nat
  extra : List Nat
  paused : Bool
  cancelled : Bool
  deriving DecidableEq, Repr

/-- What an accepted matrix operation does, with its snapshot (R203 to R213). -/
inductive MKind where
  | mma (ka kb : Kind) (ga gb : GSize) (ovw : Bool) (a b nb : Nat)
  | mmag (ka kb : Kind) (ga gb : GSize) (ovw : Bool) (b t rs nb bar : Nat) (rows : List (Option Nat))
  | mzero (c : Nat)
  | mldz (f : LdFmt) (o st : Nat)
  | mstz (f : StFmt) (rm : Rm) (sat : Bool) (o st : Nat)
  deriving DecidableEq, Repr

structure MOp where
  slot : Nat
  team : Nat
  grid : Dword
  h : HReg
  word : Nat
  tile : Nat
  kind : MKind
  fzm : Bool
  steps : Nat
  /-- steps whose slices are latched, and the latched bytes of the step that runs (R211) -/
  latched : Nat
  latch : List (List Byte)
  cancelled : Bool
  deriving DecidableEq, Repr

/-! ## Voyage mode (R250 to R270) -/

structure Segment where
  start : Nat
  len : Nat
  holders : List Nat
  select : Nat
  nfixed : Nat
  deriving DecidableEq, Repr

structure Chart where
  gen : Nat
  muster : Nat
  spare : Nat
  harbour : Nat
  fpc : Nat
  hstride : Nat
  segs : List Segment
  deriving DecidableEq, Repr

/-- A fibre in transit (R254). -/
structure Voyager where
  pc : Dword
  depth : Nat
  preds : BitVec 8
  base : Nat
  cab : List Ret
  live : Nat
  spill : Nat
  fibre : Word
  gen : Nat
  origin : Nat
  resv : Option Place
  regs : List Word
  deriving DecidableEq, Repr

/-- A voyager held at its core until the stores `waits` of its lane are performed; bound for cluster core `dest`. The
voyagers of one word, `train`, toward one core travel together (R271). -/
structure HeldVoyager where
  v : Voyager
  train : Nat
  dest : Nat
  waits : List Nat
  deriving DecidableEq, Repr

/-- A credited voyager on the compute plane: the cluster core it left, its train. -/
structure Flying where
  v : Voyager
  from_ : Nat
  train : Nat
  deriving DecidableEq, Repr

/-- A voyager in a berth: when it came, and the cluster core whose credit it used. -/
structure Berthed where
  v : Voyager
  since : Nat
  credit : Option Nat
  deriving DecidableEq, Repr

/-- A core's part in a voyage grid. -/
structure Voyage where
  grid : Dword
  team : Nat
  chart : Chart
  /-- the chart sent and not yet adopted -/
  next : Option Chart
  seg : Option Nat
  credits : List Nat
  held : List HeldVoyager
  /-- on the compute plane toward this core, in order -/
  flight : List Flying
  berth : List Berthed
  /-- due batches, each with its voyagers, in order -/
  due : List (List Berthed)
  deriving DecidableEq, Repr

/-! ## Cores (R131, R221 to R230) -/

/-- The units of a partition (R131, R133): the clock from which each is free; the clock of its latest issue, the slots
that issued in it, and the issue slots that they took (R134). -/
structure Units where
  pipe0 : Nat
  pipe1 : Nat
  scalar : Nat
  port : Nat
  branch : Nat
  queue : Nat
  /-- (log 119: DEDUCED, unsafe) -/
  exch : Nat
  last : Nat
  issued : List Nat
  words : Nat
  deriving DecidableEq, Repr

def Units.free : Units :=
  { pipe0 := 0, pipe1 := 0, scalar := 0, port := 0, branch := 0, queue := 0, exch := 0, last := 0, issued := [], words := 0 }

structure Core where
  /-- slot 8 × partition + number -/
  groups : List (Option Grp)
  /-- slots, oldest first (R134) -/
  ages : List Nat
  /-- the units of each partition (R131) (log 16: DESIGN CHOICE, safe) -/
  units : List Units
  teams : List Team
  /-- teams that CTXS.T has saved, without their bytes: where each stands in its cluster (log 15: DESIGN CHOICE, safe)
  -/
  away : List Team
  /-- accesses of the lane path in issue order, not yet satisfied or buffered -/
  pend : List Acc
  /-- stores buffered and not yet performed, in order -/
  outb : List Acc
  tlb : List TlbEntry
  wakes : List Wake
  mailbox : List (List Byte)
  /-- remote posts held at their senders (R227) -/
  posts : List (List Byte)
  tring : Dword
  tail : Nat
  head : Nat
  stage : Dword
  /-- trap records not yet written, oldest first -/
  records : List TrapRec
  /-- the owner and the waiters of the matrix engine, as slots (R200): 96 and 97 stand for a saved group, which owns
  it or has operations in it (R236) (log 55: DEDUCED, unsafe) -/
  owner : Option Nat
  waiters : List Nat
  /-- the launch of the latest owner; none before the first grant -/
  launch : Option Dword
  /-- the earliest clock of the next grant (R217), and whether the tiles have been cleared for it -/
  grantAt : Nat
  /-- (log 16: DESIGN CHOICE, safe) -/
  cleared : Bool
  mops : List MOp
  /-- (log 7: DESIGN CHOICE, unsafe) -/
  tiles : Sparse 32
  jobs : List Job
  voyage : Option Voyage
  vdep : Dword
  varr : Dword
  vhar : Dword
  vmus : Dword
  vber : Word
  vgen : Word
  deriving DecidableEq, Repr

/-! ## Helm cores (R312 to R314, R347, R348) -/

structure HelmRegs where
  pc : Dword
  x : List Dword
  f : List Dword
  deriving DecidableEq, Repr

/-- A store of a helm core that has not been performed (R347): its bytes, the clock of its issue, whether it stands in its home's
queue. -/
structure HelmStore where
  id : Nat
  pa : Nat
  bytes : List Byte
  gr : Nat
  since : Nat
  drained : Bool
  deriving DecidableEq, Repr

structure Helm where
  regs : HelmRegs
  /-- the privilege mode of the RISC-V base: 0 user, 1 supervisor, 3 machine (log 8: PRESUMED, unsafe) -/
  priv : Nat
  /-- its control and status registers, by number (log 8: PRESUMED, unsafe) -/
  csrs : Sparse 64
  /-- the granule that its LR reserves (log 8: PRESUMED, unsafe) -/
  resv : Option Nat
  /-- its stores that have not been performed, oldest first (R347) (log 117: DESIGN CHOICE, unsafe) -/
  outb : List HelmStore
  checkpoint : Option HelmRegs
  /-- the rd of the outermost HTBEGIN -/
  rd : Nat
  depth : Nat
  cause : Nat
  /-- lines of the read and the write signature (R312) (log 34: DESIGN CHOICE, safe) -/
  rsig : List Nat
  /-- (log 34: DESIGN CHOICE, safe) -/
  wsig : List Nat
  /-- the bytes that its stores have written; a byte of 0 is listed as well (log 34: DESIGN CHOICE, safe) -/
  writes : Memory
  ticket : Option Nat
  /-- pending interrupt identities of its interrupt file -/
  irqs : List Nat
  deriving DecidableEq, Repr

/-! ## The I/O die (R303, R307, R322, R329 to R337, R343 to R376) -/

/-- A ticket of the package ticket unit: a lane commit or a helm commit. -/
inductive Committer where
  | lane (core slot lane : Nat)
  | helm (h : Nat)
  deriving DecidableEq, Repr

/-- `last` is the last ticket of the TEND word that took it (R316); an ended ticket stays until that one has ended. -/
structure Ticket where
  num : Nat
  who : Committer
  last : Nat
  ended : Bool
  deriving DecidableEq, Repr

/-- An anchor lock's holder and waiters (R307), as (core, slot, lane); the fibre is the lane's. -/
structure Anchor where
  k : Nat
  holder : Option (Nat × Nat × Nat)
  waiters : List (Nat × Nat × Nat)
  deriving DecidableEq, Repr

inductive GridStage where
  | held (met : List Nat)
  | running
  | ending (status : Nat)
  | done (status : Nat)
  deriving DecidableEq, Repr

/-- A grid the firmware has taken (R327 to R337). -/
structure Grid where
  id : Dword
  /-- the launch record's snapshot -/
  record : List Byte
  stage : GridStage
  /-- (log 54: DESIGN CHOICE, safe) -/
  places : List Placement
  /-- the residency lease: the leaves of its manifest pages -/
  pins : List Leaf
  pinnedBytes : Nat
  chart : Option Chart
  /-- clusters bound, and clusters started, so far -/
  bound : Nat
  started : Nat
  /-- the groups that have not retired, of each team that stands: (cluster, cluster core, groups) -/
  alive : List (Nat × Nat × Nat)
  deriving DecidableEq, Repr

/-- A bind record (R333). -/
structure Bind where
  grid : Dword
  cluster : Nat
  place : Placement
  deriving DecidableEq, Repr

/-- A queued team block of a floating cluster (R334). -/
structure Floating where
  grid : Dword
  cluster : Nat
  prio : Nat
  deriving DecidableEq, Repr

/-- An inbound posted write at the ordering point (R350 to R352). -/
inductive InState where
  | held
  | queued
  | performed
  deriving DecidableEq, Repr

structure Inbound where
  id : Nat
  port : Nat
  ro : Bool
  place : Place
  bytes : List Byte
  /-- the grain size of its page -/
  gr : Nat
  route : Nat
  state : InState
  /-- the landing whose bytes it carries (R359) -/
  land : Option Nat
  /-- its place in the order in which writes reached the die of its route (R351) -/
  order : Nat := 0
  deriving DecidableEq, Repr

/-- A requester's context (R349): the root of its table. -/
structure IoContext where
  port : Nat
  rid : Nat
  root : Dword
  deriving DecidableEq, Repr

/-- A request on its way to a host or a remote endpoint (R356, R365): whose, through which host port, since when; of a
fabric request, the port that it took, and whether the ports that are up have changed since it was sent (R361). -/
structure Outstanding where
  id : Nat
  src : Source
  port : Option Nat
  since : Nat
  block : Nat
  via : Option Nat
  stale : Bool := false
  /-- the address at the host (R346) -/
  host : Nat := 0
  /-- an atomic that has acted at the slice, and whose write-back the host has not answered (R355): the old value, the
  value it returns, the value it writes -/
  acted : Option (Nat × Nat × Nat) := none
  /-- what an agent beside the lanes reads or writes: the address, the bytes of a write -/
  pa : Nat := 0
  data : List Byte := []
  /-- its read has failed, or its atomic is complete, and it has not gone on -/
  failed : Bool := false
  complete : Bool := false
  deriving DecidableEq, Repr

/-- Where an FREAD lands (R358): a virtual range of its grid, or a landing tag's range of a team's allotment. -/
inductive Dest where
  | virt (va : Nat)
  | tag (tag core team off : Nat)
  deriving DecidableEq, Repr

/-- An FREAD command in flight (R232, R358 to R360): its bytes, how many of them have been counted, its barrier, its handle;
the pages that it pins; the pieces that have arrived, as (offset, bytes). -/
structure Landing where
  id : Nat
  grid : Dword
  dest : Dest
  len : Nat
  landed : Nat
  bar : Place
  handle : Nat
  data : List Byte
  pins : List Leaf
  got : List (Nat × Nat)
  deriving DecidableEq, Repr

/-- How a host holds a line of the part's memory (R354), and whether a back-invalidate is on its way, since when. -/
structure HostLine where
  line : Nat
  port : Nat
  hold : HostHold
  asked : Bool
  since : Nat := 0
  deriving DecidableEq, Repr

/-- An injected error that stands in an array (R375): the group slot or the team of the code word, its address in the log, the
flips and the first of them. -/
structure Planted where
  unit : Nat
  kind : Nat
  owner : Nat
  addr : Nat
  flips : Nat
  bit : Nat
  deriving DecidableEq, Repr

structure File where
  path : List Byte
  data : List Byte
  deriving DecidableEq, Repr

structure Handle where
  num : Nat
  file : Nat
  flags : Nat
  deriving DecidableEq, Repr

/-- LPDDR6 blocks whose home was lost with a die and that stand poisoned but for a kept range (R370). -/
structure LostBlocks where
  die : Nat
  keep : Nat
  keepLen : Nat
  deriving DecidableEq, Repr

/-- An error that reaches a log. -/
structure ErrArrival where
  addr : Nat
  uc : Bool
  inj : Bool
  syn : Nat
  ctx : Nat
  deriving DecidableEq, Repr

/-- An error log's two registers (R373); and for the clock of its latest error the registers before that clock and the
errors of that clock, by increasing ADDR (R374). -/
structure ErrLog where
  unit : Nat
  kind : Nat
  els : Dword
  ela : Dword
  last : Nat := 0
  els0 : Dword := 0
  ela0 : Dword := 0
  /-- (log 16: DESIGN CHOICE, safe) -/
  recent : List ErrArrival := []
  deriving DecidableEq, Repr

/-- A grain of a shared range that remote endpoints hold copies of, as the switch directory lists them, and a grain
homed elsewhere of which this package holds a fabric copy (R366, R367). -/
structure FabricCopy where
  grain : Nat
  ends : List Nat
  deriving DecidableEq, Repr

/-- An agent's turn: after `dt` core clocks. (log 1: DESIGN CHOICE, safe) -/
inductive Act where
  | issue (core slot : Nat)
  | helm (h : Nat)
  | event (i : Instr)
  | idle
  deriving DecidableEq, Repr

/-- (log 1: DESIGN CHOICE, safe) -/
structure Turn where
  dt : Nat
  act : Act
  deriving DecidableEq, Repr

/-- The word being executed: its group, its issue set, the first access number it may take, its pipe. In a helm core's
turn, `core` is the helm core. -/
structure Cur where
  core : Nat
  slot : Nat
  mask : Mask
  first : Nat
  /-- the vector pipe that runs it (R133) -/
  pipe : Nat := 0
  /-- the word waits at its issue: it has not issued (R134) -/
  waits : Bool := false
  deriving DecidableEq, Repr

structure State where
  /-- the model's own: which agents move next (log 1: DESIGN CHOICE, safe) -/
  tape : List Turn
  /-- the model's own: the core that moves when the tape is empty (log 1: DESIGN CHOICE, safe) -/
  focus : Nat
  /-- the model's own: the issuing group (log 1: DESIGN CHOICE, safe) -/
  cur : Cur
  /-- the model's own: free values taken (log 12: DESIGN CHOICE, safe) -/
  freeCount : Nat
  /-- the model's own: names of accesses, jobs and requests (log 1: DESIGN CHOICE, safe) -/
  nextId : Nat
  /-- core clocks since reset; the meridian count is a sixteenth (R2) (log 9: DESIGN CHOICE, unsafe; 85: DESIGN
  CHOICE, safe) -/
  clock : Nat
  mem : Memory
  cores : List Core
  helms : List Helm
  homes : List Home
  /-- the lines of host memory that a slice caches, with their bytes in `mem` (R355) (log 16: DESIGN CHOICE, safe) -/
  hostCache : List Nat
  watches : List WatchEntry
  /-- (log 10: DESIGN CHOICE, unsafe) -/
  ticket : Nat
  tickets : List Ticket
  anchors : List Anchor
  queues : List (List (Dword × List Byte))
  /-- (log 10: DESIGN CHOICE, unsafe) -/
  nextGrid : Nat
  grids : List Grid
  /-- the slot table of each die -/
  binds : List (List Bind)
  /-- dispatch regions 4 × die + region -/
  regions : List (List Floating)
  badPages : List Nat
  fltq : Dword
  fltTail : Nat
  fltHead : Nat
  /-- entries of the fault-address queue on their way, oldest first: whether each has performed (R322) (log 16: DESIGN
  CHOICE, safe) -/
  fltPend : List Bool
  /-- corrected errors counted for each memory row since reset, and the firmware's threshold (R322) (log 16: DESIGN
  CHOICE, safe) -/
  rows : Sparse 16
  ports : List Dword
  hwins : List Dword
  /-- the role that each port took at its latest link reset (R343) (log 16: DESIGN CHOICE, safe) -/
  roles : List Nat
  /-- the requester contexts (R349) (log 26: DESIGN CHOICE, safe) -/
  contexts : List IoContext
  /-- the HDM decoders, two of each port: base and size in GiB (R354) (log 26: DESIGN CHOICE, safe) -/
  hdms : List (Nat × Nat)
  inbound : List Inbound
  /-- the writes of agents beside the lanes that have entered their homes' queues or left through a window, by source
  and address, until their agents go on (log 16: DESIGN CHOICE, safe) -/
  sent : List (Source × Nat)
  outstanding : List Outstanding
  landings : List Landing
  hostLines : List HostLine
  /-- (log 11: DESIGN CHOICE, unsafe) -/
  files : List File
  /-- (log 11: DESIGN CHOICE, unsafe) -/
  handles : List Handle
  /-- (log 11: DESIGN CHOICE, unsafe) -/
  console : List Byte
  fab : Dword
  fports : List Dword
  /-- registered shared ranges, as (first address, length) (log 26: DESIGN CHOICE, safe) -/
  shared : List (Nat × Nat)
  /-- what is exported to remote endpoints, as (endpoint, first address, length) (R364) (log 26: DESIGN CHOICE, safe)
  -/
  exports : List (Nat × Nat × Nat)
  directory : List FabricCopy
  copies : List FabricCopy
  /-- lost ranges: dies, endpoints -/
  lostDies : List Nat
  lostEnds : List Nat
  orph : Dword
  orphTail : Nat
  orphHead : Nat
  /-- orphan records not yet written (R370) -/
  orphans : List (List Byte)
  /-- losses declared whose machine check is not yet raised: package or die, its number (R370) (log 16: DESIGN CHOICE,
  safe) -/
  losses : List (Bool × Nat)
  /-- (log 28: DEDUCED, unsafe) -/
  poison : List Nat
  /-- (log 16: DESIGN CHOICE, safe; 70: DEDUCED, unsafe) -/
  lostBlocks : List LostBlocks
  /-- lines of such blocks that have been written whole since (log 16: DESIGN CHOICE, safe; 70: DEDUCED, unsafe) -/
  cleared : List Nat
  logs : List ErrLog
  /-- injected errors that have been placed and not yet been found (R375) (log 16: DESIGN CHOICE, safe) -/
  planted : List Planted
  /-- failed replays in a row of each link, by unit + 1024 × link (R372) (log 16: DESIGN CHOICE, safe) -/
  replays : Sparse 8
  mchk : Dword
  einj : Dword
  lsel : Dword
  /-- lifetime counts by index as of now, and as of the last update (R376) -/
  counts : Sparse 64
  shown : Sparse 64
  /-- the clock of the last update (R376) (log 16: DESIGN CHOICE, safe) -/
  updated : Nat
  deriving DecidableEq, Repr

/-- Why the machine stops. -/
inductive Fault where
  /-- Raised by a vector word's meaning when `State.cur` names no group, and by a helm word's when it names no helm
  core: no step of the machine does so, so it is safe. -/
  | noGroup
  deriving DecidableEq, Repr

/-- Why a step has no meaning. -/
inductive Refusal where
  /-- Raised by an arm of `exec` that has no meaning yet; safe. -/
  | notModelled (mnemonic : String)
  /-- Raised by a helm core's turn on an instruction of the RVA23 base that the model does not hold: vector
  arithmetic, the hypervisor words, a control and status register beside those of `csrKnown`. What they do is another
  standard's and stands in no rule of the spec (R347); safe. (log 8: PRESUMED, unsafe) -/
  | helmBaseInstruction (word : Nat)
  deriving DecidableEq, Repr

/-! ## Reset -/

/-- A group slot's lanes with every control register at its reset value (R66, R85, R88, R136, R139, R140, R147, R179,
R308). -/
def Grp.fresh : Grp :=
  { grid := 0, team := 0, index := 0, prio := 0, alloc := 8, scal := 16, supervisor := false,
    lanes := List.replicate 64 Lane.empty, sregs := [], masks := List.replicate 7 0xFFFF_FFFF_FFFF_FFFF,
    handles := List.replicate 16 0, iters := [none, none], rdv := none, outs := [], bars := [], rep := none, tack := none,
    stop := none, causes := [], draining := 0, frozen := false, dropped := false, sysc := none, growth := none, ftz := 0, fair := 256, rdvz := 0x0100_0000, dmr := 0, dmrc := 0,
    dmra := 0, hint := 0, spill := 0, tretry := 0x1000_0008 }

/-- The supervisor group (R223, R341): 64 registers, 192 scalars, every lane ready at the entry; the entry and the
parameter block's address are 0 (log 3: DESIGN CHOICE, unsafe), the priority 7 and the fibre numbers the lane indices
(log 5: DESIGN CHOICE, unsafe). -/
def Grp.supervisorReset : Grp :=
  { Grp.fresh with
    team := 256, prio := 7, alloc := 64, scal := 192, supervisor := true,
    lanes := (List.range 64).map fun l => { Lane.empty with status := .live, fibre := BitVec.ofNat 32 l } }

/-- A team at its start (R158, R162, R181, R291). -/
def Team.fresh : Team :=
  { num := 0, grid := 0, cluster := 0, ccore := 0, place := [], shared := 0, bytes := [],
    bars := List.replicate 16 Barrier.zero, cbars := List.replicate 8 Barrier.zero,
    wins := List.replicate 4 none, fails := List.replicate 32 0, retired := false }

/-- A core at reset: the supervisor group alone in slot 0 of partition 0, with a team of its own (log 5: DESIGN
CHOICE, unsafe). (log 7: DESIGN CHOICE, unsafe) -/
def Core.reset (c : Nat) : Core :=
  { groups := some Grp.supervisorReset :: List.replicate 95 none, ages := [0], units := List.replicate 12 Units.free,
    teams := [{ Team.fresh with num := 256, place := [c], shared := 4096 }], away := [], pend := [], outb := [], tlb := [], wakes := [],
    mailbox := [], posts := [], tring := 0, tail := 0, head := 0, stage := 0, records := [], owner := none,
    waiters := [], launch := none, grantAt := 0, cleared := false, mops := [], tiles := [], jobs := [],
    voyage := none, vdep := 0, varr := 0, vhar := 0, vmus := 0, vber := 0, vgen := 0 }

/-- A helm core at reset (log 8: PRESUMED, unsafe). -/
def Helm.reset : Helm :=
  { regs := { pc := 0, x := List.replicate 32 0, f := List.replicate 32 0 }, priv := 3, csrs := [], resv := none, outb := [],
    checkpoint := none, rd := 0, depth := 0, cause := 0, rsig := [], wsig := [], writes := [], ticket := none, irqs := [] }

/-- The package right after reset, with every supervisor released (R341). (log 2: DESIGN CHOICE, unsafe; 9: DESIGN
CHOICE, unsafe; 10: DESIGN CHOICE, unsafe) -/
def State.reset : State :=
  { tape := [], focus := 0, cur := { core := 0, slot := 0, mask := 0xFFFF_FFFF_FFFF_FFFF, first := 0 }, freeCount := 0, nextId := 0,
    clock := 0, mem := [], cores := (List.range 176).map Core.reset, helms := List.replicate 64 Helm.reset,
    homes := [], hostCache := [], watches := [], ticket := 0, tickets := [], anchors := [], queues := List.replicate 8 [],
    nextGrid := 1, grids := [], binds := [[], []], regions := List.replicate 8 [], badPages := [], fltq := 0,
    fltTail := 0, fltHead := 0, fltPend := [], rows := [], ports := List.replicate 4 0x0000_C350_0000_0000, hwins := List.replicate 4 0, roles := List.replicate 4 0,
    contexts := [], hdms := List.replicate 8 (0, 0), inbound := [], sent := [], outstanding := [], landings := [], hostLines := [], files := [],
    handles := [], console := [], fab := 0x0000_03E8_0000_0000, fports := List.replicate 12 0, shared := [],
    exports := [], directory := [], copies := [], lostDies := [], lostEnds := [], orph := 0, orphTail := 0, orphHead := 0,
    orphans := [], losses := [], poison := [], lostBlocks := [], cleared := [], logs := [], planted := [], replays := [], mchk := 0, einj := 0,
    lsel := 0, counts := [], shown := [], updated := 0 }

end Sys2Proof.Machine
end

