-- ==== Sys2Proof/Machine/Ops.lean ====
section
/-! DEFINITION. The named operations over memory, registers, lanes and groups; writing an error log (21 R374); aborting a
lane transaction (15 R306); taking a trap (10 R220 to R223) and returning from one (R229). -/

namespace Sys2Proof.Machine

/-! ## Sparse contents -/

/-- The word at `a`; 0 where none is listed. (log 2: DESIGN CHOICE, unsafe) -/
def sget {w : Nat} : Sparse w → Nat → BitVec w
  | [], _ => 0
  | (b, v) :: m, a => if b = a then v else if a < b then 0 else sget m a

/-- Write `v` at `a`, keeping the entries sorted and without zeros. (log 2: DESIGN CHOICE, unsafe) -/
def sset {w : Nat} : Sparse w → Nat → BitVec w → Sparse w
  | [], a, v => if v = 0 then [] else [(a, v)]
  | (b, u) :: m, a, v =>
    if b = a then (if v = 0 then m else (a, v) :: m)
    else if a < b then (if v = 0 then (b, u) :: m else (a, v) :: (b, u) :: m)
    else (b, u) :: sset m a v

/-- The canonical form: every address above `lo`, rising, and no entry 0. -/
def Sparse.wfFrom {w : Nat} : Nat → Sparse w → Bool
  | _, [] => true
  | lo, (a, v) :: m => lo ≤ a && v != 0 && Sparse.wfFrom (a + 1) m

/-- The canonical form of memory. (log 2: DESIGN CHOICE, unsafe) -/
def Memory.wf (m : Memory) : Bool := Sparse.wfFrom 0 m

/-- `n` bytes from `a` on. (log 2: DESIGN CHOICE, unsafe) -/
def readBytes (m : Memory) : Nat → Nat → List Byte
  | _, 0 => []
  | a, n + 1 => sget m a :: readBytes m (a + 1) n

/-- Bytes written from `a` on. (log 2: DESIGN CHOICE, unsafe) -/
def writeBytes (m : Memory) : Nat → List Byte → Memory
  | _, [] => m
  | a, b :: bs => writeBytes (sset m a b) (a + 1) bs

/-- The little-endian value of `n` bytes at `a`. -/
def readLe (m : Memory) (a n : Nat) : Nat := leNat (readBytes m a n)

/-! ## Masks and lists -/

def full : Mask := 0xFFFF_FFFF_FFFF_FFFF

/-- The mask of the lanes below `n` that satisfy `f`. -/
def maskBelow (f : Nat → Bool) : Nat → Nat
  | 0 => 0
  | n + 1 => maskBelow f n + (if f n then 2 ^ n else 0)

def maskOf (f : Nat → Bool) : Mask := BitVec.ofNat 64 (maskBelow f 64)

/-- The lanes of a mask, in increasing order. -/
def lanesOf (m : Mask) : List Nat := (List.range 64).filter fun l => m.getLsbD l

def lowest (m : Mask) : Option Nat := (lanesOf m).head?

def oneLane (l : Nat) : Mask := BitVec.ofNat 64 (2 ^ l)

/-- Change the elements of a list by their index, counted from `i`. -/
def mapFrom {α β : Type} (f : Nat → α → β) : Nat → List α → List β
  | _, [] => []
  | i, x :: xs => f i x :: mapFrom f (i + 1) xs

/-- Change element `n` of a list. -/
def modAt {α : Type} (f : α → α) : Nat → List α → List α
  | _, [] => []
  | 0, x :: xs => f x :: xs
  | n + 1, x :: xs => x :: modAt f n xs

/-- Bits [hi:lo] of a value. -/
def bitsOf (v hi lo : Nat) : Nat := v / 2 ^ lo % 2 ^ (hi + 1 - lo)

/-! ## Cores, groups, teams, lanes -/

def coreAt (s : State) (c : Nat) : Core := s.cores.getD c (Core.reset c)

def setCore (s : State) (c : Nat) (x : Core) : State := { s with cores := s.cores.set c x }

def modCore (s : State) (c : Nat) (f : Core → Core) : State := setCore s c (f (coreAt s c))

def grpIn (x : Core) (k : Nat) : Option Grp := (x.groups.getD k none)

def grpAt (s : State) (c k : Nat) : Option Grp := grpIn (coreAt s c) k

def setGrp (s : State) (c k : Nat) (g : Option Grp) : State :=
  modCore s c fun x => { x with groups := x.groups.set k g }

/-- Change a group; nothing where the slot is empty. -/
def modGrp (s : State) (c k : Nat) (f : Grp → Grp) : State :=
  match grpAt s c k with
  | some g => setGrp s c k (some (f g))
  | none => s

def laneAt (g : Grp) (l : Nat) : Lane := g.lanes.getD l Lane.empty

def modLane (g : Grp) (l : Nat) (f : Lane → Lane) : Grp := { g with lanes := modAt f l g.lanes }

/-- Change the lanes of a mask. -/
def mapLanes (m : Mask) (f : Nat → Lane → Lane) (g : Grp) : Grp :=
  { g with lanes := mapFrom (fun l ln => if m.getLsbD l then f l ln else ln) 0 g.lanes }

/-- The lanes that satisfy a test. -/
def lanesWhere (g : Grp) (f : Lane → Bool) : Mask := maskOf fun l => f (laneAt g l)

def liveMask (g : Grp) : Mask := lanesWhere g fun ln => ln.status = .live

/-- The resident team numbered `t` of a core. -/
def teamIn (x : Core) (t : Nat) : Option Team := x.teams.find? fun tm => tm.num = t

def teamAt (s : State) (c t : Nat) : Option Team := teamIn (coreAt s c) t

def modTeam (s : State) (c t : Nat) (f : Team → Team) : State :=
  modCore s c fun x => { x with teams := x.teams.map fun tm => if tm.num = t then f tm else tm }

/-- The current group (the one whose word is executed). -/
def curGrp (s : State) : Option Grp := grpAt s s.cur.core s.cur.slot

def setCurGrp (s : State) (g : Grp) : State := setGrp s s.cur.core s.cur.slot (some g)

def modCur (s : State) (f : Grp → Grp) : State := modGrp s s.cur.core s.cur.slot f

/-- MeridianNow (R2). (log 9: DESIGN CHOICE, unsafe) -/
def meridian (s : State) : Nat := s.clock / Config.clocksPerTick

def gridOf (s : State) (id : Dword) : Option Grid := s.grids.find? fun g => g.id = id

def modGrid (s : State) (id : Dword) (f : Grid → Grid) : State :=
  { s with grids := s.grids.map fun g => if g.id = id then f g else g }

/-- The slot word of a slot (R225): slot in [6:4], partition in [3:0]. -/
def slotWord (k : Nat) : Nat := k % 8 * 16 + k / 8

/-- The slot that a slot word names; none where it names no user group's place (R225). -/
def slotOf (w : Nat) : Option Nat :=
  let k := 8 * (w % 16) + w / 16 % 8
  if w < 128 ∧ w % 16 < 12 ∧ k ≠ 0 then some k else none

/-! ## Registers -/

/-- The value of `n` registers from physical register `p` of a lane. -/
def getV (ln : Lane) (p : Nat) : Nat → Nat
  | 0 => 0
  | n + 1 => (sget ln.regs p).toNat + 2 ^ 32 * getV ln (p + 1) n

def putV (regs : Sparse 32) (p v : Nat) : Nat → Sparse 32
  | 0 => regs
  | n + 1 => putV (sset regs p (BitVec.ofNat 32 v)) (p + 1) (v / 2 ^ 32) n

/-- Write `n` registers of a lane through its window (R78). -/
def wrV (ln : Lane) (name n v : Nat) : Lane := { ln with regs := putV ln.regs (ln.base + name) v n }

/-- The value of `n` scalar registers. -/
def getS (g : Grp) (num : Nat) : Nat → Nat
  | 0 => 0
  | n + 1 => (sget g.sregs num).toNat + 2 ^ 32 * getS g (num + 1) n

def putS (g : Grp) (num n v : Nat) : Grp := { g with sregs := putV g.sregs num v n }

/-- A mask register; M7 reads all ones (R136). -/
def getM (g : Grp) (m : MReg) : Mask := g.masks.getD m.val full

def putM (g : Grp) (m : MReg) (v : Mask) : Grp := { g with masks := g.masks.set m.val v }

def getP (ln : Lane) (p : PReg) : Bool := ln.preds.getLsbD p.val

/-- Write a predicate; P7 discards it (R75). -/
def setP (ln : Lane) (p : PReg) (b : Bool) : Lane :=
  if p = 7 then ln
  else { ln with preds := if b then ln.preds ||| BitVec.ofNat 8 (2 ^ p.val)
                          else ln.preds &&& ~~~(BitVec.ofNat 8 (2 ^ p.val)) }

def addFlags (ln : Lane) (f : Flags) : Lane := { ln with lsw := ln.lsw ||| f }

/-! ## The lane status word (R108) -/

def inTxn (ln : Lane) : Bool := ln.lsw.getLsbD 31

def lswTry (ln : Lane) : Nat := bitsOf ln.lsw.toNat 30 27

def lswCause (ln : Lane) : Nat := bitsOf ln.lsw.toNat 26 22

/-- Set TXA, TRY and CAUSE. -/
def setLsw (ln : Lane) (txa : Bool) (tr cause : Nat) : Lane :=
  { ln with lsw := BitVec.ofNat 32 ((if txa then 2 ^ 31 else 0) + tr * 2 ^ 27 + cause * 2 ^ 22 + ln.lsw.toNat % 2 ^ 22) }

/-! ## Guards and the window (R14, R78) -/

def guardTrue (g : Guard) (ln : Lane) : Bool := getP ln g.p != g.neg

/-- The lanes of a set whose guard is true. -/
def guarded (gd : Guard) (g : Grp) (m : Mask) : Mask := maskOf fun l => m.getLsbD l && guardTrue gd (laneAt g l)

/-- Whether every vector register that an operand denotes for a lane lies in the allotment. -/
def useFits (g : Grp) (ln : Lane) (u : Use) : Bool :=
  match u.op with
  | .v n => ln.base + n.val + u.n ≤ g.alloc
  | _ => true

/-- The lanes of a set that would raise WINDOW. -/
def windowLanes (us : List Use) (g : Grp) (m : Mask) : Mask :=
  maskOf fun l => m.getLsbD l && !(us.all (useFits g (laneAt g l)))

/-! ## Error logs (R373, R374) -/

def logOf (s : State) (u k : Nat) : ErrLog :=
  (s.logs.find? fun e => e.unit = u ∧ e.kind = k).getD { unit := u, kind := k, els := 0, ela := 0 }

def putLog (s : State) (e : ErrLog) : State :=
  { s with logs := e :: s.logs.filter fun x => ¬(x.unit = e.unit ∧ x.kind = e.kind) }

/-- Add to a lifetime count (R376), saturating. -/
def addCount (s : State) (i : Nat) (n : Nat) : State :=
  { s with counts := sset s.counts i (BitVec.ofNat 64 (min (2 ^ 64 - 1) ((sget s.counts i).toNat + n))) }

/-- The fields of pk.els. -/
def packEls (uc more inj : Bool) (syn ctx count : Nat) : Dword :=
  BitVec.ofNat 64 (2 ^ 63 + uc.toNat * 2 ^ 62 + more.toNat * 2 ^ 61 + inj.toNat * 2 ^ 60 + syn % 2 ^ 16 * 2 ^ 32
    + ctx % 2 ^ 16 * 2 ^ 16 + count)

/-- One error on a log's registers (R374), and whether it fills the entry. An uncorrected error that replaces a
corrected one leaves OVER set, since it arrived while VALID was 1 (R373). (log 93: DEDUCED, unsafe) -/
def takeError (r : Dword × Dword × Nat) (e : ErrArrival) : Dword × Dword × Nat :=
  let els := r.1
  let count := min 65535 (els.toNat % 2 ^ 16 + 1)
  let addr := BitVec.ofNat 64 (e.addr % 2 ^ 56)
  if !els.getLsbD 63 then (packEls e.uc false e.inj e.syn e.ctx count, addr, r.2.2 + 1)
  else if e.uc && !els.getLsbD 62 then (packEls e.uc true e.inj e.syn e.ctx count, addr, r.2.2 + 1)
  else ((BitVec.ofNat 64 (els.toNat / 2 ^ 16 * 2 ^ 16 + count)) ||| BitVec.ofNat 64 (2 ^ 61), r.2.1, r.2.2)

/-- An error among those of one clock, which are taken by increasing ADDR. -/
def insertError (e : ErrArrival) : List ErrArrival → List ErrArrival
  | [] => [e]
  | x :: r => if e.addr < x.addr then e :: x :: r else x :: insertError e r

/-- The registers after the errors of one clock, and how many entries they filled. -/
def errorsOf (els0 ela0 : Dword) (es : List ErrArrival) : Dword × Dword × Nat := es.foldl takeError (els0, ela0, 0)

/-- The log after the errors of the present clock. -/
def ErrLog.settle (l : ErrLog) : ErrLog :=
  let r := errorsOf l.els0 l.ela0 l.recent
  { l with els := r.1, ela := r.2.1 }

/-- The log with the errors of its present clock; none where the clock is another. -/
def ErrLog.at_ (now : Nat) (l : ErrLog) : ErrLog :=
  if l.last = now then l else { l with last := now, els0 := l.els, ela0 := l.ela, recent := [] }

/-- How many uncorrected or mirror entries the errors of a log's present clock have filled (R374). -/
def filledEntries (l : ErrLog) : Nat := (errorsOf l.els0 l.ela0 (l.recent.filter fun e => e.uc || l.kind = 6)).2.2

/-- An error reaches log (u, k) (R374). A lifetime count takes every corrected error, and every uncorrected or mirror
entry that is filled (R376). -/
def logError (s : State) (u k : Nat) (uc inj : Bool) (syn ctx addr : Nat) : State :=
  let l := (logOf s u k).at_ s.clock
  let l' := { l with recent := insertError { addr := addr, uc := uc, inj := inj, syn := syn, ctx := ctx } l.recent }.settle
  let counted := uc || k = 6
  addCount (putLog s l') ((if counted then 0x4100 else 0x0100) + 16 * u + k) (if counted then filledEntries l' - filledEntries l else 1)

/-- A W1C of VALID (R373): it comes before the errors of its clock (R374), one of which may then fill the entry (R376). -/
def clearLog (s : State) (u k : Nat) : State :=
  let l := (logOf s u k).at_ s.clock
  let l' := { l with els0 := 0, ela0 := 0 }.settle
  addCount (putLog s l') (0x4100 + 16 * u + k) (filledEntries l' - filledEntries l)

/-- The CTX field of a log: the core-local team and the slot word (R373). -/
def logCtx (g : Grp) (k : Nat) : Nat := g.team % 256 * 256 + slotWord k

/-! ## Aborting a lane transaction (R298, R306) -/

/-- Causes that count toward the retry limit. -/
def countedCause (c : Nat) (retry : Bool) : Bool := c = 1 || c = 2 || c = 4 || c = 5 || (c ≥ 0x10 && retry)

/-- Causes that send the lane to its handler: CAPACITY does in an anchored run. -/
def handlerCause (c : Nat) (retry anchored : Bool) : Bool :=
  c = 6 || c = 8 || c = 9 || c = 0xA || (c ≥ 0x10 && !retry) || (c = 2 && anchored)

/-- The lane after an abort. It is ready again, at its restart or at its handler. -/
def abortedLane (c : Nat) (retry : Bool) (conflict : Option Nat) (ln : Lane) : Lane :=
  match ln.txn with
  | none => ln
  | some t =>
    let ln1 := { ln with
      preds := t.preds, depth := t.depth, base := t.base, cab := t.cab, spill := t.spill,
      regs := (mapFrom (fun i (w : Word) => (t.base + t.d + i, w)) 0 t.regs).foldl (fun r p => sset r p.1 p.2) ln.regs,
      txn := none, wait := .ready, conflict := if countedCause c retry then conflict else ln.conflict }
    let tr := if countedCause c retry then min (lswTry ln + 1) 15 else lswTry ln
    if handlerCause c retry t.anchor.isSome then { setLsw ln1 false 0 c with pc := t.handler }
    else { setLsw ln1 false tr c with pc := t.restart }

/-- Release an anchor lock (R307); its waiters stay queued. -/
def freeAnchor (s : State) (k : Nat) : State :=
  { s with anchors := s.anchors.map fun a => if a.k = k then { a with holder := none } else a }

/-- A tack ends: every starvation count of the group resets (R82). -/
def endTack (g : Grp) : Grp :=
  match g.tack with
  | none => g
  | some _ => { g with tack := none, lanes := g.lanes.map fun ln => { ln with starve := 0 } }

/-- A lane leaves the sets of a REP and of a tack that it no longer stands with; an empty set ends them. (log 121:
DEDUCED, unsafe) -/
def leaveSets (l : Nat) (g : Grp) : Grp :=
  let g1 := { g with rep := g.rep.bind fun r =>
    if r.set &&& ~~~oneLane l = 0 then none else some { r with set := r.set &&& ~~~oneLane l } }
  match g.tack with
  | none => g1
  | some t =>
    if t.set &&& ~~~oneLane l = 0 then endTack g1 else { g1 with tack := some { t with set := t.set &&& ~~~oneLane l } }

/-- A load that is under way when its transaction aborts: it goes on without a record, and writes no register that the
abort restores (R300, R306; log 19). (log 19: DEDUCED, unsafe) -/
def abandoned (t : Txn) (a : Acc) : Option Acc :=
  let lo := t.base + t.d
  let hi := lo + t.regs.length
  match a.dst with
  | .v p n => if lo ≤ p ∧ p + n ≤ hi then none else some { a with txn := false, spared := (lo, hi) }
  | _ => some { a with txn := false }

/-- Abort the transaction of a lane, if it has one. (log 19: DEDUCED, unsafe) (log 121: DEDUCED, unsafe) -/
def abortLane (s : State) (c k l : Nat) (cause : Nat) (retry : Bool) (conflict : Option Nat) : State :=
  match grpAt s c k with
  | none => s
  | some g =>
    match (laneAt g l).txn with
    | none => s
    | some t =>
      let s1 := setGrp s c k (some (leaveSets l (modLane g l (abortedLane cause retry conflict))))
      let gone (a : Acc) : Option Acc := if a.slot = k && a.lane = l && a.txn then abandoned t a else some a
      let s2 := modCore s1 c fun x => { x with pend := x.pend.filterMap gone }
      match t.anchor with
      | some a => freeAnchor s2 a
      | none => s2

/-- Abort several lanes of a group. -/
def abortLanes (s : State) (c k : Nat) (m : Mask) (cause : Nat) : State :=
  (lanesOf m).foldl (fun s l => abortLane s c k l cause false none) s

/-! ## Taking a trap (R220 to R223) and returning from one (R229) -/

/-- Clear a lane's reservation (R176). An SC of the lane that waits to be served keeps it: what clears it here comes
after that SC (R175, log 18). (log 18: DEDUCED, unsafe) -/
def dropResv (x : Core) (k l : Nat) (ln : Lane) : Lane :=
  if x.pend.any fun a => a.slot = k && a.lane = l && a.kind = .sc then ln else { ln with resv := none }

/-- Clear every reservation of a group. (log 18: DEDUCED, unsafe) -/
def clearResv (x : Core) (k : Nat) (g : Grp) : Grp := { g with lanes := mapFrom (dropResv x k) 0 g.lanes }

/-- The clock count of a rendezvous as of `now` (R147). -/
def Rdv.count (now : Nat) (r : Rdv) : Nat := r.base + (now - r.since)

/-- Its count stands still from `now` on; and runs again from `now` on. -/
def Rdv.halt (now : Nat) (r : Rdv) : Rdv := { r with base := r.count now, since := now }
def Rdv.start (now : Nat) (r : Rdv) : Rdv := { r with since := now }

/-- The words of a core that watch a grain (R295). -/
def watchedWords (x : Core) (grain size : Nat) : Nat :=
  (x.pend.filterMap fun a =>
    match a.watch, a.place with
    | .entry, .glob pa => if grain ≤ pa ∧ pa < grain + size then some pa else none
    | _, _ => none).dedup.length

/-- A core's watch entries count their words, and one without any is freed (R295). (log 101: DEDUCED, unsafe) -/
def syncWatches (s : State) (c : Nat) : State :=
  { s with watches := s.watches.filterMap fun w =>
      if w.core ≠ c then some w
      else
        let n := watchedWords (coreAt s c) w.grain w.size
        if n = 0 then none else some { w with words := n } }

/-- The watches of a slot's lanes end: a parked WAITV reads again once its group runs (R295). (log 101: DEDUCED,
unsafe) -/
def unwatch (s : State) (c k : Nat) : State :=
  syncWatches (modCore s c fun x => { x with pend := x.pend.map fun a => if a.slot = k then { a with watch := .no } else a }) c

/-- A group stops with a cause: its tack ends, its reservations are cleared, its watches end, and the core holds the record
until it is written. The supervisor group writes no record; log kind 0x0C takes the cause and the PC (R223, R374). -/
def takeTrap (s : State) (c k : Nat) (r : TrapRec) : State :=
  match grpAt s c k with
  | none => s
  | some g =>
    let s1 := setGrp (unwatch s c k) c k (some { clearResv (coreAt s c) k (endTack g) with
      stop := some r, rdv := g.rdv.map (Rdv.halt s.clock), bars := g.bars.map (Rdv.halt s.clock) })
    if g.supervisor then logError s1 c 0x0C true false r.cause 0 r.pc.toNat
    else modCore s1 c fun x => { x with records := x.records ++ [r] }

/-- A cause that a group detects: held until its next issue opportunity (R220). -/
def holdCause (s : State) (c k : Nat) (r : TrapRec) : State :=
  modGrp s c k fun g => { g with causes := g.causes ++ [r] }

/-- A trap record of a group. -/
def mkRec (g : Grp) (k : Nat) (mask : Mask) (pc : Dword) (addr info cause kind : Nat) : TrapRec :=
  { mask := mask, pc := pc, addr := addr, info := info, cause := cause, kind := kind, slot := k, team := g.team,
    grid := g.grid, wid := 0 }

/-- The PC at which the current issue set stands. -/
def curPc (s : State) : Dword :=
  match curGrp s, lowest s.cur.mask with
  | some g, some l => (laneAt g l).pc
  | _, _ => 0

/-- A precise trap of the current word: the lanes that raised it, the address and the information (R221). (log 37:
DEDUCED, unsafe) -/
def trap (s : State) (cause : Nat) (mask : Mask) (addr info : Nat) : State :=
  match curGrp s with
  | none => s
  | some g => takeTrap s s.cur.core s.cur.slot (mkRec g s.cur.slot mask (curPc s) addr info cause 0)

/-- Add 8 to the PC of a set of lanes. -/
def advance (m : Mask) (g : Grp) : Grp := mapLanes m (fun _ ln => { ln with pc := ln.pc + 8 }) g

/-- SKIP: the lanes of a record stand past their word, and leave a REP that stands there (R99, R229). -/
def skipLanes (m : Mask) (g : Grp) : Grp :=
  let g1 := advance m g
  { g1 with rep := g.rep.bind fun r => if r.set &&& ~~~m = 0 then none else some { r with set := r.set &&& ~~~m } }

/-- SRET.RESUME: SKIP first adds 8 to the PC of the record's lanes; the group may issue again (R229). -/
def resumeGroup (now : Nat) (skip : Bool) (g : Grp) : Grp :=
  match g.stop with
  | none => g
  | some r =>
    { (if skip then skipLanes r.mask g else g) with
      stop := none, rdv := g.rdv.map (Rdv.start now), bars := g.bars.map (Rdv.start now) }

/-! ## Going on after a word (R44, R80, R99) -/

/-- The current word is done: under REP the index moves on, and the PC only after the last issue. -/
def finishGrp (m : Mask) (g : Grp) : Grp :=
  match g.rep with
  | none => advance m g
  | some r =>
    if r.next + 1 < r.count then { g with rep := some { r with next := r.next + 1 } }
    else { advance m g with rep := none }

def finishWord (s : State) : State := modCur s (finishGrp s.cur.mask)

/-- The current word must wait before it takes any effect: it has not issued, and is no issue opportunity (R80, R134). -/
def stalled (s : State) : State := { s with cur := { s.cur with waits := true } }

/-! ## The frame of a word -/

/-- The voyage grid's segment pinned on a core, if the group belongs to it (R251). -/
def pinnedSeg (x : Core) (g : Grp) : Option Segment :=
  match x.voyage with
  | none => none
  | some v => if g.grid = v.grid ∧ !g.supervisor then v.seg.bind fun i => v.chart.segs[i]? else none

/-- The lanes that would fall off their segment (VFALL, R253): all of the set, or at a transfer or EXIT those whose
guard is false. -/
def fallLanes (x : Core) (g : Grp) (m gm : Mask) (leaves : Bool) : Mask :=
  match pinnedSeg x g with
  | none => 0
  | some sg =>
    maskOf fun l =>
      m.getLsbD l && (laneAt g l).pc.toNat + 8 = sg.start + sg.len && !(leaves && gm.getLsbD l)

/-- Whether a word is a transfer or EXIT. -/
def leavesPc : Instr → Bool
  | .bra .. | .call .. | .trav .. | .brx .. | .callx .. | .travx .. | .ret .. | .exit .. => true
  | _ => false

abbrev Out := Host.Outcome State Fault Refusal

/-- The frame of a vector word: WINDOW for the lanes whose guard is true, then VFALL, then the word itself, with the
group and those lanes. A transfer has its own, since VFALL comes last there (R253). (log 94: DEDUCED, unsafe) -/
def withWord (i : Instr) (s : State) (body : Grp → Mask → State) : Out :=
  match curGrp s with
  | none => .fault .noGroup
  | some g =>
    let gm := guarded (i.guard.getD Guard.always) g s.cur.mask
    let wm := windowLanes i.uses g gm
    let fm := fallLanes (coreAt s s.cur.core) g s.cur.mask gm (leavesPc i)
    if wm ≠ 0 then .next (trap s 0x02 wm 0 0)
    else if fm ≠ 0 then .next (trap s 0x1A fm 0 0)
    else .next (body g gm)

/-- A word that lanes inside a transaction may not run (R301): they abort with `cause` and leave the issue set; the
others run it. -/
def withoutTxn (cause : Nat) (s : State) (g : Grp) (gm : Mask) (body : State → Grp → Mask → State) : State :=
  let tm := maskOf fun l => gm.getLsbD l && inTxn (laneAt g l)
  if tm = 0 then body s g gm
  else
    let s1 := abortLanes s s.cur.core s.cur.slot tm cause
    let s2 := { s1 with cur := { s1.cur with mask := s1.cur.mask &&& ~~~tm } }
    if s2.cur.mask = 0 then s2
    else match curGrp s2 with
      | some g2 => body s2 g2 (gm &&& ~~~tm)
      | none => s2

/-- The lanes of the issue set that stand in a transaction at a word it forbids and have a false guard: they go on past the word,
whatever the others do at it (R301). -/
def passing (s : State) (g : Grp) (gm : Mask) : Mask :=
  maskOf fun l => s.cur.mask.getLsbD l && !gm.getLsbD l && inTxn (laneAt g l)

/-- A word of the supervisor group alone: PRIV in a user group (R223). (log 48: DEDUCED, unsafe) -/
def supervisorOnly (s : State) (g : Grp) (gm : Mask) (body : State) : State :=
  if gm = 0 then finishWord s else if g.supervisor then body else trap s 0x13 gm 0 0

end Sys2Proof.Machine
end

