-- ==== Sys2Proof/Machine/Operands.lean ====
section
/-! DEFINITION. The operand forms of a lane (02 R34 to R38), and the word that computes in each lane by itself: its
destination, its flags, its predicate, and mirror mode (05 R106, R107; 06 R133, R138 to R141). -/

namespace Sys2Proof.Machine

/-- What a lane reads operands from. -/
structure Env where
  core : Nat
  grp : Grp
  ccore : Nat
  l : Nat
  lane : Lane
  meridian : Nat
  deriving DecidableEq, Repr

/-- The environment of lane `l` of the current group. -/
def envOf (s : State) (g : Grp) (l : Nat) : Env :=
  { core := s.cur.core, grp := g, ccore := ((teamAt s s.cur.core g.team).map (·.ccore)).getD 0, l := l,
    lane := laneAt g l, meridian := meridian s }

/-! ## Constants (R35, R36) -/

def identVal (e : Env) : IdentConst → Nat
  | .lane => e.l
  | .quad => e.l / 4
  | .group => e.grp.index
  | .team => e.ccore
  | .ccore => e.ccore
  | .core => e.core
  | .depth => e.lane.depth
  | .mlo => e.meridian % 2 ^ 32

/-- The F32 column of R35. -/
def flt32 : List Nat :=
  [0x00000000, 0x80000000, 0x3F800000, 0xBF800000, 0x40000000, 0xC0000000, 0x3F000000, 0xBF000000, 0x3E800000,
   0x40800000, 0x41000000, 0x3E000000, 0x40400000, 0x41200000, 0x40490FDB, 0x3F317218, 0x3FB8AA3B, 0x3F3504F3,
   0x7F800000, 0xFF800000, 0x7FC00000, 0x7F7FFFFF, 0x00800000, 0x34000000]

/-- The constants that a format does not take from the F32 column: #pi to #rsqrt2 and #nan to #eps (R36). -/
def fltOwn (f : Fmt) : List Nat :=
  if f = fmt64 then
    [0x400921FB54442D18, 0x3FE62E42FEFA39EF, 0x3FF71547652B82FE, 0x3FE6A09E667F3BCD, 0x7FF8000000000000,
     0x7FEFFFFFFFFFFFFF, 0x0010000000000000, 0x3CB0000000000000]
  else if f = fmt16 then [0x4248, 0x398C, 0x3DC5, 0x39A8, 0x7E00, 0x7BFF, 0x0400, 0x1400]
  else [0x4049, 0x3F31, 0x3FB9, 0x3F35, 0x7FC0, 0x7F7F, 0x0080, 0x3C00]

/-- A float constant in a format (R36). -/
def fltConst (f : Fmt) (c : Nat) : Nat :=
  if f = fmt32 then flt32.getD c 0
  else if 14 ≤ c ∧ c < 18 then (fltOwn f).getD (c - 14) 0
  else if 20 ≤ c then (fltOwn f).getD (c - 16) 0
  else (cvtFF fmt32 f .rne false false false (flt32.getD c 0)).1

/-- An integer constant in a float format: the exact value. -/
def intConst (f : Fmt) (n : Nat) : Nat := (cvtIF f .rne false false (n : Int)).1

/-! ## Reading -/

/-- The registers of an operand, `n` of them; none for a constant. -/
def regVal (e : Env) (o : Operand) (n : Nat) : Option Nat :=
  match o with
  | .v r => some (getV e.lane (e.lane.base + r.val) n)
  | .s r => some (getS e.grp r.val n)
  | _ => none

/-- An operand of an integer or untyped form, `n` registers wide (R36). -/
def opI (e : Env) (n : Nat) (o : Operand) : Nat :=
  match o with
  | .v r => getV e.lane (e.lane.base + r.val) n
  | .s r => getS e.grp r.val n
  | .int k => k.val
  | .flt c => flt32.getD c.val 0
  | .ident c => identVal e c

/-- An operand of a float form. -/
def opF (e : Env) (f : Fmt) (o : Operand) : Nat :=
  match o with
  | .int k => intConst f k.val
  | .flt c => fltConst f c.val
  | _ => opI e (if f = fmt64 then 2 else 1) o

/-- An operand of an FP32 or packed form: a constant stands in both halves (R36). -/
def opT (e : Env) (t : FTy) (o : Operand) : Nat :=
  match t with
  | .f32 => opF e fmt32 o
  | .f16x2 => match o with
    | .v _ | .s _ => opI e 1 o
    | _ => opF e fmt16 o * (2 ^ 16 + 1)
  | .bf16x2 => match o with
    | .v _ | .s _ => opI e 1 o
    | _ => opF e fmtB16 o * (2 ^ 16 + 1)

/-- A conversion's source operand (R36). -/
def opCvt (e : Env) (t : CvtTy) (o : Operand) : Nat :=
  if t.float then opF e (cvtFmt t) o else opI e (regs12 t.w64) o

def fz32 (g : Grp) : Bool := g.ftz.getLsbD 0
def fz64 (g : Grp) : Bool := g.ftz.getLsbD 1
def fzm (g : Grp) : Bool := g.ftz.getLsbD 2

/-! ## Results -/

/-- A value with its flags. -/
def Res.ofPair (r : Nat × Flags) : Res := { val := r.1, flags := r.2 }
def Res.ofNat (v : Nat) : Res := { val := v }

/-- A result that writes a predicate only. -/
def Res.ofPred (p : PReg) (r : Bool × Flags) : Res := { flags := r.2, pred := some (p, r.1) }

/-- A result with a predicate, 7 for none. -/
def Res.withPred (p : PReg) (v : Nat) (b : Bool) : Res := { val := v, pred := some (p, b) }

/-! ## Mirror mode (R133, R138 to R141) -/

/-- Whether a word runs in the scalar unit: an S destination and no V source (R133). (log 22: DEDUCED, unsafe) -/
def scalarUnit (us : List Use) : Bool :=
  match us.find? (·.wr) with
  | some u => !u.op.isV && us.all fun v => !v.op.isV && (match v.op with | .ident _ => false | _ => true)
  | none => false

/-- Whether a quad holds a lane of a mask. -/
def quadActive (m : Mask) (q : Nat) : Bool := m.toNat / 2 ^ (4 * q) % 16 ≠ 0

/-- Active quads, and those that mirror mode checks: every one under full, else those whose partner is idle. -/
def activeQuads (m : Mask) : Nat := ((List.range 16).filter fun q => quadActive m q).length

def checkedQuads (mode : Nat) (m : Mask) : Nat :=
  ((List.range 16).filter fun q =>
    quadActive m q && (mode ≥ 2 || !quadActive m (if q % 2 = 0 then q + 1 else q - 1))).length

/-- The counters after a word in the vector pipes. -/
def mirrorCount (gm : Mask) (g : Grp) : Grp :=
  let mode := g.dmr.toNat % 4
  if mode = 0 then g
  else { g with dmra := g.dmra + BitVec.ofNat 64 (activeQuads gm),
                dmrc := g.dmrc + BitVec.ofNat 64 (checkedQuads mode gm) }

/-- Whether pk.einj is armed with an error for array `k` of unit `u`; FLIPS of 0 or 3 place nothing (R375). (log 72:
DEDUCED, unsafe) -/
def armedFor (s : State) (u k : Nat) : Bool :=
  s.einj.getLsbD 63 && bitsOf s.einj.toNat 31 24 = k && bitsOf s.einj.toNat 9 0 = u
    && (bitsOf s.einj.toNat 41 40 = 1 || bitsOf s.einj.toNat 41 40 = 2)

/-- Whether an armed injection forces this word's comparison to differ (R375). (log 72: DEDUCED, unsafe) -/
def mirrorFails (s : State) (g : Grp) (gm : Mask) : Bool :=
  armedFor s s.cur.core 6 && g.dmr.toNat % 4 ≠ 0 && checkedQuads (g.dmr.toNat % 4) gm ≠ 0

/-- The first checked quad. -/
def firstChecked (mode : Nat) (m : Mask) : Nat :=
  ((List.range 16).find? fun q =>
    quadActive m q && (mode ≥ 2 || !quadActive m (if q % 2 = 0 then q + 1 else q - 1))).getD 0

/-- Disarm pk.einj and count the placed error (R375, R376). -/
def disarm (s : State) : State :=
  addCount { s with einj := BitVec.ofNat 64 (s.einj.toNat % 2 ^ 63) } 0x9004 1

/-- A comparison differs (R141): no effect; the group stops with MCHECK, a machine check, whose MASK names the lanes
of the word whose guard is true; the log takes the place: the partition, the pipe, the first checked quad of `gm`, its
pass. (log 95: DEDUCED, unsafe) (log 125: DEDUCED, unsafe) -/
def mirrorCheck (s : State) (g : Grp) (gm all : Mask) (pipe : Nat) : State :=
  let q := firstChecked (g.dmr.toNat % 4) gm
  let s1 := logError (disarm s) s.cur.core 0x06 false true (bitsOf s.einj.toNat 39 32 + 1) (logCtx g s.cur.slot)
    (s.cur.slot / 8 * 32 + pipe % 2 * 16 + q % 16 + q / 4 * 2 ^ 48)
  takeTrap s1 s.cur.core s.cur.slot (mkRec g s.cur.slot all (curPc s) 0 0 0x17 2)

/-! ## Lane-wise words -/

/-- The effect of a word on a lane: destination in a V register, flags, predicate. -/
def putRes (d : Option (Reg × Nat)) (r : Res) (ln : Lane) : Lane :=
  let ln1 := match d with
    | some (.v n, k) => wrV ln n.val k r.val
    | _ => ln
  let ln2 := addFlags ln1 r.flags
  match r.pred with
  | some (p, b) => setP ln2 p b
  | none => ln2

/-- A lane that does not write the S destination takes its predicate only (R37). -/
def putPredOnly (r : Res) (ln : Lane) : Lane :=
  match r.pred with
  | some (p, b) => setP ln p b
  | none => ln

/-- A lane-wise effect on the lanes of `gm` (R37, R106): an S destination is written by the lowest of them. -/
def putAll (s : State) (gm : Mask) (d : Option (Reg × Nat)) (f : Env → Res) (g : Grp) : Grp :=
  match d with
  | some (.s n, k) =>
    match lowest gm with
    | none => g
    | some l0 =>
      let g1 := mapLanes gm (fun l ln =>
        if l = l0 then putRes none (f (envOf s g l)) ln else putPredOnly (f (envOf s g l)) ln) g
      putS g1 n.val k (f (envOf s g l0)).val
  | _ => mapLanes gm (fun l ln => putRes d (f (envOf s g l)) ln) g

/-- A lane-wise word of the vector pipes or the scalar unit. (log 22: DEDUCED, unsafe) -/
def aluWord (i : Instr) (d : Option (Reg × Nat)) (f : Env → Res) (s : State) : Out :=
  withWord i s fun g gm =>
    let sc := scalarUnit i.uses
    if !sc && mirrorFails s g gm then mirrorCheck s g gm gm s.cur.pipe
    else
      let g1 := putAll s gm d f g
      setCurGrp s (finishGrp s.cur.mask (if sc then g1 else mirrorCount gm g1))

end Sys2Proof.Machine
end

