-- ==== Sys2Proof/Machine/Float.lean ====
section
/-! DEFINITION. Floating-point forms of a lane: FP32 and packed halves, FP64, conversions, special functions (05 R115 to R122). -/

namespace Sys2Proof.Machine

/-- FADD (R115 to R117). -/
def execFadd (g : Guard) (t : FTy) (rm : Rm) (d : Reg) (a b : Operand) (s : State) : Out :=
  aluWord (.fadd g t rm d a b) (some (d, 1)) (fun e => .ofPair (fElem2 t (fun f => fpAdd f rm (fz32 e.grp)) (opT e t a) (opT e t b))) s

/-- FSUB (R115 to R117). -/
def execFsub (g : Guard) (t : FTy) (rm : Rm) (d : Reg) (a b : Operand) (s : State) : Out :=
  aluWord (.fsub g t rm d a b) (some (d, 1)) (fun e => .ofPair (fElem2 t (fun f => fpSub f rm (fz32 e.grp)) (opT e t a) (opT e t b))) s

/-- FMUL (R115 to R117). -/
def execFmul (g : Guard) (t : FTy) (rm : Rm) (d : Reg) (a b : Operand) (s : State) : Out :=
  aluWord (.fmul g t rm d a b) (some (d, 1)) (fun e => .ofPair (fElem2 t (fun f => fpMul f rm (fz32 e.grp)) (opT e t a) (opT e t b))) s

/-- FFMA (R115 to R117). -/
def execFfma (g : Guard) (t : FTy) (rm : Rm) (d : Reg) (a b c : Operand) (s : State) : Out :=
  aluWord (.ffma g t rm d a b c) (some (d, 1)) (fun e => .ofPair (fElem3 t (fun f => fpFma f rm (fz32 e.grp)) (opT e t a) (opT e t b) (opT e t c))) s

/-- FMIN (R115 to R117). -/
def execFmin (g : Guard) (t : FTy) (d : Reg) (a b : Operand) (s : State) : Out :=
  aluWord (.fmin g t d a b) (some (d, 1)) (fun e => .ofPair (fElem2 t (fun f => fpMin f (fz32 e.grp)) (opT e t a) (opT e t b))) s

/-- FMAX (R115 to R117). -/
def execFmax (g : Guard) (t : FTy) (d : Reg) (a b : Operand) (s : State) : Out :=
  aluWord (.fmax g t d a b) (some (d, 1)) (fun e => .ofPair (fElem2 t (fun f => fpMax f (fz32 e.grp)) (opT e t a) (opT e t b))) s

/-- FRND (R115 to R117). -/
def execFrnd (g : Guard) (t : FTy) (rm : Rm) (d : Reg) (a : Operand) (s : State) : Out :=
  aluWord (.frnd g t rm d a) (some (d, 1)) (fun e => .ofPair (fElem1 t (fun f => fpRnd f rm (fz32 e.grp)) (opT e t a))) s

/-- FFRAC (R115 to R117). -/
def execFfrac (g : Guard) (t : FTy) (d : Reg) (a : Operand) (s : State) : Out :=
  aluWord (.ffrac g t d a) (some (d, 1)) (fun e => .ofPair (fElem1 t (fun f => fpFrac f (fz32 e.grp)) (opT e t a))) s

/-- DADD (R118). -/
def execDadd (g : Guard) (rm : Rm) (d : Reg) (a b : Operand) (s : State) : Out :=
  aluWord (.dadd g rm d a b) (some (d, 2)) (fun e => .ofPair (fpAdd fmt64 rm (fz64 e.grp) (opF e fmt64 a) (opF e fmt64 b))) s

/-- DSUB (R118). -/
def execDsub (g : Guard) (rm : Rm) (d : Reg) (a b : Operand) (s : State) : Out :=
  aluWord (.dsub g rm d a b) (some (d, 2)) (fun e => .ofPair (fpSub fmt64 rm (fz64 e.grp) (opF e fmt64 a) (opF e fmt64 b))) s

/-- DMUL (R118). -/
def execDmul (g : Guard) (rm : Rm) (d : Reg) (a b : Operand) (s : State) : Out :=
  aluWord (.dmul g rm d a b) (some (d, 2)) (fun e => .ofPair (fpMul fmt64 rm (fz64 e.grp) (opF e fmt64 a) (opF e fmt64 b))) s

/-- DFMA (R118). -/
def execDfma (g : Guard) (rm : Rm) (d : Reg) (a b c : Operand) (s : State) : Out :=
  aluWord (.dfma g rm d a b c) (some (d, 2)) (fun e => .ofPair (fpFma fmt64 rm (fz64 e.grp) (opF e fmt64 a) (opF e fmt64 b) (opF e fmt64 c))) s

/-- DMIN (R118). -/
def execDmin (g : Guard) (d : Reg) (a b : Operand) (s : State) : Out :=
  aluWord (.dmin g d a b) (some (d, 2)) (fun e => .ofPair (fpMin fmt64 (fz64 e.grp) (opF e fmt64 a) (opF e fmt64 b))) s

/-- DMAX (R118). -/
def execDmax (g : Guard) (d : Reg) (a b : Operand) (s : State) : Out :=
  aluWord (.dmax g d a b) (some (d, 2)) (fun e => .ofPair (fpMax fmt64 (fz64 e.grp) (opF e fmt64 a) (opF e fmt64 b))) s

/-- DRND (R118). -/
def execDrnd (g : Guard) (rm : Rm) (d : Reg) (a : Operand) (s : State) : Out :=
  aluWord (.drnd g rm d a) (some (d, 2)) (fun e => .ofPair (fpRnd fmt64 rm (fz64 e.grp) (opF e fmt64 a))) s

/-- CVT (R67, R119, R120). -/
def execCvt (g : Guard) (dst src : CvtTy) (sat : Bool) (rm : Rm) (d : Reg) (a : Operand) (s : State) : Out :=
  aluWord (.cvt g dst src sat rm d a) (some (d, regs12 dst.w64)) (fun e => .ofPair (aluCvt dst src sat rm (fz32 e.grp) (fz64 e.grp) (opCvt e src a))) s

/-- The source format of a packing conversion, and whether its operand holds two elements. -/
def packSrc (e : Env) (p : PackPair) (o : Operand) : Nat :=
  match p with
  | .f16FromF32 | .bf16FromF32 => opF e fmt32 o
  | .e4m3FromF16 | .e5m2FromF16 => opT e .f16x2 o
  | .e4m3FromBf16 | .e5m2FromBf16 => opT e .bf16x2 o

/-- The source operand of an unpacking conversion. -/
def unpackSrc (e : Env) (p : UnpackPair) (o : Operand) : Nat :=
  match p with
  | .f32FromF16 => opT e .f16x2 o
  | .f32FromBf16 => opT e .bf16x2 o
  | _ => opI e 1 o

/-- CVTP that packs (R121). -/
def execCvtp (g : Guard) (p : PackPair) (sat : Bool) (rm : Rm) (d : Reg) (a b : Operand) (s : State) : Out :=
  aluWord (.cvtp g p sat rm d a b) (some (d, 1)) (fun e => .ofPair (aluCvtp p sat rm (fz32 e.grp) (packSrc e p a) (packSrc e p b))) s

/-- CVTP.UNPK (R121). (log 20: DEDUCED, unsafe) -/
def execCvtpUnpk (g : Guard) (p : UnpackPair) (rm : Rm) (d : Reg) (a : Operand) (s : State) : Out :=
  aluWord (.cvtpUnpk g p rm d a) (some (d, 2)) (fun e => .ofPair (aluCvtpUnpk p rm (fz32 e.grp) (unpackSrc e p a))) s

/-- FRCP (R122). -/
def execFrcp (g : Guard) (rm : Rm) (d : Reg) (a : Operand) (s : State) : Out :=
  aluWord (.frcp g rm d a) (some (d, 1)) (fun e => .ofPair (fRcp rm (fz32 e.grp) (opF e fmt32 a))) s

/-- FRSQ (R122). -/
def execFrsq (g : Guard) (rm : Rm) (d : Reg) (a : Operand) (s : State) : Out :=
  aluWord (.frsq g rm d a) (some (d, 1)) (fun e => .ofPair (fRsq rm (fz32 e.grp) (opF e fmt32 a))) s

/-- FSQRT (R122). -/
def execFsqrt (g : Guard) (rm : Rm) (d : Reg) (a : Operand) (s : State) : Out :=
  aluWord (.fsqrt g rm d a) (some (d, 1)) (fun e => .ofPair (fSqrt rm (fz32 e.grp) (opF e fmt32 a))) s

/-- FEXP2 (R122). -/
def execFexp2 (g : Guard) (rm : Rm) (d : Reg) (a : Operand) (s : State) : Out :=
  aluWord (.fexp2 g rm d a) (some (d, 1)) (fun e => .ofPair (fExp2 rm (fz32 e.grp) (opF e fmt32 a))) s

/-- FLOG2 (R122). -/
def execFlog2 (g : Guard) (rm : Rm) (d : Reg) (a : Operand) (s : State) : Out :=
  aluWord (.flog2 g rm d a) (some (d, 1)) (fun e => .ofPair (fLog2 rm (fz32 e.grp) (opF e fmt32 a))) s

/-- FSIN (R122). -/
def execFsin (g : Guard) (rm : Rm) (d : Reg) (a : Operand) (s : State) : Out :=
  aluWord (.fsin g rm d a) (some (d, 1)) (fun e => .ofPair (fSin rm (fz32 e.grp) (opF e fmt32 a))) s

/-- FCOS (R122). -/
def execFcos (g : Guard) (rm : Rm) (d : Reg) (a : Operand) (s : State) : Out :=
  aluWord (.fcos g rm d a) (some (d, 1)) (fun e => .ofPair (fCos rm (fz32 e.grp) (opF e fmt32 a))) s

/-- FTANH (R122). -/
def execFtanh (g : Guard) (rm : Rm) (d : Reg) (a : Operand) (s : State) : Out :=
  aluWord (.ftanh g rm d a) (some (d, 1)) (fun e => .ofPair (fTanh rm (fz32 e.grp) (opF e fmt32 a))) s

/-- FSGM (R122). -/
def execFsgm (g : Guard) (rm : Rm) (d : Reg) (a : Operand) (s : State) : Out :=
  aluWord (.fsgm g rm d a) (some (d, 1)) (fun e => .ofPair (fSgm rm (fz32 e.grp) (opF e fmt32 a))) s

/-- FERF (R122). -/
def execFerf (g : Guard) (rm : Rm) (d : Reg) (a : Operand) (s : State) : Out :=
  aluWord (.ferf g rm d a) (some (d, 1)) (fun e => .ofPair (fErf rm (fz32 e.grp) (opF e fmt32 a))) s

end Sys2Proof.Machine
end

