-- ==== Sys2Proof/Machine/Integer.lean ====
section
/-! DEFINITION. Integer, logic, bit and move forms of a lane (05 R110 to R114, R30). -/

namespace Sys2Proof.Machine

/-- IADD (R110). -/
def execIadd (g : Guard) (t : IntTy) (sat : Bool) (d : Reg) (a b : Operand) (s : State) : Out :=
  aluWord (.iadd g t sat d a b) (some (d, regs12 t.w64)) (fun e => .ofPair (aluAdd t sat (opI e (regs12 t.w64) a) (opI e (regs12 t.w64) b))) s

/-- ISUB (R110). -/
def execIsub (g : Guard) (t : IntTy) (sat : Bool) (d : Reg) (a b : Operand) (s : State) : Out :=
  aluWord (.isub g t sat d a b) (some (d, regs12 t.w64)) (fun e => .ofPair (aluSub t sat (opI e (regs12 t.w64) a) (opI e (regs12 t.w64) b))) s

/-- IMUL (R110). -/
def execImul (g : Guard) (t : IntTy) (sat : Bool) (d : Reg) (a b : Operand) (s : State) : Out :=
  aluWord (.imul g t sat d a b) (some (d, regs12 t.w64)) (fun e => .ofPair (aluMul t sat (opI e (regs12 t.w64) a) (opI e (regs12 t.w64) b))) s

/-- IADDC (R111): the carry out goes to predicate `k`. -/
def execIaddc (g : Guard) (t : IntTy) (d : Reg) (a b c : Operand) (k : PReg) (s : State) : Out :=
  aluWord (.iaddc g t d a b c k) (some (d, regs12 t.w64)) (fun e => let r := aluAddC t (opI e (regs12 t.w64) a) (opI e (regs12 t.w64) b) (opI e 1 c)
    .withPred k r.1 r.2) s

/-- IMULH (R110). -/
def execImulh (g : Guard) (t : IntTy) (d : Reg) (a b : Operand) (s : State) : Out :=
  aluWord (.imulh g t d a b) (some (d, regs12 t.w64)) (fun e => .ofNat (aluMulH t (opI e (regs12 t.w64) a) (opI e (regs12 t.w64) b))) s

/-- IMAD (R110). -/
def execImad (g : Guard) (t : IntTy) (sat : Bool) (d : Reg) (a b c : Operand) (s : State) : Out :=
  aluWord (.imad g t sat d a b c) (some (d, regs12 t.w64)) (fun e => .ofPair (aluMad t sat (opI e (regs12 t.w64) a) (opI e (regs12 t.w64) b) (opI e (regs12 t.w64) c))) s

/-- IMADW (R110). -/
def execImadw (g : Guard) (t : Ty32) (d : Reg) (a b c : Operand) (s : State) : Out :=
  aluWord (.imadw g t d a b c) (some (d, 2)) (fun e => .ofNat (aluMadW t (opI e 1 a) (opI e 1 b) (opI e 2 c))) s

/-- INEG (R110). -/
def execIneg (g : Guard) (t : SignTy) (sat : Bool) (d : Reg) (a : Operand) (s : State) : Out :=
  aluWord (.ineg g t sat d a) (some (d, regs12 t.w64)) (fun e => .ofPair (aluNeg t sat (opI e (regs12 t.w64) a))) s

/-- IABS (R110). -/
def execIabs (g : Guard) (t : SignTy) (sat : Bool) (d : Reg) (a : Operand) (s : State) : Out :=
  aluWord (.iabs g t sat d a) (some (d, regs12 t.w64)) (fun e => .ofPair (aluAbs t sat (opI e (regs12 t.w64) a))) s

/-- IMIN (R110). -/
def execImin (g : Guard) (t : IntTy) (d : Reg) (a b : Operand) (s : State) : Out :=
  aluWord (.imin g t d a b) (some (d, regs12 t.w64)) (fun e => .ofNat (aluMin t (opI e (regs12 t.w64) a) (opI e (regs12 t.w64) b))) s

/-- IMAX (R110). -/
def execImax (g : Guard) (t : IntTy) (d : Reg) (a b : Operand) (s : State) : Out :=
  aluWord (.imax g t d a b) (some (d, regs12 t.w64)) (fun e => .ofNat (aluMax t (opI e (regs12 t.w64) a) (opI e (regs12 t.w64) b))) s

/-- ICLAMP (R110). -/
def execIclamp (g : Guard) (t : IntTy) (d : Reg) (a b c : Operand) (s : State) : Out :=
  aluWord (.iclamp g t d a b c) (some (d, regs12 t.w64)) (fun e => .ofNat (aluClamp t (opI e (regs12 t.w64) a) (opI e (regs12 t.w64) b) (opI e (regs12 t.w64) c))) s

/-- LEA (R110). -/
def execLea (g : Guard) (t : Ty32) (d : Reg) (a b : Operand) (sh : Fin 16) (s : State) : Out :=
  aluWord (.lea g t d a b sh) (some (d, 2)) (fun e => .ofNat (aluLea t (opI e 2 a) (opI e 1 b) sh.val)) s

/-- AND (R112). -/
def execAnd (g : Guard) (t : IntTy) (d : Reg) (a b : Operand) (s : State) : Out :=
  aluWord (.and g t d a b) (some (d, regs12 t.w64)) (fun e => .ofNat (aluAnd (IntTy.width t) (opI e (regs12 t.w64) a) (opI e (regs12 t.w64) b))) s

/-- OR (R112). -/
def execOr (g : Guard) (t : IntTy) (d : Reg) (a b : Operand) (s : State) : Out :=
  aluWord (.or g t d a b) (some (d, regs12 t.w64)) (fun e => .ofNat (aluOr (IntTy.width t) (opI e (regs12 t.w64) a) (opI e (regs12 t.w64) b))) s

/-- XOR (R112). -/
def execXor (g : Guard) (t : IntTy) (d : Reg) (a b : Operand) (s : State) : Out :=
  aluWord (.xor g t d a b) (some (d, regs12 t.w64)) (fun e => .ofNat (aluXor (IntTy.width t) (opI e (regs12 t.w64) a) (opI e (regs12 t.w64) b))) s

/-- ANDN (R112). -/
def execAndn (g : Guard) (t : IntTy) (d : Reg) (a b : Operand) (s : State) : Out :=
  aluWord (.andn g t d a b) (some (d, regs12 t.w64)) (fun e => .ofNat (aluAndn (IntTy.width t) (opI e (regs12 t.w64) a) (opI e (regs12 t.w64) b))) s

/-- SHL (R112): the count is taken mod the width. -/
def execShl (g : Guard) (t : IntTy) (d : Reg) (a b : Operand) (s : State) : Out :=
  aluWord (.shl g t d a b) (some (d, regs12 t.w64)) (fun e => .ofNat (aluShl (IntTy.width t) (opI e (regs12 t.w64) a) (opI e 1 b))) s

/-- SHR (R112): the count is taken mod the width. -/
def execShr (g : Guard) (t : IntTy) (d : Reg) (a b : Operand) (s : State) : Out :=
  aluWord (.shr g t d a b) (some (d, regs12 t.w64)) (fun e => .ofNat (aluShr (IntTy.width t) (opI e (regs12 t.w64) a) (opI e 1 b))) s

/-- SAR (R112): the count is taken mod the width. -/
def execSar (g : Guard) (t : IntTy) (d : Reg) (a b : Operand) (s : State) : Out :=
  aluWord (.sar g t d a b) (some (d, regs12 t.w64)) (fun e => .ofNat (aluSar (IntTy.width t) (opI e (regs12 t.w64) a) (opI e 1 b))) s

/-- ROL (R112): the count is taken mod the width. -/
def execRol (g : Guard) (t : IntTy) (d : Reg) (a b : Operand) (s : State) : Out :=
  aluWord (.rol g t d a b) (some (d, regs12 t.w64)) (fun e => .ofNat (aluRol (IntTy.width t) (opI e (regs12 t.w64) a) (opI e 1 b))) s

/-- FUNNEL (R112). -/
def execFunnel (g : Guard) (t : Ty32) (d : Reg) (a b c : Operand) (s : State) : Out :=
  aluWord (.funnel g t d a b c) (some (d, 1)) (fun e => .ofNat (aluFunnel (opI e 1 a) (opI e 1 b) (opI e 1 c))) s

/-- POPC (R112). -/
def execPopc (g : Guard) (t : IntTy) (d : Reg) (a : Operand) (s : State) : Out :=
  aluWord (.popc g t d a) (some (d, 1)) (fun e => .ofNat (popCount (IntTy.width t) (opI e (regs12 t.w64) a))) s

/-- CLZ (R112). -/
def execClz (g : Guard) (t : IntTy) (d : Reg) (a : Operand) (s : State) : Out :=
  aluWord (.clz g t d a) (some (d, 1)) (fun e => .ofNat (aluClz (IntTy.width t) (opI e (regs12 t.w64) a))) s

/-- CTZ (R112). -/
def execCtz (g : Guard) (t : IntTy) (d : Reg) (a : Operand) (s : State) : Out :=
  aluWord (.ctz g t d a) (some (d, 1)) (fun e => .ofNat (ctzCount (IntTy.width t) (opI e (regs12 t.w64) a))) s

/-- BREV (R112). -/
def execBrev (g : Guard) (t : IntTy) (d : Reg) (a : Operand) (s : State) : Out :=
  aluWord (.brev g t d a) (some (d, regs12 t.w64)) (fun e => .ofNat (bitReverse (IntTy.width t) (opI e (regs12 t.w64) a))) s

/-- BFX (R113). -/
def execBfx (g : Guard) (t : Ty32) (d : Reg) (a b c : Operand) (s : State) : Out :=
  aluWord (.bfx g t d a b c) (some (d, 1)) (fun e => .ofNat (aluBfx t (opI e 1 a) (opI e 1 b) (opI e 1 c))) s

/-- BFI (R113). -/
def execBfi (g : Guard) (t : Ty32) (d : Reg) (a b c : Operand) (s : State) : Out :=
  aluWord (.bfi g t d a b c) (some (d, 1)) (fun e => .ofNat (aluBfi (opI e 1 a) (opI e 1 b) (opI e 1 c))) s

/-- BPERM (R114). -/
def execBperm (g : Guard) (t : Ty32) (d : Reg) (a b c : Operand) (s : State) : Out :=
  aluWord (.bperm g t d a b c) (some (d, 1)) (fun e => .ofNat (aluBperm (opI e 1 a) (opI e 1 b) (opI e 1 c))) s

/-- SEL (R112). -/
def execSel (g : Guard) (t : IntTy) (d : Reg) (a b : Operand) (neg : Bool) (k : PReg) (s : State) : Out :=
  aluWord (.sel g t d a b neg k) (some (d, regs12 t.w64)) (fun e => .ofNat (if getP e.lane k != neg then (opI e (regs12 t.w64) a) else (opI e (regs12 t.w64) b))) s

/-- MOV (R112). -/
def execMov (g : Guard) (t : IntTy) (d : Reg) (a : Operand) (s : State) : Out :=
  aluWord (.mov g t d a) (some (d, regs12 t.w64)) (fun e => .ofNat ((opI e (regs12 t.w64) a))) s

/-- The value that MOVI writes (R30). -/
def moviVal (ext : MoviExt) (imm : Word) : Nat :=
  match ext with
  | .i64 => wrapI 64 imm.toInt
  | _ => imm.toNat

/-- MOVI (R30). -/
def execMovi (g : Guard) (ext : MoviExt) (d : Reg) (imm : Word) (s : State) : Out :=
  aluWord (.movi g ext d imm) (some (d, if ext = .none then 1 else 2)) (fun _ => .ofNat (moviVal ext imm)) s

end Sys2Proof.Machine
end

