-- ==== Sys2Proof/Machine/Translate.lean ====
section
/-! DEFINITION. The physical map and the homes of its blocks (18 R319, R320; 19 R346; 20 R364), translation (18 R324 to
R326), the scratchpad apertures (07 R163) and the checks of an address (07 R169). -/

namespace Sys2Proof.Machine

/-! ## The physical map -/

/-- What backs a physical address (R319, R346, R364). -/
inductive Region where
  | hbm
  | lpddr
  | host (p : Nat)
  | dev (p : Nat)
  | irq (h off : Nat)
  | fabric (e : Nat)
  | nothing
  deriving DecidableEq, Repr

def regionOf (pa : Nat) : Region :=
  if pa < 0x6000000000 then .hbm
  else if pa < 0x8000000000 then .nothing
  else if pa < 0x10000000000 then .lpddr
  else if pa < 0x50000000000 then .host (pa / 2 ^ 40 - 1)
  else if 0x80000000000 ≤ pa ∧ pa < 0xC0000000000 then .dev (pa / 2 ^ 40 - 8)
  else if 0xF0000000000 ≤ pa ∧ pa < 0xF0000000000 + 4096 * 64 then
    .irq ((pa - 0xF0000000000) / 4096) ((pa - 0xF0000000000) % 4096)
  else if 0x1000000000000 ≤ pa ∧ pa < 0x1000000000000 + 1024 * 2 ^ 44 then .fabric ((pa - 0x1000000000000) / 2 ^ 44)
  else .nothing

/-- The exclusive OR of the 3-bit groups of `b`, `n` of them. -/
def xor3 : Nat → Nat → Nat
  | 0, _ => 0
  | n + 1, b => Nat.xor (b % 8) (xor3 n (b / 8))

/-- The HBM4 stack of a block (R320). -/
def hbmStack (pa : Nat) : Nat := xor3 10 (pa / 2 ^ 9 % 2 ^ 30)

/-- The home slice of a block, numbered over the package (R320). -/
def homeSlice (pa : Nat) : Nat :=
  match regionOf pa with
  | .hbm => 192 * (hbmStack pa / 4) + hash32 (pa / 2 ^ 9 % 2 ^ 32) * 192 / 2 ^ 32
  | .lpddr => hash32 ((pa - 0x8000000000) / 2 ^ 9 % 2 ^ 32) * 384 / 2 ^ 32
  | .fabric e => hash32 ((pa - 0x1000000000000 - e * 2 ^ 44) / 2 ^ 9 % 2 ^ 32) * 384 / 2 ^ 32
  | _ => hash32 (pa % 2 ^ 40 / 2 ^ 9 % 2 ^ 32) * 384 / 2 ^ 32

/-- The die of a slice. -/
def sliceDie (sl : Nat) : Nat := sl / 192

/-- The die of a vector core (R244). -/
def coreDie (c : Nat) : Nat := c / 88

/-- Whether an address lies in a lost range (R369): the HBM4 of a lost die, host memory that is homed on it, or the window of a
lost endpoint. -/
def lostAddr (s : State) (pa : Nat) : Bool :=
  match regionOf pa with
  | .hbm => s.lostDies.contains (hbmStack pa / 4) || s.lostDies.contains (sliceDie (homeSlice pa))
  | .host _ => s.lostDies.contains (sliceDie (homeSlice pa))
  | .fabric e => s.lostEnds.contains e
  | _ => false

/-- Whether HBM4 or LPDDR6 backs an address: not retired (R323), not lost. -/
def backed (s : State) (pa : Nat) : Bool :=
  (match regionOf pa with
    | .hbm | .lpddr => true
    | _ => false) && !s.badPages.contains (pa / 4096) && !lostAddr s pa

/-- Whether a line of 64 bytes is poisoned (R357, R370). (log 28: DEDUCED, unsafe; 70: DEDUCED, unsafe) -/
def linePoisoned (s : State) (l : Nat) : Bool :=
  s.poison.contains l || (!s.lostBlocks.isEmpty && regionOf l = .lpddr && !s.cleared.contains l
    && s.lostBlocks.any fun b => sliceDie (homeSlice l) = b.die && !(b.keep ≤ l && l < b.keep + b.keepLen))

/-- The home slice of a block as it is now: LPDDR6 homes of a lost die stand at the same number on the other (R370). -/
def homeNow (s : State) (pa : Nat) : Nat :=
  let sl := homeSlice pa
  if regionOf pa = .lpddr && s.lostDies.contains (sliceDie sl) then (sl + 192) % 384 else sl

def portState (s : State) (p : Nat) : Nat := bitsOf (s.ports.getD p 0).toNat 11 8
/-- The role that a port has taken (R343). -/
def portRole (s : State) (p : Nat) : Nat := s.roles.getD p 0

/-- The fabric ports that are up (R361). -/
def fabricUp (s : State) : List Nat := (List.range 12).filter fun i => bitsOf (s.fports.getD i 0).toNat 11 8 = 2

/-- Whether a fabric window reaches an endpoint (R364). -/
def fabricValid (s : State) (e : Nat) : Bool := s.fab.getLsbD 31 && s.fab.toNat % 1024 ≠ e

/-! ## Page tables (R324, R325) -/

inductive AccessType where
  | load | store | atomic | fetch
  deriving DecidableEq, Repr

/-- What a walk meets. -/
inductive Walk where
  | unmapped
  | absent
  /-- a leaf, and the addresses of the entries that the walk used, the leaf's last -/
  | leaf (lf : Leaf) (ptes : List Nat)
  deriving DecidableEq, Repr

/-- The leaf that an entry at a level is. (log 17: PRESUMED, unsafe) -/
def leafOf (va level pte : Nat) : Option Leaf :=
  let size := 2 ^ (12 + 9 * level)
  let ppn := bitsOf pte 53 10
  let pbmt := bitsOf pte 62 61
  if level > 2 ∨ Nat.testBit pte 63 ∨ pbmt = 3 ∨ bitsOf pte 60 58 ≠ 0 ∨ bitsOf pte 55 54 = 3
      ∨ (Nat.testBit pte 2 ∧ ¬Nat.testBit pte 1) ∨ ppn * 4096 % size ≠ 0 then none
  else some
    { va := va / size * size, size := size, pa := ppn * 4096, r := Nat.testBit pte 1, w := Nat.testBit pte 2,
      x := Nat.testBit pte 3, u := Nat.testBit pte 4, dirty := Nat.testBit pte 7,
      gr := (match bitsOf pte 55 54 with | 0 => 512 | 1 => 128 | _ => 32),
      shr := Nat.testBit pte 56, nc := pbmt = 1, io := pbmt = 2, norepl := Nat.testBit pte 57 }

/-- The last performed byte at an address: an owner's window block holds it where there is one (R183). (log 17:
PRESUMED, unsafe) -/
def performedByte (s : State) (pa : Nat) : Byte :=
  match s.homes.find? fun h => h.grain ≤ pa && pa < h.grain + h.size with
  | none => sget s.mem pa
  | some h =>
    match h.owner with
    | some (.window c t w b) =>
      (match teamAt s c t with
        | some tm =>
          (match tm.wins.getD w none with
            | some wn => sget tm.bytes (wn.off + 512 * b + pa % 512)
            | none => sget s.mem pa)
        | none => sget s.mem pa)
    | _ => sget s.mem pa

/-- The last performed bytes from an address on, as a number (R326). -/
def performedLe (s : State) (pa n : Nat) : Nat := leNat ((List.range n).map fun i => performedByte s (pa + i))

/-- A walk from the table at `table`, whose entries are of level `n - 1` (R324): it reads the entries at their homes
(R326). An entry in memory that nothing backs, or that is poisoned, is unmapped. (log 17: PRESUMED, unsafe; 102:
DEDUCED, unsafe) -/
def walkFrom (s : State) (va : Nat) : Nat → Nat → Walk
  | 0, _ => .unmapped
  | n + 1, table =>
    let at_ := table + 8 * (va / 2 ^ (12 + 9 * n) % 512)
    let pte := performedLe s at_ 8
    if !backed s at_ || linePoisoned s (at_ / 64 * 64) then .unmapped
    else if pte % 2 = 0 then (if Nat.testBit pte 8 then .absent else .unmapped)
    else if bitsOf pte 3 1 = 0 then
      (if Nat.testBit pte 63 then .unmapped
       else match walkFrom s va n (bitsOf pte 53 10 * 4096) with
         | .leaf lf ps => .leaf lf (at_ :: ps)
         | w => w)
    else match leafOf va n pte with
      | some lf => .leaf lf [at_]
      | none => .unmapped

/-- The launch record's ROOT of a grid (R327); 0 without one. -/
def gridRoot (s : State) (id : Dword) : Nat :=
  match gridOf s id with
  | some g => leNat ((g.record.drop 8).take 8)
  | none => 0

def rootAsid (root : Nat) : Nat := bitsOf root 59 44
def rootTable (root : Nat) : Nat := bitsOf root 43 0 * 4096

def leafCovers (lf : Leaf) (va : Nat) : Bool := lf.va ≤ va && va < lf.va + lf.size

/-- The leaf for the supervisor's accesses: physical addresses (log 4: DESIGN CHOICE, unsafe). -/
def flatLeaf : Leaf :=
  { va := 0, size := 2 ^ 56, pa := 0, r := true, w := true, x := true, u := true, dirty := true, gr := 512,
    shr := false, nc := false, io := false, norepl := false }

/-- The leaf that translates a virtual address for a grid on a core: a TLB entry, or a walk; a residency lease
preloads none (R331). (log 17: PRESUMED, unsafe) -/
def findLeaf (s : State) (c : Nat) (grid : Dword) (va : Nat) : Walk :=
  let root := gridRoot s grid
  match (coreAt s c).tlb.find? fun e => e.asid = rootAsid root && leafCovers e.leaf va with
  | some e => .leaf e.leaf []
  | none => walkFrom s va 5 (rootTable root)

/-- Whether a leaf permits an access of a vector core (R324). -/
def permits (lf : Leaf) (t : AccessType) : Bool :=
  lf.u && !lf.io && match t with
    | .load => lf.r
    | .store => lf.w
    | .atomic => lf.r && lf.w
    | .fetch => lf.x

/-- A translated address, with what the ordering machine needs of its page. -/
structure Target where
  place : Place
  gr : Nat
  shr : Bool
  nc : Bool
  norepl : Bool
  deriving DecidableEq, Repr

/-- A failed check: its place in the order of R169, and the cause. -/
structure Failed where
  order : Nat
  cause : Nat
  deriving DecidableEq, Repr

inductive Checked where
  | ok (t : Target)
  | bad (f : Failed)
  deriving DecidableEq, Repr

def leafTarget (lf : Leaf) (va : Nat) : Target :=
  { place := .glob (lf.pa + (va - lf.va)), gr := lf.gr, shr := lf.shr, nc := lf.nc, norepl := lf.norepl }

/-- Checks 4 and 5 of R169 for a global address. (log 4: DESIGN CHOICE, unsafe) -/
def translate (s : State) (c : Nat) (g : Grp) (va : Nat) (t : AccessType) : Checked :=
  if g.supervisor then
    (if va < 2 ^ 56 then .ok (leafTarget flatLeaf va) else .bad { order := 4, cause := 0x0A })
  else match findLeaf s c g.grid va with
    | .unmapped => .bad { order := 4, cause := 0x0A }
    | .absent => .bad { order := 5, cause := 0x0D }
    | .leaf lf _ => if permits lf t then .ok (leafTarget lf va) else .bad { order := 4, cause := 0x0A }

/-- Whether an address is canonical: bits [63:57] equal bit [56] (R90, R169). -/
def canonical (a : Nat) : Bool := a / 2 ^ 56 = 0 || a / 2 ^ 56 = 255

def ownAperture : Nat := 0xFFFFFF0000000000
def peerAperture : Nat := 0xFFFFFF1000000000

/-- An aperture address (R163): a byte of the own team's allotment, or of the cluster's team on another core. -/
def aperture (s : State) (c : Nat) (g : Grp) (a : Nat) : Option Place :=
  match teamAt s c g.team with
  | none => none
  | some tm =>
    if a < peerAperture then
      (if a - ownAperture < tm.shared then some (.scr c tm.num (a - ownAperture)) else none)
    else
      let cc := (a - peerAperture) / 2 ^ 24
      let o := (a - peerAperture) % 2 ^ 24
      match tm.place[cc]? with
      | none => none
      | some pc =>
        match (coreAt s pc).teams.find? fun t => t.grid = tm.grid ∧ t.cluster = tm.cluster ∧ t.ccore = cc with
        | some t => if o < t.shared then some (.scr pc t.num o) else none
        | none => none

/-- The window and block of a team that holds a scratchpad offset. -/
def windowAt (tm : Team) (off : Nat) : Option (Nat × Window × Nat) :=
  ((List.range 4).filterMap fun w =>
    match tm.wins.getD w none with
    | some wn => if wn.off ≤ off ∧ off < wn.off + wn.len then some (w, wn, (off - wn.off) / 512) else none
    | none => none).head?

/-- The check of an access to scratchpad that touches an invalid window block: its translation (R183). -/
def touchCheck (s : State) (g : Grp) (p : Place) (t : AccessType) : Option Failed :=
  match p with
  | .scr pc tn off =>
    match teamAt s pc tn with
    | none => none
    | some tm =>
      match windowAt tm off with
      | some (_, wn, b) =>
        match wn.blocks.getD b .invalid with
        | .invalid =>
          match translate s pc g (wn.va + 512 * b) t with
          | .bad f => some f
          | .ok _ => none
        | .valid _ _ => none
      | none => none
  | .glob _ => none

/-- The checks of R169 on one address, with alignment `al`. -/
def checkAddr (s : State) (c : Nat) (g : Grp) (a al : Nat) (t : AccessType) : Checked :=
  if !canonical a then .bad { order := 1, cause := 0x0A }
  else if a % al ≠ 0 then .bad { order := 2, cause := 0x0B }
  else if ownAperture ≤ a then
    match aperture s c g a with
    | none => .bad { order := 3, cause := 0x0C }
    | some p =>
      match touchCheck s g p t with
      | some f => .bad f
      | none => .ok { place := p, gr := 512, shr := false, nc := false, norepl := false }
  else translate s c g a t

/-- The granule of 32 bytes that holds a place (R175). -/
def granule : Place → Place
  | .glob pa => .glob (pa / 32 * 32)
  | .scr c t o => .scr c t (o / 32 * 32)

/-- A place `n` bytes on. -/
def placeAdd : Place → Nat → Place
  | .glob pa, n => .glob (pa + n)
  | .scr c t o, n => .scr c t (o + n)

/-- Whether two accesses share a byte. -/
def overlap (p : Place) (n : Nat) (q : Place) (m : Nat) : Bool :=
  match p, q with
  | .glob a, .glob b => a < b + m && b < a + n
  | .scr c t a, .scr c' t' b => c = c' && t = t' && a < b + m && b < a + n
  | _, _ => false

end Sys2Proof.Machine
end

