-- ==== Sys2Proof/Machine/Order.lean ====
section
/-! DEFINITION. The ordering machine (14 R273 to R288, R294, R295): homes, leases and pending-write queues, the pending
accesses and the outbound buffer of a core, and the steps that satisfy, buffer, drain, perform, expire and surrender.
A step that is not allowed answers none. -/

namespace Sys2Proof.Machine

/-! ## Homes (R273, R274) -/

def freshHome (pa gr : Nat) : Home :=
  { grain := pa / gr * gr, size := gr, queue := [], horizon := 0, len := 8, latest := 0, wrote := false, owner := none,
    asked := false, leases := [] }

/-- The grain that holds an address: the one its home keeps, or a fresh one of its page's size. -/
def homeOf (s : State) (pa gr : Nat) : Home :=
  (s.homes.find? fun h => h.grain ≤ pa && pa < h.grain + h.size).getD (freshHome pa gr)

def putHome (s : State) (h : Home) : State :=
  { s with homes := h :: s.homes.filter fun x => x.grain ≠ h.grain }

/-- A read of an Open grain is granted a lease (R274). -/
def grantLease (now : Nat) (who : List Holder) (h : Home) : Home :=
  let d := if h.latest ≠ 0 && h.latest ≤ now && !h.wrote then min 64 (2 * h.len) else h.len
  { h with len := d, horizon := max h.horizon (now + d), latest := now + d, wrote := false,
           leases := who.map (fun w => { holder := w, expiry := now + d })
             ++ h.leases.filter fun l => !who.contains l.holder }

/-- A write enters a grain's queue (R274, R276). -/
def enqueue (w : PWrite) (h : Home) : Home := { h with queue := h.queue ++ [w], len := 2, wrote := true }

/-- An Open grain: no write waits, nobody owns it (R273). -/
def Home.isOpen (h : Home) : Bool := h.queue.isEmpty && h.owner = none

/-- The first clock at which a grain's next write may perform: the horizon has passed, and no read was served in that clock
(R276, R317). -/
def performAt (h : Home) : Nat := max (Config.clocksPerTick * h.horizon) h.readAt

/-- A read has been served at the home in the present clock (R317). -/
def noteRead (s : State) (pa gr : Nat) : State := putHome s { homeOf s pa gr with readAt := s.clock + 1 }

/-- The reads of `n` bytes have been served at their homes (R317). -/
def noteReads (s : State) (pa n gr : Nat) : State :=
  ((List.range n).filter fun i => i = 0 || (pa + i) % 32 = 0).foldl (fun s i => noteRead s (pa + i) gr) s

/-- A write has reached the grains of some bytes: leases start short again (R274). -/
def wroteHomes (s : State) (pa n : Nat) : State :=
  { s with homes := s.homes.map fun h =>
      if h.grain < pa + n && pa < h.grain + h.size then { h with len := 2, wrote := true } else h }

/-- Whether a core holds a valid lease copy of a grain, or a slice of its die a replica of it (R274, R275). -/
def copyValid (s : State) (c : Nat) (h : Home) : Bool :=
  h.leases.any fun l => meridian s < l.expiry && (match l.holder with
    | .l1 d => d = c
    | .replica sl => sliceDie sl = coreDie c)

/-- Another agent's access is forwarded to the owner (R281). -/
def askHome (s : State) (pa gr : Nat) : State := putHome s { homeOf s pa gr with asked := true }

/-! ## Performing a write: reservations, wakes, helm conflicts (R176, R294, R312) -/

/-- Whether a reservation names a granule that `n` bytes from a place touch. -/
def resvHit (p : Place) (n : Nat) : Option Place → Bool
  | some q => overlap p n q 32
  | none => false

/-- Clear the reservations of every lane and helm core on the granules that a write touches (R176). -/
def clearGranules (s : State) (p : Place) (n : Nat) : State :=
  { s with
    cores := s.cores.map fun x => { x with groups := x.groups.map fun og => og.map fun g =>
      { g with lanes := g.lanes.map fun ln => if resvHit p n ln.resv then { ln with resv := none } else ln } }
    helms := s.helms.map fun h => if resvHit p n (h.resv.map .glob) then { h with resv := none } else h }

/-- Send a wake to every core that watches a grain the write touches. -/
def sendWakes (s : State) (pa n : Nat) : State :=
  (s.watches.filter fun w => w.grain < pa + n && pa < w.grain + w.size).foldl
    (fun s w => modCore s w.core fun x =>
      { x with wakes := x.wakes ++ [{ grain := w.grain, size := w.size,
                                      bytes := (List.range w.size).map fun i => performedByte s (w.grain + i) }] }) s

/-- The lines of 64 bytes that `n` bytes touch. -/
def linesOf (pa n : Nat) : List Nat := (List.range ((pa + n + 63) / 64 - pa / 64)).map fun i => (pa / 64 + i) * 64

/-- Whether an access conflicts with a helm transaction (R312). -/
def helmConflicts (h : Helm) (pa n : Nat) (write : Bool) : Bool :=
  h.checkpoint.isSome && (linesOf pa n).any fun l => h.wsig.contains l || (write && h.rsig.contains l)

/-- Abort a helm transaction: the checkpoint returns with rd := the cause (R313); x0 stays 0. -/
def helmAbort (cause : Nat) (h : Helm) : Helm :=
  match h.checkpoint with
  | none => h
  | some r =>
    { h with
      regs := { r with x := if h.rd = 0 then r.x else r.x.set h.rd (BitVec.ofNat 64 cause), pc := r.pc + 4 }
      checkpoint := none, depth := 0, cause := cause, rsig := [], wsig := [], writes := [], ticket := none }

/-- Abort the helm transactions that an access of another agent conflicts with: the requester wins. A helm transaction
that has its ticket is not aborted here; such an access waits (R314). -/
def helmLose (s : State) (by_ : Option Nat) (pa n : Nat) (write : Bool) : State :=
  { s with helms := mapFrom (fun i h =>
      if by_ ≠ some i && h.ticket.isNone && helmConflicts h pa n write then helmAbort 0x01 h else h) 0 s.helms }

/-- Change one helm core. -/
def modHelm (s : State) (h : Nat) (f : Helm → Helm) : State := { s with helms := modAt f h s.helms }

/-- Whether a helm transaction of another agent than `by_` stands in the way of an access: without a ticket it loses, with one
the access waits (R312, R314). -/
def helmMeets (s : State) (by_ : Option Nat) (pa n : Nat) (write : Bool) : Bool :=
  (mapFrom (fun i h => by_ ≠ some i && helmConflicts h pa n write) 0 s.helms).any id

/-- Whether an access must wait for a helm transaction that has its ticket (R314). -/
def helmHolds (s : State) (by_ : Option Nat) (pa n : Nat) (write : Bool) : Bool :=
  (mapFrom (fun i h => by_ ≠ some i && h.ticket.isSome && helmConflicts h pa n write) 0 s.helms).any id

/-- The bytes of memory change, and whole lines lose their poison. (log 28: DEDUCED, unsafe) -/
def setBytes (s : State) (pa : Nat) (bs : List Byte) : State :=
  { s with mem := writeBytes s.mem pa bs
           poison := s.poison.filter fun l => !(pa ≤ l && l + 64 ≤ pa + bs.length)
           cleared := if s.lostBlocks.isEmpty then s.cleared
             else (s.cleared ++ (linesOf pa bs.length).filter fun l => pa ≤ l && l + 64 ≤ pa + bs.length).dedup }

/-- A write performs: the bytes of memory change, reservations clear, watchers wake, helm transactions that read or
wrote its lines abort. (log 28: DEDUCED, unsafe) -/
def performBytes (s : State) (by_ : Option Nat) (pa : Nat) (bs : List Byte) : State :=
  let s1 := wroteHomes (setBytes s pa bs) pa bs.length
  helmLose (sendWakes (clearGranules s1 (.glob pa) bs.length) pa bs.length) by_ pa bs.length true

/-- Whether a host or a fabric copy still holds a line of a grain: the switch lists blocks of 512 bytes (R354, R366, R367). -/
def outsideHolds (s : State) (h : Home) : Bool :=
  s.hostLines.any (fun l => h.grain < l.line + 64 && l.line < h.grain + h.size && l.hold ≠ .invalid)
    || s.directory.any fun d => d.grain < h.grain + h.size && h.grain < d.grain + 512 && !d.ends.isEmpty

/-- Whether a host holds a line of a grain for writing: the grain is Owned by the host (R354). -/
def hostOwns (s : State) (h : Home) : Bool :=
  s.hostLines.any fun l => h.grain < l.line + 64 && l.line < h.grain + h.size && l.hold = .exclusive

/-- Ask the hosts and the owner of a grain for it (R281, R354). -/
def askAll (s : State) (h : Home) : State :=
  let s1 := if h.owner.isSome then putHome s { h with asked := true } else s
  { s1 with hostLines := s1.hostLines.map fun l =>
      if h.grain < l.line + 64 && l.line < h.grain + h.size && !l.asked then { l with asked := true, since := s.clock } else l }

/-- Whether an agent's write can perform at a grain now: it is the first there, the horizon has passed, nobody but `me` owns the
grain, nobody outside holds it. `src` names the request of the agent that waits in the queue. -/
def homeClear (s : State) (me : Option Owner) (src : Option Source) (h : Home) : Bool :=
  (match h.queue with
    | [] => true
    | w :: _ => w.rmw && src = some w.src)
  && performAt h ≤ s.clock && (h.owner = none || h.owner = me) && !outsideHolds s h

/-- Whether every grain that `n` bytes touch can take a write at once, and no ticketed helm transaction stands in its
way. (log 25: DEDUCED, unsafe) -/
def writableNow (s : State) (me : Option Owner) (by_ : Option Nat) (src : Option Source) (pa n gr : Nat) : Bool :=
  ((List.range n).all fun i => homeClear s me src (homeOf s (pa + i) gr)) && !helmHolds s by_ pa n true

/-- Whether every grain that `n` bytes touch can serve a read at once: nobody else owns it, and no helm transaction has written
the lines. -/
def readableNow (s : State) (me : Option Owner) (by_ : Option Nat) (pa n gr : Nat) : Bool :=
  ((List.range n).all fun i =>
    let h := homeOf s (pa + i) gr
    (h.owner = none || h.owner = me) && !hostOwns s h)
    && !helmMeets s by_ pa n false

/-- An access of an agent (a helm core, where `by_` names one) that meets an Owned grain or host lines forwards a request for
them; a helm transaction that has written the lines aborts: the requester wins (R312). -/
def forwardBy (s : State) (by_ : Option Nat) (pa n gr : Nat) : State :=
  ((List.range n).filter fun i => i = 0 || (pa + i) % 32 = 0).foldl (fun s i => askAll s (homeOf s (pa + i) gr))
    (helmLose s by_ pa n false)

def forward (s : State) (pa n gr : Nat) : State := forwardBy s none pa n gr

/-- A forwarded request, where one is still to be made, by an agent beside helm core `by_`. (log 84: DESIGN CHOICE, safe) -/
def askOnceBy (s : State) (by_ : Option Nat) (pa n gr : Nat) : Option State :=
  let open_ := (List.range n).any fun i =>
    let h := homeOf s (pa + i) gr
    (h.owner.isSome && !h.asked)
      || s.hostLines.any fun l => h.grain < l.line + 64 && l.line < h.grain + h.size && l.hold ≠ .invalid && !l.asked
  if open_ || (helmMeets s by_ pa n false && !helmHolds s by_ pa n false) then some (forwardBy s by_ pa n gr) else none

/-- (log 84: DESIGN CHOICE, safe) -/
def askOnce (s : State) (pa n gr : Nat) : Option State := askOnceBy s none pa n gr

/-! ## Requests that act at the head of a queue (R273, R276, R277) -/

/-- Bytes split by their grains: (address, bytes). -/
def grainParts (s : State) (pa gr : Nat) (bs : List Byte) : List (Nat × List Byte) :=
  ((List.range bs.length).filter fun i => i = 0 || ((pa + i) % 32 = 0 && (homeOf s (pa + i) gr).grain = pa + i)).map fun i =>
    let h := homeOf s (pa + i) gr
    (pa + i, (bs.drop i).take (h.grain + h.size - (pa + i)))

/-- Whether an agent waits in the queue of a grain. -/
def waitsAt (src : Source) (h : Home) : Bool := h.queue.any fun w => w.src = src

/-- An agent's request for some bytes takes its place in the queues of all their grains at once, when no other agent
owns one of them; else their owners are asked. (log 25: DEDUCED, unsafe) -/
def queueFor (s : State) (me : Option Owner) (by_ : Option Nat) (src : Source) (pa n gr : Nat) : Option State :=
  let ps := grainParts s pa gr (List.replicate n 0)
  if ps.all fun p => waitsAt src (homeOf s p.1 gr) then askOnceBy s by_ pa n gr
  else if !readableNow s me by_ pa n gr then askOnceBy s by_ pa n gr
  else some (ps.foldl (fun s p =>
    let h := homeOf s p.1 gr
    if waitsAt src h then s else putHome s (enqueue { src := src, pa := p.1, bytes := p.2, rmw := true } h)) s)

/-- A grain is asked of its owner and of the hosts that hold its lines, where that has not been done. -/
def askGrain (s : State) (h : Home) : Option State :=
  if (h.owner.isSome && !h.asked)
      || s.hostLines.any (fun l => h.grain < l.line + 64 && l.line < h.grain + h.size && l.hold ≠ .invalid && !l.asked) then
    some (askAll s h)
  else none

/-- The lock requests of a commit, as (first address, size), take their places in the queues of all its grains at
once, when no agent owns one of them (R303). (log 25: DEDUCED, unsafe) -/
def queueGrains (s : State) (src : Source) (gs : List (Nat × Nat)) : Option State :=
  let hs := gs.map fun g => homeOf s g.1 g.2
  if hs.all (waitsAt src) then hs.findSome? (askGrain s)
  else match hs.find? fun h => h.owner.isSome || hostOwns s h with
    | some h => askGrain s h
    | none => some (hs.foldl (fun s h =>
        if waitsAt src h then s
        else putHome s (enqueue { src := src, pa := h.grain, bytes := List.replicate h.size 0, rmw := true } h)) s)

/-- Whether a grain can be locked by the commit whose requests bear `src`: it is first there, nobody owns it, nobody outside holds
it (R303, R354). -/
def lockClear (s : State) (src : Source) (h : Home) : Bool :=
  (match h.queue with
    | [] => true
    | w :: _ => w.rmw && w.src = src)
  && h.owner = none && !outsideHolds s h

/-- An agent that has acted leaves the queues in which it waited. -/
def leaveQueues (src : Source) (s : State) : State :=
  if s.homes.any (waitsAt src) then
    { s with homes := s.homes.map fun h => { h with queue := h.queue.filter fun w => w.src ≠ src } }
  else s

/-! ## Windows of hosts and remote endpoints (R346, R355, R364) -/

/-- Whether a request through a window can be sent: the port is up in its role, or a fabric port is up. -/
def windowUp (s : State) (pa : Nat) : Bool :=
  match regionOf pa with
  | .host p => portRole s p = 2 && portState s p = 2 && !lostAddr s pa
  | .fabric e => fabricValid s e && !(fabricUp s).isEmpty && !s.lostEnds.contains e
  | _ => false

/-- Whether an address is reached through a window of a host or of the fabric. -/
def viaWindow (s : State) (pa : Nat) : Bool :=
  match regionOf pa with
  | .host p => portRole s p = 2
  | .fabric e => fabricValid s e
  | _ => false

/-- Whether a helm core reaches a window with PBMT = IO: an endpoint's host window, or a device window of a root port (R346). -/
def ioWindow (s : State) (pa : Nat) : Option Nat :=
  match regionOf pa with
  | .host p => if portRole s p = 0 then some p else none
  | .dev p => if portRole s p = 1 then some p else none
  | _ => none

/-- After a change of the ports that are up, a new request to a block waits for the older ones (R361). -/
def blockWaits (s : State) (pa : Nat) : Bool := s.outstanding.any fun o => o.stale && !o.failed && o.block = pa / 512

/-- Whether the package holds a copy of every byte: a cached line of host memory, or a fabric copy (R355, R367). -/
def cachedHere (s : State) (pa n : Nat) : Bool :=
  (linesOf pa n).all fun l => s.hostCache.contains l || s.copies.any fun k => k.grain ≤ l && l < k.grain + 512

/-- The host-side port whose window holds an address. -/
def portOf (pa : Nat) : Option Nat :=
  match regionOf pa with
  | .host p | .dev p => some p
  | _ => none

/-- The address that a request through a window bears on the other side: in a host window, that of the host's memory (R346). -/
def outAddr (s : State) (pa : Nat) : Nat :=
  match regionOf pa with
  | .host p => (s.hwins.getD p 0).toNat + pa % 2 ^ 40
  | _ => pa

/-- Whether an address lies in a registered shared range (R366). (log 26: DESIGN CHOICE, safe) -/
def inSharedRange (s : State) (pa : Nat) : Bool := s.shared.any fun r => r.1 ≤ pa && pa < r.1 + r.2

/-- A read through a leaf with SHR = 1 of a block outside every registered range is counted (R366, R376). -/
def strayRead (s : State) (shr : Bool) (pa : Nat) : State :=
  if shr && !inSharedRange s pa then addCount s 0x9003 1 else s

/-- The watchers of bytes that a slice no longer holds poll them (R295). -/
def pollWatchers (s : State) (pa n : Nat) : State :=
  let poll (a : Acc) : Acc :=
    if a.watch = .entry && overlap (.glob pa) n a.place a.n then { a with watch := .poll (s.clock + 32) 32 } else a
  { s with
    watches := s.watches.filter fun w => !(w.grain < pa + n && pa < w.grain + w.size)
    cores := s.cores.map fun x => { x with pend := x.pend.map poll } }

/-- The bytes beyond a window: the package's copy, or what the other side answers to what was asked at a clock (log 12: DESIGN
CHOICE, safe). -/
def farBytes (s : State) (since pa n : Nat) : List Byte :=
  if cachedHere s pa n then readBytes s.mem pa n
  else (List.range n).map fun i => Config.windowByte since (outAddr s (pa + i))

/-- A write through a window is performed: a copy in the package takes it, reservations clear, watchers wake (R176, R355). -/
def performAway (s : State) (pa : Nat) (bs : List Byte) : State :=
  let s1 := clearGranules s (.glob pa) bs.length
  if cachedHere s pa bs.length then sendWakes { s1 with mem := writeBytes s1.mem pa bs } pa bs.length else s1

/-- The fabric port that a request to a block takes (R361). -/
def fabricPort (s : State) (pa : Nat) : Option Nat :=
  let up := fabricUp s
  if up.isEmpty then none else up[hash32 (pa / 512 % 2 ^ 32) % up.length]?

/-- A request leaves for a host or a remote endpoint (R346, R356, R361, R365): what an agent beside the lanes reads or writes stands
in it. -/
def sendRequest (s : State) (src : Source) (pa : Nat) (data : List Byte) : State :=
  let o : Outstanding :=
    { id := s.nextId, src := src, port := portOf pa, since := s.clock, block := pa / 512,
      via := if (portOf pa).isSome then none else fabricPort s pa
      host := if (portOf pa).isSome then outAddr s pa else 0
      pa := pa, data := data }
  { s with outstanding := s.outstanding ++ [o], nextId := s.nextId + 1 }

/-- The request of an agent at an address that has been sent. -/
def requestOf (s : State) (src : Source) (pa : Nat) : Option Outstanding := s.outstanding.find? fun o => o.src = src && o.pa = pa

/-- A request is over. -/
def endRequest (s : State) (o : Outstanding) : State := { s with outstanding := s.outstanding.filter fun q => q.id ≠ o.id }

/-- Whether an atomic has acted on a line of host memory and waits for the host's GO: the slice holds the line (R355). -/
def lineActing (s : State) (pa : Nat) : Bool :=
  s.outstanding.any fun q => q.acted.isSome && !q.complete && q.port.isSome && q.pa / 64 = pa / 64

/-! ## The fault-address queue (R322) -/

/-- The slot of a ring of the I/O die that its next entry takes: none where the size is out of range or the ring is full. -/
def ringSlot (q : Dword) (tail head : Nat) : Option Nat :=
  let size := q.toNat % 16
  if size < 4 ∨ size > 12 ∨ (tail + 2 ^ 32 - head) % 2 ^ 32 ≥ 2 ^ size then none
  else some (tail % 2 ^ size)

/-- Entry `n` of the queue has been performed: TAIL rises past it and those after it that have been (R322). -/
def faultDone (s : State) (n : Nat) : State :=
  let p := s.fltPend.set ((n + 2 ^ 32 - s.fltTail) % 2 ^ 32) true
  { s with fltTail := (s.fltTail + (p.takeWhile id).length) % 2 ^ 32, fltPend := p.dropWhile id }

/-- The I/O die writes an entry of the fault-address queue: a store to the ring, which enters its home's queue. (log
80: DEDUCED, unsafe) -/
def faultEntry (s : State) (pa kind source count : Nat) : State :=
  let n := (s.fltTail + s.fltPend.length) % 2 ^ 32
  match ringSlot s.fltq n s.fltHead with
  | none => { s with fltq := s.fltq ||| BitVec.ofNat 64 (2 ^ 11) }
  | some k =>
    let e := leBytes 8 (pa / 64 * 64) ++ leBytes 1 kind ++ leBytes 1 source ++ leBytes 2 count ++ leBytes 4 0
      ++ leBytes 8 (meridian s) ++ leBytes 8 0
    let a := bitsOf s.fltq.toNat 56 12 * 4096 + 32 * k
    let s1 := { s with fltPend := s.fltPend ++ [false] }
    if backed s a then putHome s1 (enqueue { src := .fault n, pa := a, bytes := e } (homeOf s1 a 512)) else faultDone s1 n

/-- The count of a row: of every error, or of the corrected ones. -/
def rowCount (s : State) (pa : Nat) (corrected : Bool) : Nat := (sget s.rows (2 * Config.rowOf pa + corrected.toNat)).toNat

/-- A row's count rises, saturating. -/
def addRow (s : State) (pa : Nat) (corrected : Bool) : State :=
  { s with rows := sset s.rows (2 * Config.rowOf pa + corrected.toNat)
                       (BitVec.ofNat 16 (min 65535 (rowCount s pa corrected + 1))) }

/-- The I/O die appends an entry to the fault-address queue (R322): an error counts on its row, and a corrected one
may take the row past the firmware's threshold. (log 80: DEDUCED, unsafe) -/
def faultQueue (s : State) (pa kind source : Nat) : State :=
  let s1 := if kind = 1 then addRow (addRow s pa false) pa true else if kind = 2 then addRow s pa false else s
  let s2 := faultEntry s1 pa kind source (rowCount s1 pa false)
  if kind = 1 && rowCount s pa true ≤ Config.rowThreshold && Config.rowThreshold < rowCount s1 pa true then
    faultEntry s2 pa 4 source (rowCount s1 pa false)
  else s2

/-- The SOURCE of a physical address in the queue. -/
def faultSource (pa : Nat) : Nat :=
  match regionOf pa with
  | .hbm => hbmStack pa
  | .lpddr => 8
  | _ => 9

/-- An access to a page of the bad-page list adds an entry of KIND 3 (R323). -/
def noteBadPage (s : State) (pa : Nat) : State :=
  if s.badPages.contains (pa / 4096) then faultQueue s pa 3 (faultSource pa) else s

/-- The entry at which a walk meets memory that nothing backs, or poison. -/
def badEntry (s : State) (va : Nat) : Nat → Nat → Option Nat
  | 0, _ => none
  | n + 1, table =>
    let at_ := table + 8 * (va / 2 ^ (12 + 9 * n) % 512)
    let pte := performedLe s at_ 8
    if !backed s at_ || linePoisoned s (at_ / 64 * 64) then some at_
    else if pte % 2 = 1 && bitsOf pte 3 1 = 0 && !Nat.testBit pte 63 then badEntry s va n (bitsOf pte 53 10 * 4096)
    else none

/-- What a walk that fails leaves: it may have read a listed page, or consumed poison (R322, R323). (log 102: DEDUCED,
unsafe) -/
def noteWalk (s : State) (root va : Nat) : State :=
  match badEntry s va 5 (rootTable root) with
  | some pa => if backed s pa then faultQueue s (pa / 64 * 64) 3 (faultSource pa) else noteBadPage s pa
  | none => s


/-! ## Reads and writes of agents beside the lanes (R278) -/

/-- What an access of such an agent waits for: grains to be read; grains or a window that take its bytes; the fill of a window
block; its turn at several grains at once; nothing that can be asked for. -/
inductive Blocked where
  | read (src : Source) (pa n : Nat)
  | write (src : Source) (pa : Nat) (bs : List Byte)
  | fill (c t w blk : Nat)
  | lock (src : Source) (gs : List (Nat × Nat))
  | still
  deriving DecidableEq, Repr

/-- Whether a piece of an agent's write waits at its home. -/
def queuedAt (s : State) (src : Source) (pa : Nat) : Bool := (homeOf s pa 512).queue.any fun w => w.src = src && w.pa = pa

/-- The agent of a write goes on. -/
def forgetSent (s : State) (ks : List (Source × Nat)) : State := { s with sent := s.sent.filter fun k => !ks.contains k }

/-- The grains of some ranges of memory, (first address, bytes), as (first address, size). -/
def rangeGrains (s : State) (rs : List (Nat × Nat)) : List (Nat × Nat) :=
  (rs.flatMap fun r => (grainParts s r.1 512 (List.replicate r.2 0)).map fun p => let h := homeOf s p.1 512; (h.grain, h.size)).dedup

/-- An agent that reads and writes several ranges in one step: it waits for its turn at all their grains. (log 25:
DEDUCED, unsafe) -/
def withTurn (s : State) (src : Source) (rs : List (Nat × Nat)) : Except Blocked State :=
  let gs := rangeGrains s rs
  if (gs.all fun g => homeClear s none (some src) (homeOf s g.1 g.2)) && !(gs.any fun g => helmHolds s none g.1 g.2 true) then
    .ok (leaveQueues src s)
  else .error (.lock src gs)

/-- What an agent that has its turn writes. -/
def writeNow (s : State) (pa : Nat) (bs : List Byte) : State :=
  if viaWindow s pa then performAway s pa bs
  else if backed s pa then performBytes s none pa bs
  else noteBadPage s pa

/-- A write of an agent beside the lanes: it performs at once where every grain allows it; else its pieces enter the
queues of their grains (R276, R278), or it goes through a window, and it is done when none of them waits any more.
Memory that nothing backs, and a window that cannot be reached, drop it. (log 25: DEDUCED, unsafe) -/
def directWrite (s : State) (src : Source) (pa : Nat) (bs : List Byte) : Except Blocked State :=
  if bs.isEmpty then .ok s
  else if viaWindow s pa then
    (if s.sent.contains (src, pa) then
        (if (requestOf s src pa).isSome then .error (.write src pa bs) else .ok (forgetSent s [(src, pa)]))
      else if windowUp s pa then .error (.write src pa bs) else .ok s)
  else if !backed s pa then .ok (noteBadPage s pa)
  else
    let ks := (grainParts s pa 512 bs).map fun p => (src, p.1)
    if ks.any s.sent.contains then
      (if ks.all fun k => s.sent.contains k && !queuedAt s src k.2 then .ok (forgetSent s ks) else .error (.write src pa bs))
    else if writableNow s none none none pa bs.length 512 then .ok (performBytes s none pa bs)
    else .error (.write src pa bs)

/-- One piece of a write enters its home's queue, once nobody owns the grain; and whether anything has changed. -/
def sendPiece (src : Source) (r : State × Bool) (p : Nat × List Byte) : State × Bool :=
  let s := r.1
  if s.sent.contains (src, p.1) then r
  else if readableNow s none none p.1 p.2.length 512 then
    (putHome { s with sent := (src, p.1) :: s.sent } (enqueue { src := src, pa := p.1, bytes := p.2 } (homeOf s p.1 512)), true)
  else match askOnce s p.1 p.2.length 512 with
    | some t => (t, true)
    | none => r

/-- A write that cannot perform at once is sent. -/
def sendWrite (s : State) (src : Source) (pa : Nat) (bs : List Byte) : Option State :=
  if viaWindow s pa then
    (if !readableNow s none none pa bs.length 512 then askOnce s pa bs.length 512
      else if s.sent.contains (src, pa) || blockWaits s pa then none
      else some (sendRequest { s with sent := (src, pa) :: s.sent } src pa bs))
  else
    let r := (grainParts s pa 512 bs).foldl (sendPiece src) (s, false)
    if r.2 then some r.1 else none

/-- A read in one step of the last performed bytes, by firmware and the hardware of voyages; poison where nothing
backs them. (log 25: DEDUCED, unsafe) -/
def directRead (s : State) (pa n : Nat) : Option (List Byte × Bool) :=
  if viaWindow s pa then
    (if !windowUp s pa then some (List.replicate n 0, true)
      else if blockWaits s pa || !readableNow s none none pa n 512 then none
      else some (farBytes s s.clock pa n, false))
  else if readableNow s none none pa n 512 then
    let bad := !backed s pa || (linesOf pa n).any (linePoisoned s)
    some (if bad then List.replicate n 0 else readBytes s.mem pa n, bad)
  else none

/-- MEMERR held for a lane of a word. The lanes of the earliest such word share one record, whose ADDR is the lowest's
(R357). (log 45: DEDUCED, unsafe) -/
def addMemErr (g : Grp) (k l va wid : Nat) (held : List TrapRec) : List TrapRec :=
  let new : TrapRec := { mkRec g k (oneLane l) 0 va 0 0x16 1 with wid := wid }
  match held.find? fun r => r.cause = 0x16 && r.mask ≠ 0 with
  | none => held ++ [new]
  | some r =>
    let merged : TrapRec :=
      if r.wid = wid then { r with mask := r.mask ||| oneLane l, addr := if lowest (r.mask ||| oneLane l) = some l then va else r.addr }
      else if wid < r.wid then new else r
    held.map fun q => if q = r then merged else q

/-- A lane's read consumes poison: an entry in the fault-address queue, and MEMERR for its group (R357). (log 45:
DEDUCED, unsafe) -/
def consumePoison (s : State) (c k l : Nat) (pa va wid : Nat) : State :=
  modGrp (faultQueue s pa 3 (faultSource pa)) c k fun g => { g with causes := addMemErr g k l va wid g.causes }

/-- An engine's read consumes poison: MEMERR with INFO as for a copy or a sweep. -/
def enginePoison (s : State) (c k pa va info : Nat) : State :=
  let s1 := faultQueue s pa 3 (faultSource pa)
  match grpAt s1 c k with
  | none => s1
  | some g => holdCause s1 c k (mkRec g k 0 0 va info 0x16 1)

/-! ## A store that fails (R287, R291) -/

/-- Record a failure in an accumulator: 1 dead link, 2 refused, 3 CXL completion timeout. -/
def addFailure (cause : Nat) (w : Dword) : Dword :=
  let count := min 65535 (bitsOf w.toNat 47 32 + 1)
  let first := if bitsOf w.toNat 11 8 = 0 then cause else bitsOf w.toNat 11 8
  let bits := Nat.lor (w.toNat % 8) (if cause = 1 then 1 else if cause = 2 then 2 else 4)
  BitVec.ofNat 64 (count * 2 ^ 32 + first * 2 ^ 8 + bits)

/-- A store of group `index` of a team fails. -/
def failStore (s : State) (c team index : Nat) (grid : Dword) (cause : Nat) : State :=
  modTeam s c team fun t => if t.grid = grid then { t with fails := modAt (addFailure cause) index t.fails } else t

def recordFailure (s : State) (c : Nat) (a : Acc) (cause : Nat) : State := failStore s c a.team a.index a.grid cause

/-! ## Scratchpad, windows and their bytes (R163, R183, R184) -/

/-- The window block that serves a scratchpad offset. -/
inductive Backing where
  | plain
  | invalid (w blk : Nat)
  | block (w blk pa : Nat)
  deriving DecidableEq, Repr

def backingOf (tm : Team) (off : Nat) : Backing :=
  match windowAt tm off with
  | none => .plain
  | some (w, wn, b) =>
    match wn.blocks.getD b .invalid with
    | .invalid => .invalid w b
    | .valid pa _ => .block w b pa

/-- The valid window block of a core that holds a physical address: team, offset of the byte in its allotment (R184). -/
def coveredBy (x : Core) (pa : Nat) : Option (Nat × Nat) :=
  (x.teams.filterMap fun t =>
    ((List.range 4).filterMap fun w =>
      match t.wins.getD w none with
      | none => none
      | some wn =>
        ((mapFrom (fun i b => (i, b)) 0 wn.blocks).filterMap fun ib =>
          match ib.2 with
          | .valid bp _ => if bp ≤ pa ∧ pa < bp + 512 then some (t.num, wn.off + 512 * ib.1 + (pa - bp)) else none
          | .invalid => none).head?).head?).head?

def readScr (s : State) (c t off n : Nat) : List Byte :=
  match teamAt s c t with
  | some tm => readBytes tm.bytes off n
  | none => List.replicate n 0

/-- Mark the sectors that a store into a window block makes dirty (R183). -/
def markDirty (off n : Nat) (tm : Team) : Team :=
  { tm with wins := tm.wins.map fun ow => ow.map fun wn =>
      { wn with blocks := mapFrom (fun i b =>
          match b with
          | .invalid => b
          | .valid pa d =>
            let lo := wn.off + 512 * i
            .valid pa (BitVec.ofNat 16 (Nat.lor d.toNat (maskBelow (fun k =>
              off < lo + 32 * k + 32 && lo + 32 * k < off + n) 16)))) 0 wn.blocks } }

/-- The parts of `n` bytes of a scratchpad by blocks of 512 bytes: (offset, bytes). -/
def blockPieces (off n : Nat) : List (Nat × Nat) :=
  (List.range ((off + n + 511) / 512 - off / 512)).map fun i =>
    let lo := max off ((off / 512 + i) * 512)
    (lo, min (off + n) ((off / 512 + i + 1) * 512) - lo)

/-- What a write to a window block does beside its bytes: reservations and watches of its memory, and the lanes of the core that
watch a word of the block (R176, R294). -/
def touchBlock (c t : Nat) (s : State) (p : Nat × Nat) : State :=
  match teamAt s c t with
  | none => s
  | some tm =>
    match backingOf tm p.1 with
    | .block w b pa =>
      let o := (match tm.wins.getD w none with | some wn => p.1 - wn.off - 512 * b | none => 0)
      let s1 := sendWakes (clearGranules s (.glob (pa + o)) p.2) (pa + o) p.2
      let wk : Wake := { grain := pa, size := 512, bytes := readBytes tm.bytes (p.1 - o) 512 }
      modCore s1 c fun x => { x with wakes := x.wakes ++ [wk] }
    | _ => s

/-- Write scratchpad bytes: they are performed at every scope; a window block turns dirty, and its watchers on the
core are woken with the new value (R279, R294). (log 89: DEDUCED, safe) -/
def writeScr (s : State) (c t off : Nat) (bs : List Byte) : State :=
  let n := bs.length
  let s1 := modTeam s c t fun tm => markDirty off n { tm with bytes := writeBytes tm.bytes off bs }
  (blockPieces off n).foldl (touchBlock c t) (clearGranules s1 (.scr c t off) n)

/-- The place that a reservation names: a byte of a valid window block by its physical address, so that a write by any agent
clears it (R176). -/
def resvName (s : State) (p : Place) : Place :=
  match p with
  | .glob _ => p
  | .scr c t off =>
    match teamAt s c t with
    | none => p
    | some tm =>
      match backingOf tm off with
      | .block w b pa => (match tm.wins.getD w none with | some wn => .glob (pa + (off - wn.off - 512 * b)) | none => p)
      | _ => p

/-- A team's translation of a virtual address; the supervisor's team is not translated (log 4: DESIGN CHOICE, unsafe).
-/
def teamLeaf (s : State) (c : Nat) (grid : Dword) (va : Nat) : Option Target :=
  if grid = 0 then some (leafTarget flatLeaf va)
  else match findLeaf s c grid va with
    | .leaf lf _ => if lf.u && lf.r && !lf.io then some (leafTarget lf va) else none
    | _ => none

/-- A poisoned line of memory whose bytes stand in a window block and no store has replaced (R357). (log 103: DEDUCED,
unsafe) -/
def windowPoison (s : State) (tm : Team) (off n : Nat) : Option Nat :=
  match windowAt tm off with
  | none => none
  | some (_, wn, b) =>
    match wn.blocks.getD b .invalid with
    | .invalid => none
    | .valid pa d =>
      let o := off - wn.off - 512 * b
      ((List.range n).find? fun i => !d.getLsbD ((o + i) / 32) && linePoisoned s ((pa + o + i) / 64 * 64)).map fun i => pa + o + i

/-- What a touch of an invalid block meets where no fill can be made: memory that nothing backs, or a window that
cannot be reached (R319, R356). (log 103: DEDUCED, unsafe) -/
def unfillable (s : State) (tc : Nat) (tm : Team) (off : Nat) : Option Nat :=
  match windowAt tm off with
  | none => none
  | some (_, wn, b) =>
    match wn.blocks.getD b (.valid 0 0), teamLeaf s tc tm.grid (wn.va + 512 * b) with
    | .invalid, some tg =>
      (match tg.place with
        | .glob pa => if (if viaWindow s pa then windowUp s pa else backed s pa) then none else some (pa + (off - wn.off - 512 * b))
        | .scr .. => none)
    | _, _ => none

/-- Why a store to a global address fails: 1 a dead link, 2 refused (R287, R319, R356, R365); none where it can be made. -/
def storeFails (s : State) (pa : Nat) : Option Nat :=
  match regionOf pa with
  | .host _ | .fabric _ => if !viaWindow s pa then some 2 else if windowUp s pa then none else some 1
  | _ => if backed s pa then none else some (if lostAddr s pa then 1 else 2)

/-- Why a store to a place fails: a window block that cannot be filled fails it as its memory would. -/
def putFails (s : State) (p : Place) : Option Nat :=
  match p with
  | .glob pa => storeFails s pa
  | .scr c t off => (teamAt s c t).bind fun tm => (unfillable s c tm off).bind (storeFails s)

/-- Bytes written wherever a place lies: an invalid block must be filled first. -/
def directPut (s : State) (src : Source) (p : Place) (bs : List Byte) : Except Blocked State :=
  match p with
  | .glob pa => directWrite s src pa bs
  | .scr c t off =>
    match teamAt s c t with
    | none => .ok s
    | some tm =>
      match backingOf tm off with
      | .invalid w b => (match unfillable s c tm off with
          | some pa => .ok (noteBadPage s pa)
          | none => .error (.fill c t w b))
      | _ => .ok (writeScr s c t off bs)

/-- Bytes that come through a window and that the package keeps: a line of host memory, or a fabric copy of a block (R355,
R367). -/
def keepLine (s : State) (since pa : Nat) : State :=
  match portOf pa with
  | some _ =>
    let l := pa / 64 * 64
    if s.hostCache.contains l then s
    else { s with mem := writeBytes s.mem l ((List.range 64).map fun i => Config.windowByte since (outAddr s (l + i)))
                  hostCache := l :: s.hostCache }
  | none =>
    let b := pa / 512 * 512
    if s.copies.any fun k => k.grain = b then s
    else { s with mem := writeBytes s.mem b ((List.range 512).map fun i => Config.windowByte since (b + i))
                  copies := { grain := b, ends := [] } :: s.copies }

/-- What a read of an agent beside the lanes gives: the bytes, and the address of poison that it met. -/
structure ReadIn where
  bytes : List Byte
  bad : Option Nat
  state : State

/-- The first poisoned byte of a range. -/
def poisonIn (s : State) (pa n : Nat) : Option Nat := ((List.range n).find? fun i => linePoisoned s ((pa + i) / 64 * 64)).map (pa + ·)

/-- A read of an agent beside the lanes: served at the homes; or requested through a window and taken when the answer comes, which
may be that the request has failed (R356, R365). Memory that nothing backs reads as poison. -/
def agentRead (s : State) (src : Source) (pa n : Nat) : Except Blocked ReadIn :=
  let zeros := List.replicate n (0 : Byte)
  if viaWindow s pa then
    (if !readableNow s none none pa n 512 then .error (.read src pa n)
      else if cachedHere s pa n && (portOf pa).isSome then .ok { bytes := readBytes s.mem pa n, bad := none, state := s }
      else match requestOf s src pa with
        | none => if windowUp s pa then .error (.read src pa n) else .ok { bytes := zeros, bad := some pa, state := s }
        | some o =>
          let s1 := endRequest s o
          if o.failed then .ok { bytes := zeros, bad := some pa, state := s1 }
          else if (portOf pa).isSome then
            let s2 := (linesOf pa n).foldl (fun s l => keepLine s o.since l) s1
            .ok { bytes := readBytes s2.mem pa n, bad := none, state := s2 }
          else if Config.refused o.id then .ok { bytes := zeros, bad := some pa, state := s1 }
          else .ok { bytes := farBytes s1 o.since pa n, bad := none, state := s1 })
  else if !backed s pa then .ok { bytes := zeros, bad := some pa, state := s }
  else if readableNow s none none pa n 512 then
    match poisonIn s pa n with
    | some b => .ok { bytes := zeros, bad := some b, state := s }
    | none => .ok { bytes := readBytes s.mem pa n, bad := none, state := noteReads s pa n 512 }
  else .error (.read src pa n)

/-- What a range of a scratchpad meets in its window blocks: poison, or memory that cannot fill a block. -/
def rangePoison (s : State) (c : Nat) (tm : Team) (off n : Nat) : Option Nat :=
  (blockPieces off n).findSome? fun p => windowPoison s tm p.1 p.2 <|> unfillable s c tm p.1

/-- Bytes read wherever a place lies. -/
def agentGet (s : State) (src : Source) (p : Place) (n : Nat) : Except Blocked ReadIn :=
  match p with
  | .glob pa => agentRead s src pa n
  | .scr c t off =>
    match teamAt s c t with
    | none => .ok { bytes := List.replicate n 0, bad := none, state := s }
    | some tm =>
      match backingOf tm off with
      | .invalid w b => (match unfillable s c tm off with
          | some pa => .ok { bytes := List.replicate n 0, bad := some pa, state := s }
          | none => .error (.fill c t w b))
      | _ => (match windowPoison s tm off n with
          | some pa => .ok { bytes := List.replicate n 0, bad := some pa, state := s }
          | none => .ok { bytes := readBytes tm.bytes off n, bad := none, state := s })

/-- What an atomic of an agent beside the lanes through a window comes to: the old value, none where it failed; or it is under way. -/
inductive FarAtom where
  | done (old : Option Nat) (s : State)
  /-- none where nothing has changed -/
  | going (s : Option State)

/-- An atomic of such an agent through a window (R355, R365): a request is sent; the line comes to the slice, the atomic acts on it
and is complete at the host's GO; or it acts at the remote home. `f` gives what it writes for the old value. -/
def farAtomic (s : State) (src : Source) (pa n : Nat) (f : Nat → Option Nat) : FarAtom :=
  match requestOf s src pa with
  | none =>
    if !windowUp s pa then .done none s
    else if !readableNow s none none pa n 512 then .going (askOnce s pa n 512)
    else if blockWaits s pa then .going none
    else .going (some (sendRequest s src pa []))
  | some o =>
    let s1 := endRequest s o
    if o.failed then .done none s1
    else match o.acted with
      | some a => if o.complete then .done (some a.1) s1 else .going none
      | none =>
        if o.port.isSome then
          if lineActing s pa then .going none
          else
            let s2 := keepLine s1 o.since pa
            let old := readLe s2.mem pa n
            (match f old with
              | none => .done (some old) s2
              | some v => .going (some { s2 with outstanding := s2.outstanding ++
                  [{ o with acted := some (old, n, v % 2 ^ (8 * n)), since := s.clock }] }))
        else if s.copies.any fun k => overlap (.glob k.grain) 512 (.glob pa) n then .going none
        else if Config.refused o.id then .done none s1
        else
          let old := leNat (farBytes s1 o.since pa n)
          .done (some old) (match f old with
            | some v => performAway s1 pa (leBytes n v)
            | none => s1)

/-- An atomic of an agent beside the lanes: at its home, where it may wait in the queue, or through a window. -/
def agentAtomic (s : State) (src : Source) (pa n : Nat) (f : Nat → Option Nat) : FarAtom :=
  if viaWindow s pa then farAtomic s src pa n f
  else if !backed s pa then .done none (noteBadPage s pa)
  else if writableNow s none none (some src) pa n 512 then
    let s1 := leaveQueues src s
    match poisonIn s1 pa n with
    | some b => .done none (faultQueue s1 b 3 (faultSource b))
    | none =>
      let old := readLe s1.mem pa n
      .done (some old) (match f old with
        | some v => performBytes s1 none pa (leBytes n v)
        | none => noteReads s1 pa n 512)
  else .going (queueFor s none none src pa n 512)

/-- Bytes read wherever a place lies, in one step. -/
def directGet (s : State) (p : Place) (n : Nat) : Option (List Byte × Bool) :=
  match p with
  | .glob pa => directRead s pa n
  | .scr c t off =>
    match teamAt s c t with
    | none => some (List.replicate n 0, false)
    | some tm =>
      match backingOf tm off with
      | .invalid _ _ => (unfillable s c tm off).map fun _ => (List.replicate n 0, true)
      | _ => some (if (windowPoison s tm off n).isSome then (List.replicate n 0, true) else (readBytes tm.bytes off n, false))

/-! ## Accesses of a lane -/

def isLoadLike (a : Acc) : Bool :=
  match a.kind with
  | .store => false
  | _ => true

def isAcquire (a : Acc) : Bool := isLoadLike a && (a.ord = .acq || a.ord = .ar)
def isRelease (a : Acc) : Bool := a.ord = .rel || a.ord = .ar

/-- Whether a scope is .CLU or wider. -/
def wide : Scope → Bool
  | .lane | .grp | .team => false
  | .clu | .die | .dev | .node => true

def sameLane (a b : Acc) : Bool := a.slot = b.slot && a.lane = b.lane
def accOverlap (a b : Acc) : Bool := overlap a.place a.n b.place b.n

/-- The accesses before `id` in a list. -/
def before (id : Nat) (l : List Acc) : List Acc := l.takeWhile fun a => a.id ≠ id

/-- The target core of a scratchpad access; none for a global one. -/
def scrCore : Place → Option Nat
  | .scr c _ _ => some c
  | .glob _ => none

/-- Where core `c`, with its windows, serves an access: a valid window block from its scratchpad (R184). -/
def servedAt (c : Nat) (x : Core) (p : Place) : Place :=
  match p with
  | .glob pa => (match coveredBy x pa with | some (t, off) => .scr c t off | none => p)
  | .scr .. => p

/-- Whether two accesses of core `c` share a byte. -/
def meet (c : Nat) (x : Core) (a b : Acc) : Bool := overlap (servedAt c x a.place) a.n (servedAt c x b.place) b.n

/-- Whether an access is an atomic read-modify-write. -/
def isAtomic (a : Acc) : Bool :=
  match a.kind with
  | .atom _ | .acas _ | .sc | .partn _ => true
  | _ => false

/-- Whether two stores or atomics are of one word and meet: the word serves its lanes in increasing order (R172, R174,
R175, R177). -/
def servedBefore (c : Nat) (x : Core) (b a : Acc) : Bool :=
  (isAtomic a || !isLoadLike a) && (isAtomic b || !isLoadLike b) && b.slot = a.slot && b.wid = a.wid
    && (meet c x a b || (a.kind = .sc && granule (servedAt c x a.place) = granule (servedAt c x b.place)))

/-- R282, R247, R279: no earlier acquire of its lane is unsatisfied, no earlier access of its lane to its bytes or to the
same core's scratchpad is pending, nor a store or an atomic of its word that comes before it. A global access that a window
block serves counts as one of the scratchpad (R184). -/
def issuable (c : Nat) (x : Core) (a : Acc) : Bool :=
  let target (a : Acc) := scrCore (servedAt c x a.place)
  (before a.id x.pend).all fun b =>
    !servedBefore c x b a
      && !(isAcquire b && b.slot = a.slot && (b.lane = a.lane || b.also.getLsbD a.lane))
      && !(sameLane a b && (meet c x a b || (target a ≠ none && target a = target b)))

/-- A release to scratchpad, or an atomic with .REL or .AR: every earlier access of its lane is done at its scope
(R281). -/
def releaseReady (x : Core) (a : Acc) : Bool :=
  !isRelease a || (!(before a.id x.pend).any (sameLane a)
    && (!wide a.scope || !x.outb.any fun b => sameLane a b && b.id < a.id))

/-- Whether a buffered store is visible to a load: its own lane's, or under R285 its team's or its group's. -/
def visibleTo (ld st : Acc) : Bool :=
  sameLane ld st || (ld.scope = .team && ld.team = st.team && ld.grid = st.grid) || (ld.scope = .grp && ld.slot = st.slot)

/-- The byte at a place that a buffered store holds. -/
def storedByte (st : Acc) (p : Place) : Option Byte :=
  match p, st.place with
  | .glob a, .glob b => if b ≤ a ∧ a < b + st.n then some (BitVec.ofNat 8 (st.val / 256 ^ (a - b))) else none
  | _, _ => none

/-- One byte of a load: from the newest buffered store that covers it (none while that store must first perform), or the
last performed one, which `mem` gives. -/
def loadByte (x : Core) (mem : Nat → Byte) (ld : Acc) (pa : Nat) : Option Byte :=
  match x.outb.reverse.find? fun st => (storedByte st (.glob pa)).isSome with
  | some st => if visibleTo ld st then storedByte st (.glob pa) else none
  | none => some (mem pa)

/-- The bytes of a load. -/
def loadBytes (x : Core) (mem : Nat → Byte) (ld : Acc) (pa : Nat) : Nat → Option (List Byte)
  | 0 => some []
  | n + 1 => do
    let b ← loadByte x mem ld pa
    let bs ← loadBytes x mem ld (pa + 1) n
    pure (b :: bs)

/-- Whether the lane's own buffered stores supply every byte of a load (R280). -/
def suppliedHere (x : Core) (ld : Acc) (pa n : Nat) : Bool :=
  (List.range n).all fun i => x.outb.any fun st => visibleTo ld st && (storedByte st (.glob (pa + i))).isSome

/-! ## Writing a destination -/

/-- The value a load writes: zero- or sign-extended to its registers (R172). -/
def extend (signed : Bool) (n v : Nat) : Nat := if signed then wrapI 32 (sval (8 * n) v) else v

/-- Write `n` physical registers but those that `spared` names. (log 19: DEDUCED, unsafe) -/
def putVBut (spared : Nat × Nat) (regs : Sparse 32) (p v : Nat) : Nat → Sparse 32
  | 0 => regs
  | n + 1 =>
    putVBut spared (if spared.1 ≤ p ∧ p < spared.2 then regs else sset regs p (BitVec.ofNat 32 v)) (p + 1) (v / 2 ^ 32) n

def putDst (s : State) (c : Nat) (a : Acc) (v : Nat) : State :=
  match a.dst with
  | .none => s
  | .v p n => modGrp s c a.slot fun g => modLane g a.lane fun ln => { ln with regs := putVBut a.spared ln.regs p v n }
  | .s num n => modGrp s c a.slot fun g => putS g num n v

def dropPend (s : State) (c id : Nat) : State := modCore s c fun x => { x with pend := x.pend.filter (·.id ≠ id) }

/-! ## Watches (R294, R295) -/

def watchCount (s : State) (slice : Nat) : Nat := (s.watches.filter (·.slice = slice)).length

/-- Register a watch for a core on a grain: an entry, or a poll where all 64 are in use. -/
def registerWatch (s : State) (c : Nat) (h : Home) (interval : Nat) : State × Watch :=
  let slice := homeNow s h.grain
  if s.watches.any fun w => w.grain = h.grain && w.core = c then (s, .entry)
  else if watchCount s slice < 64 then
    ({ s with watches := { slice := slice, grain := h.grain, size := h.size, core := c, words := 0 } :: s.watches }, .entry)
  else (s, .poll (s.clock + interval) interval)

/-- A parked WAITV takes the watch that it was given. -/
def setWatch (s : State) (c id : Nat) (w : Watch) : State :=
  syncWatches (modCore s c fun x => { x with pend := x.pend.map fun b => if b.id = id then { b with watch := w } else b }) c

def waitCond (cc : WCond) (x v : Nat) : Bool :=
  match cc with
  | .eq => x = v
  | .ne => x ≠ v
  | .lt => x < v
  | .ge => x ≥ v

/-- A WAITV whose condition holds: its destination, and the lane is ready past it. -/
def finishWait (s : State) (c : Nat) (a : Acc) (v : Nat) : State :=
  let s1 := dropPend (putDst s c a v) c a.id
  syncWatches (modGrp s1 c a.slot fun g => modLane g a.lane fun ln => { ln with wait := .ready, pc := ln.pc + 8 }) c

/-! ## Atomics (R174, R175, R177) -/

/-- The new value of ATOM; FADD as R174 gives. -/
def atomVal (op : AtomOp) (n old b : Nat) : Nat :=
  let w := 8 * n
  match op with
  | .add => (old + b) % 2 ^ w
  | .and => Nat.land old b
  | .or => Nat.lor old b
  | .xor => Nat.xor old b
  | .xchg => b % 2 ^ w
  | .min => if sval w old ≤ sval w b then old else b % 2 ^ w
  | .max => if sval w old ≥ sval w b then old else b % 2 ^ w
  | .minu => min old (b % 2 ^ w)
  | .maxu => max old (b % 2 ^ w)
  | .fadd => (fpAdd (if n = 8 then fmt64 else fmt32) .rne false old b).1

/-- What an atomic does to its location: the value it returns, and the bytes it writes, if it writes. (log 18:
DEDUCED, unsafe) -/
def atomEffect (s : State) (a : Acc) (resv : Option Place) (old : Nat) : Nat × Option Nat :=
  match a.kind with
  | .atom op => (old, some (atomVal op a.n old a.val))
  | .acas cmp => (old, if old = cmp % 2 ^ (8 * a.n) then some (a.val % 2 ^ (8 * a.n)) else none)
  | .sc => if resv = some (granule (resvName s a.place)) then (0, some (a.val % 2 ^ (8 * a.n))) else (1, none)
  | .partn w =>
    let cur := old % 2 ^ 64
    let limit := old / 2 ^ 64
    if cur % w = 0 ∧ cur + w ≤ limit then (1, some ((cur + w) % 2 ^ 64 + limit * 2 ^ 64)) else (0, none)
  | _ => (old, none)

/-- The access type of a form's check (R324): an atomic, LR, SC and PARTN need both permissions. -/
def accType : AccKind → AccessType
  | .load _ | .waitv _ _ => .load
  | .store => .store
  | _ => .atomic

/-- Free bytes: what a host or a remote endpoint answers is not the part's to say (log 12: DESIGN CHOICE, safe). -/
def freeBytes (s : State) (n : Nat) : List Byte × State :=
  ((List.range n).map fun i => Config.freeByte (s.freeCount + i), { s with freeCount := s.freeCount + n })

end Sys2Proof.Machine
end

