-- ==== Sys2Proof/Machine/Retire.lean ====
section
/-! DEFINITION. Emptying windows (07 R185), team and cluster barriers (06 R158; 12 R249), the matrix engine's release
(08 R200), and the retirement of groups and teams (04 R94; 07 R194; 12 R246, R272). -/

namespace Sys2Proof.Machine

/-! ## Windows (R182, R183, R185) -/

/-- The grain addresses of a block. -/
def blockGrains (pa gr : Nat) : List Nat := (List.range (512 / gr)).map fun i => pa + gr * i

/-- Set or clear the window owner of a block's grains. -/
def ownBlock (s : State) (pa gr : Nat) (o : Option Owner) : State :=
  (blockGrains pa gr).foldl (fun s a => putHome s { homeOf s a gr with owner := o, asked := false }) s

/-- The grain size under which a home keeps a block. -/
def blockGr (s : State) (pa : Nat) : Nat := (homeOf s pa 512).size

/-- A number for the stores of a group that has left its slot: no other group's. (log 15: DESIGN CHOICE, safe) -/
def goneSlot (s : State) (k : Nat) : Nat := 96 * (s.nextId + 1) + k

/-- A store of no lane: what a core that empties a team's windows sends through a window. -/
def backAcc (s : State) (c t : Nat) : Acc :=
  { id := s.nextId, wid := s.nextId, slot := goneSlot s 0, lane := 0, also := 0, team := 129, index := 0,
    grid := ((teamAt s c t).map (·.grid)).getD 0, kind := .store, place := .glob 0, va := 0, n := 32, ord := .rlx, scope := .lane,
    val := 0, dst := .none, gr := 512, shr := false, nc := false, norepl := false, noAlloc := false, txn := false, own := [],
    spared := (0, 0), watch := .no, drained := false, registered := false, since := s.clock, entry := false }

/-- A sector of a block that a window reaches is written through it: a relaxed store (R185, R355, R365). -/
def backThrough (s : State) (c pa : Nat) (a : Acc) (bs : List Byte) : State :=
  let s1 := if cachedHere s pa bs.length then { s with mem := writeBytes s.mem pa bs } else s
  modCore { s1 with nextId := s1.nextId + 1 } c fun x =>
    { x with outb := x.outb ++ [{ a with id := s1.nextId, place := .glob pa, n := bs.length, val := leNat bs }] }

/-- One sector goes back. As a store of the lanes of a word it performs again, or fails as one (R185); for a surrender
only its bytes go: they were performed when they were written into the block (R183). (log 27: DEDUCED, unsafe) -/
def backSector (s : State) (c t pa : Nat) (who : Option Acc) (bs : List Byte) : State :=
  if viaWindow s pa then backThrough s c pa (who.getD (backAcc s c t)) bs
  else match who with
    | none => wroteHomes (setBytes s pa bs) pa bs.length
    | some a => if backed s pa then performBytes s none pa bs
        else recordFailure (noteBadPage s pa) c a (if lostAddr s pa then 1 else 2)

/-- Write a block's dirty sectors back to memory, or through a window (R183, R185). (log 27: DEDUCED, unsafe) -/
def writeBack (s : State) (c t lo pa : Nat) (dirty : BitVec 16) (who : Option Acc) : State :=
  ((List.range 16).filter fun k => dirty.getLsbD k).foldl
    (fun s k => backSector s c t (pa + 32 * k) who (readScr s c t (lo + 32 * k) 32)) s

/-- The lanes that watch a word of a block which the core gives up read again, and so register at its home (R294). (log 101:
DEDUCED, unsafe) -/
def rewatch (s : State) (c pa : Nat) : State :=
  modCore s c fun x => { x with pend := x.pend.map fun a =>
    if a.watch = .entry && overlap (.glob pa) 512 a.place a.n then { a with watch := .no } else a }

def setBlock (s : State) (c t w b : Nat) (v : Block) : State :=
  modTeam s c t fun tm => { tm with wins := modAt (fun ow => ow.map fun wn =>
    { wn with blocks := wn.blocks.set b v }) w tm.wins }

def windowOf (s : State) (c t w : Nat) : Option Window := ((teamAt s c t).map fun tm => tm.wins.getD w none).join

/-- A core gives a block up: its grains have no owner, and it is invalid. The grains of a block beyond a window stay the core's until
what it has written back is performed there (R286). -/
def leaveBlock (s : State) (c t w b pa : Nat) : State :=
  let left := viaWindow s pa && (coreAt s c).outb.any fun a => overlap (.glob pa) 512 a.place a.n
  setBlock (ownBlock (rewatch s c pa) pa (blockGr s pa) (if left then some (.release c) else none)) c t w b .invalid

/-- Empty or clean the blocks of a window: `back` writes dirty sectors to memory, as stores of `who` where a word does
it; `keep` leaves the blocks valid. (log 27: DEDUCED, unsafe) -/
def sweepWindow (s : State) (c t w : Nat) (back keep : Bool) (who : Option Acc) : State :=
  match windowOf s c t w with
  | none => s
  | some wn =>
    (mapFrom (fun i b => (i, b)) 0 wn.blocks).foldl (fun s ib =>
      match ib.2 with
      | .invalid => s
      | .valid pa d =>
        let s1 := if back then writeBack s c t (wn.off + 512 * ib.1) pa d who else s
        if keep then setBlock s1 c t w ib.1 (.valid pa 0)
        else leaveBlock s1 c t w ib.1 pa) s

def unmapWindow (s : State) (c t w : Nat) : State :=
  modTeam s c t fun tm => { tm with wins := tm.wins.set w none }

/-- WFLUSH.UN of one slot; nothing where it is empty. -/
def emptyWindow (s : State) (c t w : Nat) (back : Bool) (who : Option Acc) : State :=
  unmapWindow (sweepWindow s c t w back false who) c t w

/-! ## Team and cluster barriers (R158, R249) -/

/-- The team on cluster core `cc` of a team's cluster, with its physical core. -/
def member (s : State) (tm : Team) (cc : Nat) : Option (Nat × Team) :=
  match tm.place[cc]? with
  | none => none
  | some p =>
    ((coreAt s p).teams.find? fun t => t.grid = tm.grid ∧ t.cluster = tm.cluster ∧ t.ccore = cc).map fun t => (p, t)

/-- The core and team that keep a barrier: the team's own, or cluster core 0 for a cluster barrier. -/
def barHome (s : State) (c : Nat) (tm : Team) (cbar : Bool) : Option (Nat × Nat) :=
  if cbar then (member s tm 0).map fun r => (r.1, r.2.num) else some (c, tm.num)

def barAt (tm : Team) (cbar : Bool) (id : Nat) : Barrier :=
  (if cbar then tm.cbars else tm.bars).getD id Barrier.zero

def setBar (s : State) (home : Nat × Nat) (cbar : Bool) (id : Nat) (b : Barrier) : State :=
  modTeam s home.1 home.2 fun tm =>
    if cbar then { tm with cbars := tm.cbars.set id b } else { tm with bars := tm.bars.set id b }

/-- Whether two teams are of one cluster. -/
def sameCluster (a b : Team) : Bool := a.grid = b.grid && a.cluster = b.cluster

/-- Change the team that keeps a barrier; of a cluster barrier also one that CTXS.T has saved, which keeps what
happens to its barriers meanwhile (R249). (log 120: DEDUCED, unsafe) -/
def modHome (s : State) (c : Nat) (tm : Team) (cbar : Bool) (f : Team → Team) : State :=
  if cbar then
    let g (t : Team) : Team := if sameCluster t tm && t.ccore = 0 then f t else t
    modCore s (tm.place.headD c) fun x => { x with teams := x.teams.map g, away := x.away.map g }
  else modTeam s c tm.num f

/-- The groups of the team, or of its cluster, that have not retired. -/
def groupsAlive (s : State) (c : Nat) (tm : Team) (cbar : Bool) : Nat :=
  match gridOf s tm.grid with
  | some gr => ((gr.alive.filter fun a => a.1 = tm.cluster && (cbar || a.2.1 = tm.ccore)).map fun a => a.2.2).sum
  | none => ((coreAt s c).groups.filter fun og => match og with | some g => g.team = tm.num | none => false).length

/-- Whether an arrival is at barrier `id`. -/
def barIs (cbar : Bool) (id : Nat) (r : Rdv) : Bool :=
  match r.word with
  | some (.tbar _ _ i _) => !cbar && i.val = id
  | some (.cbar _ _ i _) => cbar && i.val = id
  | _ => false

/-- A completed barrier makes the arrived lanes of a group ready past their word. -/
def releaseBar (cbar : Bool) (id : Nat) (g : Grp) : Grp :=
  let g1 := (g.bars.filter (barIs cbar id)).foldl (fun g r =>
    mapLanes r.arrived (fun _ ln => { ln with wait := .ready, pc := r.pc + 8 }) g) g
  { g1 with bars := g.bars.filter fun r => !barIs cbar id r }

/-- Change every group of a team on a core. -/
def modGroups (s : State) (c t : Nat) (f : Grp → Grp) : State :=
  modCore s c fun x => { x with groups := x.groups.map fun og => og.map fun g => if g.team = t then f g else g }

/-- Release a barrier's groups: of the team, or of every team of the cluster. -/
def releaseAll (s : State) (c : Nat) (tm : Team) (cbar : Bool) (id : Nat) : State :=
  if cbar then
    (List.range tm.place.length).foldl (fun s cc =>
      match member s tm cc with
      | some (p, t) => modGroups s p t.num (releaseBar true id)
      | none => s) s
  else modGroups s c tm.num (releaseBar false id)

/-- A barrier whose arrived-group count has reached E completes: the phase flips and its lanes are released. -/
def checkBar (s : State) (c : Nat) (tm : Team) (cbar : Bool) (id : Nat) : State :=
  match barHome s c tm cbar with
  | none => s
  | some home =>
    match teamAt s home.1 home.2 with
    | none => s
    | some ht =>
      let b := barAt ht cbar id
      if b.arrived ≠ 0 && b.expect ≤ b.arrived then
        releaseAll (setBar s home cbar id { b with arrived := 0, phase := !b.phase }) c tm cbar id
      else s

/-- After a change in the number of groups, N = 0 is evaluated again (R158). -/
def recountBar (c : Nat) (tm : Team) (cbar : Bool) (s : State) (id : Nat) : State :=
  match barHome s c tm cbar with
  | none => s
  | some home =>
    match teamAt s home.1 home.2 with
    | none => s
    | some ht =>
      let b := barAt ht cbar id
      if b.all && b.arrived ≠ 0 then
        checkBar (setBar s home cbar id { b with expect := groupsAlive s c tm cbar }) c tm cbar id
      else s

def recountBars (s : State) (c : Nat) (tm : Team) : State :=
  (List.range 8).foldl (recountBar c tm true) ((List.range 16).foldl (recountBar c tm false) s)

/-! ## The matrix engine's release (R200) -/

/-- The owner gives the engine up; the next grant comes 8 clocks after its last operation (R217). -/
def releaseEngine (s : State) (c k : Nat) : State :=
  modCore s c fun x =>
    { x with
      owner := if x.owner = some k then none else x.owner
      waiters := x.waiters.filter (· ≠ k)
      grantAt := if x.owner = some k && x.mops.isEmpty then s.clock + 8 else x.grantAt
      cleared := x.cleared && x.owner ≠ some k }

/-! ## Retirement -/

def countAlive (f : Nat → Nat) (tm : Team) (gr : Grid) : Grid :=
  { gr with alive := gr.alive.map fun a => if a.1 = tm.cluster ∧ a.2.1 = tm.ccore then (a.1, a.2.1, f a.2.2) else a }

/-- Whether every team of a cluster has retired, those that CTXS.T has saved among them. -/
def clusterRetired (s : State) (tm : Team) : Bool :=
  tm.place.all fun p => ((coreAt s p).teams ++ (coreAt s p).away).all fun t => t.retired || !sameCluster t tm

/-- Empty every window of some teams of a core. -/
def emptyTeams (s : State) (c : Nat) (ts : List Team) : State :=
  ts.foldl (fun s t => (List.range 4).foldl (fun s w => emptyWindow s c t.num w true none) s) s

/-- The teams of a core that a test names leave it: their windows are emptied and their scratchpad is free. (log 15: DESIGN CHOICE,
safe) -/
def freeTeams (s : State) (c : Nat) (mine : Team → Bool) : State :=
  let ts := (coreAt s c).teams.filter mine
  let gone (a : Acc) : Bool := ts.any fun t => t.num = a.team && t.grid = a.grid
  modCore (emptyTeams s c ts) c fun x =>
    { x with
      teams := x.teams.filter fun t => !mine t
      outb := x.outb.map fun a => if gone a then { a with team := 128 } else a }

/-- Free the allotments and the windows of a cluster whose teams have all retired (R246). (log 15: DESIGN CHOICE,
safe) -/
def freeCluster (s : State) (tm : Team) : State :=
  if clusterRetired s tm then
    tm.place.foldl (fun s p => freeTeams s p (sameCluster tm))
      (modGrid s tm.grid fun g => { g with alive := g.alive.filter fun a => a.1 ≠ tm.cluster })
  else s

/-- A team whose groups have all retired retires. A voyage grid's teams stay (R272). -/
def retireTeam (s : State) (c : Nat) (tm : Team) : State :=
  match gridOf s tm.grid with
  | none => s
  | some gr =>
    if gr.chart.isSome || groupsAlive s c tm false ≠ 0 then s
    else freeCluster (modTeam s c tm.num fun t => { t with retired := true }) tm

/-- A slot's group is gone. Its buffered stores no longer belong to a lane of the core: they take a number above the
slots. (log 15: DESIGN CHOICE, safe) -/
def freeSlot (s : State) (c k : Nat) : State :=
  modCore s c fun x =>
    { x with
      groups := x.groups.set k none
      ages := x.ages.filter (· ≠ k)
      outb := x.outb.map fun a => if a.slot = k then { a with slot := goneSlot s k } else a }

/-- Whether a group can retire: no fibre live, every register write landed, no engine work unfinished (R194, R200). -/
def retirable (x : Core) (k : Nat) (g : Grp) : Bool :=
  !g.supervisor && liveMask g = 0 && !x.pend.any (fun a => a.slot = k)
    && !x.jobs.any (fun j => j.slot = k) && !x.mops.any (fun m => m.slot = k) && g.outs.isEmpty

/-- Retire the group of a slot, if it can. -/
def tryRetire (c : Nat) (s : State) (k : Nat) : State :=
  match grpAt s c k with
  | none => s
  | some g =>
    if !retirable (coreAt s c) k g then s
    else
      let s1 := freeSlot (releaseEngine s c k) c k
      match teamAt s c g.team with
      | none => s1
      | some tm =>
        let s2 := modGrid s1 g.grid (countAlive (· - 1) tm)
        retireTeam (recountBars s2 c tm) c tm

/-- Retire every group of a core that can. -/
def retireDone (c : Nat) (s : State) : State := (List.range 96).foldl (tryRetire c) s

end Sys2Proof.Machine
end

