-- ==== Sys2Proof/Machine/Access.lean ====
section
/-! DEFINITION. The steps of the ordering machine (14 R279, R281, R284, R294, R295), of windows (07 R183, R185) and of the
walkers (18 R324, R326). Each answers none where the spec's condition does not hold; the meaning of the event then
leaves the state as it is. -/

namespace Sys2Proof.Machine

/-- What a step answers to a turn: the state after it, or the same state where it is not allowed (R279). (log 84:
DESIGN CHOICE, safe) -/
def stepOr (s : State) (o : Option State) : Out := .next (o.getD s)

/-! ## A and D bits, the TLB (R324, R326) -/

/-- The global address behind an address: of an aperture address in a mapped window, that of its byte (R183). -/
def windowVa (s : State) (c : Nat) (g : Grp) (va : Nat) : Option Nat :=
  if va < ownAperture then some va
  else match aperture s c g va with
    | some (.scr tc tn off) =>
      (teamAt s tc tn).bind fun tm => (windowAt tm off).map fun w => w.2.1.va + (off - w.2.1.off)
    | _ => none

/-- A walk that met a leaf: the table's root, the address, and the entries that it read. -/
structure WalkPath where
  root : Nat
  va : Nat
  ptes : List Nat
  deriving DecidableEq, Repr

/-- A walker sets bits of an entry: one step at the entry's home (R324). (log 83: DEDUCED, unsafe) -/
def setEntry (core : Option Nat) (p : WalkPath) (bits : Nat) (s : State) (pte : Nat) : State :=
  let old := performedLe s pte 8
  if Nat.land old bits = bits then s
  else putHome s (enqueue { src := .walker core p.root p.va old, pa := pte, bytes := [BitVec.ofNat 8 bits], orr := true }
    (homeOf s pte 512))

/-- The A bits of the entries that a walk used, and the leaf's D bit for a store (R324). -/
def setPath (core : Option Nat) (p : WalkPath) (wr : Bool) (s : State) : State :=
  (p.ptes.getLast?.toList).foldl (setEntry core p (if wr then 0xC0 else 0x40)) (p.ptes.dropLast.foldl (setEntry core p 0x40) s)

/-- The leaf of a core's walk enters its TLB, and the bits of the entries are set; a helm transaction that wrote them loses. -/
def walked (s : State) (c : Nat) (p : WalkPath) (wr : Bool) (lf : Leaf) : State :=
  let s1 := setPath (some c) p wr (p.ptes.foldl (fun s q => helmLose s none q 8 false) s)
  let ent : TlbEntry := { asid := rootAsid p.root, leaf := { lf with dirty := lf.dirty || wr } }
  modCore s1 c fun x => { x with tlb := ent :: x.tlb.filter fun e =>
    !(e.asid = rootAsid p.root && e.leaf.va = lf.va && e.leaf.size = lf.size) }

/-- What a permitted access leaves behind: the leaf in the core's TLB, the A bits of the entries that the walk used,
and the D bit of the leaf's (R324). (log 4: DESIGN CHOICE, unsafe; 83: DEDUCED, unsafe) -/
def noteAccess (s : State) (c : Nat) (g : Grp) (va : Nat) (t : AccessType) : State :=
  if g.supervisor then s
  else match windowVa s c g va with
    | none => s
    | some va =>
      let root := gridRoot s g.grid
      let wr := t = .store || t = .atomic
      let hit := (coreAt s c).tlb.find? fun e => e.asid = rootAsid root && leafCovers e.leaf va
      if (match hit with | some e => e.leaf.dirty || !wr | none => false) then s
      else match walkFrom s va 5 (rootTable root) with
        | .leaf lf ptes => walked s c { root := root, va := va, ptes := ptes } wr lf
        | _ => s

/-- What an access that fails leaves: a walk for its address may have read a listed page (R323). -/
def noteFailed (s : State) (c : Nat) (g : Grp) (va : Nat) : State :=
  if g.supervisor then s
  else match windowVa s c g va with
    | some va => if canonical va then noteWalk s (gridRoot s g.grid) va else s
    | none => s

/-! ### A walk starts again (R324) -/

/-- The virtual addresses for which a core's walks from a root wait for their updates. -/
def openWalks (s : State) (c root : Nat) : List Nat :=
  s.homes.flatMap fun h => h.queue.filterMap fun w =>
    match w.src with
    | .walker (some c') r va _ => if c' = c && r = root then some va else none
    | _ => none

/-- Whether the walk for an access still waits for its updates: it may start again, so that the access waits. -/
def walking (s : State) (c : Nat) (a : Acc) : Bool :=
  let root := gridRoot s a.grid
  (openWalks s c root).any fun va =>
    match (coreAt s c).tlb.find? fun e => e.asid = rootAsid root && leafCovers e.leaf a.va with
    | some e => leafCovers e.leaf va
    | none => va / 4096 = a.va / 4096

/-- The access of a pending access, for the permissions of R324. -/
def accessOf (a : Acc) : AccessType :=
  match a.kind with
  | .load _ | .waitv .. => .load
  | .store => .store
  | .atom _ | .acas _ | .lr | .sc | .partn _ => .atomic

/-- A pending access takes the leaf that its walk met when it started again; where that leaf does not permit it, it keeps the first
walk's. (log 83: DEDUCED, unsafe) -/
def replaceAcc (s : State) (root : Nat) (lf : Leaf) (a : Acc) : Acc :=
  match a.place with
  | .glob _ =>
    if gridRoot s a.grid = root && leafCovers lf a.va && permits lf (accessOf a) then
      { a with place := .glob (lf.pa + (a.va - lf.va)), gr := lf.gr, shr := lf.shr, nc := lf.nc, norepl := lf.norepl }
    else a
  | .scr .. => a

/-- A walk starts again, since an entry has changed: its old leaf leaves the TLB, and the accesses that waited for it take the new
one. -/
def walkAgain (s : State) (core : Option Nat) (root va : Nat) (wr : Bool) : State :=
  let w := walkFrom s va 5 (rootTable root)
  match core, w with
  | none, .leaf _ ptes => setPath none { root := root, va := va, ptes := ptes } wr s
  | none, _ => s
  | some c, w =>
    let s1 := modCore s c fun x => { x with tlb := x.tlb.filter fun e => !(e.asid = rootAsid root && leafCovers e.leaf va) }
    match w with
    | .leaf lf ptes =>
      walked (modCore s1 c fun x => { x with pend := x.pend.map (replaceAcc s root lf) }) c { root := root, va := va, ptes := ptes } wr lf
    | _ => s1

/-- Whether the entry at which a walker's update stands has changed since its walk read it, but for A and D. -/
def entryChanged (s : State) (w : PWrite) : Bool :=
  match w.src with
  | .walker _ _ _ old => Nat.lor (performedLe s w.pa 8) 0xC0 ≠ Nat.lor old 0xC0
  | _ => false

/-- A walker's update at the head of its queue finds another entry: nothing is set there. -/
def restartWalk (s : State) (w : PWrite) : State :=
  match w.src with
  | .walker core root va _ => walkAgain s core root va (w.bytes = [0xC0])
  | _ => s

/-- TRANSLATION_WALK: a walk for a group's address ends and its leaf enters the TLB. (log 83: DEDUCED, unsafe) -/
def evTranslationWalk (c k : Nat) (va : Dword) (s : State) : Option State :=
  match grpAt s c k with
  | none => none
  | some g =>
    match findLeaf s c g.grid va.toNat with
    | .leaf _ _ => if g.supervisor then none else some (noteAccess s c g va.toNat .load)
    | _ => none

/-! ## SATISFY (R279, R280) -/

/-- The lane of an access. -/
def accLane (s : State) (c : Nat) (a : Acc) : Lane :=
  match grpAt s c a.slot with
  | some g => laneAt g a.lane
  | none => Lane.empty

/-- A transactional load's value (R302): its own speculative bytes, and beside them the bytes that it records. -/
def mergeTxn (own : List (Nat × Byte)) (pa : Nat) : List Byte → List Byte × List (Nat × Byte)
  | [] => ([], [])
  | b :: bs =>
    let r := mergeTxn own (pa + 1) bs
    match own.find? fun o => o.1 = pa with
    | some o => (o.2 :: r.1, r.2)
    | none => (b :: r.1, (pa, b) :: r.2)

/-- A load-like access takes its value. -/
def deliver (s : State) (c : Nat) (a : Acc) (bs : List Byte) (home : Option Home) : State :=
  let v := leNat bs
  match a.kind with
  | .load sg =>
    match a.place with
    | .glob pa =>
      let r := mergeTxn a.own pa bs
      let rd : List ReadRec := if r.2.isEmpty || !a.txn then [] else [{ pa := pa, bytes := r.2, gr := a.gr }]
      let s1 := modGrp s c a.slot fun g => modLane g a.lane fun ln =>
        { ln with txn := ln.txn.map fun t => { t with reads := t.reads ++ rd } }
      dropPend (putDst s1 c a (extend sg a.n (leNat r.1))) c a.id
    | .scr _ _ _ => dropPend (putDst s c a (extend sg a.n v)) c a.id
  | .lr =>
    let s1 := modGrp s c a.slot fun g => modLane g a.lane fun ln => { ln with resv := some (granule (resvName s a.place)) }
    dropPend (putDst s1 c a v) c a.id
  | .waitv cc cmp =>
    if waitCond cc v (cmp % 2 ^ (8 * a.n)) then finishWait s c a v
    else
      match home, a.place with
      | some h, .glob pa =>
        let last := leNat (readBytes s.mem pa a.n)
        if waitCond cc last (cmp % 2 ^ (8 * a.n)) then finishWait s c a last
        else
          let r := registerWatch s c h 32
          setWatch r.1 c a.id r.2
      | _, _ => setWatch s c a.id .entry
  | _ => s

/-- A poisoned value: 0 in the destination, MEMERR for the group (R357). A WAITV is satisfied as it stands. (log 88:
DEDUCED, unsafe) -/
def deliverPoison (s : State) (c : Nat) (a : Acc) (pa : Nat) : State :=
  let s1 := consumePoison s c a.slot a.lane pa a.va a.wid
  match a.kind with
  | .waitv _ _ => finishWait s1 c a 0
  | _ => dropPend (putDst s1 c a 0) c a.id

/-- PARTN's data store, after the cursor's update (R177): it takes the place of the access in its lane's stream, or its
failure ends the task as an asynchronous cause. -/
def partnStore (s : State) (c : Nat) (a : Acc) (w cursor : Nat) : State :=
  match grpAt s c a.slot with
  | none => dropPend s c a.id
  | some g =>
    match checkAddr s c g cursor w .store with
    | .bad f =>
      let cause := if f.cause = 0x0C then 0x0C else 0x0A
      holdCause (dropPend s c a.id) c a.slot (mkRec g a.slot (oneLane a.lane) 0 cursor 0 cause 1)
    | .ok t =>
      let st : Acc := { a with
        kind := .store, place := t.place, va := cursor, n := w, dst := .none, gr := t.gr, shr := t.shr, nc := t.nc,
        norepl := t.norepl, ord := (if a.ord = .acq then .rlx else if a.ord = .ar then .rel else a.ord) }
      let s1 := noteAccess s c g cursor .store
      modCore s1 c fun x => { x with pend := x.pend.map fun b => if b.id = a.id then st else b }

/-- The end of an atomic: its destination, the lane's reservation after SC, PARTN's store. -/
def finishAtomic (s : State) (c : Nat) (a : Acc) (old ret : Nat) : State :=
  let s1 := putDst s c a ret
  match a.kind with
  | .sc =>
    dropPend (modGrp s1 c a.slot fun g => modLane g a.lane fun ln => { ln with resv := none }) c a.id
  | .partn w => if ret = 1 then partnStore s1 c a w (old % 2 ^ 64) else dropPend s1 c a.id
  | _ => dropPend s1 c a.id

/-- An access to a team's scratchpad executes (R279, R247). -/
def satisfyScr (s : State) (c : Nat) (a : Acc) (tc t off : Nat) : Option State :=
  match teamAt s tc t with
  | none => some (dropPend s c a.id)
  | some tm =>
    match backingOf tm off with
    | .invalid _ _ => (unfillable s tc tm off).map (deliverPoison s c a)
    | _ =>
      let bs := readBytes tm.bytes off a.n
      if let some pa := windowPoison s tm off a.n then some (deliverPoison s c a pa)
      else if isAtomic a then
        let e := atomEffect s a (accLane s c a).resv (leNat bs)
        let s1 := match e.2 with
          | some v => writeScr s tc t off (leBytes a.n v)
          | none => s
        some (finishAtomic s1 c a (leNat bs) e.1)
      else some (deliver s c a bs none)

/-- A load through a leaf with SHR = 1 of a block outside every registered range is counted (R366, R376). -/
def countStray (s : State) (a : Acc) (pa : Nat) : State := strayRead s (a.shr && !isAtomic a) pa

/-- A read is served at the home of its grain, or from a lease copy: the home notes it, and an Open grain grants a lease (R274,
R275). (log 23: DESIGN CHOICE, safe) -/
def serveRead (s : State) (c : Nat) (a : Acc) (pa : Nat) (bs : List Byte) : State :=
  let h := { homeOf s pa a.gr with readAt := s.clock + 1 }
  let remote := coreDie c ≠ sliceDie (homeNow s pa) && !a.norepl
  let who : List Holder := if remote then [.l1 c, .replica (192 * coreDie c + homeNow s pa % 192)] else [.l1 c]
  let h1 := if h.isOpen && !a.nc && !a.noAlloc then grantLease (meridian s) who h else h
  deliver (putHome (countStray s a pa) h1) c a bs (some h1)

/-- Whether a read that the home cannot serve now is served from a copy that is still valid (R274, R280). -/
def copyServes (s : State) (c : Nat) (a : Acc) (pa : Nat) : Bool :=
  !a.nc && ((List.range a.n).all fun i => copyValid s c (homeOf s (pa + i) a.gr)) && !helmHolds s none pa a.n false

/-- Whether a line that some of a load's bytes come from is poisoned. -/
def readPoisoned (s : State) (x : Core) (a : Acc) (pa : Nat) : Bool :=
  (List.range a.n).any fun i =>
    linePoisoned s ((pa + i) / 64 * 64) && (isAtomic a || !suppliedHere x a (pa + i) 1)

/-- An atomic acts at its home, as one step of the performed order, and leaves the queue (R174, R276). -/
def performAtomic (s : State) (c : Nat) (a : Acc) (pa : Nat) : State :=
  let s0 := leaveQueues (.acc c a.id) s
  if readPoisoned s0 (coreAt s0 c) a pa then deliverPoison s0 c a pa
  else
    let old := readLe s0.mem pa a.n
    let e := atomEffect s0 a (accLane s0 c a).resv old
    let s1 := match e.2 with
      | some v => performBytes (putHome s0 (homeOf s0 pa a.gr)) none pa (leBytes a.n v)
      | none => noteReads (helmLose s0 none pa a.n false) pa a.n a.gr
    finishAtomic s1 c a old e.1

/-- Whether a WAITV must reach the home: a watch is registered there (R281, R294). -/
def mustRegister (a : Acc) (bs : List Byte) : Bool :=
  match a.kind with
  | .waitv cc cmp => !waitCond cc (leNat bs) (cmp % 2 ^ (8 * a.n))
  | _ => false

/-- A load-like access at the home of a grain that HBM4 or LPDDR6 backs; `bs` is what a load would take. An atomic
that cannot act at once waits in the queue. (log 25: DEDUCED, unsafe) (log 23: DESIGN CHOICE, safe) -/
def satisfyHome (s : State) (c : Nat) (a : Acc) (pa : Nat) (bs : List Byte) : Option State :=
  let x := coreAt s c
  if isAtomic a then
    if x.outb.any (accOverlap a) || waitsAt (.acc c a.id) (homeOf s pa a.gr) then none
    else if writableNow s (some (.release c)) none none pa a.n a.gr then some (performAtomic s c a pa)
    else queueFor s (some (.release c)) none (.acc c a.id) pa a.n a.gr
  else if !readableNow s (some (.release c)) none pa a.n a.gr && (mustRegister a bs || !copyServes s c a pa) then
    askOnce s pa a.n a.gr
  else if readPoisoned s x a pa then some (deliverPoison s c a pa)
  else some (serveRead s c a pa bs)

/-- A request's answer from a host: the slice has the line, serves the read, or lets an atomic act on it, which no other does before
its write is back at the host (R355). -/
def hostAnswer (s : State) (c : Nat) (a : Acc) (pa : Nat) (o : Outstanding) : Option State :=
  let s1 := keepLine (endRequest s o) o.since pa
  if isAtomic a then
    if lineActing s pa then none
    else
      let old := readLe s1.mem pa a.n
      let e := atomEffect s1 a (accLane s1 c a).resv old
      some (match e.2 with
        | some v => { s1 with outstanding := s1.outstanding ++ [{ o with acted := some (old, e.1, v), since := s.clock }] }
        | none => finishAtomic s1 c a old e.1)
  else (loadBytes (coreAt s1 c) (sget s1.mem) a pa a.n).map fun bs => serveRead s1 c a pa bs

/-- The reservation that an SC at a remote home finds: another package's write may have cleared it, which this package does not see
(R176, R365). (log 79: DEDUCED, safe) -/
def remoteResv (a : Acc) (hit : Bool) (resv : Option Place) : Option Place :=
  if a.kind = .sc && hit then none else resv

/-- A request's answer from a remote endpoint (R365 to R367): it may refuse; a read of a shared range may be granted a fabric copy;
what else it answers is free. A WAITV whose condition does not hold reads again. (log 79: DEDUCED, safe) -/
def fabricAnswer (s : State) (c : Nat) (a : Acc) (pa : Nat) (o : Outstanding) : Option State :=
  let s0 := { endRequest s o with freeCount := s.freeCount + 1 }
  let s1 := countStray s0 a pa
  let free := Config.freeBool s.freeCount
  if Config.refused o.id then
    some (deliverPoison (if isAtomic a then recordFailure s1 c a 2 else s1) c a pa)
  else if isAtomic a then
    if s.copies.any fun k => overlap (.glob k.grain) 512 a.place a.n then none
    else
      let r := freeBytes s1 a.n
      let e := atomEffect r.2 a (remoteResv a free (accLane r.2 c a).resv) (leNat r.1)
      let s2 := if e.2.isSome then clearGranules r.2 a.place a.n else r.2
      some (finishAtomic s2 c a (leNat r.1) e.1)
  else if a.shr && inSharedRange s pa && !a.nc && free then
    let s2 := keepLine s1 o.since pa
    (loadBytes (coreAt s2 c) (sget s2.mem) a pa a.n).map fun bs => serveRead s2 c a pa bs
  else
    let f := (List.range a.n).map fun i => Config.freeByte (s1.freeCount + i)
    let s2 := { s1 with freeCount := s1.freeCount + a.n }
    (loadBytes (coreAt s2 c) (fun p => f.getD (p - pa) 0) a pa a.n).map fun bs =>
      match a.kind with
      | .waitv cc cmp => if waitCond cc (leNat bs) (cmp % 2 ^ (8 * a.n)) then finishWait s2 c a (leNat bs) else s2
      | _ => deliver s2 c a bs none

/-- Whether the package's copy serves a read: a line of host memory; a fabric copy, where the read may be cached (R355, R365,
R367). -/
def copyReads (s : State) (a : Acc) (pa : Nat) : Bool :=
  cachedHere s pa a.n && ((portOf pa).isSome || (a.shr && inSharedRange s pa && !a.nc))

/-- A load-like access through the window of a host or a remote endpoint: served from the package's copy, or by a
request that is sent and then answered (R355, R365 to R367); a core that holds the block in a window gives it up first
(R183). (log 79: DEDUCED, safe) -/
def satisfyWindow (s : State) (c : Nat) (a : Acc) (pa : Nat) (bs : List Byte) : Option State :=
  if isAtomic a && (coreAt s c).outb.any (accOverlap a) then none
  else if !readableNow s (some (.release c)) none pa a.n a.gr then askOnce s pa a.n a.gr
  else if !isAtomic a && copyReads s a pa then some (serveRead s c a pa bs)
  else if !windowUp s pa then some (deliverPoison (if isAtomic a then recordFailure s c a 1 else s) c a pa)
  else match requestOf s (.acc c a.id) pa with
    | none => if blockWaits s pa then none else some (sendRequest s (.acc c a.id) pa [])
    | some o =>
      if o.acted.isSome then none
      else if (portOf pa).isSome then hostAnswer s c a pa o
      else fabricAnswer s c a pa o

def isWaitv (a : Acc) : Bool :=
  match a.kind with
  | .waitv _ _ => true
  | _ => false

/-- A load-like access to a helm interrupt window (R348): a load returns 0, and nothing is written. -/
def satisfyIrq (s : State) (c : Nat) (a : Acc) (pa : Nat) : State :=
  match grpAt s c a.slot with
  | none => dropPend s c a.id
  | some g =>
    if !g.supervisor then deliverPoison s c a pa
    else if isAtomic a then finishAtomic s c a 0 (atomEffect s a (accLane s c a).resv 0).1
    else deliver s c a (List.replicate a.n 0) none

/-- A load-like access to global memory: from the lane's own buffered stores where they supply every byte (R280); not at all
while another lane's buffered store must first perform (R285); else where the address lies. -/
def satisfyGlob (s : State) (c : Nat) (a : Acc) (pa : Nat) : Option State :=
  let x := coreAt s c
  match regionOf pa with
  | .irq _ _ => some (satisfyIrq s c a pa)
  | r =>
    match loadBytes x (sget s.mem) a pa a.n with
    | none => if isAtomic a then satisfyPlace r [] else none
    | some bs =>
      if !isAtomic a && !isWaitv a && suppliedHere x a pa a.n then some (deliver s c a bs none)
      else satisfyPlace r bs
where
  satisfyPlace (r : Region) (bs : List Byte) : Option State :=
    match r with
    | .host _ | .fabric _ => if viaWindow s pa then satisfyWindow s c a pa bs else some (deliverPoison s c a pa)
    | _ => if backed s pa then satisfyHome s c a pa bs else some (deliverPoison s c a pa)

/-- Whether an access may take its value now: a WAITV of a group that has stopped waits (R295). (log 101: DEDUCED,
unsafe) -/
def mayRead (s : State) (c : Nat) (a : Acc) : Bool :=
  !isWaitv a || (match grpAt s c a.slot with | some g => g.stop.isNone | none => true)

/-- SATISFY: a pending load, or the read of an atomic, takes its value. (log 35: DEDUCED, unsafe) -/
def evSatisfy (c id : Nat) (s : State) : Option State :=
  let x := coreAt s c
  match x.pend.find? (·.id = id) with
  | none => none
  | some a =>
    if !isLoadLike a || a.watch ≠ .no || !issuable c x a || !releaseReady x a || !mayRead s c a then none
    else match servedAt c x a.place with
      | .scr tc t off => satisfyScr s c a tc t off
      | .glob pa => if walking s c a then none else satisfyGlob s c a pa

/-! ## BUFFER (R279, R281, R286) -/

/-- Whether a store is a release that registers: .CLU or wider, to a grain that is homed in the package (R281). -/
def registers (s : State) (a : Acc) : Bool :=
  a.ord = .rel && wide a.scope && (match a.place with | .glob pa => backed s pa | _ => false)

def undrained (x : Core) : Nat := (x.outb.filter fun a => !a.drained).length

/-- A store moves from the pending queue to the outbound buffer. -/
def toBuffer (s : State) (c : Nat) (a : Acc) : State :=
  modCore (dropPend s c a.id) c fun x => { x with outb := x.outb ++ [a] }

/-- A store executes at a scratchpad, or fails where a window block cannot be filled (R287). -/
def storeScr (s : State) (c : Nat) (a : Acc) (tc t off : Nat) : Option State :=
  match teamAt s tc t with
  | none => some (dropPend s c a.id)
  | some tm =>
    match backingOf tm off with
    | .invalid _ _ => (unfillable s tc tm off).map fun pa =>
        dropPend (recordFailure (noteBadPage s pa) c a ((storeFails s pa).getD 2)) c a.id
    | _ => some (dropPend (writeScr s tc t off (leBytes a.n a.val)) c a.id)

/-- Whether a store may leave the pending queue: a release follows every earlier access of its lane (R283). -/
def bufferable (c : Nat) (x : Core) (a : Acc) : Bool :=
  issuable c x a && !(isRelease a && (before a.id x.pend).any (sameLane a))

/-- BUFFER: a pending store enters the outbound buffer, or executes at a scratchpad or a window block. -/
def evBuffer (c id : Nat) (s : State) : Option State :=
  let x := coreAt s c
  match x.pend.find? (·.id = id) with
  | none => none
  | some a =>
    if isLoadLike a || !bufferable c x a then none
    else match servedAt c x a.place with
      | .scr tc t off => if releaseReady x a then storeScr s c a tc t off else none
      | .glob pa =>
        if undrained x ≥ 512 || walking s c a then none
        else if registers s a then
          let h := homeOf s pa a.gr
          if !readableNow s (some (.release c)) none pa a.n a.gr then askOnce s pa a.n a.gr
          else if h.owner = none && !h.isOpen then none
          else some (putHome (toBuffer s c { a with registered := true }) { h with owner := some (.release c), asked := h.asked && h.owner.isSome })
        else some (toBuffer s c a)

/-! ## DRAIN (R279, R284) -/

/-- Whether a grid has not ended: some group of it has not retired. -/
def gridRuns (s : State) (id : Dword) : Bool :=
  match gridOf s id with
  | none => id = 0
  | some g => g.alive.any fun a => a.2.2 ≠ 0

/-- Whether something makes the core drain a registered release (R281, R284, R285, R290, R292), the end of its grid among it: the TINV of an invalidation
at the head of the mailbox among it (R339). -/
def mustDrain (s : State) (c : Nat) (r : Acc) : Bool :=
  let x := coreAt s c
  let held := x.outb.filter fun a => sameLane a r && a.id ≤ r.id
  let asked := held.any fun a => match a.place with
    | .glob pa => (homeOf s pa a.gr).asked
    | _ => false
  let full_ := undrained x > 480 && (x.outb.find? fun a => a.registered && !a.drained).map (·.id) = some r.id
  let departed := match x.voyage with
    | some v => v.held.any fun h => h.waits.contains r.id
    | none => false
  let wanted := x.pend.any fun b =>
    (isLoadLike b && held.any fun a => accOverlap a b && (!visibleTo b a || isAtomic b))
      || (sameLane b r && isRelease b && (isAtomic b || scrCore (servedAt c x b.place) ≠ none))
  let grp := match grpAt s c r.slot with
    | none => !gridRuns s r.grid
    | some g =>
      if g.grid ≠ r.grid then !gridRuns s r.grid
      else g.draining.getLsbD r.lane
        || (match (laneAt g r.lane).wait with
            | .tbegin .. | .tend _ => true
            | .rendezvous => (match g.rdv with | some v => (match v.word with | some (.cbar ..) => true | _ => false) | none => false)
            | _ => false)
  let tinv := x.groups.any fun og => match og with
    | some g => g.lanes.any fun ln => match ln.wait with | .tinv ids => ids.contains r.id | _ => false
    | none => false
  let inval := match x.mailbox with
    | m :: _ => leNat (m.take 2) = 2 && leNat ((m.drop 4).take 4) = 3
    | [] => false
  let fence := x.groups.any fun og => match og with
    | some g => g.team = r.team && (match g.fence with | some n => r.id < n | none => false)
    | none => false
  asked || full_ || departed || wanted || grp || tinv || inval || fence

/-- Whether a registered release holds a buffered store (R281), or it is one, and nothing makes the core drain. -/
def heldByRelease (s : State) (c : Nat) (a : Acc) : Bool :=
  (coreAt s c).outb.any fun r => r.registered && !r.drained && sameLane r a && a.id ≤ r.id && !mustDrain s c r

/-- A store is done: performed, or failed. -/
def dropBuffered (s : State) (c id : Nat) : State := modCore s c fun x => { x with outb := x.outb.filter (·.id ≠ id) }

/-- A store to a helm interrupt window (R348). -/
def raiseIrq (s : State) (h off n v : Nat) : State :=
  if n = 4 ∧ off = 0 ∧ 1 ≤ v ∧ v ≤ 2047 then
    { s with helms := modAt (fun x => { x with irqs := v :: x.irqs.filter (· ≠ v) }) h s.helms }
  else s

/-- Whether a store acts as a release at its drain: a wide release, or a store to a helm interrupt window (R281, R348). -/
def drainsLast (a : Acc) : Bool :=
  (isRelease a && wide a.scope) || match a.place with
    | .glob pa => (match regionOf pa with | .irq _ _ => true | _ => false)
    | .scr .. => false

/-- DRAIN of a helm core's store: it travels to its home's queue, through a window to a host, a device or a remote
home, or fails, which writes nothing; one to a helm interrupt window waits for every earlier store (R348). (log 8:
PRESUMED, unsafe) (log 117: DESIGN CHOICE, unsafe) -/
def evHelmDrain (h id : Nat) (s : State) : Option State :=
  match (s.helms[h]?).bind fun x => (x.outb.find? (·.id = id)).map fun a => (x, a) with
  | none => none
  | some (x, a) =>
    let n := a.bytes.length
    let older := x.outb.takeWhile (·.id ≠ id)
    let gone (s : State) : State := modHelm s h fun y => { y with outb := y.outb.filter (·.id ≠ id) }
    let mark := modHelm s h fun y => { y with outb := y.outb.map fun b => if b.id = id then { b with drained := true } else b }
    if a.drained || older.any (fun b => !b.drained && overlap (.glob b.pa) b.bytes.length (.glob a.pa) n) then none
    else match regionOf a.pa with
      | .irq k off => if older.isEmpty then some (raiseIrq (gone s) k off n (leNat a.bytes)) else none
      | .hbm | .lpddr =>
        if !backed s a.pa then some (gone (noteBadPage s a.pa))
        else if !readableNow s none (some h) a.pa n a.gr then askOnceBy s (some h) a.pa n a.gr
        else some (putHome mark (enqueue { src := .helm h id, pa := a.pa, bytes := a.bytes } (homeOf s a.pa a.gr)))
      | _ =>
        if viaWindow s a.pa then
          if !windowUp s a.pa then some (gone s)
          else if !readableNow s none (some h) a.pa n a.gr then askOnceBy s (some h) a.pa n a.gr
          else if blockWaits s a.pa then none
          else some (sendRequest mark (.helm h id) a.pa a.bytes)
        else if (ioWindow s a.pa).any fun p => portState s p = 2 then some (sendRequest mark (.helm h id) a.pa a.bytes)
        else some (gone s)

/-- DRAIN: a buffered store travels to its home's queue, to a host or a remote endpoint, or fails. A release waits
until every earlier access of its lane is performed. A number from 176 on names a helm core (R372). (log 35: DEDUCED,
unsafe) -/
def evDrain (c id : Nat) (s : State) : Option State :=
  let x := coreAt s c
  match x.outb.find? (·.id = id) with
  | none => if Config.cores ≤ c then evHelmDrain (c - Config.cores) id s else none
  | some a =>
    match a.place with
    | .scr _ _ _ => none
    | .glob pa =>
      let older := before id x.outb
      let blocked := older.any fun b => !b.drained && accOverlap a b
      let waits := drainsLast a && (x.outb ++ x.pend).any fun b => sameLane a b && b.id < id
      if a.drained || blocked || waits || heldByRelease s c a then none
      else
        let mark := modCore s c fun y => { y with outb := y.outb.map fun b => if b.id = id then { b with drained := true } else b }
        let fail (cause : Nat) : Option State := some (dropBuffered (recordFailure (noteBadPage s pa) c a cause) c id)
        match regionOf pa with
        | .irq h off =>
          match grpAt s c a.slot with
          | some g => if g.supervisor then some (dropBuffered (raiseIrq s h off a.n (a.val % 2 ^ 32)) c id) else fail 2
          | none => fail 2
        | .host _ | .fabric _ =>
          (match storeFails s pa with
            | some k => fail k
            | none =>
              if !readableNow s (some (.release c)) none pa a.n a.gr then askOnce s pa a.n a.gr
              else if blockWaits s pa then none
              else some (sendRequest mark (.acc c id) pa (leBytes a.n a.val)))
        | _ =>
          if let some k := storeFails s pa then fail k
          else if !readableNow s (some (.release c)) none pa a.n a.gr then askOnce s pa a.n a.gr
          else some (putHome mark (enqueue { src := .acc c id, pa := pa, bytes := leBytes a.n a.val } (homeOf s pa a.gr)))

/-! ## PERFORM, EXPIRE, OWNER_SURRENDER (R276, R279, R281) -/

/-- R351: an inbound write without RO performs after every earlier write of its port that reached its die. -/
def inboundTurn (s : State) (src : Source) : Bool :=
  match src with
  | .inbound id =>
    match s.inbound.find? (·.id = id) with
    | none => true
    | some w => w.ro || s.inbound.all fun v =>
        !(v.port = w.port && v.route = w.route && v.state = .queued && (w.state = .held || v.order < w.order))
  | _ => true

/-- A performed write leaves its source; a write of an agent beside the cores goes on where `sent` names it. -/
def writeDone (s : State) (src : Source) : State :=
  match src with
  | .acc c id => dropBuffered s c id
  | .inbound id =>
    { s with inbound := s.inbound.map fun w => if w.id = id then { w with state := .performed } else w }
  | .fault n => faultDone s n
  | .helm h id => modHelm s h fun x => { x with outb := x.outb.filter (·.id ≠ id) }
  | .remote _ | .remoteAtom .. | .walker .. | .turn .. | .helmAt .. | .commit _ | .fill .. | .image .. | .word .. | .grid .. => s

/-- Whether a grain's owner leaves a queued write alone: nobody owns it, or the core whose store it is (R276). -/
def ownerAgrees (h : Home) (src : Source) : Bool :=
  match h.owner, src with
  | none, _ => true
  | some (.release c), .acc d _ => c = d
  | _, _ => false

/-- The bytes that a queued write puts: a walker's are OR-ed into the entry. -/
def writtenBytes (s : State) (w : PWrite) : List Byte :=
  if w.orr then mapFrom (fun i b => b ||| sget s.mem (w.pa + i)) 0 w.bytes else w.bytes

/-! ### Requests through windows (R355, R356, R365) -/

/-- Whether the agent that waits in a queue, or for an answer, still does. -/
def wants (s : State) (src : Source) : Bool :=
  match src with
  | .acc c id => (coreAt s c).pend.any (·.id = id)
  | .word c k => (grpAt s c k).isSome
  | .turn (.sweepElement c id) n => (coreAt s c).jobs.any fun j => j.id = id && j.next = n && !j.paused
  | .turn (.copyWrite c id e) _ => (coreAt s c).jobs.any fun j => j.id = id && j.next ≤ e && !j.extra.contains e
  | .turn (.voyagerSend c _) n => ((coreAt s c).voyage.any fun v => v.held.any fun h => h.train = n)
  | .turn (.harbourDrain c) _ => (coreAt s c).voyage.isSome
  | .turn (.invalidate c) _ => ((coreAt s c).mailbox.head?).any fun r => leNat (r.take 2) = 2 && leNat ((r.drop 4).take 4) = 3
  | .image c n => n < 352 || (teamAt s c (n - 352)).isSome
  | .helmAt h pc => (s.helms[h]?).any fun x => x.regs.pc = pc
  | .commit t => s.tickets.any fun x => x.num = t && !x.ended
  | .fill c t w b => ((teamAt s c t).bind fun tm => tm.wins.getD w none).any fun wn => wn.blocks.getD b (.valid 0 0) = .invalid
  | _ => true

/-- A store of an engine's job fails for a cause: its group's accumulator takes it (R287). -/
def jobFails (s : State) (c id cause : Nat) : State :=
  match (coreAt s c).jobs.find? (·.id = id) with
  | none => s
  | some j => match grpAt s c j.slot with
    | some g => failStore s c j.team g.index j.grid cause
    | none => s

/-- A store that a request carried is done: performed, or failed for a cause, which its group's accumulator takes (R287). -/
def storeEnds (s : State) (o : Outstanding) (cause : Option Nat) : State :=
  match o.src with
  | .acc c id =>
    (match (coreAt s c).outb.find? (·.id = id) with
      | some a => dropBuffered (match cause with | some k => recordFailure s c a k | none => s) c id
      | none => s)
  | .turn (.copyWrite c id _) _ =>
    (match cause with | some k => jobFails s c id k | none => s)
  | src => writeDone s src

/-- A request fails (R356, R365): a load's value is poison, a store's failure has a cause; an atomic that acted at the slice, or
that was to act at a remote home, fails as a store too. An agent beside the lanes meets the failure at its next turn. -/
def failRequest (s : State) (o : Outstanding) (cause : Nat) : State :=
  if !o.data.isEmpty then storeEnds s o (some cause)
  else match o.src with
    | .acc c id =>
      (match (coreAt s c).pend.find? (·.id = id) with
        | some a =>
          let s1 := if isAtomic a && (o.acted.isSome || o.port.isNone) then recordFailure s c a cause else s
          retireDone c (deliverPoison s1 c a o.pa)
        | none => s)
    | src =>
      let s1 := match src with
        | .turn (.sweepElement c id) _ => if o.acted.isSome || o.port.isNone then jobFails s c id cause else s
        | _ => s
      if wants s src then { s1 with outstanding := s1.outstanding ++ [{ o with failed := true }] } else s1

/-- Every outstanding request that satisfies a test fails. -/
def failWhere (s : State) (f : Outstanding → Bool) (cause : Nat) : State :=
  let gone := s.outstanding.filter fun o => f o && !o.failed
  gone.foldl (fun s o => failRequest s o cause) { s with outstanding := s.outstanding.filter fun o => !(f o && !o.failed) }

/-- The home of a grain in another package performs the oldest store sent to it, once no fabric copy of the block remains here;
or it refuses the store (R365, R367). -/
def performRemote (n : Nat) (s : State) : Option State :=
  match s.outstanding.find? fun o => o.port.isNone && !o.data.isEmpty && o.block = n / 512 with
  | none => none
  | some o =>
    if s.copies.any fun k => overlap (.glob k.grain) 512 (.glob o.pa) o.data.length then none
    else
      let s1 := endRequest s o
      some (if Config.refused o.id then storeEnds s1 o (some 2)
        else storeEnds (performAway s1 o.pa o.data) o none)

/-! ### Filling a window block (R183) -/

/-- The block's bytes are in the scratchpad, clean. -/
def landBlock (s : State) (c t w blk lo pa : Nat) (bs : List Byte) : State :=
  setBlock (modTeam s c t fun tm => { tm with bytes := writeBytes tm.bytes lo bs }) c t w blk (.valid pa 0)

/-- The core's own buffered stores to a block must drain before it is filled (R173): the fill counts as a request for them. -/
def drainBlock (s : State) (c pa : Nat) : Option State :=
  let mine := (coreAt s c).outb.filter fun a => overlap (.glob pa) 512 a.place a.n
  let ask (s : State) (a : Acc) : State := match a.place with
    | .glob p => askHome s p a.gr
    | .scr .. => s
  if mine.all fun a => match a.place with | .glob p => (homeOf s p a.gr).asked | .scr .. => true then none
  else some (mine.foldl ask s)

/-- The lines of a block beyond a window: poisoned where its read has failed, clean where it has not (R356, R357). -/
def farPoison (s : State) (pa : Nat) (bad : Bool) : State :=
  let ls := linesOf pa 512
  { s with poison := (if bad then ls else []) ++ s.poison.filter fun l => !ls.contains l }

/-- A block beyond a window is filled: the core holds its grains, no copy of them stays in the package, and it is read through
the window (R183, R286). -/
def fillFar (s : State) (c t w blk lo pa gr : Nat) (shr : Bool) : Option State :=
  let src : Source := .fill c t w blk
  if (requestOf s src pa).isNone && !windowUp s pa then none
  else if !writableNow s none none none pa 512 gr then askOnce s pa 512 gr
  else match agentRead s src pa 512 with
    | .error _ =>
      if (requestOf s src pa).isSome || blockWaits s pa then none else some (sendRequest (strayRead s shr pa) src pa [])
    | .ok r =>
      let s1 := { r.state with copies := r.state.copies.filter fun k => k.grain ≠ pa / 512 * 512 }
      some (landBlock (ownBlock (farPoison s1 pa r.bad.isSome) pa gr (some (.window c t w blk))) c t w blk lo pa r.bytes)

/-- Fill an invalid block: it is read into the scratchpad and its grains become owned; or its ownership request takes its turn at
their homes (R183, R277). A block beyond a window is read through it. -/
def fillBlock (s : State) (c t w blk : Nat) : Option State :=
  match windowOf s c t w, teamAt s c t with
  | some wn, some tm =>
    if wn.blocks.getD blk (.valid 0 0) ≠ .invalid then none
    else match teamLeaf s c tm.grid (wn.va + 512 * blk) with
      | none | some { place := .scr .., .. } => none
      | some { place := .glob pa, gr := gr, shr := shr, .. } =>
        let lo := wn.off + 512 * blk
        let src : Source := .fill c t w blk
        if (coreAt s c).outb.any fun a => overlap (.glob pa) 512 a.place a.n then drainBlock s c pa
        else if viaWindow s pa then fillFar s c t w blk lo pa gr shr
        else if !backed s pa then none
        else if writableNow s none none (some src) pa 512 gr then
          let s1 := helmLose (leaveQueues src (strayRead s shr pa)) none pa 512 true
          some (landBlock (ownBlock s1 pa gr (some (.window c t w blk))) c t w blk lo pa (readBytes s.mem pa 512))
        else queueFor s none none src pa 512 gr
  | _, _ => none

/-! ### Remote requests (R365) -/

/-- The bytes of a request, and what an atomic of it writes for the old value (R174, R175, R177, R365). -/
def inSize : InKind → Nat
  | .write bs => bs.length
  | .read n => n
  | .atom _ w _ | .acas w _ _ | .sc w _ _ => w.bytes
  | .partn _ => 16
  | .hold _ => 1

def inWrites (k : InKind) (old : Nat) : Option Nat :=
  match k with
  | .atom op w v => some (atomVal op w.bytes old v.toNat)
  | .acas w c v => if old = c.toNat % 2 ^ (8 * w.bytes) then some v.toNat else none
  | .sc _ v held => if held then some v.toNat else none
  | .partn n =>
    let cur := old % 2 ^ 64
    if cur % n = 0 ∧ cur + n ≤ old / 2 ^ 64 then some ((cur + n) % 2 ^ 64 + old / 2 ^ 64 * 2 ^ 64) else none
  | .write _ | .read _ | .hold _ => none

/-- A read of the last performed bytes at a home by an agent outside the cores: what it answers leaves the part; a
poisoned line is consumed. -/
def outsideRead (s : State) (pa n : Nat) : State :=
  ((linesOf pa n).filter (linePoisoned s)).foldl (fun s l => faultQueue s l 3 (faultSource l)) (noteReads s pa n 512)

/-- A remote atomic acts, as one step of its home's performed order. -/
def actRemote (s : State) (pa : Nat) (k : InKind) : State :=
  let n := inSize k
  if (linesOf pa n).any (linePoisoned s) then outsideRead s pa n
  else match inWrites k (readLe s.mem pa n) with
    | some v => performBytes (putHome s (homeOf s pa 512)) none pa (leBytes n v)
    | none => outsideRead s pa n

/-! ### The head of a queue (R276) -/

/-- A request that acts at the head of a queue: an atomic of a lane or of a remote endpoint, a window's fill; the others act at
their own turns. One whose agent no longer waits goes. (log 25: DEDUCED, unsafe) -/
def performHead (s : State) (w : PWrite) : Option State :=
  if !wants s w.src then some (leaveQueues w.src s)
  else match w.src with
    | .acc c id =>
      (match (coreAt s c).pend.find? (·.id = id) with
        | some a => (match a.place with
            | .glob pa =>
              if writableNow s (some (.release c)) none (some w.src) pa a.n a.gr then some (retireDone c (performAtomic s c a pa))
              else askOnce s pa a.n a.gr
            | .scr .. => none)
        | none => none)
    | .remoteAtom _ addr k =>
      if writableNow s none none (some w.src) addr (inSize k) 512 then some (actRemote (leaveQueues w.src s) addr k)
      else askOnce s addr (inSize k) 512
    | .fill c t wi blk => fillBlock s c t wi blk
    | _ => none

/-- PERFORM: the write at the head of a grain's queue performs once the horizon has passed (R276); of a grain homed in another
package, its home performs the oldest store sent to it. -/
def evPerform (n : Nat) (s : State) : Option State :=
  match regionOf n with
  | .fabric _ => performRemote n s
  | _ =>
    match s.homes.find? (·.grain = n) with
    | none => none
    | some h =>
      match h.queue with
      | [] => none
      | w :: ws =>
        if w.rmw then performHead s w
        else if s.clock < performAt h || helmHolds s none w.pa w.bytes.length true || !inboundTurn s w.src then none
        else if !ownerAgrees h w.src || outsideHolds s h then askOnce s h.grain h.size h.size
        else if entryChanged s w then some (restartWalk (putHome s { h with queue := ws }) w)
        else
          let s1 := performBytes s none w.pa (writtenBytes s w)
          some (writeDone (putHome s1 { h with queue := ws, len := 2, wrote := true }) w.src)

/-- EXPIRE: the copies of a grain whose expiry has passed are dropped. -/
def evExpire (n : Nat) (s : State) : Option State :=
  match s.homes.find? (·.grain = n) with
  | none => none
  | some h =>
    if h.leases.any fun l => l.expiry ≤ meridian s then
      some (putHome s { h with leases := h.leases.filter fun l => meridian s < l.expiry })
    else none

/-- OWNER_SURRENDER: an owner that was asked surrenders the grain once its registered releases there have performed; of a grain beyond
a window, once what a window block left to write back has. -/
def evOwnerSurrender (n : Nat) (s : State) : Option State :=
  match s.homes.find? (·.grain = n) with
  | none => none
  | some h =>
    match h.owner with
    | some (.release c) =>
      let holds (a : Acc) : Bool := (a.registered || viaWindow s h.grain) && overlap (.glob h.grain) h.size a.place a.n
      if h.asked && !(coreAt s c).outb.any holds then
        some (putHome s { h with owner := none, asked := false })
      else none
    | _ => none

/-! ## WATCH_WAKE, WATCH_POLL (R294, R295) -/

/-- The value of a watched word in a wake's bytes. -/
def wakeValue (w : Wake) (a : Acc) : Option Nat :=
  match a.place with
  | .glob pa =>
    if w.grain ≤ pa ∧ pa + a.n ≤ w.grain + w.size then some (leNat ((w.bytes.drop (pa - w.grain)).take a.n)) else none
  | _ => none

/-- Re-test one parked lane. -/
def retest (c : Nat) (w : Wake) (s : State) (a : Acc) : State :=
  match a.kind, wakeValue w a with
  | .waitv cc cmp, some v =>
    if a.watch ≠ .no && waitCond cc v (cmp % 2 ^ (8 * a.n)) then finishWait s c a v else s
  | _, _ => s

/-- WATCH_WAKE: the oldest wake for a grain re-tests the lanes parked on its words. (log 89: DEDUCED, safe) -/
def evWatchWake (c n : Nat) (s : State) : Option State :=
  let x := coreAt s c
  match x.wakes.find? (·.grain = n) with
  | none => none
  | some w =>
    let s1 := modCore s c fun y => { y with wakes := y.wakes.erase w }
    some (x.pend.foldl (retest c w) s1)

/-- WATCH_POLL: a core re-reads a word that found no watch entry; one beyond a window, of which the package has no copy, is requested
again. -/
def evWatchPoll (c n : Nat) (s : State) : Option State :=
  let x := coreAt s c
  let due := x.pend.find? fun a =>
    match a.watch, a.place with
    | .poll t _, .glob pa => t ≤ s.clock && (homeOf s pa a.gr).grain = n
    | _, _ => false
  match due with
  | none => none
  | some a =>
    match a.watch, a.kind, a.place with
    | .poll _ iv, .waitv cc cmp, .glob pa =>
      if (coveredBy x pa).isSome || (viaWindow s pa && !copyReads s a pa) then some (setWatch s c a.id .no)
      else if !readableNow s (some (.release c)) none pa a.n a.gr then askOnce s pa a.n a.gr
      else if readPoisoned s x a pa then some (deliverPoison s c a pa)
      else
        match loadBytes x (sget s.mem) a pa a.n with
        | none => none
        | some bs =>
          if waitCond cc (leNat bs) (cmp % 2 ^ (8 * a.n)) then some (finishWait s c a (leNat bs))
          else
            let r := registerWatch (noteRead s pa a.gr) c (homeOf s pa a.gr) (min 4096 (2 * iv))
            some (setWatch r.1 c a.id r.2)
    | _, _, _ => none

/-! ## Windows (R182, R183, R185) -/

/-- Whether some access waits for a block of a team. -/
def blockTouched (s : State) (c t lo : Nat) : Bool :=
  s.cores.any (fun x => x.pend.any fun a => overlap (.scr c t lo) 512 a.place a.n) || !(coreAt s c).jobs.isEmpty

/-- WINDOW_FILL: the fill of a touched block. -/
def evWindowFill (c t : Nat) (w : Fin 4) (blk : Nat) (s : State) : Option State :=
  match windowOf s c t w.val with
  | some wn => if blockTouched s c t (wn.off + 512 * blk) then fillBlock s c t w.val blk else none
  | none => none

/-- What an access at a place waits for is asked for: the grains of `n` bytes, or the fill of a block. (log 84: DESIGN
CHOICE, safe) -/
def waitOn (s : State) (p : Place) (n : Nat) : Option State :=
  match p with
  | .glob pa => if backed s pa then askOnce s pa n 512 else none
  | .scr c t off =>
    match teamAt s c t with
    | none => none
    | some tm =>
      match backingOf tm off with
      | .invalid w b => fillBlock s c t w b
      | _ => none

/-- What an access of an agent beside the lanes waits for is asked for or sent. (log 84: DESIGN CHOICE, safe) -/
def unblock (s : State) (b : Blocked) : Option State :=
  match b with
  | .read src pa n =>
    if !readableNow s none none pa n 512 then askOnce s pa n 512
    else if !viaWindow s pa || (requestOf s src pa).isSome || blockWaits s pa then none
    else some (sendRequest s src pa [])
  | .write src pa bs => sendWrite s src pa bs
  | .fill c t w blk => fillBlock s c t w blk
  | .lock src gs => queueGrains s src gs
  | .still => none

/-- Touch a scratchpad place: a fill where it is needed and can be done, and whether the place can be used. -/
def touchFor (s : State) (p : Place) : State × Bool :=
  let s1 := (waitOn s p 8).getD s
  match p with
  | .glob _ => (s, true)
  | .scr c t off =>
    match teamAt s1 c t with
    | none => (s, true)
    | some tm =>
      match backingOf tm off with
      | .invalid _ _ => (s1, false)
      | _ => (s1, true)

/-- WINDOW_SURRENDER: another agent has asked for a block; its dirty sectors go back and it becomes invalid. (log 27:
DEDUCED, unsafe) -/
def evWindowSurrender (c t : Nat) (w : Fin 4) (blk : Nat) (s : State) : Option State :=
  match windowOf s c t w.val with
  | none => none
  | some wn =>
    match wn.blocks.getD blk .invalid with
    | .invalid => none
    | .valid pa d =>
      if (blockGrains pa (blockGr s pa)).any fun a => (homeOf s a 512).asked then
        let s1 := writeBack s c t (wn.off + 512 * blk) pa d none
        some (leaveBlock s1 c t w.val blk pa)
      else none

/-- The landings that a test names end: none of their bytes arrives any more, not those on their way either (R360). -/
def dropLandings (s : State) (f : Landing → Bool) : State :=
  let gone := (s.landings.filter f).map (·.id)
  let out (w : Inbound) : Bool := w.state ≠ .performed && w.land.any gone.contains
  let ids := (s.inbound.filter out).map (·.id)
  { s with
    landings := s.landings.filter fun l => !f l
    inbound := s.inbound.filter fun w => !out w
    homes := s.homes.map fun h => { h with queue := h.queue.filter fun w => match w.src with | .inbound i => !ids.contains i | _ => true } }

/-! ## The meanings of these events -/

/-- SATISFY. -/
def execSatisfy (c id : Nat) (s : State) : Out := stepOr s ((evSatisfy c id s).map (retireDone c))
/-- BUFFER. -/
def execBuffer (c id : Nat) (s : State) : Out := stepOr s ((evBuffer c id s).map (retireDone c))
/-- DRAIN. -/
def execDrain (c id : Nat) (s : State) : Out := stepOr s (evDrain c id s)
/-- PERFORM. -/
def execPerform (n : Nat) (s : State) : Out := stepOr s (evPerform n s)
/-- EXPIRE. -/
def execExpire (n : Nat) (s : State) : Out := stepOr s (evExpire n s)
/-- OWNER_SURRENDER. -/
def execOwnerSurrender (n : Nat) (s : State) : Out := stepOr s (evOwnerSurrender n s)
/-- WATCH_WAKE. -/
def execWatchWake (c n : Nat) (s : State) : Out := stepOr s (evWatchWake c n s)
/-- WATCH_POLL. -/
def execWatchPoll (c n : Nat) (s : State) : Out := stepOr s (evWatchPoll c n s)
/-- WINDOW_FILL. -/
def execWindowFill (c t : Nat) (w : Fin 4) (blk : Nat) (s : State) : Out := stepOr s (evWindowFill c t w blk s)
/-- WINDOW_SURRENDER. -/
def execWindowSurrender (c t : Nat) (w : Fin 4) (blk : Nat) (s : State) : Out := stepOr s (evWindowSurrender c t w blk s)
/-- TRANSLATION_WALK. -/
def execTranslationWalk (c k : Nat) (va : Dword) (s : State) : Out := stepOr s (evTranslationWalk c k va s)

end Sys2Proof.Machine
end

