-- ==== Sys2Proof/Machine/Memory.lean ====
section
/-! DEFINITION. The memory words of a lane (07 R169 to R179; 14 R289 to R294). A word checks every address first, then
each access enters its core's pending queue; the steps of the ordering machine satisfy or buffer it. -/

namespace Sys2Proof.Machine

/-- What one lane asks of memory: the address, its alignment, the bytes, the permission it needs. -/
structure MemReq where
  va : Nat
  al : Nat
  n : Nat
  ty : AccessType
  deriving DecidableEq, Repr

/-- The address of R169: base, scaled index, offset. -/
def memAddr (e : Env) (a : Reg) (idx : Option (Operand × Nat)) (off : BitVec 13) : Nat :=
  let i : Int := match idx with
    | some (o, w) => sval 32 (opI e 1 o) * w
    | none => 0
  wrapI 64 ((opI e 2 a.op : Nat) + i + off.toInt)

/-- The request of a form: its width, the permission it needs, its base, index and offset. -/
def reqAt (n : Nat) (ty : AccessType) (a : Reg) (idx : Option (Operand × Nat)) (off : BitVec 13) (e : Env) : MemReq :=
  { va := memAddr e a idx off, al := n, n := n, ty := ty }

/-- PARTN's request: the cursor entry of its partition (R177). -/
def partnReq (d : VReg) (a : Reg) (e : Env) : MemReq :=
  { va := (opI e 2 a.op + 16 * opI e 1 (.v d)) % 2 ^ 64, al := 16, n := 16, ty := .atomic }

/-- The access that a lane issues. -/
def newAcc (s : State) (g : Grp) (l : Nat) (m : MemMod) (r : MemReq) (t : Target) : Acc :=
  { id := s.nextId, wid := s.cur.first, slot := s.cur.slot, lane := l, also := 0, team := g.team, index := g.index, grid := g.grid,
    kind := .store, place := t.place, va := r.va, n := r.n, ord := m.ord, scope := m.scope, val := 0, dst := .none,
    gr := t.gr, shr := t.shr, nc := t.nc, norepl := t.norepl, noAlloc := m.evict.val < 2, txn := false, own := [], spared := (0, 0), watch := .no,
    drained := false, registered := false, since := s.clock }

/-- An access enters the pending queue of its core. -/
def pushAcc (s : State) (a : Acc) : State :=
  let s1 := modCore s s.cur.core fun x => { x with pend := x.pend ++ [a] }
  { s1 with nextId := s1.nextId + 1 }

/-! ## Transactional accesses (R297, R301, R302) -/

def inAnchored (ln : Lane) : Bool := (ln.txn.bind (·.anchor)).isSome

/-- Read records in use on a core, pending transactional loads included. -/
def recordsUsed (x : Core) : Nat :=
  (x.groups.map fun og => match og with
    | some g => (g.lanes.map fun ln => match ln.txn with | some t => t.reads.length | none => 0).sum
    | none => 0).sum + (x.pend.filter (·.txn)).length

/-- The 32 B sectors that a lane's stores touch. -/
def sectorsOf (masked : List (Nat × Nat × Nat)) : List Nat :=
  (masked.flatMap fun m => (List.range m.2.1).map fun i => (m.1 + i) / 32).dedup

def sectorsUsed (x : Core) : Nat :=
  (x.groups.map fun og => match og with
    | some g => (g.lanes.map fun ln => match ln.txn with | some t => (sectorsOf t.masked).length | none => 0).sum
    | none => 0).sum

/-- The bytes of a lane's speculative sectors among `n` from `pa` on. -/
def ownBytes (ln : Lane) (pa n : Nat) : List (Nat × Byte) :=
  match ln.txn with
  | none => []
  | some t => (List.range n).filterMap fun i =>
    if t.masked.any fun m => m.1 ≤ pa + i && pa + i < m.1 + m.2.1 then some (pa + i, sget t.writes (pa + i)) else none

/-- Whether a lane's speculative sectors hold every byte of a load: it forms no request (R302). -/
def ownLoad (ln : Lane) (t : Target) (n : Nat) : Bool :=
  match t.place with
  | .glob pa => inTxn ln && (ownBytes ln pa n).length = n
  | .scr .. => false

/-- Why a transactional access of a lane aborts, once its address is good (R301, R315, R297). -/
def txnRefuses (x : Core) (t : Target) (ln : Lane) (n : Nat) (store : Bool) : Option Nat :=
  match t.place with
  | .scr _ _ _ => some 0x0A
  | .glob pa =>
    if (coveredBy x pa).isSome then some 0x0A
    else match regionOf pa with
      | .host _ | .fabric _ => some 0x06
      | _ =>
        if store then
          let old := match ln.txn with | some tx => tx.masked | none => []
          let more := (sectorsOf (old ++ [(pa, n, t.gr)])).length - (sectorsOf old).length
          if sectorsUsed x + more > 1024 then some 0x02 else none
        else if !ownLoad ln t n && recordsUsed x ≥ 4096 then some 0x02 else none

/-- A transactional store (R302). -/
def txnStore (pa n gr v : Nat) (ln : Lane) : Lane :=
  match ln.txn with
  | some t =>
    { ln with txn := some { t with writes := writeBytes t.writes pa (leBytes n v), masked := t.masked ++ [(pa, n, gr)] } }
  | none => ln

/-- A load of a transaction, with the speculative bytes of its lane; ordering and scope have no effect (R301). -/
def txnLoad (ln : Lane) (a : Acc) : Acc :=
  { a with txn := true, ord := .rlx, scope := .lane, own := (match a.place with | .glob pa => ownBytes ln pa a.n | .scr .. => []) }

/-! ## The frame of a memory word -/

/-- Whether a lane's failed check aborts its transaction instead of trapping (R309): not in an anchored run. An aperture
address in a transaction is UNSUPP, whatever it names (R301). -/
def abortCause (ln : Lane) (va : Nat) (f : Failed) : Option Nat :=
  if !inTxn ln then none
  else if f.order ≠ 1 ∧ ownAperture ≤ va then some 0x0A
  else if inAnchored ln then none
  else some 0x04

/-- The lanes that trap, with the first failing check: the check that comes first in the order of R169 among those
that any lane fails, and the lanes that fail it. (log 99: DEDUCED, unsafe) -/
def firstFailure (fs : List (Nat × Failed)) : Option (Nat × Mask) :=
  match fs with
  | [] => none
  | f :: r =>
    let o := r.foldl (fun m x => min m x.2.order) f.2.order
    let sel := fs.filter fun x => x.2.order = o
    some (((sel.head?).map (·.2.cause)).getD 0, maskOf fun l => sel.any fun x => x.1 = l)

/-- Take a lane out of the issue set. -/
def leaveSet (s : State) (l : Nat) : State := { s with cur := { s.cur with mask := s.cur.mask &&& ~~~oneLane l } }

/-- A load of a transaction issues; one whose bytes are all its lane's own writes its register at once (R302). -/
def issueTxnLoad (s : State) (ln : Lane) (t : Target) (a : Acc) : State :=
  let ld := txnLoad ln a
  match a.kind with
  | .load sg => if ownLoad ln t a.n then putDst s s.cur.core a (extend sg a.n (leNat (ld.own.map (·.2)))) else pushAcc s ld
  | _ => pushAcc s ld

/-- One lane of a memory word: its transaction aborts, or it issues its access, or its transactional store. -/
def memLane (m : MemMod) (req : Env → MemReq) (mk : Env → Acc → Acc) (s : State) (l : Nat) : State :=
  match curGrp s with
  | none => s
  | some g =>
    let e := envOf s g l
    let r := req e
    match checkAddr s s.cur.core g r.va r.al r.ty with
    | .bad f => abortLane (leaveSet (noteFailed s s.cur.core g r.va) l) s.cur.core s.cur.slot l ((abortCause e.lane r.va f).getD 0x04) false none
    | .ok t =>
      let a := mk e (newAcc s g l m r t)
      let s0 := noteAccess s s.cur.core g r.va r.ty
      if inTxn e.lane then
        match txnRefuses (coreAt s s.cur.core) t e.lane r.n (!isLoadLike a) with
        | some c => abortLane (leaveSet s l) s.cur.core s.cur.slot l c false none
        | none =>
          if isLoadLike a then issueTxnLoad s0 e.lane t a
          else match t.place with
            | .glob pa => modCur s0 fun g => modLane g l (txnStore pa r.n t.gr a.val)
            | _ => s0
      else pushAcc s0 a

/-- The checks of a memory word over its lanes, in increasing order: those that trap. -/
def memFailures (s : State) (g : Grp) (gm : Mask) (req : Env → MemReq) : List (Nat × Failed) :=
  (lanesOf gm).filterMap fun l =>
    let e := envOf s g l
    let r := req e
    match checkAddr s s.cur.core g r.va r.al r.ty with
    | .ok _ => none
    | .bad f => if (abortCause e.lane r.va f).isSome then none else some (l, f)

/-- A memory word of each lane (R169, R172): all checks first, then every lane's access. -/
def memWord (s : State) (g : Grp) (gm : Mask) (m : MemMod) (req : Env → MemReq) (mk : Env → Acc → Acc) : State :=
  match firstFailure (memFailures s g gm req) with
  | some (cause, mask) =>
    let addr := match lowest mask with | some l => (req (envOf s g l)).va | none => 0
    trap s cause mask addr 0
  | none => finishWord ((lanesOf gm).foldl (memLane m req mk) s)

/-- The destination of a lane: its physical registers. -/
def vDst (e : Env) (d : VReg) (n : Nat) : Dst := .v (e.lane.base + d.val) n

def LdWidth.signed : LdWidth → Bool
  | .x8 | .x16 => true
  | _ => false

/-! ## Loads and stores (R170 to R172) -/

/-- LD. -/
def execLd (g : Guard) (w : LdWidth) (m : MemMod) (d : VReg) (a : Reg) (b : Operand) (off : BitVec 13) (s : State) : Out :=
  withWord (.ld g w m d a b off) s fun gr gm =>
    memWord s gr gm m
      (reqAt w.bytes .load a (some (b, w.bytes)) off)
      (fun e x => { x with kind := .load (LdWidth.signed w), dst := vDst e d (regsOf w.bytes) })

/-- ST. -/
def execSt (g : Guard) (w : StWidth) (m : MemMod) (d : Operand) (a : Reg) (b : Operand) (off : BitVec 13) (s : State) :
    Out :=
  withWord (.st g w m d a b off) s fun gr gm =>
    memWord s gr gm m
      (reqAt w.bytes .store a (some (b, w.bytes)) off)
      (fun e x => { x with kind := .store, val := opI e (regsOf w.bytes) d % 2 ^ (8 * w.bytes) })

/-- SLD's one access: of the lowest lane whose guard is true, or of the next where its transaction aborts (R301). (log
78: DEDUCED, unsafe) -/
def sldGo (w : LdWidth) (m : MemMod) (req : Env → MemReq) (d : SReg) : Nat → Mask → State → State
  | 0, _, s => finishWord s
  | n + 1, gm, s =>
    match curGrp s, lowest gm with
    | some g, some l =>
      let e := envOf s g l
      let r := req e
      let refuse := match checkAddr s s.cur.core g r.va r.al .load with
        | .ok t => if inTxn e.lane then txnRefuses (coreAt s s.cur.core) t e.lane r.n false else none
        | .bad f => abortCause e.lane r.va f
      match refuse with
      | some c => sldGo w m req d n (gm &&& ~~~oneLane l) (abortLane (leaveSet s l) s.cur.core s.cur.slot l c false none)
      | none =>
        match checkAddr s s.cur.core g r.va r.al .load with
        | .bad f => trap s f.cause gm r.va 0
        | .ok t =>
          let a := newAcc s g l m r t
          let s0 := noteAccess s s.cur.core g r.va .load
          let ld := { a with kind := .load (LdWidth.signed w), dst := .s d.val (regsOf w.bytes), also := s.cur.mask }
          finishWord (if inTxn e.lane then issueTxnLoad s0 e.lane t ld else pushAcc s0 ld)
    | _, _ => finishWord s

/-- SLD: one access for the word (R172). -/
def execSld (g : Guard) (w : LdWidth) (m : MemMod) (d : SReg) (a : SReg) (b : Operand) (off : BitVec 13) (s : State) : Out :=
  withWord (.sld g w m d a b off) s fun _ gm =>
    sldGo w m (reqAt w.bytes .load (.s a) (some (b, w.bytes)) off) d
      64 gm s

/-! ## Atomics and reservations (R174, R175) -/

/-- A memory word that no transaction may run. -/
def plainMem (i : Instr) (s : State) (m : MemMod) (req : Env → MemReq) (mk : Env → Acc → Acc) : Out :=
  withWord i s fun gr gm => withoutTxn 0x0A s gr gm fun s gr gm => memWord s gr gm m req mk

/-- ATOM, 32-bit. A float constant operand of FADD is read as binary32 (R36). (log 21: DEDUCED, unsafe) -/
def execAtom (g : Guard) (op : AtomOp) (m : MemMod) (d : VReg) (a : Reg) (b : Operand) (off : BitVec 13) (s : State) : Out :=
  plainMem (.atom g op m d a b off) s m
    (reqAt 4 .atomic a none off)
    (fun e x => { x with kind := .atom op, dst := vDst e d 1, val := if op = .fadd then opF e fmt32 b else opI e 1 b })

/-- ATOM, 64-bit. (log 21: DEDUCED, unsafe) -/
def execAtomW64 (g : Guard) (op : AtomOp) (m : MemMod) (d : VReg) (a : Reg) (b : Operand) (off : BitVec 13) (s : State) :
    Out :=
  plainMem (.atomW64 g op m d a b off) s m
    (reqAt 8 .atomic a none off)
    (fun e x => { x with kind := .atom op, dst := vDst e d 2, val := if op = .fadd then opF e fmt64 b else opI e 2 b })

/-- ACAS: D is the compare value and receives the old one. -/
def execAcas (g : Guard) (w : AWidth) (m : MemMod) (d : VReg) (a : Reg) (b : Operand) (off : BitVec 13) (s : State) : Out :=
  plainMem (.acas g w m d a b off) s m
    (reqAt w.bytes .atomic a none off)
    (fun e x => { x with kind := .acas (opI e (regs12 w.is64) (.v d)), dst := vDst e d (regs12 w.is64)
                         val := opI e (regs12 w.is64) b })

/-- LR. -/
def execLr (g : Guard) (w : AWidth) (m : MemMod) (d : VReg) (a : Reg) (off : BitVec 13) (s : State) : Out :=
  plainMem (.lr g w m d a off) s m
    (reqAt w.bytes .atomic a none off)
    (fun e x => { x with kind := .lr, dst := vDst e d (regs12 w.is64) })

/-- SC. -/
def execSc (g : Guard) (w : AWidth) (m : MemMod) (d : VReg) (a : Reg) (b : Operand) (off : BitVec 13) (s : State) : Out :=
  plainMem (.sc g w m d a b off) s m
    (reqAt w.bytes .atomic a none off)
    (fun e x => { x with kind := .sc, dst := vDst e d 1, val := opI e (regs12 w.is64) b })

/-- PARTN (R177). -/
def execPartn (g : Guard) (w : AWidth) (m : MemMod) (d : VReg) (a : Reg) (b : Operand) (s : State) : Out :=
  plainMem (.partn g w m d a b) s m
    (partnReq d a)
    (fun e x => { x with kind := .partn w.bytes, dst := vDst e d 1, val := opI e (regs12 w.is64) b })

/-! ## Requests: the coalescer, the memory port (R164, R167, R168) -/

/-- How the coalescer takes a form: its request, whether each lane makes one of its own, whether one lane makes it for the
word, whether it writes. -/
structure MemForm where
  req : Env → MemReq
  perLane : Bool
  once : Bool
  writes : Bool

/-- The memory forms of majors 0x68 to 0x6E but WAITV. -/
def memForm : Instr → Option MemForm
  | .ld _ w _ _ a b off => some ⟨reqAt w.bytes .load a (some (b, w.bytes)) off, false, false, false⟩
  | .st _ w _ _ a b off => some ⟨reqAt w.bytes .store a (some (b, w.bytes)) off, false, false, true⟩
  | .sld _ w _ _ a b off => some ⟨reqAt w.bytes .load (.s a) (some (b, w.bytes)) off, false, true, false⟩
  | .atom _ _ _ _ a _ off => some ⟨reqAt 4 .atomic a none off, true, false, true⟩
  | .atomW64 _ _ _ _ a _ off => some ⟨reqAt 8 .atomic a none off, true, false, true⟩
  | .acas _ w _ _ a _ off => some ⟨reqAt w.bytes .atomic a none off, true, false, true⟩
  | .lr _ w _ _ a off => some ⟨reqAt w.bytes .atomic a none off, true, false, false⟩
  | .sc _ w _ _ a _ off => some ⟨reqAt w.bytes .atomic a none off, true, false, true⟩
  | .pref _ _ _ a off => some ⟨reqAt 1 .load a none off, false, false, false⟩
  | .partn _ _ _ d a _ => some ⟨partnReq d a, true, false, true⟩
  | _ => none

/-- The accesses that a word would make: lane, the place that serves it, bytes; a transactional store forms no
request, nor does a load whose bytes are all its lane's own (R302), nor a word that a transaction may not run (R301).
(log 98: DEDUCED, unsafe) -/
def wordPlaces (s : State) (c : Nat) (g : Grp) (gm : Mask) (f : MemForm) : List (Nat × Place × Nat) :=
  (if f.once then (lowest gm).toList else lanesOf gm).filterMap fun l =>
    let e := envOf s g l
    let r := f.req e
    match checkAddr s c g r.va r.al r.ty with
    | .bad _ => none
    | .ok t =>
      if inTxn e.lane && (f.writes || f.perLane || ownLoad e.lane t r.n) then none
      else some (l, servedAt c (coreAt s c) t.place, r.n)

/-- What names the request of an access of core `c`: its 128-byte segment, or its lane where each lane makes its own; none at own
scratchpad. A request to a peer's scratchpad goes by segments (R167, R168, R247). -/
def requestKey (c : Nat) (perLane : Bool) (l : Nat) (p : Place) : Option (Nat × Place) :=
  match p with
  | .glob pa => some (if perLane then (l + 1, .glob 0) else (0, .glob (pa / 128)))
  | .scr c' t off => if c' = c then none else some (0, .scr c' t (off / 128))

/-- The requests of a word (R167). (log 98: DEDUCED, unsafe) -/
def requestCount (c : Nat) (f : MemForm) (ps : List (Nat × Place × Nat)) : Nat :=
  (ps.filterMap fun p => requestKey c f.perLane p.1 p.2.1).dedup.length

/-- The request of an access that holds an entry: a parked WAITV holds none. (log 98: DEDUCED, unsafe) -/
def accRequest (c : Nat) (x : Core) (a : Acc) : Option (Nat × Nat × Place) :=
  let key (perLane : Bool) : Option (Nat × Nat × Place) :=
    (requestKey c perLane a.lane (servedAt c x a.place)).map fun k => (a.wid, k.1, k.2)
  if !a.entry then none
  else match a.kind with
    | .waitv _ _ => none
    | .load _ | .store => key false
    | _ => key true

/-- The entries of the core's 768 that are in use: a request holds its entry until its response arrives, a store's
until it is performed (R167). (log 98: DEDUCED, unsafe) -/
def entriesUsed (c : Nat) (x : Core) : Nat := ((x.pend ++ x.outb).filterMap (accRequest c x)).dedup.length

/-- A memory word for which too few entries are free is no candidate (R167). (log 98: DEDUCED, unsafe) -/
def entriesShort (s : State) (c : Nat) (g : Grp) (gm : Mask) (i : Instr) : Bool :=
  match memForm i with
  | none => false
  | some f =>
    let need := requestCount c f (wordPlaces s c g gm f)
    need ≠ 0 && 768 < entriesUsed c (coreAt s c) + need

/-- The 4-byte words of own scratchpad that a pass touches, once for each access: lanes that read one word share it (R164). -/
def passWords (c : Nat) (writes : Bool) (ps : List (Nat × Place × Nat)) (p : Nat) : List Nat :=
  let ws := ps.flatMap fun a => match a.2.1 with
    | .scr c' _ off => if c' = c ∧ a.1 / 16 = p then (List.range ((a.2.2 + 3) / 4)).map fun i => off / 4 + i else []
    | .glob _ => []
  if writes then ws else ws.dedup

/-- The clocks of a pass at the 32 banks: one, and one for each access beyond the first to one bank (R164, R168). -/
def passClocks (ws : List Nat) : Nat :=
  if ws.isEmpty then 0
  else 1 + ((List.range 32).map fun b => (ws.filter (· % 32 = b)).length - 1).sum

/-- The clocks for which a word holds its partition's memory port (R168). -/
def portClocks (s : State) (c : Nat) (g : Grp) (gm : Mask) (i : Instr) : Nat :=
  match memForm i with
  | none => 1
  | some f =>
    let ps := wordPlaces s c g gm f
    let own := ((List.range 4).map fun p => passClocks (passWords c f.writes ps p)).sum
    max 1 (requestCount c f ps + own)

/-! ## PREF (R178, R179) -/

/-- Raise the saturating fields of cr.hint. -/
def addHint (issued dropped : Nat) (g : Grp) : Grp :=
  let i := min (2 ^ 32 - 1) (g.hint.toNat % 2 ^ 32 + issued)
  let d := min (2 ^ 32 - 1) (g.hint.toNat / 2 ^ 32 + dropped)
  { g with hint := BitVec.ofNat 64 (d * 2 ^ 32 + i) }

/-- A prefetch takes a lease on every Open grain of a block (R178). -/
def leaseBlock (s : State) (pa gr : Nat) : State :=
  (blockGrains (pa / 512 * 512) gr).foldl (fun s a =>
    let h := homeOf s a gr
    if h.isOpen then putHome s (grantLease (meridian s) [.l1 s.cur.core] h) else s) s

/-- Whether a canonical address lies in an aperture (R163): the own one holds 2^24 bytes, the peer one reaches to the end. (log 104:
DEDUCED, unsafe) -/
def inAperture (va : Nat) : Bool := (ownAperture ≤ va && va < ownAperture + 2 ^ 24) || peerAperture ≤ va

/-- One lane's PREF: an aperture address is dropped without counting; a failing one counts as dropped; any other
brings its block under .LANE. (log 104: DEDUCED, unsafe) -/
def prefLane (sc : PrefScope) (a : Reg) (off : BitVec 13) (s : State) (l : Nat) : State :=
  match curGrp s with
  | none => s
  | some g =>
    let va := memAddr (envOf s g l) a none off
    if canonical va && inAperture va then s
    else match checkAddr s s.cur.core g va 1 .load with
      | .bad _ => modCur s (addHint 1 1)
      | .ok t =>
        let s1 := noteAccess (modCur s (addHint 1 0)) s.cur.core g va .load
        match t.place with
        | .glob pa => if sc = .lane && backed s1 pa && !t.nc then leaseBlock s1 pa t.gr else s1
        | _ => s1

/-- PREF: it never traps on its address. -/
def execPref (g : Guard) (scope : PrefScope) (evict : Fin 8) (a : Reg) (off : BitVec 13) (s : State) : Out :=
  withWord (.pref g scope evict a off) s fun _ gm =>
    finishWord ((lanesOf gm).foldl (prefLane scope a off) s)

/-! ## WAITV (R293, R294) -/

/-- Park a set of lanes. -/
def parkLanes (m : Mask) (w : Nat → Wait) (g : Grp) : Grp := mapLanes m (fun l ln => { ln with wait := w l }) g

/-- WAITV: every lane whose guard is true parks with its read pending; the lowest alone writes an S destination. -/
def execWaitv (g : Guard) (cc : WCond) (w : AWidth) (acq : Bool) (scope : Scope) (d : Reg) (a : Reg) (b : Operand)
    (off : BitVec 13) (s : State) : Out :=
  withWord (.waitv g cc w acq scope d a b off) s fun gr gm => withoutTxn 0x0A s gr gm fun s gr gm =>
    let m : MemMod := { ord := if acq then .acq else .rlx, scope := scope, evict := 0 }
    let req : Env → MemReq := reqAt w.bytes .load a none off
    let fs := (lanesOf gm).filterMap fun l =>
      let va := (req (envOf s gr l)).va
      match checkAddr s s.cur.core gr va w.bytes .load with
      | .bad f => some (l, f)
      | .ok t => (match t.place with
          | .scr _ _ _ => some (l, { order := 3, cause := 0x0C })
          | .glob _ => none)
    match firstFailure fs with
    | some (cause, mask) =>
      trap s cause mask (match lowest mask with | some l => (req (envOf s gr l)).va | none => 0) 0
    | none =>
      let s1 := (lanesOf gm).foldl (memLane m req fun e x =>
        { x with
          kind := .waitv cc (opI e (regs12 w.is64) b)
          dst := match d with
            | .v n => .v (e.lane.base + n.val) (regs12 w.is64)
            | .s n => if lowest gm = some e.l then .s n.val (regs12 w.is64) else .none }) s
      modCur s1 fun g2 => parkLanes gm (fun _ => .waitv) (advance (s1.cur.mask &&& ~~~gm) g2)

/-! ## FENCE, XFENCE (R290 to R292) -/

/-- FENCE at issue: the status word, and the accumulator is cleared. Its waiting is in `holds`. -/
def execFence (g : Guard) (ord : Ordering4) (scope : Scope) (d : SReg) (s : State) : Out :=
  withWord (.fence g ord scope d) s fun gr gm => withoutTxn 0x0A s gr gm fun s gr gm =>
    if gm = 0 then finishWord s
    else
      let acc := match teamAt s s.cur.core gr.team with
        | some t => t.fails.getD gr.index 0
        | none => 0
      let s1 := modTeam s s.cur.core gr.team fun t => { t with fails := t.fails.set gr.index 0 }
      finishWord (modCur s1 fun g2 => putS g2 d.val 2 acc.toNat)

/-- XFENCE at issue. -/
def execXfence (g : Guard) (scope : Scope) (p q : Path) (s : State) : Out :=
  withWord (.xfence g scope p q) s fun gr gm => withoutTxn 0x0A s gr gm fun s _ _ => finishWord s

/-- Whether the accesses of some lanes of a group are done: no pending one, and no store unperformed at a wide scope.
(log 44: DEDUCED, unsafe) -/
def lanesDone (x : Core) (k : Nat) (m : Mask) (loadsOnly deep : Bool) : Bool :=
  !(x.pend.any fun a => a.slot = k && m.getLsbD a.lane && (isLoadLike a || !loadsOnly))
    && (loadsOnly || !deep || !(x.outb.any fun a => a.slot = k && m.getLsbD a.lane))

/-! ## A load that a word makes at its own issue (R86, R192, R197, R233, R238) -/

/-- A relaxed load of a lane of the current group, taken at once: `n` bytes at a checked address. None while the bytes
cannot be read yet; the word then waits. A poisoned value is 0, with MEMERR for the group. (log 24: DEDUCED, unsafe)
-/
def loadNow (s : State) (g : Grp) (l : Nat) (scope : Scope) (va n : Nat) (t : Target) : Option (List Byte × State) :=
  let c := s.cur.core
  let x := coreAt s c
  let bad (pa : Nat) : List Byte × State := (List.replicate n 0, consumePoison s c s.cur.slot l pa va s.cur.first)
  match servedAt c x t.place with
  | .scr tc tn off =>
    (match (teamAt s tc tn).bind fun tm => windowPoison s tm off n with
      | some pa => some (bad pa)
      | none => (directGet s (.scr tc tn off) n).map fun r => (r.1, s))
  | .glob pa =>
    let a := newAcc s g l { ord := .rlx, scope := scope, evict := 4 } { va := va, al := 1, n := n, ty := .load } t
    let a := { a with kind := .load false }
    let bytes (mem : Nat → Byte) (s1 : State) : Option (List Byte × State) := (loadBytes x mem a pa n).map fun bs => (bs, s1)
    if suppliedHere x a pa n then bytes (sget s.mem) s
    else if viaWindow s pa then
      (match agentRead s (.word c s.cur.slot) pa n with
        | .error _ => none
        | .ok r =>
          -- the request stands until the word has issued
          let s1 := { r.state with outstanding := s.outstanding }
          if r.bad.isSome then some (bad pa) else bytes (fun p => r.bytes.getD (p - pa) 0) (countStray s1 a pa))
    else if !backed s pa then some (bad pa)
    else if !readableNow s (some (.release c)) none pa n t.gr && !copyServes s c a pa then none
    else if readPoisoned s x a pa then some (bad pa)
    else bytes (sget s.mem) (noteReads (countStray s a pa) pa n t.gr)

/-- A word whose load must wait asks for the grains, and for the buffered stores of other lanes of the core that hold its bytes
(R285); it does not issue. -/
def askLoad (s : State) (n : Nat) (t : Target) : State :=
  match t.place with
  | .glob pa =>
    let s1 := ((coreAt s s.cur.core).outb.filter fun a => overlap (.glob pa) n a.place a.n).foldl (fun s a =>
      match a.place with
      | .glob p => askHome s p a.gr
      | .scr .. => s) s
    if viaWindow s1 pa then (unblock s1 (.read (.word s.cur.core s.cur.slot) pa n)).getD s1
    else if backed s1 pa then forward s1 pa n t.gr else s1
  | p => (waitOn s p n).getD s

/-- A relaxed .LANE store of a lane, `n` bytes at a checked address, that a word makes beside its own effect. -/
def storeLane (s : State) (g : Grp) (l va n v : Nat) (t : Target) : State :=
  pushAcc s { newAcc s g l { ord := .rlx, scope := .lane, evict := 4 } { va := va, al := 1, n := n, ty := .store } t with
    val := v, entry := false }

end Sys2Proof.Machine
end

