-- ==== Sys2Proof/Machine/Control.lean ====
section
/-! DEFINITION. Control transfers with the cabinet and the spill area (04 R86 to R92), departures in voyage mode (12 R252
to R257), EXIT, SPAWN, YIELD, BKPT and NOP (04 R93 to R97), and REP (02 R43 to R45; 04 R98). -/

namespace Sys2Proof.Machine

/-! ## The spill area (R86 to R88) -/

def strideOf (g : Grp) : Nat := g.spill.toNat % 32

/-- Slot `k` of a lane's spill area. -/
def spillAddr (g : Grp) (ln : Lane) (k : Nat) : Nat :=
  bitsOf g.spill.toNat 56 12 * 4096 + ln.fibre.toNat * 2 ^ strideOf g + 16 * k

/-- Whether a CALL that spills raises STACK: an invalid STRIDE, or a slot beyond the area. -/
def spillStack (g : Grp) (ln : Lane) : Bool :=
  strideOf g < 8 || 20 < strideOf g || 2 ^ (strideOf g - 4) ≤ ln.spill + 1

def retWord (r : Ret) : Nat := r.pc.toNat + 2 ^ 64 * (r.base % 256)
/-- A refilled record: its base is a multiple of 4 from 0 to 252 (R79, R87). (log 43: DEDUCED, unsafe) -/
def retOf (v : Nat) : Ret := { pc := BitVec.ofNat 64 v, base := v / 2 ^ 64 % 256 / 4 * 4 }

/-! ## Plans of a transfer -/

inductive XForm where
  | bra (off : Word)
  | brx (a : Reg)
  | call (off : Word) (f : Nat)
  | callx (a : Reg) (f : Nat)
  | ret
  deriving DecidableEq, Repr

/-- What a transfer does to one lane: the lane after it, its spill stores, the cluster core it departs to. -/
structure Plan where
  lane : Lane
  spills : List (Nat × Nat × Target)
  depart : Option Nat
  deriving DecidableEq, Repr

inductive Planned where
  | ok (p : Plan)
  | bad (f : Failed)
  deriving DecidableEq, Repr

/-- A target is bad (R90). -/
def badPc (t : Nat) : Bool := t % 8 ≠ 0 || !canonical t

/-- PC + 8 × offset (R32). -/
def relTarget (pc : Dword) (off : Word) : Nat := wrapI 64 ((pc.toNat : Int) + 8 * off.toInt)

/-- Whether a RET must refill a lane's cabinet first. -/
def needsRefill (ln : Lane) : Bool := ln.cab.isEmpty && ln.depth ≠ 0 && ln.spill ≠ 0

/-- The slots a refill loads. -/
def refillSlots (ln : Lane) : List Nat := if ln.spill ≥ 2 then [ln.spill - 2, ln.spill - 1] else [0]

/-- Whether a spill or a refill of a lane inside a transaction goes to a line of a host or of another package (R315): the
transaction aborts with REMOTE. -/
def xferRemote (ln : Lane) (t : Target) : Bool :=
  inTxn ln && match t.place with
    | .glob pa => (match regionOf pa with | .host _ | .fabric _ => true | _ => false)
    | .scr .. => false

/-- The failed check of such an access. -/
def remoteFail : Failed := { order := 58, cause := 0x06 }

/-- Refill one lane's cabinet: the records, or the failed check; none while a load must wait. (log 24: DEDUCED,
unsafe) -/
def refillLane (s : State) (g : Grp) (l : Nat) : Option (State × (List Ret ⊕ Failed)) :=
  let ln := laneAt g l
  (refillSlots ln).foldl (fun acc k =>
    match acc with
    | none => none
    | some (_, .inr _) => acc
    | some (s1, .inl rs) =>
      match checkAddr s1 s.cur.core g (spillAddr g ln k) 16 .load with
      | .bad f => some (s1, .inr { f with order := 40 + f.order })
      | .ok t =>
        if xferRemote ln t then some (s1, .inr remoteFail)
        else (loadNow s1 g l .lane (spillAddr g ln k) 16 t).map fun r => (r.2, .inl (rs ++ [retOf (leNat r.1)])))
    (some (s, .inl []))

/-! ## Departures (R252 to R257) -/

/-- The voyage of a core, for a user group of its grid. -/
def voyageOf (x : Core) (g : Grp) : Option Voyage :=
  match x.voyage with
  | some v => if g.grid = v.grid ∧ !g.supervisor then some v else none
  | none => none

/-- Column and row of a core's router (R244). -/
def colOf (c : Nat) : Nat := c % 8
def rowOf (c : Nat) : Nat := let q := c % 88 / 8; if q < 6 then q else q + 1

def absDiff (a b : Nat) : Nat := a - b + (b - a)

/-- The mesh distance of two cores. -/
def meshDist (a b : Nat) : Nat := absDiff (colOf a) (colOf b) + absDiff (rowOf a) (rowOf b)

def sortNat (l : List Nat) : List Nat := (List.range 16).filter l.contains

/-- R252: the holder that a core chooses for a segment and a fibre. -/
def chooseHolder (c : Nat) (place : List Nat) (sg : Segment) (fibre : Word) : Nat :=
  let dist (h : Nat) := meshDist c (place.getD h 0)
  let cand := if sg.select = 0 then
      sg.holders.filter fun h => sg.holders.all fun k => dist h ≤ dist k
    else sg.holders
  let cs := sortNat cand
  cs.getD (hash32 fibre.toNat % cs.length) 0

/-- The segment that holds a PC. -/
def segmentOf (ch : Chart) (pc : Nat) : Option Segment :=
  ch.segs.find? fun sg => sg.start ≤ pc ∧ pc < sg.start + sg.len

/-- Where a lane of a voyage grid goes: stays (none), departs, or raises VNOSEG or VNOHOLD (R253, R257). -/
def holderFor (c : Nat) (v : Voyage) (tm : Team) (sel : Sel) (e : Env) (pc : Nat) : Option Nat ⊕ Failed :=
  let own := tm.ccore
  match segmentOf v.chart pc with
  | none => .inr { order := 61, cause := 0x18 }
  | some sg =>
    let goTo (h : Nat) : Option Nat ⊕ Failed := .inl (if h = own then none else some h)
    match sel with
    | .none =>
      (match v.seg.bind fun i => v.chart.segs[i]? with
        | some mine => if mine.start ≤ pc ∧ pc < mine.start + mine.len then .inl none
                       else goTo (chooseHolder c tm.place sg e.lane.fibre)
        | none => goTo (chooseHolder c tm.place sg e.lane.fibre))
    | .hold a =>
      (match sg.holders[opI e 1 a]? with
        | some h => goTo h
        | none => .inr { order := 62, cause := 0x19 })
    | .core a => if sg.holders.contains (opI e 1 a) then goTo (opI e 1 a) else .inr { order := 62, cause := 0x19 }

/-- The plan of one lane whose guard is true. (log 41: DEDUCED, safe) (log 94: DEDUCED, unsafe) -/
def planLane (s : State) (g : Grp) (fm : XForm) (live : Nat) (sel : Sel) (cab : List Ret ⊕ Failed) (e : Env) : Planned :=
  let ln := e.lane
  let c := s.cur.core
  -- the state after the transfer, its spills, or the first failed check
  let step1 : (Nat × Lane × List (Nat × Ret)) ⊕ Failed :=
    match fm with
    | .bra off => .inl (relTarget ln.pc off, ln, [])
    | .brx a => .inl (opI e 2 a.op, ln, [])
    | .call _ f | .callx _ f =>
      let t := match fm with
        | .call off _ => relTarget ln.pc off
        | .callx a _ => opI e 2 a.op
        | _ => 0
      let full := ln.cab.length = 4
      if ln.depth = 65535 ∨ (full ∧ spillStack g ln) then .inr { order := 2, cause := 0x03 }
      else
        let new : Ret := { pc := ln.pc + 8, base := ln.base }
        let kept := if full then ln.cab.drop 2 else ln.cab
        let out := if full then mapFrom (fun i r => (ln.spill + i, r)) 0 (ln.cab.take 2) else []
        .inl (t, { ln with cab := kept ++ [new], base := ln.base + f, depth := ln.depth + 1,
                           spill := ln.spill + out.length }, out)
    | .ret =>
      if ln.depth = 0 then .inr { order := 2, cause := 0x03 }
      else match cab with
        | .inr f => .inr f
        | .inl rs =>
          let all := ln.cab ++ rs
          match all.getLast? with
          | none => .inr { order := 2, cause := 0x03 }
          | some r =>
            .inl (r.pc.toNat, { ln with cab := all.dropLast, base := r.base, depth := ln.depth - 1,
                                        spill := ln.spill - rs.length }, [])
  match step1 with
  | .inr f => .bad f
  | .inl (t, ln1, out) =>
    if badPc t then .bad { order := 3, cause := 0x04 }
    else
      let ln2 := { ln1 with pc := BitVec.ofNat 64 t }
      let chk := out.map fun o => (spillAddr g ln o.1, retWord o.2, checkAddr s c g (spillAddr g ln o.1) 16 .store)
      let spills := chk.filterMap fun o => match o.2.2 with | .ok tg => some (o.1, o.2.1, tg) | .bad _ => none
      match (chk.filterMap fun o => match o.2.2 with | .bad f => some f | .ok _ => none).head? with
      | some f => .bad { f with order := 50 + f.order }
      | none =>
        if spills.any fun o => xferRemote ln o.2.2 then .bad remoteFail
        else match voyageOf (coreAt s c) g, teamAt s c g.team with
        | some v, some tm =>
          (match holderFor c v tm sel e t with
            | .inr f => .bad f
            | .inl none => .ok { lane := ln2, spills := spills, depart := none }
            | .inl (some h) =>
              if g.alloc < ln2.base + live then .bad { order := 60, cause := 0x02 }
              else .ok { lane := ln2, spills := spills, depart := some h })
        | _, _ => .ok { lane := ln2, spills := spills, depart := none }

/-- Whether a failed check aborts the lane's transaction: BADPC and the faults of refills and spills (R309), and a spill or
a refill that leaves the package (R315). -/
def xferAborts (ln : Lane) (f : Failed) : Bool :=
  inTxn ln && (f.order = 58 || (!inAnchored ln && (f.order = 3 || (40 < f.order && f.order < 60))))

/-- The address of a refill or spill fault, for ADDR (R221). -/
def xferAddr (g : Grp) (ln : Lane) (fm : XForm) (f : Failed) : Nat :=
  if 40 < f.order && f.order < 60 then
    spillAddr g ln (match fm with | .ret => (refillSlots ln).headD 0 | _ => ln.spill)
  else 0

/-- The voyager that a departing lane becomes (R254). -/
def voyagerOf (v : Voyage) (tm : Team) (live : Nat) (ln : Lane) : Voyager :=
  { pc := ln.pc, depth := ln.depth, preds := ln.preds, base := ln.base, cab := ln.cab, live := live, spill := ln.spill,
    fibre := ln.fibre, gen := v.chart.gen, origin := tm.ccore, resv := ln.resv,
    regs := (List.range live).map fun i => sget ln.regs (ln.base + i) }

/-- A lane departs (R255): its slot is idle, and the voyager waits for the lane's stores. -/
def departLane (s : State) (c k l live : Nat) (ln : Lane) (dest : Nat) : State :=
  match grpAt s c k with
  | none => s
  | some g =>
    match voyageOf (coreAt s c) g, teamAt s c g.team with
    | some v, some tm =>
      let x := coreAt s c
      let mine (a : Acc) : Bool := a.slot = k && a.lane = l
      let hv : HeldVoyager :=
        { v := voyagerOf v tm live ln, train := s.cur.first, dest := dest, waits := ((x.pend ++ x.outb).filter mine).map (·.id) }
      let s1 := setGrp s c k (some (leaveSets l (modLane g l fun _ => { Lane.empty with fibre := ln.fibre })))
      modCore s1 c fun y =>
        { y with voyage := some { v with held := v.held ++ [hv] }
                 vdep := BitVec.ofNat 64 (min (2 ^ 64 - 1) (y.vdep.toNat + 1)) }
    | _, _ => s

/-- The effect of a transfer on one lane. -/
def applyPlan (live : Nat) (s : State) (p : Nat × Planned) : State :=
  match p.2, curGrp s with
  | .bad f, _ => abortLane (leaveSet s p.1) s.cur.core s.cur.slot p.1 (if f.order = 58 then 0x06 else 0x04) false none
  | .ok pl, some g =>
    if pl.depart.isSome && inTxn (laneAt g p.1) then
      abortLane (leaveSet s p.1) s.cur.core s.cur.slot p.1 0x09 false none
    else
      let s1 := pl.spills.foldl (fun s sp => storeLane (noteAccess s s.cur.core g sp.1 .store) g p.1 sp.1 16 sp.2.1 sp.2.2) s
      match pl.depart with
      | none => modCur s1 fun g => modLane g p.1 fun _ => pl.lane
      | some h => departLane s1 s.cur.core s.cur.slot p.1 live pl.lane h
  | .ok _, none => s

/-- Refill every lane that needs it, in increasing order. -/
def refillAll (s : State) (g : Grp) (fm : XForm) (ls : List Nat) : Option (State × List (Nat × (List Ret ⊕ Failed))) :=
  match fm with
  | .ret =>
    (ls.filter fun l => needsRefill (laneAt g l)).foldl (fun acc l =>
      match acc with
      | none => none
      | some (s1, out) => (refillLane s1 g l).map fun r => (r.1, out ++ [(l, r.2)])) (some (s, []))
  | _ => some (s, [])

/-- Ask for the grains of the refills that a RET waits for. -/
def askRefills (s : State) (g : Grp) (ls : List Nat) : State :=
  (ls.filter fun l => needsRefill (laneAt g l)).foldl (fun s l =>
    (refillSlots (laneAt g l)).foldl (fun s k =>
      match checkAddr s s.cur.core g (spillAddr g (laneAt g l) k) 16 .load with
      | .ok t => askLoad s 16 t
      | .bad _ => s) s) s

/-- The lanes for which a CALL's new window base reaches the allotment (R91). -/
def callWindow (fm : XForm) (g : Grp) (gm : Mask) : Mask :=
  match fm with
  | .call _ f | .callx _ f => maskOf fun l => gm.getLsbD l && g.alloc ≤ (laneAt g l).base + f
  | _ => 0

/-- Lanes that fall off their segment at a transfer: VFALL, after every other cause (R253). -/
def falls (m : Mask) : List (Nat × Failed) := (lanesOf m).map fun l => (l, { order := 63, cause := 0x1A })

/-- The body of a transfer, once no lane raises WINDOW. -/
def transferGo (i : Instr) (fm : XForm) (live : Nat) (sel : Sel) (s : State) (g : Grp) (gm : Mask) : State :=
  match refillAll s g fm (lanesOf gm) with
  | none => stalled (askRefills s g (lanesOf gm))
  | some (s1, rf) =>
    let cabOf (l : Nat) : List Ret ⊕ Failed := ((rf.find? fun r => r.1 = l).map (·.2)).getD (.inl [])
    let plans := (lanesOf gm).map fun l => (l, planLane s1 g fm live sel (cabOf l) (envOf s1 g l))
    let bads := (plans.filterMap fun p =>
      match p.2 with
      | .bad f => if xferAborts (laneAt g p.1) f then none else some (p.1, f)
      | .ok _ => none) ++ falls (fallLanes (coreAt s s.cur.core) g s.cur.mask gm (leavesPc i))
    match firstFailure bads with
    | some (cause, mask) =>
      let addr := match bads.find? fun b => mask.getLsbD b.1 with
        | some b => xferAddr g (laneAt g b.1) fm b.2
        | none => 0
      trap s1 cause mask addr 0
    | none =>
      let s2 := modCur s1 (advance (s.cur.mask &&& ~~~gm))
      retireDone s.cur.core (plans.foldl (applyPlan live) s2)

/-- A transfer (R91, R253): every check of every lane, then every lane's effect. -/
def transfer (i : Instr) (fm : XForm) (live : Nat) (sel : Sel) (s : State) : Out :=
  match curGrp s with
  | none => .fault .noGroup
  | some g =>
    let gm := guarded (i.guard.getD Guard.always) g s.cur.mask
    let wm := windowLanes i.uses g gm ||| callWindow fm g gm
    if wm ≠ 0 then .next (trap s 0x02 wm 0 0)
    else .next (transferGo i fm live sel s g gm)

/-- BRA. -/
def execBra (g : Guard) (live : Fin 33) (off : Word) (s : State) : Out :=
  transfer (.bra g live off) (.bra off) live.val .none s
/-- CALL. -/
def execCall (g : Guard) (live : Fin 33) (frame : Fin 64) (off : Word) (s : State) : Out :=
  transfer (.call g live frame off) (.call off (4 * frame.val)) live.val .none s
/-- TRAV. -/
def execTrav (g : Guard) (live : Fin 33) (sel : Sel) (off : Word) (s : State) : Out :=
  transfer (.trav g live sel off) (.bra off) live.val sel s
/-- BRX. -/
def execBrx (g : Guard) (live : Fin 33) (a : Reg) (s : State) : Out :=
  transfer (.brx g live a) (.brx a) live.val .none s
/-- CALLX. -/
def execCallx (g : Guard) (live : Fin 33) (a : Reg) (frame : Fin 64) (s : State) : Out :=
  transfer (.callx g live a frame) (.callx a (4 * frame.val)) live.val .none s
/-- TRAVX. -/
def execTravx (g : Guard) (live : Fin 33) (a : Reg) (sel : Sel) (s : State) : Out :=
  transfer (.travx g live a sel) (.brx a) live.val sel s
/-- RET. -/
def execRet (g : Guard) (live : Fin 33) (s : State) : Out :=
  transfer (.ret g live) .ret live.val .none s

/-! ## Lane life (R94 to R97) -/

/-- The lane after EXIT: its cabinet, spill count and reservation are discarded, and its depth is 0 with them (R76). -/
def exitedLane (x : Core) (k l : Nat) (ln : Lane) : Lane :=
  { dropResv x k l ln with status := .exited, depth := 0, cab := [], spill := 0, wait := .ready }

/-- EXIT. -/
def execExit (g : Guard) (s : State) : Out :=
  withWord (.exit g) s fun gr gm =>
    let s1 := abortLanes s s.cur.core s.cur.slot (maskOf fun l => gm.getLsbD l && inTxn (laneAt gr l)) 0x07
    retireDone s.cur.core (modCur s1 fun g2 =>
      (lanesOf gm).foldl (fun g l => leaveSets l g) (mapLanes gm (exitedLane (coreAt s s.cur.core) s.cur.slot) (advance (s.cur.mask &&& ~~~gm) g2)))

/-- Move a slot to the youngest end of its core's ages. -/
def youngest (k : Nat) (x : Core) : Core := { x with ages := x.ages.filter (· ≠ k) ++ [k] }

/-- YIELD: the lanes hold past the word, and the group becomes the youngest of its class, unless no guard is true.
(log 96: DEDUCED, unsafe) -/
def execYield (g : Guard) (s : State) : Out :=
  withWord (.yield g) s fun _ gm =>
    let s1 := modCur s fun g2 => parkLanes gm (fun _ => .yield) (advance s.cur.mask g2)
    if gm = 0 then s1 else modCore s1 s.cur.core (youngest s.cur.slot)

/-- BKPT. (log 130: DEDUCED, unsafe) -/
def execBkpt (g : Guard) (n : Fin 4096) (s : State) : Out :=
  withWord (.bkpt g n) s fun _ gm => if gm = 0 then finishWord s else trap s 0x06 gm 0 n.val

/-- NOP. -/
def execNop (g : Guard) (s : State) : Out := withWord (.nop g) s fun _ _ => finishWord s

/-- A child of SPAWN in a slot (R95). -/
def childLane (pc v0 : Nat) (ln : Lane) : Lane :=
  { Lane.empty with status := .live, pc := BitVec.ofNat 64 pc, fibre := ln.fibre,
                    regs := sset [] 0 (BitVec.ofNat 32 v0) }

/-- One request of SPAWN: the lowest free slot, or 0xFFFF_FFFF. (log 90: DEDUCED, unsafe) -/
def spawnOne (d : VReg) (s : State) (r : Nat × Nat × Nat) : State :=
  match curGrp s with
  | none => s
  | some g =>
    match lowest (lanesWhere g fun ln => ln.status ≠ .live) with
    | none => modCur s fun g => modLane g r.1 fun ln => wrV ln d.val 1 0xFFFFFFFF
    | some k => modCur s fun g =>
        let g1 := modLane (modLane g k (childLane r.2.1 r.2.2)) r.1 fun ln => wrV ln d.val 1 k
        { g1 with rdv := g1.rdv.map fun v => { v with excused := v.excused ||| oneLane k } }

/-- SPAWN. (log 130: DEDUCED, unsafe) -/
def execSpawn (g : Guard) (d : VReg) (a : Reg) (b : Operand) (s : State) : Out :=
  withWord (.spawn g d a b) s fun gr gm =>
    let bad := maskOf fun l => gm.getLsbD l && badPc (opI (envOf s gr l) 2 a.op)
    let txBad := maskOf fun l => bad.getLsbD l && inTxn (laneAt gr l) && !inAnchored (laneAt gr l)
    if gm = 0 then finishWord s
    else if (voyageOf (coreAt s s.cur.core) gr).isSome then trap s 0x15 gm 0 0
    else if bad &&& ~~~txBad ≠ 0 then trap s 0x04 (bad &&& ~~~txBad) 0 0
    else
      let reqs := (lanesOf (gm &&& ~~~txBad)).map fun l => (l, opI (envOf s gr l) 2 a.op, opI (envOf s gr l) 1 b)
      let s1 := abortLanes s s.cur.core s.cur.slot txBad 0x04
      let s2 := reqs.foldl (spawnOne d) s1
      modCur s2 (advance (s.cur.mask &&& ~~~txBad))

/-! ## REP (R43 to R45, R98) -/

/-- Whether REP may precede a word: arithmetic, NOP, and the memory words but WAITV. -/
def repeatable : Instr → Bool
  | .ld .. | .st .. | .sld .. | .atom .. | .atomW64 .. | .acas .. | .lr .. | .sc .. | .pref .. | .partn .. | .nop .. => true
  | .shfl .. | .slide .. | .vote .. | .ballot .. | .ballotR .. | .gred .. | .gscan .. | .mskopAnd .. | .mskopOr ..
  | .mskopXor .. | .mskopAndn .. | .mskopNot .. | .mskopLd .. | .mskopSt .. | .mskopLive .. | .mskopArrv .. | .tbar ..
  | .cbar .. | .rolesw .. => false
  | .bra .. | .call .. | .trav .. | .brx .. | .callx .. | .travx .. | .ret .. | .exit .. | .yield .. | .bkpt .. | .spawn ..
  | .rep .. => false
  | .waitv .. | .fence .. | .xfence .. | .wmap .. | .wflush .. | .wdrop .. | .cpy .. | .cpyg .. | .bari .. | .barx ..
  | .barw .. | .bart .. | .hwait .. | .htest .. | .hcan .. | .tswp .. | .tldi .. | .macq .. | .mrel .. | .mma .. | .mmag ..
  | .mzero .. | .mldz .. | .mstz .. | .tbegin .. | .tend | .tabort .. | .tstat .. => false
  | .sysc .. | .crd .. | .cwr .. | .lnch .. | .sretReply .. | .sretResume .. | .sretDrop .. | .mboxWait .. | .mboxPop ..
  | .mboxStat .. | .ctxsG .. | .ctxsT .. | .ctxlG .. | .ctxlT .. | .tinvAll .. | .tinvPage .. => false
  | .htbegin .. | .htend | .htabort .. | .htstat .. => false
  | .repIssue .. | .tack .. | .asyncTrap .. | .trapRecordWrite .. | .rendezvousComplete .. | .rendezvousTimeout ..
  | .growingAllotment .. => false
  | i => i.guard.isSome

def stepVal : RepStep → Nat
  | .s0 => 0
  | .s1 => 1
  | .s2 => 2
  | .s4 => 4

/-- The class of an operand code (R34). -/
def codeClass (c : Nat) : Nat := if c < 0x100 then 0 else if c < 0x1C0 then 1 else if c < 0x1E0 then 2 else 3

/-- Whether a form may step a field: it uses it as an operand code, and the code stays in its class (R45). -/
def stepOk (used : Bool) (code step n : Nat) : Bool :=
  step = 0 || (used && code + (n - 1) * step < 0x200 && codeClass (code + (n - 1) * step) = codeClass code)

/-- Which of D, A, B and C a repeatable form uses as operand codes. -/
def fieldsUsed (i : Instr) : Bool × Bool × Bool × Bool :=
  match i with
  | .st .. => (true, true, true, false)
  | _ =>
    let reads := (i.uses.filter fun u => !u.wr).length
    (i.uses.any (·.wr), reads ≥ 1, reads ≥ 2, reads ≥ 3)

/-- The word of issue `i`: each stepped field of the raw word rises (R44). -/
def stepWord (w d a b c i : Nat) : Nat := w + i * (d * 2 ^ 43 + a * 2 ^ 34 + b * 2 ^ 25 + c * 2 ^ 16)

/-- What REP asks of the word after it (R45). -/
def repOk (g : Grp) (w n : Nat) (d a b c : RepStep) : Bool :=
  match decode w with
  | none => false
  | some i =>
    let u := fieldsUsed i
    repeatable i && stepOk u.1 (fD w).val (stepVal d) n && stepOk u.2.1 (fA w).val (stepVal a) n
      && stepOk u.2.2.1 (fB w).val (stepVal b) n && stepOk u.2.2.2 (fC w).val (stepVal c) n
      && (List.range n).all fun k =>
        match decode (stepWord w (stepVal d) (stepVal a) (stepVal b) (stepVal c) k) with
        | some j => j.inScal g.scal
        | none => false

/-! ## Fetching -/

/-- What a fetch meets. `free` counts the free values it took (a host's memory, log 12). -/
inductive Fetched where
  | word (w free : Nat)
  | fault
  | poison (pa : Nat)
  deriving DecidableEq, Repr

/-- Fetch the word at a PC of a group (R324): through translation, from the performed bytes; never the bytes between
two words (R51). (log 12: DESIGN CHOICE, safe) -/
def fetchAt (s : State) (c : Nat) (g : Grp) (pc : Nat) : Fetched :=
  if ownAperture ≤ pc ∨ pc % 8 ≠ 0 then .fault
  else match translate s c g pc .fetch with
    | .bad _ => .fault
    | .ok t =>
      match t.place with
      | .scr _ _ _ => .fault
      | .glob pa =>
        if windowUp s pa then .word (Config.freeDword s.freeCount).toNat 1
        else if !backed s pa || (linesOf pa 8).any (linePoisoned s) then .poison pa
        else .word (readLe s.mem pa 8) 0

/-- The word at a PC of a group, as it would be fetched. -/
def wordAt (s : State) (c : Nat) (g : Grp) (pc : Dword) : Option Instr :=
  match fetchAt s c g pc.toNat with
  | .word w _ => decode w
  | _ => none

/-- A failed fetch for the issue set: IFAULT, or an abort with FAULT where every lane is in a transaction (R309). (log
39: DEDUCED, unsafe) -/
def fetchFault (s : State) (addr : Nat) : State :=
  match curGrp s with
  | none => s
  | some g =>
    let tm := maskOf fun l => s.cur.mask.getLsbD l && inTxn (laneAt g l) && !inAnchored (laneAt g l)
    let rest := s.cur.mask &&& ~~~tm
    if rest = 0 then abortLanes s s.cur.core s.cur.slot tm 0x04 else trap s 0x05 rest addr 0

/-- A fetch that consumes poison: MEMERR, asynchronous, with the word's PC (R220, R357). (log 40: DEDUCED, unsafe) -/
def fetchPoison (s : State) (pa : Nat) : State :=
  match curGrp s with
  | none => s
  | some g =>
    takeTrap (faultQueue s pa 3 (faultSource pa)) s.cur.core s.cur.slot
      (mkRec g s.cur.slot s.cur.mask (curPc s) (curPc s).toNat 0 0x16 1)

/-- REP once its next word is good (R45), has been fetched with poison, or has not been fetched. -/
def repGo (count : Nat) (d a b c : RepStep) (f : Fetched) (s : State) : State :=
  match f with
  | .fault => fetchFault s ((curPc s).toNat + 8)
  | .poison pa => fetchPoison s pa
  | .word w free =>
    modCur { s with freeCount := s.freeCount + free } fun g2 =>
      { advance s.cur.mask g2 with
        rep := some { word := some w, count := count, next := 0, d := d, a := a, b := b, c := c, set := s.cur.mask } }

/-- REP: it examines the next word, and its issue set becomes the set of the repeats. A word that it may not repeat
raises ILLEGAL before any other trap (R45, R50). (log 39: DEDUCED, unsafe) (log 94: DEDUCED, unsafe) -/
def execRep (count : Fin 65) (d a b c : RepStep) (s : State) : Out :=
  match curGrp s with
  | none => .fault .noGroup
  | some g =>
    let f := fetchAt s s.cur.core g ((curPc s).toNat + 8)
    let bad := match f with
      | .word w _ => !repOk g w count.val d a b c
      | _ => false
    let free := match f with
      | .word _ n => n
      | _ => 0
    if bad then .next (trap { s with freeCount := s.freeCount + free } 0x01 s.cur.mask 0 0)
    else withWord (.rep count d a b c) s fun _ _ => repGo count.val d a b c f s

end Sys2Proof.Machine
end

