-- ==== Sys2Proof/Machine/Group.lean ====
section
/-! DEFINITION. Group operations (06 R142 to R161; 12 R248, R249): arriving at a rendezvous, its completion with each
operation's result, team and cluster barriers, ROLESW, the timeout of a rendezvous and a growing allotment. -/

namespace Sys2Proof.Machine

/-! ## Arrival (R142, R143, R146) -/

/-- The operands that a lane supplies. -/
abbrev Supply := Nat × Nat × Nat

/-- The captured mask at a word: of the pending rendezvous there, or the member mask as it is now. -/
def capturedAt (g : Grp) (m : MReg) (x : Dword) : Mask :=
  match g.rdv with
  | some r => if r.pc = x then r.captured else getM g m
  | none => getM g m

/-- The members of the issue set arrive and park; the others go on. -/
def arriveGrp (now : Nat) (i : Instr) (m : MReg) (x : Dword) (mask gm : Mask) (ops : List (Nat × Supply)) (g : Grp) : Grp :=
  let cap := capturedAt g m x
  let mem := mask &&& cap
  let r : Rdv := g.rdv.getD
    { pc := x, word := some i, captured := cap, arrived := 0, guards := 0, excused := 0, ops := [], base := 0, since := now }
  let r1 := { r with word := r.word.or (some i), arrived := r.arrived ||| mem, guards := r.guards ||| gm, ops := r.ops ++ ops }
  { parkLanes mem (fun _ => .rendezvous) (advance (mask &&& ~~~mem) g) with rdv := some r1 }

/-- A group operation at issue: GMASK, RENDEZVOUS, or arrival. A lane in a transaction with a false guard does not
arrive (R301). (log 37: DEDUCED, unsafe) -/
def groupOp (i : Instr) (m : MReg) (supply : Env → Supply) (s : State) : Out :=
  withWord i s fun g gm => withoutTxn 0x0A s g gm fun s g gm =>
    let x := curPc s
    let other := match g.rdv with
      | some r => if r.pc = x then none else some r
      | none => none
    match other with
    | some r =>
      if gm &&& r.captured ≠ 0 then trap s 0x08 (gm &&& r.captured) 0 r.captured.toNat
      else modCur s fun g2 => parkLanes (s.cur.mask &&& ~~~passing s g gm) (fun _ => .behind) (advance (passing s g gm) g2)
    | none =>
      let bad := gm &&& ~~~capturedAt g m x
      if bad ≠ 0 then trap s 0x07 bad 0 0
      else
        let ops := (lanesOf gm).map fun l => (l, supply (envOf s g l))
        modCur s fun g2 => arriveGrp s.clock i m x (s.cur.mask &&& ~~~passing s g gm) gm ops (advance (passing s g gm) g2)

/-- SHFL. -/
def execShfl (g : Guard) (m : MReg) (seg : SegSize) (mode : ShflMode) (k : PReg) (d : VReg) (a b : Operand) (s : State) :
    Out :=
  groupOp (.shfl g m seg mode k d a b) m (fun e => (opI e 1 a, opI e 1 b, 0)) s
/-- SLIDE. -/
def execSlide (g : Guard) (m : MReg) (up : Bool) (w : SlideWidth) (d : VReg) (a b c : Operand) (s : State) : Out :=
  groupOp (.slide g m up w d a b c) m (fun e => (opI e 1 a, opI e 1 b, opI e 1 c)) s
/-- VOTE. -/
def execVote (g : Guard) (m : MReg) (mode : VoteMode) (d a : PReg) (s : State) : Out :=
  groupOp (.vote g m mode d a) m (fun e => ((getP e.lane a).toNat, 0, 0)) s
/-- BALLOT to a mask. -/
def execBallot (g : Guard) (m : MReg) (d : MReg) (a : PReg) (s : State) : Out :=
  groupOp (.ballot g m d a) m (fun e => ((getP e.lane a).toNat, 0, 0)) s
/-- BALLOT.R to a register pair. -/
def execBallotR (g : Guard) (m : MReg) (d : Reg) (a : PReg) (s : State) : Out :=
  groupOp (.ballotR g m d a) m (fun e => ((getP e.lane a).toNat, 0, 0)) s

/-- A reduction's operand. -/
def redOperand (t : RedTy) (a : Operand) (e : Env) : Nat :=
  match t with
  | .f32 => opF e fmt32 a
  | .f64 => opF e fmt64 a
  | _ => opI e (regs12 t.w64) a

/-- GRED. -/
def execGred (g : Guard) (m : MReg) (t : RedTy) (op : RedOp) (rm : Rm) (sat : Bool) (d : Reg) (a : Operand) (s : State) :
    Out :=
  groupOp (.gred g m t op rm sat d a) m (fun e => (redOperand t a e, 0, 0)) s
/-- GSCAN. -/
def execGscan (g : Guard) (m : MReg) (t : RedTy) (op : RedOp) (ex : Bool) (rm : Rm) (sat : Bool) (d : VReg) (a : Operand)
    (s : State) : Out :=
  groupOp (.gscan g m t op ex rm sat d a) m (fun e => (redOperand t a e, 0, 0)) s
/-- MSKOP.AND. -/
def execMskopAnd (g : Guard) (m : MReg) (d a b : MReg) (s : State) : Out :=
  groupOp (.mskopAnd g m d a b) m (fun _ => (0, 0, 0)) s
/-- MSKOP.OR. -/
def execMskopOr (g : Guard) (m : MReg) (d a b : MReg) (s : State) : Out :=
  groupOp (.mskopOr g m d a b) m (fun _ => (0, 0, 0)) s
/-- MSKOP.XOR. -/
def execMskopXor (g : Guard) (m : MReg) (d a b : MReg) (s : State) : Out :=
  groupOp (.mskopXor g m d a b) m (fun _ => (0, 0, 0)) s
/-- MSKOP.ANDN. -/
def execMskopAndn (g : Guard) (m : MReg) (d a b : MReg) (s : State) : Out :=
  groupOp (.mskopAndn g m d a b) m (fun _ => (0, 0, 0)) s
/-- MSKOP.NOT. -/
def execMskopNot (g : Guard) (m : MReg) (d a : MReg) (s : State) : Out :=
  groupOp (.mskopNot g m d a) m (fun _ => (0, 0, 0)) s
/-- MSKOP.LD. -/
def execMskopLd (g : Guard) (m : MReg) (d : MReg) (a : Operand) (s : State) : Out :=
  groupOp (.mskopLd g m d a) m (fun e => (opI e 2 a, 0, 0)) s
/-- MSKOP.ST. -/
def execMskopSt (g : Guard) (m : MReg) (d : SReg) (a : MReg) (s : State) : Out :=
  groupOp (.mskopSt g m d a) m (fun _ => (0, 0, 0)) s
/-- MSKOP.LIVE. -/
def execMskopLive (g : Guard) (m : MReg) (d : MReg) (s : State) : Out :=
  groupOp (.mskopLive g m d) m (fun _ => (0, 0, 0)) s
/-- MSKOP.ARRV. -/
def execMskopArrv (g : Guard) (m : MReg) (d : MReg) (s : State) : Out :=
  groupOp (.mskopArrv g m d) m (fun _ => (0, 0, 0)) s
/-- TBAR. -/
def execTbar (g : Guard) (m : MReg) (id : Fin 16) (b : Operand) (s : State) : Out :=
  groupOp (.tbar g m id b) m (fun e => (opI e 1 b, 0, 0)) s
/-- CBAR. -/
def execCbar (g : Guard) (m : MReg) (id : Fin 8) (b : Operand) (s : State) : Out :=
  groupOp (.cbar g m id b) m (fun e => (opI e 1 b, 0, 0)) s
/-- ROLESW. -/
def execRolesw (m : MReg) (a b : SReg) (s : State) : Out :=
  groupOp (.rolesw m a b) m (fun e => (opI e 1 (.s a), opI e 2 (.s b), 0)) s

/-! ## Results of the participants (R149 to R156) -/

/-- The participants of a rendezvous (R144). -/
def partsOf (r : Rdv) : Mask := r.arrived &&& r.guards

/-- What a lane supplied. -/
def supplied (r : Rdv) (l : Nat) : Supply := ((r.ops.find? fun o => o.1 = l).map (·.2)).getD (0, 0, 0)

def segLen : SegSize → Nat
  | .s64 => 64
  | .s16 => 16
  | .s4 => 4

/-- SHFL's result in lane `l`: the value and whether its source is a participant (R149). -/
def shflRes (r : Rdv) (seg : SegSize) (mode : ShflMode) (l : Nat) : Nat × Bool :=
  let sz := segLen seg
  let base := l - l % sz
  let j := (supplied r l).2.1 % 2 ^ 32
  let src : Nat × Bool := match mode with
    | .idx => (base + j % sz, true)
    | .up => (l - j, j < sz && base + j ≤ l)
    | .dn => (l + j, j < sz && l + j < base + sz)
    | .xor => (base + Nat.xor (l - base) (j % sz), true)
  let ok := src.2 && (partsOf r).getLsbD src.1
  ((supplied r (if ok then src.1 else l)).1, ok)

def slideBits : SlideWidth → Nat
  | .e8 => 8
  | .e16 => 16
  | .e32 => 32

/-- Element `k` of SLIDE's result in lane `l` (R150). -/
def slideElem (r : Rdv) (up : Bool) (w l k : Nat) : Nat :=
  let per := 32 / w
  let n := (supplied r l).2.1 % 2 ^ 32
  let idx := per * l + k
  let fill := (supplied r l).2.2 % 2 ^ w
  let t : Option Nat := if up then (if n ≤ idx then some (idx - n) else none)
                        else (if idx + n < 64 * per then some (idx + n) else none)
  match t with
  | some t => if (partsOf r).getLsbD (t / per) then (supplied r (t / per)).1 / 2 ^ (w * (t % per)) % 2 ^ w else fill
  | none => fill

/-- SLIDE's result in lane `l`. -/
def slideRes (r : Rdv) (up : Bool) (w : SlideWidth) (l : Nat) : Nat :=
  ((List.range (32 / slideBits w)).map fun k => slideElem r up (slideBits w) l k * 2 ^ (slideBits w * k)).sum

/-- The ballot (R152): the participants whose predicate is 1. -/
def ballotOf (r : Rdv) : Mask := maskOf fun l => (partsOf r).getLsbD l && (supplied r l).1 = 1

/-- VOTE's result (R151). -/
def voteRes (r : Rdv) (mode : VoteMode) : Bool :=
  match mode with
  | .all => ballotOf r = partsOf r
  | .any => ballotOf r ≠ 0
  | .uni => ballotOf r = 0 || ballotOf r = partsOf r

/-! ## Reductions (R153 to R155) -/

def redInt : RedTy → IntTy
  | .i32 => .i32
  | .n32 => .n32
  | .i64 => .i64
  | .n64 => .n64
  | .f32 => .n32
  | .f64 => .n64

/-- The exact sum of floats, rounded once (R155). -/
def fpSum (f : Fmt) (rm : Rm) (fz : Bool) (vs : List FVal) : Nat × Flags :=
  let snan := vs.any FVal.isSNaN
  let pos := vs.any (· = .inf false)
  let neg := vs.any (· = .inf true)
  if vs.any FVal.isNaN || (pos && neg) then (fmtNaN f, flIf (snan || (pos && neg)) flNV)
  else if pos then (fmtSigned f false (fmtInf f), 0)
  else if neg then (fmtSigned f true (fmtInf f), 0)
  else
    let q : Int := vs.foldl (fun q v => match v with | .fin _ _ e => min q e | _ => q) 0
    let sum : Int := vs.foldl (fun a v => match v with | .fin n m e => a + scaleTo n m e q | _ => a) 0
    let minus := !vs.isEmpty && (rm = .rdn || vs.all fun v => match v with | .fin n m _ => n && m = 0 | _ => false)
    fpDeliver f rm fz false sum q minus

/-- MIN or MAX of floats across C (R154). -/
def fpFold (f : Fmt) (fz max : Bool) (vs : List Nat) : Nat × Flags :=
  let op (a b : Nat) := if max then fpMax f fz a b else fpMin f fz a b
  match vs with
  | [] => (fmtSigned f max (fmtInf f), 0)
  | v :: r => r.foldl (fun a x => let y := op a.1 x; (y.1, a.2 ||| y.2)) (op v v)

/-- Red(C) (R154). Its flush mode is the group's at the completion. (log 111: DEDUCED, unsafe) -/
def redVal (g : Grp) (t : RedTy) (op : RedOp) (rm : Rm) (sat : Bool) (vs : List Nat) : Nat × Flags :=
  let it := redInt t
  let w := IntTy.width it
  if t.float then
    let f := if t = .f64 then fmt64 else fmt32
    let fz := if t = .f64 then fz64 g else fz32 g
    match op with
    | .min => fpFold f fz false vs
    | .max => fpFold f fz true vs
    | _ => fpSum f rm fz (vs.map (fpReadF f fz))
  else
    match op with
    | .add => tnarrow it sat ((vs.map (tval it)).sum)
    | .min => (wrapI w ((vs.map (tval it)).foldl min (maxOf (IntTy.signed it) w)), 0)
    | .max => (wrapI w ((vs.map (tval it)).foldl max (minOf (IntTy.signed it) w)), 0)
    | .and => (vs.foldl (aluAnd w) (2 ^ w - 1), 0)
    | .or => (vs.foldl (aluOr w) 0, 0)
    | .xor => (vs.foldl (aluXor w) 0, 0)

/-- The contributions of the participants of a mask, in lane order. -/
def contributions (r : Rdv) (m : Mask) : List Nat := (lanesOf (partsOf r &&& m)).map fun l => (supplied r l).1

/-- The lanes below `l`, with `l` where the scan is inclusive. -/
def upTo (l : Nat) (ex : Bool) : Mask := maskOf fun k => k < l || (!ex && k = l)

/-! ## Completion (R144, R145) -/

/-- The results of the participants, in lane order. -/
def resultsOf (r : Rdv) (f : Nat → Res) : List (Nat × Res) := (lanesOf (partsOf r)).map fun l => (l, f l)

/-- What the exchange network is to write of a complete rendezvous, beside its clock: nothing. The arrived lanes go on
at PC + 8 (R145). -/
def outOf (r : Rdv) : RdvOut :=
  { writeAt := 0, dest := none, res := [], mask := none, arrived := r.arrived, goto := r.pc + 8 }

/-- Results for the participants. -/
def outRes (r : Rdv) (d : Option (Reg × Nat)) (f : Nat → Res) : RdvOut := { outOf r with dest := d, res := resultsOf r f }

/-- A mask, if there is a participant. -/
def outMask (r : Rdv) (d : MReg) (v : Mask) : RdvOut := if partsOf r = 0 then outOf r else { outOf r with mask := some (d, v) }

/-- Results on their registers (R37): an S destination is written once, by the lowest participant. -/
def putResults (d : Option (Reg × Nat)) (rs : List (Nat × Res)) (g : Grp) : Grp :=
  match d with
  | some (.s n, k) =>
    match rs.head? with
    | none => g
    | some r => putS (modLane g r.1 (putRes none r.2)) n.val k r.2.val
  | _ => rs.foldl (fun g r => modLane g r.1 (putRes d r.2)) g

/-- The exchange network writes a result: the arrived lanes are ready again (R145). -/
def writeOut (o : RdvOut) (g : Grp) : Grp :=
  let g1 := putResults o.dest o.res g
  let g2 := match o.mask with
    | some p => putM g1 p.1 p.2
    | none => g1
  mapLanes o.arrived (fun _ ln => { ln with wait := .ready, pc := o.goto }) g2

/-- The exchange network of a partition takes a rendezvous that completes: it holds it for 4 clocks, and writes at
their end (R133, R145). One that completes while another is held comes after it. (log 119: DEDUCED, unsafe) -/
def takeExchange (s : State) (c k : Nat) : State × Nat :=
  let u := (coreAt s c).units.getD (k / 8) Units.free
  let at_ := max s.clock u.exch + 4
  (modCore s c fun x => { x with units := x.units.set (k / 8) { u with exch := at_ } }, at_)

/-- A rendezvous completes with a result, which the exchange network writes later. -/
def completeRdv (s : State) (c k : Nat) (o : RdvOut) : State :=
  let t := takeExchange s c k
  modGrp t.1 c k fun g => { g with rdv := none, outs := g.outs ++ [{ o with writeAt := t.2 }] }

/-- The rendezvous is cancelled: every arrived lane is ready again at its word. -/
def cancelRdv (r : Rdv) (g : Grp) : Grp :=
  { mapLanes r.arrived (fun _ ln => { ln with wait := .ready }) g with rdv := none }

/-- The result of a group operation; the barriers and ROLESW have none. MSKOP.LD's one effect takes what the lowest
participant supplied. (log 38: DEDUCED, unsafe; 112: DEDUCED, unsafe) -/
def rdvResult (r : Rdv) (g : Grp) : RdvOut :=
  match r.word with
  | some (.shfl _ _ seg mode k d _ _) =>
    outRes r (some (.v d, 1)) fun l => let x := shflRes r seg mode l; .withPred k x.1 x.2
  | some (.slide _ _ up w d _ _ _) => outRes r (some (.v d, 1)) fun l => .ofNat (slideRes r up w l)
  | some (.vote _ _ mode d _) => outRes r none fun _ => .withPred d 0 (voteRes r mode)
  | some (.ballot _ _ d _) => outMask r d (ballotOf r)
  | some (.ballotR _ _ d _) => outRes r (some (d, 2)) fun _ => .ofNat (ballotOf r).toNat
  | some (.gred _ _ t op rm sat d _) =>
    let v := redVal g t op rm sat (contributions r full)
    outRes r (some (d, regs12 t.w64)) fun _ => .ofPair v
  | some (.gscan _ _ t op ex rm sat d _) =>
    outRes r (some (.v d, regs12 t.w64)) fun l => .ofPair (redVal g t op rm sat (contributions r (upTo l ex)))
  | some (.mskopAnd _ _ d a b) => outMask r d (getM g a &&& getM g b)
  | some (.mskopOr _ _ d a b) => outMask r d (getM g a ||| getM g b)
  | some (.mskopXor _ _ d a b) => outMask r d (getM g a ^^^ getM g b)
  | some (.mskopAndn _ _ d a b) => outMask r d (getM g a &&& ~~~getM g b)
  | some (.mskopNot _ _ d a) => outMask r d (~~~getM g a)
  | some (.mskopLd _ _ d _) => outMask r d (BitVec.ofNat 64 (supplied r ((lowest (partsOf r)).getD 0)).1)
  | some (.mskopSt _ _ d a) => outRes r (some (.s d, 2)) fun _ => .ofNat (getM g a).toNat
  | some (.mskopLive _ _ d) => outMask r d (liveMask g)
  | some (.mskopArrv _ _ d) => outMask r d (partsOf r)
  | _ => outOf r

/-- A check of the completion fails: the rendezvous is cancelled and the group stops. (log 37: DEDUCED, unsafe) -/
def rdvTrap (s : State) (c k : Nat) (g : Grp) (r : Rdv) (cause : Nat) (mask : Mask) (info : Nat) : State :=
  takeTrap (setGrp s c k (some (cancelRdv r g))) c k (mkRec g k mask r.pc 0 info cause 0)

/-! ### Barriers (R158, R249) -/

/-- A group arrives at a team or cluster barrier with count `n`; not while CTXS.T has saved the team that keeps it
(R249). (log 120: DEDUCED, unsafe) -/
def barArrive (s : State) (c k : Nat) (g : Grp) (r : Rdv) (cb : Bool) (id n : Nat) : Option State :=
  match teamAt s c g.team with
  | none => none
  | some tm =>
    match barHome s c tm cb with
    | none => none
    | some home =>
      let b := ((teamAt s home.1 home.2).map fun t => barAt t cb id).getD Barrier.zero
      let first := b.arrived = 0
      let differs : Bool := if b.all then n ≠ 0 else n ≠ b.expect
      if n > (if cb then 384 else 32) ∨ (!first ∧ differs) then some (rdvTrap s c k g r 0x08 r.arrived r.captured.toNat)
      else
        let e := if first then (if n = 0 then groupsAlive s c tm cb else n) else b.expect
        let g1 := { parkLanes r.arrived (fun _ => .barrier b.phase) g with rdv := none, bars := g.bars ++ [r] }
        let s1 := setBar (setGrp (takeExchange s c k).1 c k (some g1)) home cb id
          { expect := e, arrived := b.arrived + 1, phase := b.phase, all := if first then n = 0 else b.all }
        some (checkBar s1 c tm cb id)

/-! ### ROLESW (R160, R161) -/

/-- Free register units of a partition. -/
def freeUnits (x : Core) (p : Nat) : Nat :=
  96 - ((List.range 8).map fun i => match grpIn x (8 * p + i) with | some g => g.alloc / 8 | none => 0).sum

/-- The lane after ROLESW: a fresh start at the entry, its registers below `keep`. -/
def roleLane (x : Core) (k entry keep l : Nat) (ln : Lane) : Lane :=
  { dropResv x k l ln with
            pc := BitVec.ofNat 64 entry, depth := 0, base := 0, cab := [], spill := 0, preds := 0x80, starve := 0,
            wait := .ready, regs := ln.regs.filter fun r => r.1 < keep }

/-- ROLESW's effect with a good role word. Lanes that need not wait for units go on after the exchange network's clocks
(R145). -/
def roleSwitch (s : State) (c k : Nat) (r : Rdv) (role entry : Nat) : State :=
  let s1 := abortLanes s c k r.arrived 0x07
  let s2 := modGrp s1 c k fun g =>
    let a1 := role % 512
    let grow := g.alloc < a1
    let g1 := mapLanes r.arrived (roleLane (coreAt s c) k entry (min g.alloc a1)) g
    let g2 := parkLanes r.arrived (fun _ => if grow then .grow else .rendezvous) g1
    { g2 with rdv := none, prio := bitsOf role 18 16, alloc := if grow then g.alloc else a1
              growth := if grow then some a1 else none }
  let s3 := modCore s2 c (youngest k)
  if role % 512 ≤ ((grpAt s c k).map (·.alloc)).getD 0 then
    completeRdv s3 c k { outOf r with goto := BitVec.ofNat 64 entry }
  else (takeExchange s3 c k).1

/-- Whether a role word holds an allotment and a priority class and nothing else. -/
def roleOk (role : Nat) : Bool :=
  role % 512 % 8 = 0 && 8 ≤ role % 512 && role % 512 ≤ 256 && bitsOf role 15 9 = 0 && role / 2 ^ 19 = 0

/-- ROLESW at its completion: the role word and the entry are what the lowest participant supplied. (log 113: DEDUCED,
unsafe) -/
def completeRole (s : State) (c k : Nat) (g : Grp) (r : Rdv) : State :=
  let op := match lowest (partsOf r) with
    | some l => supplied r l
    | none => (0, 0, 0)
  let out := liveMask g &&& ~~~r.captured
  if partsOf r = 0 then completeRdv s c k (outOf r)
  else if out ≠ 0 then rdvTrap s c k g r 0x07 out 0
  else if !roleOk op.1 then rdvTrap s c k g r 0x09 r.arrived 0
  else if badPc op.2.1 then rdvTrap s c k g r 0x04 r.arrived 0
  else roleSwitch s c k r op.1 op.2.1

/-! ## The events -/

/-- Every lane of the captured mask has arrived, or is not live (R145). (log 90: DEDUCED, unsafe) -/
def rdvMet (g : Grp) (r : Rdv) : Bool := (r.captured &&& ~~~r.arrived &&& ~~~r.excused &&& liveMask g) = 0

def running (g : Grp) : Bool := g.stop.isNone && !g.frozen && !g.dropped

/-- The word of a rendezvous: of one that an image held, as it is fetched (R148). -/
def rdvWord (s : State) (c : Nat) (g : Grp) (r : Rdv) : Option Instr := r.word.or (wordAt s c g r.pc)

/-- The first result of a group that is to be written now. -/
def dueOut (s : State) (g : Grp) : Option RdvOut := g.outs.find? fun o => o.writeAt ≤ s.clock

/-- A met rendezvous completes. (log 44: DEDUCED, unsafe) -/
def completeNow (s : State) (c k : Nat) (g : Grp) (r : Rdv) (i : Instr) : Option State :=
  let bar (cb : Bool) (id : Nat) : Option State :=
    match lowest (partsOf r) with
    | none => some (completeRdv s c k (outOf r))
    | some l =>
      if lanesDone (coreAt s c) k (partsOf r) false cb then barArrive s c k g r cb id (supplied r l).1
      else none
  match i with
  | .tbar _ _ id _ => bar false id.val
  | .cbar _ _ id _ => bar true id.val
  | .rolesw .. => some (completeRole s c k g r)
  | _ => some (completeRdv s c k (rdvResult r g))

/-- RENDEZVOUS_COMPLETE: a result whose clock has come is written; else a met rendezvous completes (R145). (log 44:
DEDUCED, unsafe; 119: DEDUCED, unsafe) -/
def evRendezvousComplete (c k : Nat) (s : State) : Option State :=
  match grpAt s c k with
  | none => none
  | some g =>
    match dueOut s g, g.rdv with
    | some o, _ => some (setGrp s c k (some { writeOut o g with outs := g.outs.erase o }))
    | none, none => none
    | none, some r =>
      if !rdvMet g r || !running g then none
      else match rdvWord s c g r with
        | none => none
        | some i => completeNow s c k g { r with word := some i } i

/-- Withdraw a group's arrival at a barrier. -/
def withdrawBar (s : State) (c : Nat) (g : Grp) (r : Rdv) : State :=
  let go (cb : Bool) (id : Nat) : State :=
    match teamAt s c g.team with
    | none => s
    | some tm => modHome s c tm cb fun t =>
        let b := barAt t cb id
        if cb then { t with cbars := t.cbars.set id { b with arrived := b.arrived - 1 } }
        else { t with bars := t.bars.set id { b with arrived := b.arrived - 1 } }
  match r.word with
  | some (.tbar _ _ id _) => go false id.val
  | some (.cbar _ _ id _) => go true id.val
  | _ => s

/-- RENDEZVOUS_TIMEOUT: a rendezvous has been pending, or at its barrier, for LIMIT clocks (R147, R158). -/
def evRendezvousTimeout (c k : Nat) (s : State) : Option State :=
  match grpAt s c k with
  | none => none
  | some g =>
    let limit := g.rdvz.toNat
    let late (r : Rdv) : Bool := limit ≠ 0 && limit ≤ r.count s.clock
    if !running g then none
    else match g.rdv.filter fun r => late r && (evRendezvousComplete c k s).isNone with
      | some r => some (rdvTrap s c k g r 0x08 r.arrived r.captured.toNat)
      | none =>
        match g.bars.find? late with
        | none => none
        | some r =>
          let s1 := withdrawBar s c g r
          let g1 := { mapLanes r.arrived (fun _ ln => { ln with wait := .ready }) g with bars := g.bars.erase r }
          some (takeTrap (setGrp s1 c k (some g1)) c k (mkRec g k r.arrived r.pc 0 r.captured.toNat 0x08 0))

/-- GROWING_ALLOTMENT: the oldest growing group of its partition takes its units (R161). -/
def evGrowingAllotment (c k : Nat) (s : State) : Option State :=
  match grpAt s c k with
  | none => none
  | some g =>
    match g.growth with
    | none => none
    | some a1 =>
      let x := coreAt s c
      let first := x.ages.find? fun j => j / 8 = k / 8 && (match grpIn x j with | some h => h.growth.isSome | none => false)
      if first ≠ some k || freeUnits x (k / 8) < a1 / 8 - g.alloc / 8 then none
      else some (setGrp s c k (some
        { g with alloc := a1, growth := none,
                 lanes := g.lanes.map fun ln => if ln.wait = .grow then { ln with wait := .ready } else ln }))

/-- RENDEZVOUS_COMPLETE. -/
def execRendezvousComplete (c k : Nat) (s : State) : Out := stepOr s (evRendezvousComplete c k s)
/-- RENDEZVOUS_TIMEOUT. -/
def execRendezvousTimeout (c k : Nat) (s : State) : Out := stepOr s (evRendezvousTimeout c k s)
/-- GROWING_ALLOTMENT. -/
def execGrowingAllotment (c k : Nat) (s : State) : Out := stepOr s (evGrowingAllotment c k s)

end Sys2Proof.Machine
end

