-- ==== Sys2Proof/Machine/Engine.lean ====
section
/-! DEFINITION. Windows (07 R181 to R185), byte barriers (R186 to R189), course records and copies (R190 to R194), future
handles (R195, R196), iterators and sweeps (R197, R198). -/

namespace Sys2Proof.Machine

/-- The frame of a group-once form (R180): its lowest lane with a true guard reads the operands; no lane, no effect. -/
def onceWord (i : Instr) (s : State) (body : State → Grp → Mask → Nat → State) : Out :=
  withWord i s fun g gm => withoutTxn 0x0A s g gm fun s g gm =>
    match lowest gm with
    | none => finishWord s
    | some l => body s g gm l

/-! ## Windows (R182, R185) -/

/-- Why a mapping is bad. -/
def badMap (tm : Team) (w va off len : Nat) : Bool :=
  va % 512 ≠ 0 || off % 512 ≠ 0 || len % 512 ≠ 0 || len = 0 || tm.shared < off + len || !canonical (va + len - 1)
    || (List.range 4).any fun v => v ≠ w && match tm.wins.getD v none with
        | some wn => off < wn.off + wn.len && wn.off < off + len
        | none => false

/-- A write-back of a word is a relaxed store of its lowest lane (R185). (log 27: DEDUCED, unsafe) -/
def backStore (s : State) (g : Grp) (l : Nat) : Acc :=
  { backAcc s s.cur.core g.team with
    wid := s.cur.first, slot := s.cur.slot, lane := l, team := g.team, index := g.index, grid := g.grid }

/-- WMAP. (log 37: DEDUCED, unsafe) -/
def execWmap (g : Guard) (w : Fin 4) (a b c : SReg) (s : State) : Out :=
  onceWord (.wmap g w a b c) s fun s gr gm l =>
    let va := getS gr a.val 2
    let off := getS gr b.val 1
    let len := getS gr c.val 1
    let core := s.cur.core
    match teamAt s core gr.team with
    | none => finishWord s
    | some tm =>
      if badMap tm w.val va off len then trap s 0x0E gm va 0
      else
        let wn : Window := { va := va, off := off, len := len, blocks := List.replicate (len / 512) .invalid }
        finishWord (modTeam (emptyWindow s core gr.team w.val true (some (backStore s gr l))) core gr.team fun t =>
          { t with wins := t.wins.set w.val (some wn) })

/-- WFLUSH. -/
def execWflush (g : Guard) (un : Bool) (w : Fin 4) (s : State) : Out :=
  onceWord (.wflush g un w) s fun s gr _ l =>
    let who := some (backStore s gr l)
    finishWord (if un then emptyWindow s s.cur.core gr.team w.val true who
                else sweepWindow s s.cur.core gr.team w.val true true who)

/-- WDROP. -/
def execWdrop (g : Guard) (w : Fin 4) (s : State) : Out :=
  onceWord (.wdrop g w) s fun s gr _ _ => finishWord (emptyWindow s s.cur.core gr.team w.val false none)

/-! ## Byte barriers (R186, R187) -/

/-- A barrier record. -/
structure ByteBar where
  count : Int
  phase : Bool
  over_ : Bool
  armed : Bool
  deriving DecidableEq, Repr

def unpackBar (v : Nat) : ByteBar :=
  { count := sval 32 v, phase := Nat.testBit v 32, over_ := Nat.testBit v 33, armed := Nat.testBit v 34 }

def packBar (b : ByteBar) : Nat :=
  wrapI 32 b.count + b.phase.toNat * 2 ^ 32 + b.over_.toNat * 2 ^ 33 + b.armed.toNat * 2 ^ 34

/-- Flip(c). -/
def flipBar (c : Int) (b : ByteBar) : ByteBar :=
  { count := c, phase := !b.phase, armed := false, over_ := b.over_ || c < 0 }

/-- A count kept in the I32 range, and whether it left it; the operation goes on with the bound. (log 109: DEDUCED,
unsafe) -/
def clampCount (c : Int) : Int × Bool :=
  if c > 2 ^ 31 - 1 then (2 ^ 31 - 1, true) else if c < -2 ^ 31 then (-2 ^ 31, true) else (c, false)

/-- post n; whether it flipped. -/
def postBar (n : Nat) (b : ByteBar) : ByteBar × Bool :=
  let c := clampCount (b.count + n)
  let b1 := { b with over_ := b.over_ || c.2 }
  if c.1 > 0 then ({ b1 with count := c.1, armed := true }, false) else (flipBar c.1 b1, true)

/-- arrive b; whether it flipped. -/
def arriveBar (n : Nat) (b : ByteBar) : ByteBar × Bool :=
  let c := clampCount (b.count - n)
  let b1 := { b with over_ := b.over_ || c.2 }
  if b.armed && c.1 ≤ 0 then (flipBar c.1 b1, true) else ({ b1 with count := c.1 }, false)

/-- A flip releases every lane parked at the barrier (R188). -/
def wakeBar (s : State) (p : Place) : State :=
  { s with cores := s.cores.map fun x => { x with groups := x.groups.map fun og => og.map fun g =>
      { g with lanes := g.lanes.map fun ln =>
          if ln.wait = .barw p then { ln with wait := .ready, pc := ln.pc + 8 } else ln } } }

def readBar (s : State) (p : Place) : ByteBar :=
  match p with
  | .scr c t off => unpackBar (leNat (readScr s c t off 8))
  | .glob _ => unpackBar 0

def writeBar (s : State) (p : Place) (b : ByteBar) : State :=
  match p with
  | .scr c t off => writeScr s c t off (leBytes 8 (packBar b))
  | .glob _ => s

/-- One operation on a barrier, in one step. -/
def barStep (f : ByteBar → ByteBar × Bool) (s : State) (p : Place) : State :=
  let r := f (readBar s p)
  let s1 := writeBar s p r.1
  if r.2 then wakeBar s1 p else s1

/-! ## BARI, BARX, BARW, BART (R188) -/

/-- The checks of a barrier's address: R169 with alignment 8, and SCRATCH for a global one. -/
def barCheck (s : State) (g : Grp) (a : Nat) (ty : AccessType) : Checked :=
  if canonical a && a % 8 = 0 && a < ownAperture then .bad { order := 3, cause := 0x0C }
  else checkAddr s s.cur.core g a 8 ty

def regIsS : Reg → Bool
  | .s _ => true
  | .v _ => false

/-- The frame of the barrier words: the barriers of the lanes (one with an S code), all checks, then the effect. `more`
adds the form's own check. -/
def barWord (i : Instr) (a : Reg) (ty : AccessType) (more : Env → Option Failed) (s : State)
    (effect : State → Grp → Mask → List (Nat × Place) → State) : Out :=
  withWord i s fun g gm => withoutTxn 0x0A s g gm fun s g gm =>
    let ls := if regIsS a then (lowest gm).toList else lanesOf gm
    let chk := ls.map fun l =>
      let e := envOf s g l
      (l, opI e 2 a.op, barCheck s g (opI e 2 a.op) ty, more e)
    let bads := chk.filterMap fun r => match r.2.2.1, r.2.2.2 with
      | .bad f, _ => some (r.1, f)
      | .ok _, some f => some (r.1, f)
      | .ok _, none => none
    match firstFailure bads with
    | some (cause, mask) =>
      let addr := match chk.find? fun r => mask.getLsbD r.1 with | some r => r.2.1 | none => 0
      trap s cause (if regIsS a then gm else mask) addr 0
    | none =>
      let places := chk.filterMap fun r => match r.2.2.1 with | .ok t => some (r.1, t.place) | .bad _ => none
      let touched := places.foldl (fun acc p => let r := touchFor acc.1 p.2; (r.1, acc.2 && r.2)) (s, true)
      if touched.2 then effect touched.1 g gm places else stalled touched.1

/-- BARI: the whole record becomes 0. -/
def execBari (g : Guard) (a : Reg) (s : State) : Out :=
  barWord (.bari g a) a .store (fun _ => none) s fun s _ _ ps =>
    finishWord (ps.foldl (fun s p => writeBar s p.2 (unpackBar 0)) s)

/-- BARX: post n; an n above 0x7FFF_FFFF raises BARRIER. -/
def execBarx (g : Guard) (a : Reg) (b : Operand) (s : State) : Out :=
  barWord (.barx g a b) a .store
    (fun e => if opI e 1 b > 0x7FFFFFFF then some { order := 9, cause := 0x0F } else none) s fun s gr _ ps =>
    finishWord (ps.foldl (fun s p => barStep (postBar (opI (envOf s gr p.1) 1 b)) s p.2) s)

/-- The lanes of a barrier word with the place each tests. (log 97: DEDUCED, unsafe) -/
def barLanes (gm : Mask) (a : Reg) (ps : List (Nat × Place)) : List (Nat × Place) :=
  if regIsS a then match ps with
    | p :: _ => (lanesOf gm).map fun l => (l, p.2)
    | [] => []
  else ps

/-- BARW: a lane goes on where PHASE ≠ ph, and parks otherwise. With an S code the barrier is read once, and each lane
compares that read with its own ph. (log 97: DEDUCED, unsafe) -/
def execBarw (g : Guard) (a : Reg) (b : Operand) (s : State) : Out :=
  barWord (.barw g a b) a .load (fun _ => none) s fun s gr gm ps =>
    let stay := (barLanes gm a ps).filter fun p => (readBar s p.2).phase = (opI (envOf s gr p.1) 1 b % 2 = 1)
    let parked := maskOf fun l => stay.any fun p => p.1 = l
    modCur s fun g2 =>
      parkLanes parked (fun l => match stay.find? fun p => p.1 = l with | some p => .barw p.2 | none => .ready)
        (advance (s.cur.mask &&& ~~~parked) g2)

/-- BART. (log 97: DEDUCED, unsafe) -/
def execBart (g : Guard) (d : PReg) (a : Reg) (b : Operand) (s : State) : Out :=
  barWord (.bart g d a b) a .load (fun _ => none) s fun s gr gm ps =>
    finishWord (modCur s fun g2 => (barLanes gm a ps).foldl (fun g p =>
      modLane g p.1 fun ln => setP ln d ((readBar s p.2).phase != (opI (envOf s gr p.1) 1 b % 2 = 1))) g2)

/-! ## Snapshots (R192) -/

inductive Snap where
  | ok (bs : List Byte) (s : State)
  | fault (f : Failed) (va : Nat)
  | wait (n : Nat) (t : Target)
  deriving DecidableEq, Repr

/-- Read `k` pieces of `n` bytes from `va`, each checked with alignment `al`, as relaxed .TEAM loads of lane `l`. (log
24: DEDUCED, unsafe) -/
def snapRead (g : Grp) (l al n : Nat) : Nat → Nat → State → Snap
  | 0, _, s => .ok [] s
  | k + 1, va, s =>
    match checkAddr s s.cur.core g va al .load with
    | .bad f => .fault f va
    | .ok t =>
      match loadNow s g l .team va n t with
      | none => .wait n t
      | some r =>
        match snapRead g l al n k (va + n) (noteAccess r.2 s.cur.core g va .load) with
        | .ok bs s2 => .ok (r.1 ++ bs) s2
        | other => other

/-- Bytes [o, o + n) of a record as a number. -/
def fieldAt (bs : List Byte) (o n : Nat) : Nat := leNat ((bs.drop o).take n)

/-! ## Course records (R190, R191, R206) -/

def decodeDim (v : Nat) : Dim :=
  { bcast := Nat.testBit v 127, sstride := sval 56 (bitsOf v 119 64), dstride := sval 32 (bitsOf v 63 32),
    extent := v % 2 ^ 32 }

def decodeCourse (bs : List Byte) : Course :=
  let ctrl := fieldAt bs 40 4
  { src := fieldAt bs 0 8, dst := fieldAt bs 8 8, bar := fieldAt bs 16 8, grec := fieldAt bs 24 8,
    side := fieldAt bs 32 8, ctrl := ctrl,
    dims := (List.range (ctrl % 16)).map fun d => decodeDim (fieldAt bs (48 + 16 * d) 16) }

def crsNdim (c : Course) : Nat := c.ctrl % 16
def crsFmt (c : Course) : Nat := bitsOf c.ctrl 7 4
def crsTarget (c : Course) : Nat := bitsOf c.ctrl 9 8
/-- The group size. -/
def crsG (c : Course) : Nat := 32 * 2 ^ bitsOf c.ctrl 11 10
/-- Whether the format has group records. -/
def crsGrouped (c : Course) : Bool := crsFmt c = 7 || crsFmt c = 8
def crsExtent (c : Course) (d : Nat) : Nat := ((c.dims[d]?).map (·.extent)).getD 1
def crsBcast (c : Course) (d : Nat) : Bool := ((c.dims[d]?).map (·.bcast)).getD false

/-- The multiple that EXTENT(0) must be. -/
def crsUnit (c : Course) : Nat :=
  match crsFmt c with
  | 4 | 5 => 4
  | 6 => 2
  | 7 | 8 => crsG c
  | _ => 1

/-- An aperture address of a team's reach, with its offset there; none for any other address. -/
def apertureOff (a : Nat) : Option Nat :=
  if a < ownAperture then none
  else if a < peerAperture then some (a - ownAperture)
  else some ((a - peerAperture) % 2 ^ 24)

/-- Whether a course record is within its limits; `raw` are its bytes. -/
def courseOk (s : State) (g : Grp) (raw : List Byte) (c : Course) (gather : Bool) : Bool :=
  let n := crsNdim c
  1 ≤ n && n ≤ 14 && fieldAt raw 44 4 = 0 && c.ctrl / 2 ^ 15 = 0
    && crsFmt c ≤ 8 && crsTarget c ≤ 1 && bitsOf c.ctrl 11 10 ≤ 2 && (crsGrouped c || bitsOf c.ctrl 11 10 = 0)
    && (crsGrouped c || c.grec = 0) && (crsTarget c = 1 || crsGrouped c || c.side = 0)
    && ((List.range n).all fun d => crsExtent c d ≠ 0 && bitsOf (fieldAt raw (48 + 16 * d) 16) 126 120 = 0)
    && crsExtent c 0 % crsUnit c = 0
    && c.bar % 8 = 0 && ownAperture ≤ c.bar && (aperture s s.cur.core g c.bar).isSome
    && !(gather && crsBcast c (n - 1))
    && (crsTarget c = 0 ||
        (n = 2 && crsExtent c 0 % 32 = 0 && crsExtent c 0 ≤ 32768 && crsExtent c 1 ≤ 64
          && (match apertureOff c.dst with | some o => o % 128 = 0 | none => false)))

/-! ### Canonical panels (R204, R205) -/

/-- Bits of a canonical element by storage format. -/
def elemBits (fmt : Nat) : Nat :=
  match fmt with
  | 2 | 3 => 16
  | 8 => 4
  | _ => 8

/-- Swz(u). -/
def swz (u : Nat) : Nat := Nat.xor u (u / 2 ^ 7 % 8 * 16)

/-- The stored offset, within its panel, of the byte that holds element `k` of vector `v`; `bits` of an element. -/
def panelByte (bits v k : Nat) : Nat := swz (k / 32 * (64 * 4 * bits) + v * (4 * bits) + k % 32 * bits / 8)

/-- Bytes of a panel's slabs, and of its sidecar. -/
def panelSize (bits k : Nat) : Nat := k / 32 * (64 * 4 * bits)
def sidecarSize (k gs : Nat) : Nat := 256 * (k / gs)

/-- The whole destination of a panel copy. -/
def panelBytes (c : Course) : Nat :=
  panelSize (elemBits (crsFmt c)) (crsExtent c 0) + if crsGrouped c then sidecarSize (crsExtent c 0) (crsG c) else 0

/-- The first byte of a panel that no allotment backs (R206); none where all are backed. -/
def panelMiss (s : State) (g : Grp) (c : Course) : Option Nat :=
  match teamAt s s.cur.core g.team with
  | none => none
  | some tm =>
    let cc := if c.dst < peerAperture then tm.ccore else (c.dst - peerAperture) / 2 ^ 24
    match member s tm cc with
    | none => some c.dst
    | some (_, t) =>
      let o := (apertureOff c.dst).getD 0
      if t.shared ≤ o then some c.dst else if t.shared < o + panelBytes c then some (c.dst + (t.shared - o)) else none

/-! ## CPY and CPYG (R192) -/

/-- A new job of the copy engine. -/
def addJob (s : State) (g : Grp) (word : Nat) (k : JobKind) : State :=
  let j : Job := { id := s.nextId, slot := s.cur.slot, team := g.team, grid := g.grid, word := word, kind := k, next := 0,
                   extra := [], paused := false, cancelled := false }
  modCore { s with nextId := s.nextId + 1 } s.cur.core fun x => { x with jobs := x.jobs ++ [j] }

/-- The index list of CPYG: own scratchpad, aligned to 4. (log 126: DEDUCED, unsafe) -/
def indexList (g : Grp) (l n va : Nat) (s : State) : Snap :=
  let own : Bool := match checkAddr s s.cur.core g va 4 .load with
    | .ok t => (match t.place with | .scr c tn _ => c = s.cur.core && tn = g.team | .glob _ => false)
    | .bad _ => true
  if canonical va && va % 4 = 0 && (va < ownAperture || !own) then .fault { order := 3, cause := 0x0C } va
  else snapRead g l 4 4 n va s

/-- A copy at issue: the record, its limits, the index list, the panel's bytes; then the copy is queued. (log 127:
DEDUCED, unsafe) -/
def copyWord (i : Instr) (a : SReg) (idx : Option SReg) (s : State) : Out :=
  onceWord i s fun s g gm l =>
    let rec_ := getS g a.val 2
    match snapRead g l 16 16 3 rec_ s with
    | .wait k t => stalled (askLoad s k t)
    | .fault f va => trap s f.cause gm va 0
    | .ok hd s1 =>
      let n := fieldAt hd 40 4 % 16
      match snapRead g l 16 16 n (rec_ + 48) s1 with
      | .wait k t => stalled (askLoad s k t)
      | .fault f va => trap s1 f.cause gm va 0
      | .ok ds s2 =>
        let raw := hd ++ ds
        let c := decodeCourse raw
        if !courseOk s2 g raw c idx.isSome then trap s2 0x10 gm rec_ 0
        else
          let list : Snap := match idx with
            | some b => indexList g l (crsExtent c (n - 1)) (getS g b.val 2) s2
            | none => .ok [] s2
          match list with
          | .wait k t => stalled (askLoad s k t)
          | .fault f va => trap s2 f.cause gm va 0
          | .ok bs s3 =>
            match (if crsTarget c = 1 then panelMiss s3 g c else none) with
            | some va => trap s3 0x0C gm va 0
            | none =>
              let ix := idx.map fun _ => (List.range (crsExtent c (n - 1))).map fun k => fieldAt bs (4 * k) 4
              finishWord (addJob s3 g (i.encode.getD 0) (.cpy rec_ ((idx.map fun b => getS g b.val 2).getD 0) c ix))

/-- CPY. -/
def execCpy (g : Guard) (a : SReg) (s : State) : Out := copyWord (.cpy g a) a none s
/-- CPYG. -/
def execCpyg (g : Guard) (a b : SReg) (s : State) : Out := copyWord (.cpyg g a b) a (some b) s

/-! ## The units of a copy (R193, R205, R206) -/

/-- One unit of a copy: where its bytes come from, as (address, bytes, shift, bits) of each element, or nothing for a
padding unit; the canonical format; where it goes. -/
structure CopyUnit where
  parts : List (Nat × Nat × Nat × Nat)
  expand : Nat
  dst : Nat
  bytes : Nat
  deriving DecidableEq, Repr

/-- Digits of a linear index, dimension `d` first: extents from `ds`. -/
def digits : List Nat → Nat → List Nat
  | [], _ => []
  | n :: ns, x => x % n :: digits ns (x / n)

/-- The index along dimension `d` that the source takes. (log 36: DEDUCED, unsafe) -/
def srcIndex (c : Course) (ix : Option (List Nat)) (is : List Nat) (d : Nat) : Nat :=
  if crsBcast c d then 0
  else match ix with
    | some l => if d + 1 = crsNdim c then l.getD (is.getD d 0) 0 else is.getD d 0
    | none => is.getD d 0

/-- Whether the source is packed along dimension 0. -/
def crsPacked (fmt : Nat) : Bool := fmt = 4 || fmt = 5 || fmt = 6 || fmt = 8

/-- The source of one element: address, bytes to read, shift, bits. (log 36: DEDUCED, unsafe) -/
def elemSrc (c : Course) (ix : Option (List Nat)) (is : List Nat) : Nat × Nat × Nat × Nat :=
  let fmt := crsFmt c
  let stride (d : Nat) : Int := ((c.dims[d]?).map (·.sstride)).getD 0
  let from_ := if crsPacked fmt then 1 else 0
  let base : Int := (c.src : Int) +
    (((List.range (crsNdim c)).drop from_).map fun d => (srcIndex c ix is d : Int) * stride d).sum
  let j := srcIndex c ix is 0
  match fmt with
  | 4 | 5 =>
    let q := j % 4
    (wrapI 64 (base + 3 * (j / 4) + q * 6 / 8), if q = 1 || q = 2 then 2 else 1, q * 6 % 8, 6)
  | 6 | 8 => (wrapI 64 (base + j / 2), 1, 4 * (j % 2), 4)
  | 2 | 3 => (wrapI 64 base, 2, 0, 16)
  | _ => (wrapI 64 base, 1, 0, 8)

/-- The address of a source group record (R193). -/
def recSrc (c : Course) (ix : Option (List Nat)) (is : List Nat) (g : Nat) : Nat :=
  let ng := crsExtent c 0 / crsG c
  let r := ((List.range (crsNdim c)).drop 1).foldl (fun (acc : Nat × Nat) d =>
    let j := srcIndex c ix is d
    (acc.1 + j * acc.2, if crsBcast c d then acc.2 else acc.2 * crsExtent c d)) (0, ng)
  (c.grec + 4 * (r.1 + g)) % 2 ^ 64

def extents (c : Course) : List Nat := c.dims.map (·.extent)

/-- Elements that one data unit holds: two nibbles under FMT 0x8. (log 36: DEDUCED, unsafe) -/
def perUnit (c : Course) : Nat := if crsFmt c = 8 then 2 else 1

/-- The data units and the record units of a copy. -/
def dataUnits (c : Course) : Nat :=
  crsExtent c 0 / perUnit c * (if crsTarget c = 1 then 64 else ((extents c).drop 1).prod)
def recordUnits (c : Course) : Nat :=
  if crsGrouped c then
    crsExtent c 0 / crsG c * (if crsTarget c = 1 then 64 else ((extents c).drop 1).prod)
  else 0
def copyUnits (c : Course) : Nat := dataUnits c + recordUnits c

def unitBytes (c : Course) : Nat := if crsFmt c = 2 || crsFmt c = 3 then 2 else 1

/-- Unit `e` of a copy. -/
def unitOf (c : Course) (ix : Option (List Nat)) (e : Nat) : CopyUnit :=
  let per := perUnit c
  let row := crsExtent c 0 / per
  let ng := crsExtent c 0 / crsG c
  let bits := elemBits (crsFmt c)
  if e < dataUnits c then
    let k := e % row * per
    if crsTarget c = 1 then
      let v := e / row
      let at_ := c.dst + panelByte bits v k
      if v < crsExtent c 1 then
        { parts := (List.range per).map fun i => elemSrc c ix [k + i, v], expand := crsFmt c, dst := at_, bytes := unitBytes c }
      else { parts := [], expand := crsFmt c, dst := at_, bytes := unitBytes c }
    else
      let outer := digits ((extents c).drop 1) (e / row)
      let dstr (d : Nat) : Int := ((c.dims[d]?).map (·.dstride)).getD 0
      let t : Int := (c.dst : Int) + (if per = 2 then ((k / 2 : Nat) : Int) else (k : Int) * dstr 0)
        + (mapFrom (fun d (i : Nat) => (i : Int) * dstr d) 1 outer).sum
      { parts := (List.range per).map fun i => elemSrc c ix ((k + i) :: outer), expand := crsFmt c, dst := wrapI 64 t,
        bytes := unitBytes c }
  else
    let r := e - dataUnits c
    let g := r % ng
    let o := r / ng
    if crsTarget c = 1 then
      let at_ := c.dst + panelSize bits (crsExtent c 0) + 4 * (64 * g + o)
      if o < crsExtent c 1 then { parts := [(recSrc c ix [0, o] g, 4, 0, 32)], expand := 0, dst := at_, bytes := 4 }
      else { parts := [], expand := 0, dst := at_, bytes := 4 }
    else
      { parts := [(recSrc c ix (0 :: digits ((extents c).drop 1) o) g, 4, 0, 32)], expand := 0,
        dst := (c.side + 4 * (g + ng * o)) % 2 ^ 64, bytes := 4 }

/-- The canonical code of an element's storage code (R62). -/
def canonCode (fmt code : Nat) : Nat :=
  match fmt with
  | 4 => expandE4m3 fmtE3m2 code
  | 5 => expandE4m3 fmtE2m3 code
  | 6 => expandE4m3 fmtE2m1 code
  | _ => code

/-! ## Engine accesses -/

/-- What an engine access meets. -/
inductive EngAcc (α : Type) where
  | ok (a : α)
  | fault (f : Failed) (va : Nat)
  | wait (b : Blocked)

/-- The targets of `n` bytes from an address, each byte checked: an engine's element may cross a page. -/
def engTargets (s : State) (c : Nat) (g : Grp) (ty : AccessType) : Nat → Nat → List Target ⊕ (Failed × Nat)
  | 0, _ => .inl []
  | n + 1, va =>
    match checkAddr s c g va 1 ty with
    | .bad f => .inr (f, va)
    | .ok t =>
      match engTargets s c g ty n (va + 1) with
      | .inl ts => .inl (t :: ts)
      | .inr f => .inr f

/-- The place `i` bytes on. -/
def placeAfter (p : Place) (i : Nat) : Place :=
  match p with
  | .glob a => .glob (a + i)
  | .scr c t o => .scr c t (o + i)

/-- The bytes of one element, as (target, first byte, bytes): one piece, where they lie together in a block of 512 bytes. -/
def targetPieces (ts : List Target) : List (Target × Nat × Nat) :=
  match ts with
  | [] => []
  | t :: _ =>
    let o := match t.place with | .glob a => a | .scr _ _ o => o
    if ts.map (·.place) = (List.range ts.length).map (placeAfter t.place) && o / 512 = (o + ts.length - 1) / 512 then
      [(t, 0, ts.length)]
    else mapFrom (fun i t => (t, i, 1)) 0 ts

/-- A piece of a read. -/
def readPiece (src : Source) (acc : EngAcc ReadIn) (p : Target × Nat × Nat) : EngAcc ReadIn :=
  match acc with
  | .ok r =>
    (match agentGet r.state src p.1.place p.2.2 with
      | .error b => .wait b
      | .ok q =>
        let s1 := match p.1.place with | .glob pa => strayRead q.state p.1.shr pa | .scr .. => q.state
        .ok { bytes := r.bytes ++ q.bytes, bad := r.bad <|> q.bad, state := s1 })
  | other => other

/-- Bytes read: the last performed values; poisoned bytes read 0. -/
def engRead (s : State) (src : Source) (c : Nat) (g : Grp) (va n : Nat) : EngAcc ReadIn :=
  match engTargets s c g .load n va with
  | .inr (f, a) => .fault f a
  | .inl ts => (targetPieces ts).foldl (readPiece src) (.ok { bytes := [], bad := none, state := s })

/-- A store of an engine's that cannot be made is recorded for its group (R287); one that was sent has its end recorded there. -/
def recordPut (s0 s : State) (src : Source) (c : Nat) (g : Grp) (p : Place) : State :=
  match putFails s0 p with
  | some k => if s0.sent.any fun q => q.1 = src && p = .glob q.2 then s else failStore s c g.team g.index g.grid k
  | none => s

/-- A piece of a write. -/
def writePiece (src : Source) (c : Nat) (g : Grp) (bs : List Byte) (acc : EngAcc State) (p : Target × Nat × Nat) : EngAcc State :=
  match acc with
  | .ok s =>
    (match directPut s src p.1.place ((bs.drop p.2.1).take p.2.2) with
      | .error b => .wait b
      | .ok s1 => .ok (recordPut s s1 src c g p.1.place))
  | other => other

/-- The bytes of an element written. -/
def engWrite (s : State) (src : Source) (c : Nat) (g : Grp) (va : Nat) (bs : List Byte) : EngAcc State :=
  match engTargets s c g .store bs.length va with
  | .inr (f, a) => .fault f a
  | .inl ts => (targetPieces ts).foldl (writePiece src c g bs) (.ok s)

/-- An engine pauses at a fault, which the group holds as an asynchronous cause (R194, R198). -/
def pauseJob (s : State) (c : Nat) (j : Job) (g : Grp) (f : Failed) (va info : Nat) : State :=
  let s1 := modCore s c fun x => { x with jobs := x.jobs.map fun y => if y.id = j.id then { y with paused := true } else y }
  holdCause (noteFailed s1 c g va) c j.slot (mkRec g j.slot 0 0 va info f.cause 1)

/-! ## COPY_WRITE (R193) -/

/-- The bytes of a unit, from its elements' bytes. -/
def unitValue (u : CopyUnit) (vals : List Nat) : Nat :=
  (mapFrom (fun i (v : Nat) => canonCode u.expand v * 2 ^ (4 * i)) 0 vals).sum

/-- The elements of a unit that have been read: their values, the poison that one met, with its virtual address. -/
structure PartsIn where
  vals : List Nat
  bad : Option (Nat × Nat)
  state : State

/-- Read the elements of a unit. -/
def readParts (s : State) (src : Source) (c : Nat) (g : Grp) (ps : List (Nat × Nat × Nat × Nat)) : EngAcc PartsIn :=
  ps.foldl (fun acc p =>
    match acc with
    | .ok r =>
      (match engRead r.state src c g p.1 p.2.1 with
        | .ok q => .ok { vals := r.vals ++ [leNat q.bytes / 2 ^ p.2.2.1 % 2 ^ p.2.2.2], bad := r.bad <|> q.bad.map (·, p.1), state := q.state }
        | .fault f a => .fault f a
        | .wait b => .wait b)
    | other => other) (.ok { vals := [], bad := none, state := s })

/-- A unit is done: the counters, the barrier's bytes, and the end of the copy. -/
def copyDone (s : State) (c : Nat) (g : Grp) (j : Job) (crs : Course) (e n : Nat) : State :=
  let total := copyUnits crs
  let extra := if e = j.next then j.extra else e :: j.extra
  let next0 := if e = j.next then j.next + 1 else j.next
  -- the counters move over units that were done early
  let r := extra.foldl (fun (acc : Nat × List Nat) _ =>
    if acc.2.contains acc.1 then (acc.1 + 1, acc.2.filter (· ≠ acc.1)) else acc) (next0, extra)
  let s1 := modCore s c fun x =>
    { x with jobs := if total ≤ r.1 then x.jobs.filter (·.id ≠ j.id)
                     else x.jobs.map fun y => if y.id = j.id then { y with next := r.1, extra := r.2 } else y }
  match aperture s1 c g crs.bar with
  | some p => barStep (arriveBar n) s1 p
  | none => s1

/-- How many units past the next one a copy may have done early: as many as the index counters of its engine record
keep (R237). (log 106: DESIGN CHOICE, unsafe) -/
def earlyUnits : Nat := 448

/-- COPY_WRITE: unit `e` of a copy is read, expanded and written, and its bytes arrive at the barrier. (log 25:
DEDUCED, unsafe; 82: DEDUCED, unsafe; 106: DESIGN CHOICE, unsafe) -/
def evCopyWrite (c id e : Nat) (s : State) : Option State :=
  match (coreAt s c).jobs.find? (·.id = id) with
  | none => none
  | some j =>
    match j.kind, grpAt s c j.slot with
    | .cpy _ _ crs ix, some g =>
      if j.paused || g.frozen || e < j.next || j.next + earlyUnits < e || copyUnits crs ≤ e || j.extra.contains e then none
      else
        let u := unitOf crs ix e
        let bar := (aperture s c g crs.bar).getD (.glob 0)
        let src : Source := .turn (.copyWrite c id e) 0
        if !(touchFor s bar).2 then waitOn s bar 8
        else
        match readParts s src c g u.parts with
        | .wait b => unblock s b
        | .fault f a => some (pauseJob s c j g f a 0xFF)
        | .ok r =>
          (match engWrite r.state src c g u.dst (leBytes u.bytes (unitValue u r.vals)) with
            | .wait b => unblock s b
            | .fault f a => some (pauseJob s c j g f a 0xFF)
            | .ok s1 =>
              let s2 := u.parts.foldl (fun s p => noteAccess s c g p.1 .load) (noteAccess s1 c g u.dst .store)
              let s3 := match r.bad with
                | some (pa, va) => enginePoison s2 c j.slot pa va 0xFF
                | none => s2
              some (copyDone s3 c g j crs e u.bytes))
    | _, _ => none

/-! ## Future handles (R195, R196) -/

def handleState (w : Word) : Nat := w.toNat % 4
def handleWord (steps kind state : Nat) : Word := BitVec.ofNat 32 (min steps (2 ^ 24 - 1) * 2 ^ 8 + kind * 2 ^ 4 + state)

def getHandle (g : Grp) (h : HReg) : Word := g.handles.getD h.val 0
def putHandle (h : HReg) (w : Word) (g : Grp) : Grp := { g with handles := g.handles.set h.val w }

/-- The lanes parked on a handle are released, and take its status word where they asked for it. -/
def wakeHandle (h : HReg) (g : Grp) : Grp :=
  let w := (getHandle g h).toNat
  (List.range 64).foldl (fun g l =>
    match (laneAt g l).wait with
    | .hwait h' d lead =>
      if h' ≠ h then g
      else
        let g1 := modLane g l fun ln => { ln with wait := .ready, pc := ln.pc + 8 }
        match d with
        | some (.v n) => modLane g1 l fun ln => wrV ln n.val 1 w
        | some (.s n) => if lead then putS g1 n.val 1 w else g1
        | none => g1
    | _ => g) g

/-- An operation stops: its handle's state, and the lanes that wait for it. -/
def endHandle (h : HReg) (state : Nat) (g : Grp) : Grp :=
  let w := getHandle g h
  wakeHandle h (putHandle h (BitVec.ofNat 32 (w.toNat / 4 * 4 + state)) g)

/-- One more step of a producer. -/
def stepHandle (h : HReg) (g : Grp) : Grp :=
  let w := (getHandle g h).toNat
  putHandle h (handleWord (w / 2 ^ 8 + 1) (bitsOf w 7 4) (w % 4)) g

/-- HWAIT. -/
def execHwait (g : Guard) (d : Option Reg) (h : HReg) (s : State) : Out :=
  withWord (.hwait g d h) s fun gr gm => withoutTxn 0x0A s gr gm fun s gr gm =>
    if handleState (getHandle gr h) = 1 then
      modCur s fun g2 => parkLanes gm (fun l => .hwait h d (lowest gm = some l)) (advance (s.cur.mask &&& ~~~gm) g2)
    else
      let w := (getHandle gr h).toNat
      finishWord (match d with
        | some r => modCur s (putAll s gm (some (r, 1)) fun _ => .ofNat w)
        | none => s)

/-- HTEST. -/
def execHtest (g : Guard) (d : PReg) (h : HReg) (s : State) : Out :=
  withWord (.htest g d h) s fun gr gm => withoutTxn 0x0A s gr gm fun s gr gm =>
    finishWord (modCur s (mapLanes gm fun _ ln => setP ln d (handleState (getHandle gr h) ≠ 1)))

/-- The engine's operations that produce into a handle of a slot are gone. -/
def dropProducer (k : Nat) (h : HReg) (now : Nat) (x : Core) : Core :=
  let mops := x.mops.filter fun m => !(m.slot = k && m.h = h)
  { x with
    mops := mops
    grantAt := if x.owner = none && mops.isEmpty && !x.mops.isEmpty then now + 8 else x.grantAt
    jobs := x.jobs.filter fun j => !(j.slot = k && match j.kind with | .sweep h' .. => h' = h | _ => false) }

/-- HCAN: a pending operation stops at its present boundary, and its handle is cancelled. -/
def execHcan (g : Guard) (h : HReg) (s : State) : Out :=
  onceWord (.hcan g h) s fun s gr _ _ =>
    if handleState (getHandle gr h) = 1 then
      finishWord (modCur (modCore s s.cur.core (dropProducer s.cur.slot h s.clock)) (endHandle h 3))
    else finishWord s

/-! ## Iterators and sweeps (R197, R198) -/

def iterSize (ty : Nat) : Nat := if ty = 9 || ty = 0xA then 2 else 4

/-- The iterator of a record; none where the record breaks R197. -/
def decodeIter (bs : List Byte) : Option Iter :=
  let ctrl := fieldAt bs 40 4
  let ty := ctrl % 16
  let ext := (List.range 4).map fun d => fieldAt bs (8 + 8 * d) 4
  let str := (List.range 4).map fun d => sval 32 (fieldAt bs (12 + 8 * d) 4)
  let sz := iterSize ty
  let rm : Option Rm := match bitsOf ctrl 6 4 with
    | 0 => some .rne
    | 1 => some .rtz
    | 2 => some .rdn
    | 3 => some .rup
    | 4 => some .rna
    | _ => none
  match rm with
  | none => none
  | some rm =>
    if ctrl / 2 ^ 8 ≠ 0 ∨ ¬(ty = 0 ∨ ty = 8 ∨ ty = 9 ∨ ty = 0xA) ∨ (Nat.testBit ctrl 7 ∧ ty ≠ 0)
        ∨ fieldAt bs 44 20 ≠ 0 ∨ ext.any (· = 0) ∨ fieldAt bs 0 8 % sz ≠ 0 ∨ str.any (fun x => x % (sz : Int) ≠ 0) then none
    else some { addr := fieldAt bs 0 8, extent := ext, stride := str, sat := Nat.testBit ctrl 7, rm := rm, ty := ty }

/-- TLDI. -/
def execTldi (g : Guard) (i : Fin 2) (a : SReg) (s : State) : Out :=
  onceWord (.tldi g i a) s fun s gr gm l =>
    let va := getS gr a.val 2
    match snapRead gr l 16 16 4 va s with
    | .wait k t => stalled (askLoad s k t)
    | .fault f va' => trap s f.cause gm va' 0
    | .ok bs s1 =>
      match decodeIter bs with
      | none => trap s1 0x10 gm va 0
      | some it => finishWord (modCur s1 fun g2 => { g2 with iters := g2.iters.set i.val (some it) })

/-- Whether slot `i` of the current group is empty. -/
def slotEmpty (s : State) (i : Nat) : Bool := (curGrp s).any fun g => (g.iters.getD i none).isNone

/-- TSWP: a sweep starts on the copy engine; an empty slot is ILLEGAL, whatever the guards are (R50), a pending handle HBUSY. -/
def execTswp (g : Guard) (op : SweepOp) (h : HReg) (i : Fin 2) (b : SReg) (s : State) : Out :=
  if slotEmpty s i.val then .next (trap s 0x01 s.cur.mask 0 0)
  else onceWord (.tswp g op h i b) s fun s gr gm _ =>
    match gr.iters.getD i.val none with
    | none => finishWord s
    | some it =>
      if handleState (getHandle gr h) = 1 then trap s 0x11 gm 0 0
      else
        let s1 := addJob s gr ((Instr.tswp g op h i b).encode.getD 0) (.sweep h op it (getS gr b.val 1) (fz32 gr))
        finishWord (modCur s1 (putHandle h (handleWord 0 6 1)))

/-- The result of a sweep's element. (log 42: DEDUCED, unsafe) -/
def sweepVal (op : SweepOp) (it : Iter) (flush : Bool) (e b : Nat) : Nat :=
  if it.ty = 0 then
    let x := sval 32 e
    let y := sval 32 b
    (narrowI it.sat true 32 (match op with
      | .add => x + y
      | .mul => x * y
      | .max => max x y
      | .min => min x y
      | .set => y)).1
  else
    let f := if it.ty = 8 then fmt32 else if it.ty = 9 then fmt16 else fmtB16
    let b := b % 2 ^ fmtWidth f
    (match op with
      | .add => fpAdd f it.rm flush e b
      | .mul => fpMul f it.rm flush e b
      | .max => fpMax f flush e b
      | .min => fpMin f flush e b
      | .set => cvtFF f f it.rm flush flush false b).1

/-- The address of a sweep's element `n`, i0 fastest. -/
def sweepAddr (it : Iter) (n : Nat) : Nat :=
  wrapI 64 ((it.addr : Int) + ((digits it.extent n).zip it.stride |>.map fun p => (p.1 : Int) * p.2).sum)

/-- What an element's read-modify-write comes to: the poison that it met, or its turn is still to come. -/
inductive Swept where
  | done (bad : Option Nat) (s : State)
  | going (s : Option State)

/-- A sweep's write through a window that came to nothing: refused, or no request could be sent; a request that failed in another way
has its failure recorded where it failed (R287). -/
def sweepRefused (s s1 : State) (src : Source) (c : Nat) (g : Grp) (pa : Nat) : State :=
  match requestOf s src pa with
  | some o => if o.failed then s1 else failStore s1 c g.team g.index g.grid 2
  | none => recordPut s s1 src c g (.glob pa)

/-- The read-modify-write of one element of `n` bytes, as one step: at its home, where it may take its turn in the queue; at the
scratchpad; or through a window. Poison reads as 0. -/
def sweepAt (s : State) (src : Source) (c : Nat) (g : Grp) (t : Target) (n : Nat) (f : Nat → Nat) : Swept :=
  match t.place with
  | .scr .. =>
    (match agentGet s src t.place n with
      | .error b => .going (unblock s b)
      | .ok r => (match directPut r.state src t.place (leBytes n (f (leNat r.bytes))) with
          | .error b => .going (unblock s b)
          | .ok s1 => .done r.bad (recordPut s s1 src c g t.place)))
  | .glob pa =>
    if viaWindow s pa then
      (match farAtomic s src pa n fun old => some (f old) with
        | .going s1 => .going s1
        | .done none s1 => .done (some pa) (sweepRefused s s1 src c g pa)
        | .done (some _) s1 => .done none (strayRead s1 t.shr pa))
    else if !backed s pa then .done (some pa) (recordPut s (noteBadPage s pa) src c g t.place)
    else if writableNow s none none (some src) pa n t.gr then
      let s1 := strayRead (leaveQueues src s) t.shr pa
      let bad := poisonIn s1 pa n
      .done bad (performBytes s1 none pa (leBytes n (f (if bad.isSome then 0 else readLe s1.mem pa n))))
    else .going (queueFor s none none src pa n t.gr)

/-- SWEEP_ELEMENT: the next element's read-modify-write, in index order. (log 82: DEDUCED, unsafe) -/
def evSweepElement (c id : Nat) (s : State) : Option State :=
  match (coreAt s c).jobs.find? (·.id = id) with
  | none => none
  | some j =>
    match j.kind, grpAt s c j.slot with
    | .sweep h op it b flush, some g =>
      if j.paused || g.frozen then none
      else
        let va := sweepAddr it j.next
        let n := iterSize it.ty
        let src : Source := .turn (.sweepElement c id) j.next
        match checkAddr s c g va n .atomic with
        | .bad f => some (pauseJob s c j g f va h.val)
        | .ok t =>
          (match sweepAt s src c g t n fun old => sweepVal op it flush old b with
            | .going s1 => s1
            | .done bad s1 =>
              let s2 := noteAccess s1 c g va .atomic
              let s3 := match bad with
                | some pa => enginePoison s2 c j.slot pa va h.val
                | none => s2
              let last := j.next + 1 = it.extent.prod
              let s4 := modCore s3 c fun x =>
                { x with jobs := if last then x.jobs.filter (·.id ≠ id)
                                 else x.jobs.map fun y => if y.id = id then { y with next := y.next + 1 } else y }
              some (modGrp s4 c j.slot fun g => let g1 := stepHandle h g; if last then endHandle h 2 g1 else g1))
    | _, _ => none

/-- COPY_WRITE. -/
def execCopyWrite (c id e : Nat) (s : State) : Out := stepOr s ((evCopyWrite c id e s).map (retireDone c))
/-- SWEEP_ELEMENT. -/
def execSweepElement (c id : Nat) (s : State) : Out := stepOr s ((evSweepElement c id s).map (retireDone c))

end Sys2Proof.Machine
end

