-- ==== Sys2Proof/Machine/Matrix.lean ====
section
/-! DEFINITION. The matrix engine (08 R199 to R217; 03 R59, R60, R69, R70): ownership, the matrix words at issue, the
steps of accepted operations, the gather unit, the grant and the clear of the tiles. -/

namespace Sys2Proof.Machine

/-! ## Ownership (R200 to R202) -/

/-- The frame of MACQ and MREL: a lane in a transaction aborts with ENGINE; no lane, no effect. -/
def engineWord (i : Instr) (s : State) (body : State → Grp → Mask → State) : Out :=
  withWord i s fun g gm => withoutTxn 0x08 s g gm fun s g gm => if gm = 0 then finishWord s else body s g gm

/-- MACQ. (log 46: DEDUCED, safe) -/
def execMacq (g : Guard) (s : State) : Out :=
  engineWord (.macq g) s fun s gr gm =>
    let c := s.cur.core
    let k := s.cur.slot
    let x := coreAt s c
    let rest := s.cur.mask &&& ~~~gm
    if x.owner = some k then finishWord s
    else if x.waiters.contains k then modCur s fun g2 => parkLanes gm (fun _ => .macq) (advance rest g2)
    else if x.waiters.length ≥ 16 then modCur s fun g2 => parkLanes gm (fun _ => .macqFull) (advance rest g2)
    else if x.owner = none ∧ x.waiters = [] ∧ x.mops = [] ∧ x.launch = some gr.grid then
      finishWord (modCore s c fun y => { y with owner := some k, cleared := false })
    else
      let s1 := modCore s c fun y =>
        { y with
          waiters := y.waiters ++ [k]
          grantAt := if y.owner = none && y.waiters.isEmpty && y.mops.isEmpty then max y.grantAt s.clock else y.grantAt }
      modCur s1 fun g2 => parkLanes gm (fun _ => .macq) (advance rest g2)

/-- MREL. -/
def execMrel (g : Guard) (s : State) : Out :=
  engineWord (.mrel g) s fun s _ gm =>
    let x := coreAt s s.cur.core
    if x.owner ≠ some s.cur.slot then trap s 0x12 gm 0 0
    else finishWord (modCore s s.cur.core fun y =>
      { y with owner := none, grantAt := if y.mops.isEmpty then s.clock + 8 else y.grantAt })

/-- Whether a waiter's grant changes the launch. -/
def launchChanges (x : Core) (k : Nat) : Bool :=
  match grpIn x k with
  | some g => x.launch ≠ some g.grid
  | none => false

/-- ENGINE_GRANT: the oldest waiter becomes the owner, and its lanes parked at MACQ are ready. (log 46: DEDUCED, safe)
-/
def evEngineGrant (c : Nat) (s : State) : Option State :=
  let x := coreAt s c
  match x.owner, x.waiters with
  | none, k :: ks =>
    if !x.mops.isEmpty || s.clock < x.grantAt || (launchChanges x k && !x.cleared) then none
    else
      match grpIn x k with
      | none => some (modCore s c fun y => { y with waiters := ks })
      | some g =>
        let s1 := modCore s c fun y => { y with owner := some k, waiters := ks, launch := some g.grid, cleared := false }
        some (modGrp s1 c k fun g => { g with lanes := g.lanes.map fun ln =>
          if ln.wait = .macq then { ln with wait := .ready, pc := ln.pc + 8 } else ln })
  | _, _ => none

/-- TILE_CLEAR: on a change of launch every tile becomes +0, 512 clocks after the grant's delay. (log 7: DESIGN
CHOICE, unsafe) -/
def evTileClear (c : Nat) (s : State) : Option State :=
  let x := coreAt s c
  match x.owner, x.waiters with
  | none, k :: _ =>
    if !x.mops.isEmpty || x.cleared || !launchChanges x k || s.clock < x.grantAt + 512 then none
    else some (modCore s c fun y => { y with tiles := [], cleared := true })
  | _, _ => none

/-! ## Kinds (R61, R204, R205) -/

/-- Bits of an element of a kind. -/
def kindBits : Kind → Nat
  | .int4g => 4
  | .int8g | .e4m3 | .e5m2 => 8
  | .fp16 | .bf16 => 16

def kindInt : Kind → Bool
  | .int8g | .int4g => true
  | _ => false

def kindFmt : Kind → Fmt
  | .e4m3 => fmtE4m3
  | .e5m2 => fmtE5m2
  | .fp16 => fmt16
  | _ => fmtB16

def gLen : GSize → Nat
  | .g32 => 32
  | .g64 => 64
  | .g128 => 128

/-- The group records of a vector of NB blocks: a last group that NB cuts short has its record too, since a step reads
it. (log 105: DEDUCED, unsafe) -/
def groupRecords (gs : GSize) (nb : Nat) : Nat := (32 * nb + gLen gs - 1) / gLen gs

/-- Bytes of a panel of NB blocks, with its sidecar. (log 105: DEDUCED, unsafe) -/
def operandBytes (k : Kind) (gs : GSize) (nb : Nat) : Nat :=
  panelSize (kindBits k) (32 * nb) + if kindInt k then 256 * groupRecords gs nb else 0

/-! ## Matrix words at issue (R203) -/

/-- Why a matrix word is not accepted: the cause, the lanes where they are not the whole word's, the address. -/
structure MFail where
  cause : Nat
  mask : Option Mask := none
  /-- the offset that failed, in the own allotment -/
  off : Option Nat := none
  deriving DecidableEq, Repr

/-- The frame of a matrix word: MATRIX, HBUSY, then the form's own checks in order; then it is accepted. The address
of a failing offset is the own aperture's (R180). (log 37: DEDUCED, unsafe) -/
def matrixWord (i : Instr) (h : HReg) (tile kind : Nat) (s : State) (checks : Grp → Mask → Nat → List (Bool × MFail))
    (mk : Grp → Mask → MKind) : Out :=
  engineWord i s fun s gr gm =>
    let shared := ((teamAt s s.cur.core gr.team).map (·.shared)).getD 0
    let all : List (Bool × MFail) :=
      ((coreAt s s.cur.core).owner ≠ some s.cur.slot, { cause := 0x12 })
        :: (handleState (getHandle gr h) = 1, { cause := 0x11 }) :: checks gr gm shared
    match all.find? (·.1) with
    | some (_, f) => trap s f.cause (f.mask.getD gm) ((f.off.map (ownAperture + ·)).getD 0) 0
    | none =>
      let op : MOp :=
        { slot := s.cur.slot, team := gr.team, grid := gr.grid, h := h, word := i.encode.getD 0, tile := tile,
          kind := mk gr gm, fzm := fzm gr, steps := 0, latched := 0, latch := [], cancelled := false }
      let s1 := modCore s s.cur.core fun x => { x with mops := x.mops ++ [op] }
      finishWord (modCur s1 (putHandle h (handleWord 0 kind 1)))

/-- The operands of the lowest lane, where a constant or a scalar is read. -/
def opOnce (s : State) (g : Grp) (gm : Mask) (o : Operand) : Nat := opI (envOf s g ((lowest gm).getD 0)) 1 o

/-- MMA. -/
def execMma (g : Guard) (h : HReg) (t : Tile) (ka kb : Kind) (ga gb : GSize) (ovw : Bool) (a b : SReg) (c : Operand)
    (s : State) : Out :=
  matrixWord (.mma g h t ka kb ga gb ovw a b c) h t.val 1 s
    (fun gr gm shared =>
      let nb := opOnce s gr gm c
      let pa := getS gr a.val 1
      let pb := getS gr b.val 1
      [(nb = 0 || nb > 1024, { cause := 0x12 }),
       (pa % 128 ≠ 0, { cause := 0x0B, off := some pa }), (pb % 128 ≠ 0, { cause := 0x0B, off := some pb }),
       (shared < pa + operandBytes ka ga nb, { cause := 0x0C, off := some pa }),
       (shared < pb + operandBytes kb gb nb, { cause := 0x0C, off := some pb })])
    (fun gr gm => .mma ka kb ga gb ovw (getS gr a.val 1) (getS gr b.val 1) (opOnce s gr gm c))

/-- Bytes of a table row: its elements, and its records under an integer kind (R210). (log 105: DEDUCED, unsafe) -/
def rowBytes (k : Kind) (gs : GSize) (nb : Nat) : Nat :=
  32 * nb * kindBits k / 8 + if kindInt k then 4 * groupRecords gs nb else 0

/-- The rows that MMAG takes from the lanes of its issue set. -/
def gatherRows (s : State) (g : Grp) (gm : Mask) (a : VReg) : List (Option Nat) :=
  (List.range 64).map fun l =>
    if gm.getLsbD l then
      let u := opI (envOf s g l) 1 (.v a)
      if u = 0xFFFFFFFF then none else some u
    else none

/-- MMAG. -/
def execMmag (g : Guard) (h : HReg) (t : Tile) (ka kb : Kind) (ga gb : GSize) (ovw : Bool) (a : VReg) (b c : SReg)
    (s : State) : Out :=
  matrixWord (.mmag g h t ka kb ga gb ovw a b c) h t.val 2 s
    (fun gr gm shared =>
      let d (i : Nat) := getS gr (c.val + i) 1
      let nb := d 1 % 2 ^ 16
      let rs := d 1 / 2 ^ 16 * 16
      let pb := getS gr b.val 1
      let len := rowBytes ka ga nb
      let rows := gatherRows s gr gm a
      let off := maskOf fun l => match rows.getD l none with
        | some u => shared < d 0 + u * rs + len
        | none => false
      [(nb = 0 || nb > 1024, { cause := 0x12 }), (rs = 0 || rs < len, { cause := 0x12 }), (d 3 ≠ 0, { cause := 0x12 }),
       (pb % 128 ≠ 0, { cause := 0x0B, off := some pb }), (d 0 % 16 ≠ 0, { cause := 0x0B, off := some (d 0) }),
       (d 2 ≠ 0xFFFFFFFF && d 2 % 8 ≠ 0, { cause := 0x0B, off := some (d 2) }),
       (shared < pb + operandBytes kb gb nb, { cause := 0x0C, off := some pb }),
       (d 2 ≠ 0xFFFFFFFF && shared < d 2 + 8, { cause := 0x0C, off := some (d 2) }),
       (off ≠ 0, { cause := 0x0C, mask := some off, off := (lowest off).map fun l => d 0 + ((rows.getD l none).getD 0) * rs })])
    (fun gr gm =>
      let d (i : Nat) := getS gr (c.val + i) 1
      .mmag ka kb ga gb ovw (getS gr b.val 1) (d 0) (d 1 / 2 ^ 16 * 16) (d 1 % 2 ^ 16) (d 2) (gatherRows s gr gm a))

/-- MZERO. -/
def execMzero (g : Guard) (h : HReg) (t : Tile) (b : Operand) (s : State) : Out :=
  matrixWord (.mzero g h t b) h t.val 3 s
    (fun gr gm _ => let c := opOnce s gr gm b; [(c = 0 || 128 < t.val + c, { cause := 0x12 })])
    (fun gr gm => .mzero (opOnce s gr gm b))

def ldFmt : LdFmt → Fmt
  | .f32 => fmt32
  | .f16 => fmt16
  | .bf16 => fmtB16

def stFmt : StFmt → Fmt
  | .f32 => fmt32
  | .f16 => fmt16
  | .bf16 => fmtB16
  | .e4m3 => fmtE4m3
  | .e5m2 => fmtE5m2

/-- Bytes of an element, the row stride st', and the checks of a tile move (R212). -/
def fmtBytes (f : Fmt) : Nat := fmtWidth f / 8
def rowStride (f : Fmt) (st : Nat) : Nat := if st = 0 then 64 * fmtBytes f else st
def moveChecks (f : Fmt) (o st shared : Nat) : List (Bool × MFail) :=
  let es := fmtBytes f
  let st' := rowStride f st
  [(st' < 64 * es || st' % 16 ≠ 0, { cause := 0x12 }), (o % 16 ≠ 0, { cause := 0x0B, off := some o }),
   (shared < o + 63 * st' + 64 * es, { cause := 0x0C, off := some o })]

/-- MLDZ. -/
def execMldz (g : Guard) (h : HReg) (f : LdFmt) (t : Tile) (a : SReg) (b : Operand) (s : State) : Out :=
  matrixWord (.mldz g h f t a b) h t.val 4 s
    (fun gr gm shared => moveChecks (ldFmt f) (getS gr a.val 1) (opOnce s gr gm b) shared)
    (fun gr gm => .mldz f (getS gr a.val 1) (opOnce s gr gm b))

/-- MSTZ. -/
def execMstz (g : Guard) (h : HReg) (f : StFmt) (rm : Rm) (sat : Bool) (t : Tile) (a : SReg) (b : Operand) (s : State) :
    Out :=
  matrixWord (.mstz g h f rm sat t a b) h t.val 5 s
    (fun gr gm shared => moveChecks (stFmt f) (getS gr a.val 1) (opOnce s gr gm b) shared)
    (fun gr gm => .mstz f rm sat (getS gr a.val 1) (opOnce s gr gm b))

/-! ## The arithmetic of a step (R69, R70) -/

/-- The exact product of two values: NaN for 0 × ∞. -/
def mulF (a b : FVal) : FVal :=
  let neg := a.neg != b.neg
  match a, b with
  | .nan _, _ | _, .nan _ => .nan false
  | .fin _ m e, .fin _ m' e' => .fin neg (m * m') (e + e')
  | .inf _, v | v, .inf _ => if v.isZero then .nan false else .inf neg

/-- The exact sum of values; −0 only where all of them are −0. -/
def sumF (vs : List FVal) : FVal :=
  let pos := vs.any (· = .inf false)
  let neg := vs.any (· = .inf true)
  if vs.any FVal.isNaN || (pos && neg) then .nan false
  else if pos then .inf false
  else if neg then .inf true
  else
    let q : Int := vs.foldl (fun q v => match v with | .fin _ _ e => min q e | _ => q) 0
    let sum : Int := vs.foldl (fun a v => match v with | .fin n m e => a + scaleTo n m e q | _ => a) 0
    if sum = 0 then .fin (!vs.isEmpty && vs.all fun v => v.neg && v.isZero) 0 0 else .fin (sum < 0) sum.natAbs q

/-- RoundF32(z + v, RNE), with FZM. -/
def accumulate (fz : Bool) (z : Word) (v : FVal) : Word :=
  BitVec.ofNat 32 (fpAddV fmt32 .rne fz (fpRead fmt32 z.toNat) v).1

/-- One operand's vector for a step: element codes, and its group record. -/
structure StepVec where
  elems : List Nat
  record : Nat
  deriving DecidableEq, Repr

def recZero (k : Kind) (r : Nat) : Nat := if k = .int4g then bitsOf r 19 16 else bitsOf r 23 16
def recScale (r : Nat) : FVal := fpRead fmt16 (r % 2 ^ 16)

/-- The value that a step adds to an accumulator element. -/
def stepValue (ka kb : Kind) (a b : StepVec) : FVal :=
  if kindInt ka then
    let za : Int := recZero ka a.record
    let zb : Int := recZero kb b.record
    let q : Int := ((a.elems.zip b.elems).map fun p => ((p.1 : Int) - za) * ((p.2 : Int) - zb)).sum
    mulF (.fin (q < 0) q.natAbs 0) (mulF (recScale a.record) (recScale b.record))
  else
    sumF ((a.elems.zip b.elems).map fun p => mulF (fpRead (kindFmt ka) p.1) (fpRead (kindFmt kb) p.2))

/-! ## Reading operands -/

/-- The first byte of a range of the own allotment that lies in an invalid window block which can be filled. -/
def firstInvalid (s : State) (c t off n : Nat) : Option Place :=
  (blockPieces off n).findSome? fun p =>
    match teamAt s c t with
    | none => none
    | some tm => (match backingOf tm p.1 with
        | .invalid _ _ => if (unfillable s c tm p.1).isSome then none else some (.scr c t p.1)
        | _ => none)

/-- The poison that some ranges of the own allotment meet: its address, and that of the byte (R357). -/
def rangesPoison (s : State) (c : Nat) (tm : Team) (rs : List (Nat × Nat)) : Option (Nat × Nat) :=
  rs.findSome? fun r => (rangePoison s c tm r.1 r.2).map (·, ownAperture + r.1)

/-- The bytes of the own allotment as an operation reads them: poisoned ones are 0 (R357). -/
def opBytes (s : State) (c : Nat) (tm : Team) (rs : List (Nat × Nat)) : Memory :=
  if (rangesPoison s c tm rs).isNone then tm.bytes
  else rs.foldl (fun m r => (List.range r.2).foldl (fun m i =>
    if (rangePoison s c tm (r.1 + i) 1).isSome then writeBytes m (r.1 + i) [0] else m) m) tm.bytes

/-- An operation that has read poison gives its group MEMERR with INFO 0 (R357). -/
def opPoison (s : State) (c k : Nat) (bad : Option (Nat × Nat)) : State :=
  match bad with
  | some p => enginePoison s c k p.1 p.2 0
  | none => s

/-- A row of MSTZ: a part of a window block that cannot be filled fails as a store (R287). -/
def putRow (c t : Nat) (g : Grp) (s : State) (off : Nat) (bs : List Byte) : State :=
  (blockPieces off bs.length).foldl (fun s p =>
    match (teamAt s c t).bind fun tm => unfillable s c tm p.1 with
    | some pa => failStore (noteBadPage s pa) c g.team g.index g.grid ((storeFails s pa).getD 2)
    | none => writeScr s c t p.1 ((bs.drop (p.1 - off)).take p.2)) s

/-- An element of a byte list: `bits` wide at element position `k` from byte `o`. -/
def elemOf (bs : List Byte) (bits o k : Nat) : Nat :=
  if bits = 4 then (bs.getD (o + k / 2) 0).toNat / 2 ^ (4 * (k % 2)) % 16
  else if bits = 8 then (bs.getD (o + k) 0).toNat
  else (bs.getD (o + 2 * k) 0).toNat + 256 * (bs.getD (o + 2 * k + 1) 0).toNat

/-- The 64 vectors of a panel for step `st`, from the slab's bytes and the sidecar's records. -/
def panelVecs (bytes : Memory) (p : Nat) (k : Kind) (gs : GSize) (nb st : Nat) : List StepVec :=
  let bits := kindBits k
  let slab := readBytes bytes (p + panelSize bits (32 * st)) (64 * 4 * bits)
  (List.range 64).map fun v =>
    -- the slab's own bytes, unswizzled: swizzling stays within a line
    let row := (List.range (4 * bits)).map fun i => slab.getD (swz (v * (4 * bits) + i)) 0
    { elems := (List.range 32).map fun e => elemOf row bits 0 e
      record := if kindInt k then
          readLe bytes (p + panelSize bits (32 * nb) + 4 * (64 * (32 * st / gLen gs) + v)) 4
        else 0 }

/-- The latched vectors of MMAG's rows, in row order; none for a zero row. -/
def latchVecs (k : Kind) : List (Option Nat) → List Byte → List (Option StepVec)
  | [], _ => []
  | none :: rs, bs => none :: latchVecs k rs bs
  | some _ :: rs, bs =>
    let n := 4 * kindBits k
    let rec_ := if kindInt k then 4 else 0
    some { elems := (List.range 32).map fun e => elemOf bs (kindBits k) 0 e, record := leNat ((bs.drop n).take rec_) }
      :: latchVecs k rs (bs.drop (n + rec_))

/-- The slices of a step, as the gather unit latches them. -/
def gatherSlices (bytes : Memory) (k : Kind) (gs : GSize) (t rs nb st : Nat) (rows : List (Option Nat)) : List Byte :=
  rows.flatMap fun r => match r with
    | none => []
    | some u =>
      let row := t + u * rs
      readBytes bytes (row + 4 * kindBits k * st) (4 * kindBits k)
        ++ if kindInt k then readBytes bytes (row + 4 * kindBits k * nb + 4 * (32 * st / gLen gs)) 4 else []

/-! ## MATRIX_STEP (R209, R211, R213) -/

def tileAddr (t i j : Nat) : Nat := 4096 * t + 64 * i + j

/-- One row of a step: the new tile words. -/
def stepRow (ka kb : Kind) (fz clear : Bool) (t i : Nat) (a : StepVec) (bs : List StepVec) (tiles : Sparse 32) : Sparse 32 :=
  (mapFrom (fun j b => (j, b)) 0 bs).foldl (fun z jb =>
    let old := if clear then 0 else sget z (tileAddr t i jb.1)
    sset z (tileAddr t i jb.1) (accumulate fz old (stepValue ka kb a jb.2))) tiles

/-- Set a row to +0. -/
def clearRow (t i : Nat) (tiles : Sparse 32) : Sparse 32 :=
  (List.range 64).foldl (fun z j => sset z (tileAddr t i j) 0) tiles

/-- A whole step over the rows of A; a zero row stays, or is cleared by the first step of an overwrite. -/
def stepTile (ka kb : Kind) (fz clear : Bool) (t : Nat) (as : List (Option StepVec)) (bs : List StepVec)
    (tiles : Sparse 32) : Sparse 32 :=
  (mapFrom (fun i a => (i, a)) 0 as).foldl (fun z ia =>
    match ia.2 with
    | some a => stepRow ka kb fz clear t ia.1 a bs z
    | none => if clear then clearRow t ia.1 z else z) tiles

/-- An armed injection makes a step's residue fail (R372, R375): the step runs once more; a second mismatch gives the
owner MEMERR. (log 72: DEDUCED, unsafe) -/
def injectStep (s : State) (c k : Nat) : State :=
  if !armedFor s c 5 then s
  else
    let twice := bitsOf s.einj.toNat 41 40 = 2
    match grpAt s c k with
    | none => s
    | some g =>
      let s1 := logError (disarm s) c 5 twice true (bitsOf s.einj.toNat 39 32 + 1) (logCtx g k) 0
      if twice then holdCause s1 c k (mkRec g k 0 0 0 0 0x16 1) else s1

/-- The head operation ends or moves on by one step. -/
def opStepped (s : State) (c : Nat) (m : MOp) (tiles : Sparse 32) (latch : List (List Byte)) (last : Bool) : State :=
  let s1 := modCore s c fun x =>
    let rest := x.mops.drop 1
    let m1 := { m with steps := m.steps + 1, latch := latch }
    { x with
      tiles := tiles
      mops := if last then rest else m1 :: rest
      grantAt := if last && rest.isEmpty && x.owner.isNone then s.clock + 8 else x.grantAt }
  injectStep (modGrp s1 c m.slot fun g => let g1 := stepHandle m.h g; if last then endHandle m.h 2 g1 else g1) c m.slot

/-- The range of own scratchpad that a step reads or writes, as (offset, bytes). -/
def stepRanges (m : MOp) : List (Nat × Nat) :=
  match m.kind with
  | .mma ka kb ga gb _ a b nb => [(a, operandBytes ka ga nb), (b, operandBytes kb gb nb)]
  | .mmag _ kb _ gb _ b _ _ nb _ _ => [(b, operandBytes kb gb nb)]
  | .mzero _ => []
  | .mldz f o st => [(o, 63 * rowStride (ldFmt f) st + 64 * fmtBytes (ldFmt f))]
  | .mstz f _ _ o st => [(o, 63 * rowStride (stFmt f) st + 64 * fmtBytes (stFmt f))]

/-- An operation of a pre-empted group that runs to its end: its last slices are latched and their arrival made, so
that its table rows may be written again (R211, R216). (log 107: DEDUCED, unsafe) -/
def mopMustFinish (m : MOp) : Bool :=
  match m.kind with
  | .mmag _ _ _ _ _ _ _ _ nb bar _ => m.latched = nb && bar ≠ 0xFFFFFFFF
  | _ => false

/-- MATRIX_STEP: the sequencer performs the next step of the oldest accepted operation. (log 82: DEDUCED, unsafe) (log
107: DEDUCED, unsafe) -/
def evMatrixStep (c : Nat) (s : State) : Option State :=
  let x := coreAt s c
  match x.mops with
  | [] => none
  | m :: _ =>
    match grpIn x m.slot, teamIn x m.team with
    | some g, some tm =>
      match (stepRanges m).findSome? fun r => firstInvalid s c m.team r.1 r.2 with
      | some p => waitOn s p 1
      | none =>
        if g.frozen && !mopMustFinish m then none
        else
        let store := match m.kind with | .mstz .. => true | _ => false
        let bad := if store then none else rangesPoison s c tm (stepRanges m)
        let bytes := if store then tm.bytes else opBytes s c tm (stepRanges m)
        (match m.kind with
        | .mma ka kb ga gb ovw a b nb =>
          let as := (panelVecs bytes a ka ga nb m.steps).map some
          let bs := panelVecs bytes b kb gb nb m.steps
          some (opStepped s c m (stepTile ka kb m.fzm (ovw && m.steps = 0) m.tile as bs x.tiles) [] (m.steps + 1 = nb))
        | .mmag ka kb _ gb ovw b _ _ nb _ rows =>
          (match m.latch with
            | [] => none
            | sl :: rest =>
              let as := latchVecs ka rows sl
              let bs := panelVecs bytes b kb gb nb m.steps
              some (opStepped s c m (stepTile ka kb m.fzm (ovw && m.steps = 0) m.tile as bs x.tiles) rest
                (m.steps + 1 = nb)))
        | .mzero n =>
          some (opStepped s c m (x.tiles.filter fun z => !(4096 * m.tile ≤ z.1 && z.1 < 4096 * (m.tile + n))) [] true)
        | .mldz f o st =>
          let es := fmtBytes (ldFmt f)
          let tiles := (List.range 4096).foldl (fun z q =>
            let v := readLe bytes (o + q / 64 * rowStride (ldFmt f) st + q % 64 * es) es
            sset z (4096 * m.tile + q) (BitVec.ofNat 32 (cvtFF (ldFmt f) fmt32 .rne false false false v).1)) x.tiles
          some (opStepped s c m tiles [] true)
        | .mstz f rm sat o st =>
          let es := fmtBytes (stFmt f)
          let s1 := (List.range 64).foldl (fun s i =>
            let row := (List.range 64).flatMap fun j =>
              leBytes es (cvtFF fmt32 (stFmt f) rm false false sat (sget x.tiles (tileAddr m.tile i j)).toNat).1
            putRow c m.team g s (o + i * rowStride (stFmt f) st) row) s
          some (opStepped s1 c m x.tiles [] true)).map fun s1 => opPoison s1 c m.slot bad
    | _, _ => none

/-- GATHER: the gather unit latches the slices of the next step; after the last, one arrival at the barrier (R211).
(log 82: DEDUCED, unsafe) -/
def evGather (c : Nat) (s : State) : Option State :=
  let x := coreAt s c
  match x.mops with
  | [] => none
  | m :: ms =>
    match m.kind, grpIn x m.slot, teamIn x m.team with
    | .mmag ka _ ga _ _ _ t rs nb bar rows, some g, some tm =>
      if g.frozen || nb ≤ m.latched || 2 ≤ m.latch.length then none
      else
        let place : Place := .scr c m.team bar
        let inv := (rows.filterMap id).findSome? fun u => firstInvalid s c m.team (t + u * rs) (rowBytes ka ga nb)
        match inv with
        | some p => waitOn s p 1
        | none =>
          if bar ≠ 0xFFFFFFFF && !(touchFor s place).2 then waitOn s place 8
          else
            let rg := (rows.filterMap id).map fun u => (t + u * rs, rowBytes ka ga nb)
            let sl := gatherSlices (opBytes s c tm rg) ka ga t rs nb m.latched rows
            let m1 := { m with latched := m.latched + 1, latch := m.latch ++ [sl] }
            let s1 := opPoison (modCore s c fun y => { y with mops := m1 :: ms }) c m.slot
              (if m.latched = 0 then rangesPoison s c tm rg else none)
            if m.latched + 1 = nb && bar ≠ 0xFFFFFFFF then
              some (barStep (arriveBar ((rows.filterMap id).length * rowBytes ka ga nb)) s1 place)
            else some s1
    | _, _, _ => none

/-- MATRIX_STEP. -/
def execMatrixStep (c : Nat) (s : State) : Out := stepOr s ((evMatrixStep c s).map (retireDone c))
/-- GATHER. -/
def execGather (c : Nat) (s : State) : Out := stepOr s (evGather c s)
/-- ENGINE_GRANT. -/
def execEngineGrant (c : Nat) (s : State) : Out := stepOr s (evEngineGrant c s)
/-- TILE_CLEAR. -/
def execTileClear (c : Nat) (s : State) : Out := stepOr s (evTileClear c s)

end Sys2Proof.Machine
end

