-- ==== Sys2Proof/Machine/Txn.lean ====
section
/-! DEFINITION. Lane transactions (15 R296 to R311, R315; 16 R316): TBEGIN with the anchor locks, TEND with its tickets,
TABORT, TSTAT, the commit of a ticket, the grant of an anchor lock and the end of a transaction's life. -/

namespace Sys2Proof.Machine

/-! ## Anchor locks (R307) -/

/-- The lock to which an address maps. -/
def anchorOf (a : Nat) : Nat := hash32 (a / 32 % 2 ^ 32) % 256

def anchorAt (s : State) (k : Nat) : Anchor :=
  (s.anchors.find? fun a => a.k = k).getD { k := k, holder := none, waiters := [] }

def putAnchor (s : State) (a : Anchor) : State := { s with anchors := a :: s.anchors.filter fun b => b.k ≠ a.k }

/-- Whether a lock is held by another lane than `me`. -/
def heldByOther (s : State) (me : Option (Nat × Nat × Nat)) (k : Nat) : Bool :=
  match (anchorAt s k).holder with
  | some h => some h ≠ me
  | none => false

/-- The threshold of cr.tretry. -/
def anchorThreshold (g : Grp) : Nat := max (bitsOf g.tretry.toNat 3 0) 1

/-- The lock that a lane's TBEGIN acquires, if it acquires one: by its conflict address, or by its restart PC. -/
def wantedAnchor (g : Grp) (ln : Lane) : Option Nat :=
  if anchorThreshold g ≤ lswTry ln then some (anchorOf (ln.conflict.getD ln.pc.toNat)) else none

/-- A lane asks for a lock: it is free and nobody waits, or the lane is queued. -/
def askAnchor (s : State) (me : Nat × Nat × Nat) (k : Nat) : State :=
  let a := anchorAt s k
  if a.holder = none ∧ a.waiters = [] then putAnchor s { a with holder := some me }
  else if a.holder = some me ∨ a.waiters.contains me then s
  else putAnchor s { a with waiters := a.waiters ++ [me] }

/-- A lane leaves every lock and every queue of the ticket unit. -/
def leaveAnchors (s : State) (me : Nat × Nat × Nat) : State :=
  { s with anchors := s.anchors.map fun a =>
      { a with holder := if a.holder = some me then none else a.holder, waiters := a.waiters.filter (· ≠ me) } }

/-- ANCHOR_GRANT: a free lock goes to the oldest lane that waits for it. -/
def evAnchorGrant (k : Nat) (s : State) : Option State :=
  let a := anchorAt s k
  match a.holder, a.waiters with
  | none, w :: ws => some (putAnchor s { a with holder := some w, waiters := ws })
  | _, _ => none

/-! ## TBEGIN (R299, R300) -/

/-- Whether a lane's earlier accesses of the lane path allow its transaction to open: its stores are performed at .DEV. -/
def storesDone (x : Core) (k l : Nat) : Bool :=
  !(x.pend.any fun a => a.slot = k && a.lane = l && (!isLoadLike a || isAtomic a))
    && !(x.outb.any fun a => a.slot = k && a.lane = l)

/-- The lane with its transaction open. (log 76: DEDUCED, unsafe) -/
def openedLane (now : Nat) (d n : Nat) (handler : Dword) (anchor : Option Nat) (ln : Lane) : Lane :=
  let t : Txn :=
    { restart := ln.pc, handler := handler, d := d,
      regs := (List.range n).map fun i => sget ln.regs (ln.base + d + i),
      preds := ln.preds, depth := ln.depth, base := ln.base, cab := ln.cab, spill := ln.spill, reads := [], writes := [],
      masked := [], anchor := anchor }
  { setLsw ln true (lswTry ln) (lswCause ln) with
    resv := none, txn := some t, txnStart := BitVec.ofNat 64 now, wait := .ready, pc := ln.pc + 8 }

/-- One lane of TBEGIN: it opens its transaction at once, or parks for its lock or its stores. -/
def beginLane (d n : Nat) (off : Word) (s : State) (l : Nat) : State :=
  let c := s.cur.core
  let k := s.cur.slot
  match curGrp s with
  | none => s
  | some g =>
    let ln := laneAt g l
    if inTxn ln then abortLane (leaveSet s l) c k l 0x0A false none
    else
      let handler := BitVec.ofNat 64 (relTarget ln.pc off)
      let want := wantedAnchor g ln
      let s1 := match want with
        | some a => askAnchor s (c, k, l) a
        | none => s
      let got := match want with
        | some a => (anchorAt s1 a).holder = some (c, k, l)
        | none => true
      if got && storesDone (coreAt s1 c) k l then
        modCur s1 fun g2 => modLane g2 l (openedLane (meridian s) d n handler want)
      else modCur s1 fun g2 => modLane g2 l fun x => { x with wait := .tbegin want d n handler }

/-- TBEGIN. A bad handler traps, or aborts where every lane is in a transaction (R309). -/
def execTbegin (d : VReg) (n : Fin 9) (off : Word) (s : State) : Out :=
  withWord (.tbegin d n off) s fun g gm =>
    if badPc (relTarget (curPc s) off) then
      let tm := maskOf fun l => gm.getLsbD l && inTxn (laneAt g l) && !inAnchored (laneAt g l)
      if gm &&& ~~~tm = 0 then abortLanes s s.cur.core s.cur.slot tm 0x04 else trap s 0x04 (gm &&& ~~~tm) 0 0
    else (lanesOf gm).foldl (beginLane d.val n.val off) s

/-- A lane parked at TBEGIN opens its transaction once it holds its lock and its stores are performed. -/
def wakeTbegin (c k : Nat) (s : State) (l : Nat) : State :=
  match grpAt s c k with
  | none => s
  | some g =>
    match (laneAt g l).wait with
    | .tbegin want d n handler =>
      let got := match want with
        | some a => (anchorAt s a).holder = some (c, k, l)
        | none => true
      if got && storesDone (coreAt s c) k l then
        modGrp s c k fun g2 => modLane g2 l (openedLane (meridian s) d n handler want)
      else s
    | _ => s

/-! ## TEND and its commits (R303, R304, R316) -/

/-- The lanes of a TEND word take consecutive tickets in increasing order. -/
def takeTickets (c k last : Nat) (s : State) (l : Nat) : State :=
  let s1 := modCur s fun g => modLane g l fun ln => { ln with wait := .tend s.ticket }
  { s1 with ticket := s.ticket + 1
            tickets := s1.tickets ++ [{ num := s.ticket, who := .lane c k l, last := last, ended := false }] }

/-- TEND. -/
def execTend (s : State) : Out :=
  withWord .tend s fun g gm =>
    let tm := maskOf fun l => gm.getLsbD l && inTxn (laneAt g l)
    let ls := lanesOf tm
    let s1 := modCur s fun g2 =>
      advance (s.cur.mask &&& ~~~tm) (mapLanes s.cur.mask (fun _ ln => { ln with resv := none }) g2)
    ls.foldl (takeTickets s.cur.core s.cur.slot (s.ticket + ls.length - 1)) s1

/-- What a commit reads and writes: (address, bytes, grain size) of its read records, and of its stores. -/
structure Footprint where
  reads : List (Nat × Nat × Nat)
  writes : List (Nat × Nat × Nat)
  deriving DecidableEq, Repr

def txnFoot (t : Txn) : Footprint :=
  { reads := t.reads.flatMap fun r => r.bytes.map fun b => (b.1, 1, r.gr), writes := t.masked }

/-- A helm transaction's lines, as commits see them. -/
def helmFoot (h : Helm) : Footprint :=
  { reads := h.rsig.map fun l => (l, 64, 512), writes := h.wsig.map fun l => (l, 64, 512) }

/-- The grains of a footprint, as (first address, size). -/
def footGrains (s : State) (f : List (Nat × Nat × Nat)) : List (Nat × Nat) :=
  (f.flatMap fun a => [a.1, a.1 + a.2.1 - 1].map fun x => let h := homeOf s x a.2.2; (h.grain, h.size)).dedup

def grainsMeet (a b : List (Nat × Nat)) : Bool := a.any fun x => b.any fun y => x.1 < y.1 + y.2 && y.1 < x.1 + x.2

/-- The 32 B units of a footprint, by their first address. -/
def footUnits (f : Footprint) : List Nat :=
  ((f.reads ++ f.writes).flatMap fun a => (List.range ((a.1 + a.2.1 + 31) / 32 - a.1 / 32)).map fun i =>
    (a.1 / 32 + i) * 32).dedup

/-- The footprint of a committer. -/
def committerFoot (s : State) : Committer → Footprint
  | .lane c k l =>
    match ((grpAt s c k).map fun g => laneAt g l).bind (·.txn) with
    | some t => txnFoot t
    | none => { reads := [], writes := [] }
  | .helm h => match s.helms[h]? with
    | some x => { helmFoot x with reads := [] }
    | none => { reads := [], writes := [] }

/-- Whether a lower ticket that has not ended still has a lock to take on one of these grains. (log 29: DEDUCED,
unsafe) -/
def lowerLocks (s : State) (t : Nat) (gs : List (Nat × Nat)) : Bool :=
  s.tickets.any fun x => !x.ended && x.num < t && (
    let f := committerFoot s x.who
    grainsMeet gs (footGrains s (f.reads ++ f.writes)))

/-- The commit of a ticket has ended; the tickets of its word go once all of them have (R316). -/
def endTicket (s : State) (t : Nat) : State :=
  let ts := s.tickets.map fun x => if x.num = t then { x with ended := true } else x
  { s with tickets := ts.filter fun x => ts.any fun y => y.last = x.last && !y.ended }

/-- Whether a read record still holds. -/
def recordHolds (m : Memory) (r : ReadRec) : Bool := r.bytes.all fun b => sget m b.1 = b.2

/-- The lines of a grain. -/
def grainLines (g : Nat × Nat) : List Nat := linesOf g.1 g.2

/-- Helm transactions whose tickets are higher lose to a lane commit's locks (R314). (log 29: DEDUCED, unsafe) -/
def helmYield (s : State) (t : Nat) (gs : List (Nat × Nat)) : State :=
  let ls := gs.flatMap grainLines
  { s with helms := s.helms.map fun h =>
      match h.ticket with
      | some u => if t < u && ls.any (fun l => h.rsig.contains l || h.wsig.contains l) then helmAbort 0x01 h else h
      | none => h }

/-- The locks of a lane commit meet the helm transactions that have no ticket (R312). (log 29: DEDUCED, unsafe) -/
def helmLoseAll (s : State) (rs ws : List (Nat × Nat)) : State :=
  ws.foldl (fun s g => helmLose s none g.1 g.2 true) (rs.foldl (fun s g => helmLose s none g.1 g.2 false) s)

/-- Whether a helm transaction with a lower ticket makes the locks wait (R314). (log 29: DEDUCED, unsafe) -/
def lowerHelm (s : State) (t : Nat) (rs ws : List (Nat × Nat)) : Bool :=
  s.helms.any fun h => match h.ticket with
    | some u => u < t && (rs.any (fun g => helmConflicts h g.1 g.2 false) || ws.any (fun g => helmConflicts h g.1 g.2 true))
    | none => false

/-- One masked part of a commit: it performs, or fails as a store of its group (R287, R319, R323). -/
def performPart (c : Nat) (g : Grp) (t : Txn) (s : State) (m : Nat × Nat × Nat) : State :=
  match storeFails s m.1 with
  | some k => failStore (noteBadPage s m.1) c g.team g.index g.grid k
  | none => performBytes s none m.1 (readBytes t.writes m.1 m.2.1)

/-- The commit's writes, all in one step. -/
def performTxn (s : State) (c : Nat) (g : Grp) (t : Txn) : State := t.masked.foldl (performPart c g t) s

/-- The lane after a commit: past its TEND, still parked until its word's last commit ends. -/
def committedLane (ln : Lane) : Lane := { setLsw ln false 0 (lswCause ln) with txn := none, resv := none, pc := ln.pc + 8 }

/-- The lowest of some addresses. (log 30: DEDUCED, unsafe) -/
def lowestOf : List Nat → Option Nat
  | [] => none
  | a :: r => some (r.foldl min a)

/-- Why a validation fails: the lowest address of a record that no longer holds, or else the lowest touched address
whose unit maps to another fibre's lock (R303, R307). (log 30: DEDUCED, unsafe) -/
def validation (s : State) (me : Nat × Nat × Nat) (t : Txn) : Option Nat :=
  match lowestOf ((t.reads.filter fun r => !recordHolds s.mem r).map (·.pa)) with
  | some a => some a
  | none =>
    let f := txnFoot t
    lowestOf (((f.reads ++ f.writes).flatMap fun a => (List.range a.2.1).map (a.1 + ·)).filter fun a =>
      heldByOther s (some me) (anchorOf a))

/-- The commit of a lane's ticket: its lock requests take their turn at the homes, and it acts once it has all its
locks, which it releases with that step. (log 25: DEDUCED, unsafe; 29: DEDUCED, unsafe) -/
def commitLane (s : State) (t c k l : Nat) : Option State :=
  match grpAt s c k with
  | none => some (endTicket s t)
  | some g =>
    match (laneAt g l).txn with
    | none => some (endTicket s t)
    | some tx =>
      let x := coreAt s c
      let f := txnFoot tx
      let rs := footGrains s f.reads
      let ws := footGrains s f.writes
      let gs := (rs ++ ws).dedup
      let src : Source := .commit t
      let ready := (gs.all fun g => lockClear s src (homeOf s g.1 g.2)) && ws.all fun g => performAt (homeOf s g.1 g.2) ≤ s.clock
      if x.pend.any (fun a => a.slot = k && a.lane = l) || !storesDone x k l then none
      else if lowerLocks s t (rs ++ ws) || lowerHelm s t rs ws then none
      else if !ready then queueGrains s src gs
      else
        let s1 := helmLoseAll (helmYield (leaveQueues src s) t (rs ++ ws)) rs ws
        match validation s (c, k, l) tx with
        | none =>
          let s2 := performTxn s1 c g tx
          let s3 := modGrp s2 c k fun g => modLane g l committedLane
          some (endTicket (match tx.anchor with | some a => freeAnchor s3 a | none => s3) t)
        | some a =>
          let s2 := abortLane s1 c k l 0x01 false (some a)
          some (endTicket (modGrp s2 c k fun g => modLane g l fun ln => { ln with wait := .tend t }) t)

/-- COMMIT: a lane's ticket is validated, and it performs or aborts. (log 92: DESIGN CHOICE, safe) -/
def evCommit (t : Nat) (s : State) : Option State :=
  match s.tickets.find? fun x => x.num = t ∧ !x.ended with
  | some x =>
    match x.who with
    | .lane c k l => commitLane s t c k l
    | .helm _ => none
  | none => none

/-- A lane parked at TEND is ready once its word's last commit has ended (R316). -/
def wakeTend (s : State) (ln : Lane) : Lane :=
  match ln.wait with
  | .tend t => if s.tickets.any fun x => x.num = t then ln else { ln with wait := .ready }
  | _ => ln

/-- Whether a group has commits that have not ended. -/
def ticketed (s : State) (c k : Nat) : Bool :=
  s.tickets.any fun x => !x.ended && match x.who with
    | .lane c' k' _ => c' = c && k' = k
    | .helm _ => false

/-! ### A dropped group (R229) -/

/-- The lanes of a group with a commit that has not ended. -/
def ticketedLanes (s : State) (c k : Nat) : Mask :=
  maskOf fun l => s.tickets.any fun x => !x.ended && x.who = .lane c k l

/-- A lane made idle. -/
def idleLane (ln : Lane) : Lane := { Lane.empty with fibre := ln.fibre }

/-- Idle the lanes of a dropped group whose commits have ended, and retire it with the last of them. -/
def settleDropped (c k : Nat) (s : State) : State :=
  match grpAt s c k with
  | none => s
  | some g =>
    if !g.dropped then s
    else
      let keep := ticketedLanes s c k
      tryRetire c (setGrp s c k (some (mapLanes (~~~keep) (fun _ => idleLane) g))) k

/-- A commit of a dropped group lets its lane go. -/
def settleTicket (t : Nat) (s s1 : State) : State :=
  match s.tickets.find? fun x => x.num = t with
  | some x =>
    match x.who with
    | .lane c k _ => settleDropped c k s1
    | .helm _ => s1
  | none => s1

/-! ## EXPIRED (R309) -/

/-- Whether a lane's transaction has been open for LIFE ticks. -/
def txnExpired (s : State) (g : Grp) (ln : Lane) : Bool :=
  let life := bitsOf g.tretry.toNat 31 16
  ln.txn.isSome && life ≠ 0 && (match ln.wait with | .tend _ => false | _ => true)
    && ln.txnStart.toNat + life ≤ meridian s

/-- Abort a lane whose transaction has expired. -/
def expireLane (c k : Nat) (s : State) (l : Nat) : State :=
  match grpAt s c k with
  | none => s
  | some g => if txnExpired s g (laneAt g l) then abortLane s c k l 0x05 false none else s

/-- EXPIRED, at an issue opportunity of the group. -/
def evExpired (c k l : Nat) (s : State) : Option State :=
  match grpAt s c k with
  | none => none
  | some g => if running g && txnExpired s g (laneAt g l) then some (expireLane c k s l) else none

/-! ## TABORT and TSTAT (R310, R311) -/

/-- TABORT. -/
def execTabort (g : Guard) (retry : Bool) (u : Fin 16) (s : State) : Out :=
  withWord (.tabort g retry u) s fun gr gm =>
    let tm := maskOf fun l => gm.getLsbD l && inTxn (laneAt gr l)
    let s1 := modCur s (advance (s.cur.mask &&& ~~~tm))
    (lanesOf tm).foldl (fun s l => abortLane s s.cur.core s.cur.slot l (0x10 + u.val) retry none) s1

/-- TSTAT's word. -/
def tstatWord (ln : Lane) : Nat :=
  (inAnchored ln).toNat * 2 ^ 10 + (inTxn ln).toNat * 2 ^ 9 + lswTry ln * 2 ^ 5 + lswCause ln

/-- TSTAT. -/
def execTstat (g : Guard) (d : Reg) (k : PReg) (s : State) : Out :=
  withWord (.tstat g d k) s fun _ gm =>
    finishWord (modCur s (putAll s gm (some (d, 1)) fun e => .withPred k (tstatWord e.lane) (inTxn e.lane)))

/-- COMMIT. -/
def execCommit (t : Nat) (s : State) : Out := stepOr s ((evCommit t s).map (settleTicket t s))
/-- ANCHOR_GRANT. -/
def execAnchorGrant (k : Nat) (s : State) : Out := stepOr s (evAnchorGrant k s)
/-- EXPIRED. -/
def execExpired (c k l : Nat) (s : State) : Out := stepOr s (evExpired c k l s)

end Sys2Proof.Machine
end

