-- ==== Sys2Proof/Machine/HelmCore.lean ====
section
/-! DEFINITION. The transaction extension of the helm cores (15 R312 to R315), their commits, conflicts and interrupts, and the
entry of their exceptions, which the RISC-V base gives (19 R347; log 8: PRESUMED, unsafe). -/

namespace Sys2Proof.Machine

/-! ## Exceptions and interrupts of a helm core (log 8: PRESUMED, unsafe) -/

/-- A control and status register, by its number. -/
def csr (x : Helm) (n : Nat) : Nat := (sget x.csrs n).toNat

def setCsr (n v : Nat) (x : Helm) : Helm := { x with csrs := sset x.csrs n (BitVec.ofNat 64 v) }

/-- A number with bits [hi:lo] replaced. -/
def putField (w hi lo v : Nat) : Nat := w - bitsOf w hi lo * 2 ^ lo + v % 2 ^ (hi + 1 - lo) * 2 ^ lo

/-- mstatus at the entry of an exception into mode `m` from mode `p`: the enable moves to its previous bit, the mode is kept. -/
def enteredStatus (w m p : Nat) : Nat :=
  if m = 1 then putField (putField (putField w 5 5 (bitsOf w 1 1)) 1 1 0) 8 8 p
  else putField (putField (putField w 7 7 (bitsOf w 3 3)) 3 3 0) 12 11 p

/-- The entry of an exception or an interrupt: into supervisor mode where it is delegated, else into machine mode; the
pc, the cause and the value are saved, and the pc goes to the handler. (log 8: PRESUMED, unsafe) -/
def trapEntry (intr : Bool) (cause value : Nat) (x : Helm) : Helm :=
  let deleg := x.priv ≤ 1 && Nat.testBit (csr x (if intr then 0x303 else 0x302)) cause
  let base := if deleg then 0x100 else 0x300
  let tvec := csr x (base + 5)
  let code := cause + if intr then 2 ^ 63 else 0
  let x1 := setCsr (base + 0x41) x.regs.pc.toNat (setCsr (base + 0x42) code (setCsr (base + 0x43) value x))
  let m := if deleg then 1 else 3
  { setCsr 0x300 (enteredStatus (csr x 0x300) m x.priv) x1 with
    priv := m
    regs := { x.regs with pc := BitVec.ofNat 64 (tvec / 4 * 4 + if intr && tvec % 4 = 1 then 4 * cause else 0) } }

/-- A page fault or an access fault, which a transaction meets as FAULT (R298). -/
def memoryFault (cause : Nat) : Bool := cause = 1 || cause = 5 || cause = 7 || cause = 12 || cause = 13 || cause = 15

/-- An exception: a transaction aborts with FAULT; one that no page or access fault raises is then entered. (log 8:
PRESUMED, unsafe) -/
def helmException (cause value : Nat) (x : Helm) : Helm :=
  if x.depth = 0 then trapEntry false cause value x
  else if memoryFault cause then helmAbort 0x04 x
  else trapEntry false cause value (helmAbort 0x04 x)

/-- Whether the external interrupt of a pending identity can be taken: it is enabled, for the mode that takes it. (log
8: PRESUMED, unsafe) -/
def irqReady (x : Helm) : Bool :=
  let st := csr x 0x300
  !x.irqs.isEmpty && Nat.testBit (csr x 0x304) 9
    && (if Nat.testBit (csr x 0x303) 9 then x.priv = 0 || (x.priv = 1 && Nat.testBit st 1)
        else x.priv ≤ 1 || Nat.testBit st 3)

/-! ## The transaction extension (R313) -/

/-- The frame of a helm word: the helm core of the turn. -/
def helmWord (s : State) (body : Helm → Helm) : Out :=
  match s.helms[s.cur.core]? with
  | none => .fault .noGroup
  | some _ => .next { s with helms := modAt body s.cur.core s.helms }

/-- Write an integer register; x0 stays 0. (log 8: PRESUMED, unsafe) -/
def setX (rd : Nat) (v : Dword) (h : Helm) : Helm :=
  if rd = 0 then h else { h with regs := { h.regs with x := h.regs.x.set rd v } }

/-- The next instruction. -/
def helmNext (h : Helm) : Helm := { h with regs := { h.regs with pc := h.regs.pc + 4 } }

/-- HTBEGIN: the outermost one takes the checkpoint; the depth is at most 7. -/
def helmBegin (rd : Nat) (h : Helm) : Helm :=
  if h.depth = 0 then
    helmNext (setX rd 0 { h with checkpoint := some h.regs, rd := rd, depth := 1, rsig := [], wsig := [], writes := [] })
  else if h.depth < 7 then helmNext (setX rd 0 { h with depth := h.depth + 1 })
  else helmAbort 0x0A h

/-- HTBEGIN: the outermost one waits until the core's earlier stores are performed. -/
def execHtbegin (rd : Fin 32) (s : State) : Out :=
  helmWord s fun h => if h.depth = 0 && !h.outb.isEmpty then h else helmBegin rd.val h

/-- HTEND: an inner one lowers the depth; the outermost one takes a ticket and waits for its commit. (log 31: DEDUCED,
unsafe) -/
def execHtend (s : State) : Out :=
  match s.helms[s.cur.core]? with
  | none => .fault .noGroup
  | some h =>
    if h.depth = 1 then
      .next { s with
        helms := modAt (fun h => { h with ticket := some s.ticket }) s.cur.core s.helms
        ticket := s.ticket + 1
        tickets := s.tickets ++ [{ num := s.ticket, who := .helm s.cur.core, last := s.ticket, ended := false }] }
    else .next { s with helms := modAt (fun h => helmNext { h with depth := h.depth - 1 }) s.cur.core s.helms }

/-- HTABORT: outside a transaction it only goes on. (log 31: DEDUCED, unsafe) -/
def execHtabort (u : Fin 16) (s : State) : Out :=
  helmWord s fun h => if h.depth = 0 then helmNext h else helmAbort (0x10 + u.val) h

/-- HTSTAT's value. -/
def htstatVal (h : Helm) : Dword :=
  BitVec.ofNat 64 (h.cause % 32 * 2 ^ 4 + (if h.depth = 0 then 0 else 2 ^ 3) + h.depth % 8)

/-- HTSTAT. -/
def execHtstat (rd : Fin 32) (s : State) : Out := helmWord s fun h => helmNext (setX rd.val (htstatVal h) h)

/-! ## Conflicts, commits, interrupts (R298, R312, R314) -/

/-- HELM_CONFLICT: an access reaches a line in a signature, or in its summary, which may report lines never touched.
With its ticket taken, the transaction makes the access wait instead. (log 32: DEDUCED, safe) -/
def evHelmConflict (h _line : Nat) (_wr : Bool) (s : State) : Option State :=
  match s.helms[h]? with
  | some x => if x.depth ≠ 0 && x.ticket.isNone then some (modHelm s h (helmAbort 0x01)) else none
  | none => none

/-- A helm transaction is over: its writes have performed. -/
def committedHelm (h : Helm) : Helm :=
  helmNext { h with checkpoint := none, depth := 0, rsig := [], wsig := [], writes := [], ticket := none }

/-- The writes of a helm transaction, in one step. -/
def performHelm (s : State) (h : Nat) (m : Memory) : State :=
  m.foldl (fun s b => performBytes s (some h) b.1 [b.2]) s

/-- HELM_COMMIT: at its turn it obtains the locks of its written lines, checks the anchor locks, and performs. (log
33: DEDUCED, unsafe; 34: DESIGN CHOICE, safe) -/
def evHelmCommit (t : Nat) (s : State) : Option State :=
  match s.tickets.find? fun x => x.num = t ∧ !x.ended with
  | none => none
  | some x =>
    match x.who with
    | .lane .. => none
    | .helm h =>
      match s.helms[h]? with
      | none => some (endTicket s t)
      | some y =>
        if y.ticket ≠ some t then some (endTicket s t)
        else
          let f := helmFoot y
          let ws := footGrains s f.writes
          let src : Source := .commit t
          if lowerLocks s t ws then none
          else if ws.any fun g => helmHolds s (some h) g.1 g.2 true then none
          else if !ws.all fun g => homeClear s none (some src) (homeOf s g.1 g.2) then queueGrains s src ws
          else
            let s1 := leaveQueues src s
            if (footUnits f).any fun u => heldByOther s none (anchorOf u) then
              some (endTicket (modHelm s1 h (helmAbort 0x01)) t)
            else some (endTicket (modHelm (performHelm s1 h y.writes) h committedHelm) t)

/-- INTERRUPT: a helm core takes an interrupt; its transaction aborts with 0x0B, and the external interrupt of a
pending identity is entered. (log 8: PRESUMED, unsafe; 33: DEDUCED, unsafe) -/
def evInterrupt (h : Nat) (s : State) : Option State :=
  match s.helms[h]? with
  | none => none
  | some x =>
    if x.depth ≠ 0 || irqReady x then
      some (modHelm s h fun x => let y := if x.depth ≠ 0 then helmAbort 0x0B x else x; if irqReady y then trapEntry true 9 0 y else y)
    else none

/-- HELM_CONFLICT. -/
def execHelmConflict (h line : Nat) (wr : Bool) (s : State) : Out := stepOr s (evHelmConflict h line wr s)
/-- HELM_COMMIT. -/
def execHelmCommit (t : Nat) (s : State) : Out := stepOr s (evHelmCommit t s)
/-- INTERRUPT. -/
def execInterrupt (h : Nat) (s : State) : Out := stepOr s (evInterrupt h s)

/-! ## Words that a transaction forbids (R313) -/

/-- Base instructions that a transaction forbids (R313): ECALL, EBREAK, WFI, SFENCE.VMA and the CSR writes in SYSTEM,
FENCE.I, the atomics, and C.EBREAK among the compressed ones. A CSR read that writes nothing is not among them. -/
def helmForbidden (w : Nat) : Bool :=
  let f3 := w / 2 ^ 12 % 8
  let rs1 := w / 2 ^ 15 % 32
  if w % 4 ≠ 3 then w % 2 ^ 16 = 0x9002
  else if w % 128 = 0x2F then true
  else if w % 128 = 0x0F then f3 = 1
  else if w % 128 = 0x73 then
    if f3 = 0 then w / 2 ^ 20 = 0 || w / 2 ^ 20 = 1 || w / 2 ^ 20 = 0x105 || w / 2 ^ 25 = 0x09
    else f3 = 1 || f3 = 5 || (f3 ≠ 4 && rs1 ≠ 0)
  else false

end Sys2Proof.Machine
end

