-- ==== Sys2Proof/Machine/HelmMem.lean ====
section
/-! DEFINITION. The memory accesses of a helm core (19 R346 to R348, R355, R357; 15 R312, R315): translation, loads, stores, and
the atomics of the RISC-V base, as accesses of the ordering machine on the helm-core path. A helm core takes its accesses in
order, each load at its issue; its stores stand in `outb` until they are performed (log 117: DESIGN CHOICE, unsafe). -/

namespace Sys2Proof.Machine

/-! ## Translation (R324, R347) -/

/-- What an address is for a helm core. -/
inductive HelmAddr where
  | ok (pa gr : Nat) (io shr : Bool) (walk : WalkPath)
  | fault (cause : Nat)
  deriving DecidableEq, Repr

/-- The RISC-V causes of a page fault and of an access fault. -/
def pageFault : AccessType → Nat
  | .fetch => 12
  | .load => 13
  | .store | .atomic => 15

def accessFault : AccessType → Nat
  | .fetch => 1
  | .load => 5
  | .store | .atomic => 7

/-- Whether a leaf permits an access of a helm core in a mode, with mstatus. (log 8: PRESUMED, unsafe) -/
def helmPermits (lf : Leaf) (t : AccessType) (priv status : Nat) : Bool :=
  (match t with
    | .load => lf.r || (Nat.testBit status 19 && lf.x)
    | .store => lf.w
    | .atomic => lf.r && lf.w
    | .fetch => lf.x)
  && (if priv = 0 then lf.u else !lf.u || (Nat.testBit status 18 && t ≠ .fetch))

/-- An address of a helm core: physical in machine mode and without a table, else translated by the Sv57 table that
satp names. (log 8: PRESUMED, unsafe) -/
def helmTranslate (s : State) (x : Helm) (va : Nat) (t : AccessType) : HelmAddr :=
  let satp := csr x 0x180
  if x.priv = 3 || satp / 2 ^ 60 = 0 then (if va < 2 ^ 56 then .ok va 512 false false { root := 0, va := va, ptes := [] } else .fault (accessFault t))
  else if !canonical va then .fault (pageFault t)
  else match walkFrom s va 5 (satp % 2 ^ 44 * 4096) with
    | .leaf lf ps =>
      if helmPermits lf t x.priv (csr x 0x300) then .ok (lf.pa + (va - lf.va)) lf.gr lf.io lf.shr { root := satp % 2 ^ 44, va := va, ptes := ps } else .fault (pageFault t)
    | .unmapped | .absent => .fault (pageFault t)

/-- What a helm core's access that fails leaves: its walk may have read a listed page (R323). -/
def helmFailed (s : State) (x : Helm) (va : Nat) : State :=
  let satp := csr x 0x180
  if x.priv = 3 || satp / 2 ^ 60 = 0 || !canonical va then s else noteWalk s (satp % 2 ^ 44) va

/-! ## What an access meets -/

/-- The end of an access: a value with the state, a wait, an exception, an abort of the transaction. -/
inductive HelmMem (α : Type) where
  | ok (a : α) (s : State)
  | wait (s : State)
  | exc (cause : Nat) (s : State)
  | abort (cause : Nat) (s : State)

/-- Whether a line is another package's or a CXL host's (R315). -/
def remoteLine (s : State) (pa : Nat) : Bool :=
  match regionOf pa with
  | .fabric _ => true
  | .host p => portRole s p = 2
  | _ => false

/-- The lines of a transactional access enter a signature; a new line may evict a set one from the helm core's caches,
which aborts with CAPACITY (R298, R312). (log 34: DESIGN CHOICE, safe; 117: DESIGN CHOICE, unsafe) -/
def helmEnter (s : State) (h : Nat) (pa n : Nat) (write : Bool) : HelmMem Unit :=
  match s.helms[h]? with
  | none => .ok () s
  | some x =>
    let new := (linesOf pa n).filter fun l => !(if write then x.wsig else x.rsig).contains l
    if new.isEmpty then .ok () s
    else if !(x.rsig ++ x.wsig).isEmpty && Config.freeBool s.freeCount then .abort 0x02 { s with freeCount := s.freeCount + 1 }
    else
      let s1 := { s with freeCount := s.freeCount + 1 }
      .ok () (modHelm s1 h fun x => if write then { x with wsig := new ++ x.wsig } else { x with rsig := new ++ x.rsig })

/-- The byte that a helm core's own stores hold for an address: its transaction's, or the newest that is not performed. -/
def ownByte (x : Helm) (pa : Nat) : Option Byte :=
  (if x.depth ≠ 0 then (x.writes.find? fun b => b.1 = pa).map (·.2) else none) <|>
  ((x.outb.reverse.find? fun a => a.pa ≤ pa && pa < a.pa + a.bytes.length).bind fun a => a.bytes[pa - a.pa]?)

/-- Bytes from memory or from beyond a window, under the core's own. -/
def overOwn (x : Helm) (pa : Nat) (bs : List Byte) : List Byte := mapFrom (fun i b => (ownByte x (pa + i)).getD b) 0 bs

/-- The core's own stores supply every byte. -/
def allOwn (x : Helm) (pa n : Nat) : Bool := (List.range n).all fun i => (ownByte x (pa + i)).isSome

/-- The agent of the accesses that a helm core makes in its turn. -/
def helmSrc (h : Nat) (x : Helm) : Source := .helmAt h x.regs.pc

/-- The requests of a helm core's loads are over with its instruction. -/
def endHelmReads (s : State) (h : Nat) : State :=
  { s with outstanding := s.outstanding.filter fun o => match o.src with | .helmAt k _ => k ≠ h | _ => true }

/-- A load through a window of a port's device or of an endpoint (R346): a request, and its answer. -/
def helmIoRead (s : State) (h : Nat) (x : Helm) (p pa n : Nat) : HelmMem (List Byte) :=
  let poison (s : State) : HelmMem (List Byte) := .exc 5 (faultQueue s pa 3 (faultSource pa))
  match requestOf s (helmSrc h x) pa with
  | none => if portState s p = 2 then .wait (sendRequest s (helmSrc h x) pa []) else poison s
  | some o => if o.failed then poison s else .ok ((List.range n).map fun i => Config.windowByte o.since (outAddr s (pa + i))) s

/-- The bytes of a load at a physical address. -/
def helmRead (s : State) (h : Nat) (pa n gr : Nat) (io shr : Bool) : HelmMem (List Byte) :=
  match s.helms[h]? with
  | none => .wait s
  | some x =>
    let poison (s : State) : HelmMem (List Byte) := .exc 5 (faultQueue s pa 3 (faultSource pa))
    if x.depth ≠ 0 && remoteLine s pa then .abort 0x06 s
    else match regionOf pa with
      | .irq _ _ => .ok (List.replicate n 0) s
      | .hbm | .lpddr =>
        if allOwn x pa n then .ok (overOwn x pa (List.replicate n 0)) s
        else if !backed s pa then poison s
        else if !readableNow s none (some h) pa n gr then .wait ((askOnceBy s (some h) pa n gr).getD s)
        else if (List.range n).any fun i => linePoisoned s ((pa + i) / 64 * 64) && (ownByte x (pa + i)).isNone then poison s
        else
          let v := overOwn x pa (readBytes s.mem pa n)
          let s1 := noteReads (helmLose (strayRead s shr pa) (some h) pa n false) pa n gr
          if x.depth = 0 then .ok v s1
          else match helmEnter s1 h pa n false with
            | .ok _ s2 => .ok v s2
            | .wait s2 => .wait s2
            | .exc c s2 => .exc c s2
            | .abort c s1 => .abort c s1
      | _ =>
        if viaWindow s pa then
          if allOwn x pa n then .ok (overOwn x pa (List.replicate n 0)) s
          else match agentRead s (helmSrc h x) pa n with
            | .error b => .wait ((unblock s b).getD s)
            | .ok r =>
              -- the requests stand until the instruction ends
              if r.bad.isSome then poison s
              else .ok (overOwn x pa r.bytes) (strayRead { r.state with outstanding := s.outstanding } shr pa)
        else match ioWindow s pa with
          | some p => if io then helmIoRead s h x p pa n else poison s
          | none => poison s

/-- A store at a physical address: into the transaction, or among the core's stores that are to be performed. (log 29:
DEDUCED, unsafe) -/
def helmWrite (s : State) (h : Nat) (pa gr : Nat) (io : Bool) (bs : List Byte) : HelmMem Unit :=
  match s.helms[h]? with
  | none => .wait s
  | some x =>
    if x.depth ≠ 0 && remoteLine s pa then .abort 0x06 s
    else if x.depth ≠ 0 && backed s pa then
      -- other helm transactions that hold the lines lose, or hold the store back (R312, R314)
      if helmHolds s (some h) pa bs.length true then .wait s
      else match helmEnter (helmLose s (some h) pa bs.length true) h pa bs.length true with
      | .ok _ s1 => .ok () (modHelm s1 h fun x => { x with writes := mapFrom (fun i b => (pa + i, b)) 0 bs
          ++ (x.writes.filter fun w => !(pa ≤ w.1 && w.1 < pa + bs.length)) })
      | r => r
    else if (ioWindow s pa).isSome && !io then .ok () s
    else
      let a : HelmStore := { id := s.nextId, pa := pa, bytes := bs, gr := gr, since := s.clock, drained := false }
      .ok () { modHelm s h (fun x => { x with outb := x.outb ++ [a] }) with nextId := s.nextId + 1 }

/-- An access split at the 8-byte units that it touches: (offset, bytes). -/
def helmParts (va n : Nat) : List (Nat × Nat) :=
  let k := min n (8 - va % 8)
  if k = n then [(0, n)] else [(0, k), (k, n - k)]

/-- A load of a virtual address, part by part. (log 117: DESIGN CHOICE, unsafe) -/
def helmLoadParts (s : State) (h : Nat) (va : Nat) : List (Nat × Nat) → HelmMem (List Byte)
  | [] => .ok [] s
  | p :: ps =>
    match s.helms[h]? with
    | none => .wait s
    | some x =>
      match helmTranslate s x (va + p.1) .load with
      | .fault c => .exc c s
      | .ok pa gr io shr walk =>
        match helmRead (setPath none walk false s) h pa p.2 gr io shr with
        | .ok bs s1 =>
          (match helmLoadParts s1 h va ps with
            | .ok r s2 => .ok (bs ++ r) s2
            | r => r)
        | r => r

/-- A load of a virtual address. (log 117: DESIGN CHOICE, unsafe) -/
def helmLoad (s : State) (h : Nat) (va : Nat) (ps : List (Nat × Nat)) : HelmMem (List Byte) :=
  match helmLoadParts s h va ps with
  | .ok bs s1 => .ok bs (endHelmReads s1 h)
  | .wait s1 => .wait s1
  | .exc c s1 => .exc c (endHelmReads s1 h)
  | .abort c s1 => .abort c (endHelmReads s1 h)

/-- The parts of a store, each with its physical address; a fault in any part faults the whole. -/
def storeParts (s : State) (x : Helm) (va : Nat) (bs : List Byte) :
    List (Nat × Nat) → Option (List (Nat × Nat × Bool × WalkPath × List Byte))
  | [] => some []
  | p :: ps =>
    match helmTranslate s x (va + p.1) .store with
    | .fault _ => none
    | .ok pa gr io _ walk => (storeParts s x va bs ps).map fun r => (pa, gr, io, walk, (bs.drop p.1).take p.2) :: r

/-- A store of bytes to a virtual address. (log 117: DESIGN CHOICE, unsafe) -/
def helmStore (s : State) (h : Nat) (va : Nat) (bs : List Byte) : HelmMem Unit :=
  match s.helms[h]? with
  | none => .wait s
  | some x =>
    let ps := helmParts va bs.length
    match storeParts s x va bs ps with
    | none =>
      .exc ((ps.findSome? fun p => match helmTranslate s x (va + p.1) .store with
        | .fault c => some c
        | .ok .. => none).getD 7) s
    | some l => l.foldl (fun r p => match r with
        | .ok _ s => helmWrite (setPath none p.2.2.2.1 true s) h p.1 p.2.1 p.2.2.1 p.2.2.2.2
        | r => r) (.ok () s)

/-! ## Atomics (R347) -/

/-- An atomic access at a physical address: the old value, and what it writes for it. It acts in one step at the home, where it may
wait in the queue; or at the slice of a host's line; or at the remote home. (log 8: PRESUMED, unsafe; 25: DEDUCED, unsafe) -/
def helmAtomicAt (s : State) (h : Nat) (src : Source) (pa n gr : Nat) (shr : Bool) (f : Nat → Option Nat) : HelmMem Nat :=
  let poison (s : State) : HelmMem Nat := .exc 7 (faultQueue s pa 3 (faultSource pa))
  match regionOf pa with
  | .irq _ _ => .ok 0 s
  | .hbm | .lpddr =>
    if !backed s pa then poison s
    else if !writableNow s none (some h) (some src) pa n gr then .wait ((queueFor s none (some h) src pa n gr).getD s)
    else
      let s1 := leaveQueues src (strayRead s shr pa)
      if (linesOf pa n).any (linePoisoned s) then poison s1
      else
        let old := readLe s.mem pa n
        .ok old (match f old with
          | some v => performBytes (putHome s1 (homeOf s1 pa gr)) (some h) pa (leBytes n v)
          | none => noteReads (helmLose s1 (some h) pa n false) pa n gr)
  | _ =>
    if !viaWindow s pa then poison s
    else match farAtomic s src pa n f with
      | .going s1 => .wait (s1.getD s)
      | .done none s1 => poison s1
      | .done (some old) s1 => .ok old (strayRead s1 shr pa)

/-- An atomic of a virtual address: aligned; it follows the core's stores to its bytes, and as a release all of them. -/
def helmAtomic (s : State) (h : Nat) (va n : Nat) (t : AccessType) (rl : Bool) (f : Nat → Nat → Option Nat) : HelmMem (Nat × Nat) :=
  match s.helms[h]? with
  | none => .wait s
  | some x =>
    if va % n ≠ 0 then .exc (if t = .load then 4 else 6) s
    else match helmTranslate s x va t with
      | .fault c => .exc c s
      | .ok pa gr _ shr walk =>
        if x.outb.any fun a => rl || overlap (.glob a.pa) a.bytes.length (.glob pa) n then .wait s
        else match helmAtomicAt (setPath none walk (t ≠ .load) s) h (helmSrc h x) pa n gr shr (f pa) with
          | .ok old s1 => .ok (pa, old) s1
          | .wait s1 => .wait s1
          | .exc c s1 => .exc (if t = .load then 5 else c) s1
          | .abort c s1 => .abort c s1

end Sys2Proof.Machine
end

