-- ==== Sys2Proof/Machine/HelmFloat.lean ====
section
/-! DEFINITION. The floating-point instructions of a helm core's RISC-V base (19 R347; log 8: PRESUMED, unsafe): single and double
precision, and the loads, stores, moves and conversions of half precision. Values are those of Fp.lean; a narrower value stands in
a register under ones. -/

namespace Sys2Proof.Machine

/-! ## Instructions (log 8: PRESUMED, unsafe) -/

/-- Precision of an operand. -/
inductive HFmt where
  | s | d | h
  deriving DecidableEq, Repr

/-- Operations of two or three floating-point registers, or of one, with a floating-point result. -/
inductive HFArith where
  | add | sub | mul | div | sqrt
  | madd (negProduct negAddend : Bool)
  | sgnj | sgnjn | sgnjx
  | min | max | minm | maxm
  | round (inexact : Bool)
  deriving DecidableEq, Repr

/-- Comparisons and the class, with an integer result. -/
inductive HFTest where
  | eq | lt | le | ltq | leq | classify
  deriving DecidableEq, Repr

/-- A floating-point instruction: `rm` is its rounding mode, 7 for the one of fcsr. (log 8: PRESUMED, unsafe) -/
inductive HFOp where
  | arith (op : HFArith) (f : HFmt) (rd a b c rm : Nat)
  | test (op : HFTest) (f : HFmt) (rd a b : Nat)
  | toInt (f : HFmt) (signed : Bool) (w rd a rm : Nat)
  | toIntMod (rd a : Nat)
  | ofInt (f : HFmt) (signed : Bool) (w rd a rm : Nat)
  | widen (dst src : HFmt) (rd a rm : Nat)
  | moveOut (f : HFmt) (rd a : Nat)
  | moveIn (f : HFmt) (rd a : Nat)
  | const (f : HFmt) (rd k : Nat)
  deriving DecidableEq, Repr

/-! ## Decoding -/

def hfmtOf (n : Nat) : Option HFmt :=
  match n with
  | 0 => some .s | 1 => some .d | 2 => some .h | _ => none

/-- A word of the four multiply-add opcodes. -/
def decodeFma (w : Nat) (np na : Bool) : Option HFOp :=
  let rm := w / 2 ^ 12 % 8
  match hfmtOf (w / 2 ^ 25 % 4) with
  | some f =>
    if f = .h then none
    else some (.arith (.madd np na) f (w / 2 ^ 7 % 32) (w / 2 ^ 15 % 32) (w / 2 ^ 20 % 32) (w / 2 ^ 27) rm)
  | none => none

/-- A word of OP-FP in single or double precision. -/
def decodeFull (f : HFmt) (w : Nat) : Option HFOp :=
  let rd := w / 2 ^ 7 % 32
  let a := w / 2 ^ 15 % 32
  let b := w / 2 ^ 20 % 32
  let rm := w / 2 ^ 12 % 8
  let two (op : HFArith) : Option HFOp := some (.arith op f rd a b 0 rm)
  match w / 2 ^ 27 with
  | 0x00 => two .add
  | 0x01 => two .sub
  | 0x02 => two .mul
  | 0x03 => two .div
  | 0x0B => if b = 0 then two .sqrt else none
  | 0x04 => (match rm with | 0 => two .sgnj | 1 => two .sgnjn | 2 => two .sgnjx | _ => none)
  | 0x05 => (match rm with | 0 => two .min | 1 => two .max | 2 => two .minm | 3 => two .maxm | _ => none)
  | 0x08 =>
    (match hfmtOf b with
      | some g => if g = f then none else some (.widen f g rd a rm)
      | none => if b = 4 then two (.round false) else if b = 5 then two (.round true) else none)
  | 0x14 =>
    (match rm with
      | 0 => some (.test .le f rd a b) | 1 => some (.test .lt f rd a b) | 2 => some (.test .eq f rd a b)
      | 4 => some (.test .leq f rd a b) | 5 => some (.test .ltq f rd a b) | _ => none)
  | 0x18 =>
    if b < 4 then some (.toInt f (b % 2 = 0) (if b < 2 then 32 else 64) rd a rm)
    else if b = 8 && f = .d && rm = 1 then some (.toIntMod rd a) else none
  | 0x1A => if b < 4 then some (.ofInt f (b % 2 = 0) (if b < 2 then 32 else 64) rd a rm) else none
  | 0x1C => if b = 0 && rm = 0 then some (.moveOut f rd a) else if b = 0 && rm = 1 then some (.test .classify f rd a b) else none
  | 0x1E => if b = 0 && rm = 0 then some (.moveIn f rd a) else if b = 1 && rm = 0 then some (.const f rd a) else none
  | _ => none

/-- A word of OP-FP in half precision: its moves, and its conversions to and from the others. -/
def decodeHalf (w : Nat) : Option HFOp :=
  let rd := w / 2 ^ 7 % 32
  let a := w / 2 ^ 15 % 32
  let b := w / 2 ^ 20 % 32
  let rm := w / 2 ^ 12 % 8
  match w / 2 ^ 27 with
  | 0x08 => if b = 0 then some (.widen .h .s rd a rm) else if b = 1 then some (.widen .h .d rd a rm) else none
  | 0x1C => if b = 0 && rm = 0 then some (.moveOut .h rd a) else none
  | 0x1E => if b = 0 && rm = 0 then some (.moveIn .h rd a) else none
  | _ => none

def decodeFloat (w : Nat) : Option HFOp :=
  match w % 128 with
  | 0x43 => decodeFma w false false
  | 0x47 => decodeFma w false true
  | 0x4B => decodeFma w true false
  | 0x4F => decodeFma w true true
  | 0x53 => (match hfmtOf (w / 2 ^ 25 % 4) with
      | some .h => decodeHalf w
      | some f => decodeFull f w
      | none => none)
  | _ => none

/-! ## Values -/

def HFmt.fmt : HFmt → Fmt
  | .s => fmt32
  | .d => fmt64
  | .h => fmt16

def HFmt.width (f : HFmt) : Nat := fmtWidth f.fmt

/-- A code in a register: ones above it. -/
def boxed (f : HFmt) (code : Nat) : Dword := BitVec.ofNat 64 (2 ^ 64 - 2 ^ f.width + code % 2 ^ f.width)

/-- The code that a register holds; one that is not boxed reads as the default NaN. -/
def unboxed (f : HFmt) (v : Dword) : Nat :=
  if v.toNat / 2 ^ f.width = 2 ^ (64 - f.width) - 1 then v.toNat % 2 ^ f.width else fmtNaN f.fmt

/-- A rounding mode of the instruction or of fcsr; none where it is reserved. -/
def roundMode (fcsr rm : Nat) : Option Rm :=
  match if rm = 7 then fcsr / 32 % 8 else rm with
  | 0 => some .rne | 1 => some .rtz | 2 => some .rdn | 3 => some .rup | 4 => some .rna | _ => none

/-- The quotient of two finite values, to more bits than any format keeps; what is left makes it sticky. -/
def fpDivV (f : Fmt) (rm : Rm) (a b : FVal) : Nat × Flags :=
  let nv := flIf (a.isSNaN || b.isSNaN) flNV
  let neg := a.neg != b.neg
  match a, b with
  | .nan _, _ | _, .nan _ => (fmtNaN f, nv)
  | .inf _, .inf _ => (fmtNaN f, flNV)
  | .inf _, .fin .. => (fmtSigned f neg (fmtInf f), 0)
  | .fin .., .inf _ => (fmtSigned f neg 0, 0)
  | .fin _ m e, .fin _ m' e' =>
    if m' = 0 then (if m = 0 then (fmtNaN f, flNV) else (fmtSigned f neg (fmtInf f), flDZ))
    else if m = 0 then (fmtSigned f neg 0, 0)
    else
      let k : Nat := 128
      let q := m * 2 ^ k / m'
      fpRound f rm false false neg q (e - e' - k) (m * 2 ^ k % m' ≠ 0)

/-- The square root. -/
def fpSqrtV (f : Fmt) (rm : Rm) (a : FVal) : Nat × Flags :=
  match a with
  | .nan s => (fmtNaN f, flIf s flNV)
  | .inf n => if n then (fmtNaN f, flNV) else (fmtSigned f false (fmtInf f), 0)
  | .fin n m e =>
    if m = 0 then (fmtSigned f n 0, 0)
    else if n then (fmtNaN f, flNV)
    else
      let odd : Nat := (e % 2).toNat
      let v := m * 2 ^ (odd + 256)
      let r := Nat.sqrt v
      fpRound f rm false false false r ((e - odd) / 2 - 128) (r * r ≠ v)

/-- The class of a value. -/
def classOf (f : Fmt) (v : FVal) : Nat :=
  match v with
  | .nan s => if s then 2 ^ 8 else 2 ^ 9
  | .inf n => if n then 1 else 2 ^ 7
  | .fin n m _ =>
    if m = 0 then (if n then 2 ^ 3 else 2 ^ 4)
    else if m < 2 ^ f.mb then (if n then 2 ^ 2 else 2 ^ 5)
    else (if n then 2 else 2 ^ 6)

/-- A value rounded to an integer; with `inexact`, NX where it was none. -/
def fpRoundInt (f : Fmt) (rm : Rm) (inexact : Bool) (a : FVal) : Nat × Flags :=
  match a with
  | .fin n m e => ((fpRoundZ f .rne false false n (fpToIntMag rm n m e).1 0).1, flIf (inexact && (fpToIntMag rm n m e).2) flNX)
  | _ => fpRndV f rm a

/-- A sign taken over another value's magnitude. -/
def signOver (f : Fmt) (a : Nat) (neg : Bool) : Nat := fmtSigned f neg (a % 2 ^ (f.eb + f.mb))

def arithValue (op : HFArith) (f : Fmt) (rm : Rm) (a b c : Nat) : Nat × Flags :=
  let x := fpRead f a
  let y := fpRead f b
  let sign (v : Nat) : Bool := v / 2 ^ (f.eb + f.mb) % 2 = 1
  match op with
  | .add => fpAdd f rm false a b
  | .sub => fpSub f rm false a b
  | .mul => fpMul f rm false a b
  | .div => fpDivV f rm x y
  | .sqrt => fpSqrtV f rm x
  | .madd np na =>
    fpFmaV f rm false (if np then x.negate else x) y (let z := fpRead f c; if na then z.negate else z)
  | .sgnj => (signOver f a (sign b), 0)
  | .sgnjn => (signOver f a (!sign b), 0)
  | .sgnjx => (signOver f a (sign a != sign b), 0)
  | .min => fpMinMaxV f false x y
  | .max => fpMinMaxV f true x y
  | .minm => if x.isNaN || y.isNaN then (fmtNaN f, flIf (x.isSNaN || y.isSNaN) flNV) else fpMinMaxV f false x y
  | .maxm => if x.isNaN || y.isNaN then (fmtNaN f, flIf (x.isSNaN || y.isSNaN) flNV) else fpMinMaxV f true x y
  | .round nx => fpRoundInt f rm nx x

def testValue (op : HFTest) (f : Fmt) (a b : Nat) : Nat × Flags :=
  let x := fpRead f a
  let y := fpRead f b
  let quiet (r : Bool × Flags) : Nat × Flags := (r.1.toNat, flIf (x.isSNaN || y.isSNaN) flNV)
  match op with
  | .eq => let r := fpCond f false .eq a b; (r.1.toNat, r.2)
  | .lt => let r := fpCond f false .lt a b; (r.1.toNat, r.2)
  | .le => let r := fpCond f false .le a b; (r.1.toNat, r.2)
  | .ltq => quiet (fpCond f false .lt a b)
  | .leq => quiet (fpCond f false .le a b)
  | .classify => (classOf f x, 0)

/-- A value as an integer of `w` bits: the nearest end of the range where it lies outside, the highest for a NaN. -/
def toIntValue (f : Fmt) (rm : Rm) (signed : Bool) (w a : Nat) : Int × Flags :=
  let lo : Int := if signed then -2 ^ (w - 1) else 0
  let hi : Int := if signed then 2 ^ (w - 1) - 1 else 2 ^ w - 1
  if (fpRead f a).isNaN then (hi, flNV) else cvtFI f rm false lo hi a

/-- A double as an integer modulo 2^32, truncated. -/
def toIntModValue (a : Nat) : Int × Flags :=
  match fpRead fmt64 a with
  | .nan _ | .inf _ => (0, flNV)
  | .fin n m e =>
    let k := fpToIntMag .rtz n m e
    let v : Int := if n then -(k.1 : Int) else k.1
    (v, if v < -2 ^ 31 ∨ 2 ^ 31 ≤ v then flNV else flIf k.2 flNX)

/-- The constants of FLI, each m × 2^e; the last three and the second are the format's own. -/
def fliValue (f : Fmt) (k : Nat) : Nat :=
  let t : List (Nat × Int) :=
    [(1, 0), (1, 0), (1, -16), (1, -15), (1, -8), (1, -7), (1, -4), (1, -3), (1, -2), (5, -4), (3, -3), (7, -4), (1, -1), (5, -3),
      (3, -2), (7, -3), (1, 0), (5, -2), (3, -1), (7, -2), (1, 1), (5, -1), (3, 0), (1, 2), (1, 3), (1, 4), (1, 7), (1, 8), (1, 15),
      (1, 16)]
  if k = 1 then 2 ^ f.mb
  else if k = 30 then fmtInf f
  else if k = 31 then fmtNaN f
  else let v := t.getD k (0, 0); (fpRoundZ f .rne false false (k = 0) v.1 v.2).1

/-! ## The registers -/

def getX (x : Helm) (r : Nat) : Dword := x.regs.x.getD r 0
def getF (x : Helm) (r : Nat) : Dword := x.regs.f.getD r 0

/-- mstatus has the floating-point registers on. -/
def floatOn (x : Helm) : Bool := bitsOf (csr x 0x300) 14 13 ≠ 0

/-- The floating-point state has been written. -/
def floatDirty (x : Helm) : Helm := setCsr 0x300 (putField (csr x 0x300) 14 13 3) x

def setF (rd : Nat) (v : Dword) (x : Helm) : Helm := floatDirty { x with regs := { x.regs with f := x.regs.f.set rd v } }

/-- Flags accrue in fcsr. -/
def accrue (fl : Flags) (x : Helm) : Helm :=
  if fl = 0 then x else floatDirty (setCsr 3 (Nat.lor (csr x 3) (fl.toNat % 32)) x)

/-- A floating-point instruction's effect on the registers; none where it is illegal: the registers are off, or its
rounding mode is reserved. (log 8: PRESUMED, unsafe) -/
def floatRun (x : Helm) (op : HFOp) : Option Helm :=
  let rmOf (rm : Nat) : Option Rm := roundMode (csr x 3) rm
  let int32 (w : Nat) (v : Int) : Dword := BitVec.ofInt 64 (if w = 32 then sval 32 (wrapI 32 v) else v)
  if !floatOn x then none
  else match op with
    | .arith o f rd a b c rm =>
      let fixed : Bool := match o with
        | .sgnj | .sgnjn | .sgnjx | .min | .max | .minm | .maxm => true
        | _ => false
      (if fixed then some .rne else rmOf rm).map fun r =>
        let v := arithValue o f.fmt r (unboxed f (getF x a)) (unboxed f (getF x b)) (unboxed f (getF x c))
        accrue v.2 (setF rd (boxed f v.1) x)
    | .test o f rd a b =>
      let v := testValue o f.fmt (unboxed f (getF x a)) (unboxed f (getF x b))
      some (accrue v.2 (setX rd (BitVec.ofNat 64 v.1) x))
    | .toInt f sg w rd a rm => (rmOf rm).map fun r =>
        let v := toIntValue f.fmt r sg w (unboxed f (getF x a))
        accrue v.2 (setX rd (int32 w v.1) x)
    | .toIntMod rd a =>
      let v := toIntModValue (unboxed .d (getF x a))
      some (accrue v.2 (setX rd (int32 32 v.1) x))
    | .ofInt f sg w rd a rm => (rmOf rm).map fun r =>
        let v := cvtIF f.fmt r false false (ival sg w (getX x a).toNat)
        accrue v.2 (setF rd (boxed f v.1) x)
    | .widen dst src rd a rm => (rmOf rm).map fun r =>
        let v := cvtFF src.fmt dst.fmt r false false false (unboxed src (getF x a))
        accrue v.2 (setF rd (boxed dst v.1) x)
    | .moveOut f rd a => some (setX rd (BitVec.ofInt 64 (sval f.width (getF x a).toNat)) x)
    | .moveIn f rd a => some (setF rd (boxed f (getX x a).toNat) x)
    | .const f rd k => some (setF rd (boxed f (fliValue f.fmt k)) x)

end Sys2Proof.Machine
end

