-- ==== Sys2Proof/Machine/HelmBase.lean ====
section
/-! DEFINITION. The RISC-V base of a helm core, as far as the model holds it (19 R347; log 8: PRESUMED, unsafe): RV64I, the
multiplications, the atomics, the bit manipulation, the conditional zeros, the cache-block words, the compressed words, the
floating-point words of HelmFloat.lean, and the privileged words that take and leave exceptions. -/

namespace Sys2Proof.Machine

/-! ## Instructions of the base (log 8: PRESUMED, unsafe) -/

inductive HAlu where
  | add | sub | sll | slt | sltu | xor | srl | sra | or | and
  | mul | mulh | mulhsu | mulhu | div | divu | rem | remu
  | shadd (k : Nat) | andn | orn | xnor | min | minu | max | maxu | rol | ror
  | bclr | bext | binv | bset | czeroEqz | czeroNez
  deriving DecidableEq, Repr

/-- Operations on one register. -/
inductive HUnary where
  | clz | ctz | cpop | sextb | sexth | zextb | zexth | orcb | rev8
  deriving DecidableEq, Repr

inductive HCond where
  | eq | ne | lt | ge | ltu | geu
  deriving DecidableEq, Repr

inductive HAmo where
  | swap | add | xor | and | or | min | max | minu | maxu
  deriving DecidableEq, Repr

/-- The second operand of a word. -/
inductive HSrc where
  | reg (r : Nat)
  | imm (v : Dword)
  deriving DecidableEq, Repr

/-- An instruction of the base. `w` marks the 32-bit forms, `f` the floating-point registers. (log 8: PRESUMED,
unsafe) -/
inductive HelmOp where
  | const (rd : Nat) (v : Dword) (pc : Bool)
  | jal (rd : Nat) (off : Dword)
  | jalr (rd rs : Nat) (off : Dword)
  | branch (c : HCond) (a b : Nat) (off : Dword)
  | load (f signed : Bool) (n rd rs : Nat) (off : Dword)
  | store (f : Bool) (n src rs : Nat) (off : Dword)
  | alu (op : HAlu) (w : Bool) (rd a : Nat) (b : HSrc)
  /-- an operation whose first operand is the low word of a register, extended by zeros: ADD.UW, SHnADD.UW, SLLI.UW -/
  | aluUw (op : HAlu) (rd a : Nat) (b : HSrc)
  | unary (op : HUnary) (w : Bool) (rd a : Nat)
  | float (op : HFOp)
  /-- a cache-block word: `kind` 0 INVAL, 1 CLEAN, 2 FLUSH, 4 ZERO -/
  | block (kind rs : Nat)
  | nop
  | fence
  | lr (n rd rs : Nat) (rl : Bool)
  | sc (n rd rs src : Nat) (rl : Bool)
  | amo (op : HAmo) (n rd rs src : Nat) (rl : Bool)
  | ecall
  | ebreak
  | mret
  | sret
  | wfi
  | csr (op num rd : Nat) (src : HSrc) (writes : Bool)
  | illegal
  deriving DecidableEq, Repr

/-! ## Decoding -/

/-- A field of `n` bits as a signed value. -/
def simm (n v : Nat) : Dword := BitVec.ofInt 64 (sval n (v % 2 ^ n))

def aluOf (f3 : Nat) : HAlu :=
  match f3 with
  | 0 => .add | 1 => .sll | 2 => .slt | 3 => .sltu | 4 => .xor | 5 => .srl | 6 => .or | _ => .and

def mulOf (f3 : Nat) : HAlu :=
  match f3 with
  | 0 => .mul | 1 => .mulh | 2 => .mulhsu | 3 => .mulhu | 4 => .div | 5 => .divu | 6 => .rem | _ => .remu

def condOf (f3 : Nat) : Option HCond :=
  match f3 with
  | 0 => some .eq | 1 => some .ne | 4 => some .lt | 5 => some .ge | 6 => some .ltu | 7 => some .geu | _ => none

def amoOf (f5 : Nat) : Option HAmo :=
  match f5 with
  | 1 => some .swap | 0 => some .add | 4 => some .xor | 12 => some .and | 8 => some .or
  | 16 => some .min | 20 => some .max | 24 => some .minu | 28 => some .maxu | _ => none

/-- A word of the system opcode. -/
def decodeSystem (w : Nat) : Option HelmOp :=
  let f3 := w / 2 ^ 12 % 8
  let rd := w / 2 ^ 7 % 32
  let rs := w / 2 ^ 15 % 32
  let num := w / 2 ^ 20
  if f3 = 0 then
    (if w = 0x00000073 then some .ecall
     else if w = 0x00100073 then some .ebreak
     else if w = 0x10200073 then some .sret
     else if w = 0x30200073 then some .mret
     else if w = 0x10500073 then some .wfi
     else if (w / 2 ^ 25 = 9 || w / 2 ^ 25 = 11) && rd = 0 then some .fence
     else if w = 0x18000073 || w = 0x18100073 then some .fence
     else if w = 0x00D00073 || w = 0x01D00073 then some .nop
     else none)
  else if f3 = 4 then
    -- MOP.R and MOP.RR write 0
    (if w / 2 ^ 31 = 1 && w / 2 ^ 28 % 4 = 0 && (w / 2 ^ 25 % 2 = 1 || w / 2 ^ 22 % 16 = 7) then some (.const rd 0 false) else none)
  else some (.csr (f3 % 4) num rd (if f3 < 4 then .reg rs else .imm (BitVec.ofNat 64 rs)) (f3 % 4 = 1 || rs ≠ 0))

/-- An operation of two registers beside the first ones, by funct7 and funct3. -/
def bitsOp (f7 f3 : Nat) : Option HAlu :=
  match f7, f3 with
  | 0x10, 2 => some (.shadd 1) | 0x10, 4 => some (.shadd 2) | 0x10, 6 => some (.shadd 3)
  | 0x20, 7 => some .andn | 0x20, 6 => some .orn | 0x20, 4 => some .xnor
  | 0x05, 4 => some .min | 0x05, 5 => some .minu | 0x05, 6 => some .max | 0x05, 7 => some .maxu
  | 0x30, 1 => some .rol | 0x30, 5 => some .ror
  | 0x24, 1 => some .bclr | 0x24, 5 => some .bext | 0x34, 1 => some .binv | 0x14, 1 => some .bset
  | 0x07, 5 => some .czeroEqz | 0x07, 7 => some .czeroNez
  | _, _ => none

/-- An operation of one register, by its immediate and funct3. -/
def unaryOp (imm f3 : Nat) : Option HUnary :=
  match imm, f3 with
  | 0x600, 1 => some .clz | 0x601, 1 => some .ctz | 0x602, 1 => some .cpop | 0x604, 1 => some .sextb | 0x605, 1 => some .sexth
  | 0x287, 5 => some .orcb | 0x6B8, 5 => some .rev8
  | _, _ => none

/-- A shift of a register by a constant, or a bit of it that a constant names. -/
def shiftOp (f6 f3 : Nat) : Option HAlu :=
  match f6, f3 with
  | 0x00, 1 => some .sll | 0x00, 5 => some .srl | 0x10, 5 => some .sra | 0x18, 5 => some .ror
  | 0x12, 1 => some .bclr | 0x12, 5 => some .bext | 0x1A, 1 => some .binv | 0x0A, 1 => some .bset
  | _, _ => none

/-- A word of 32 bits. -/
def decodeWide (w : Nat) : Option HelmOp :=
  let f3 := w / 2 ^ 12 % 8
  let rd := w / 2 ^ 7 % 32
  let a := w / 2 ^ 15 % 32
  let b := w / 2 ^ 20 % 32
  let f7 := w / 2 ^ 25
  let i := simm 12 (w / 2 ^ 20)
  let st := simm 12 (f7 * 32 + rd)
  match w % 128 with
  | 0x37 => some (.const rd (simm 32 (w / 2 ^ 12 * 2 ^ 12)) false)
  | 0x17 => some (.const rd (simm 32 (w / 2 ^ 12 * 2 ^ 12)) true)
  | 0x6F => some (.jal rd (simm 21 (w / 2 ^ 31 * 2 ^ 20 + w / 2 ^ 12 % 256 * 2 ^ 12 + w / 2 ^ 20 % 2 * 2 ^ 11 + w / 2 ^ 21 % 1024 * 2)))
  | 0x67 => if f3 = 0 then some (.jalr rd a i) else none
  | 0x63 => (condOf f3).map fun c =>
      .branch c a b (simm 13 (w / 2 ^ 31 * 2 ^ 12 + rd % 2 * 2 ^ 11 + f7 % 64 * 2 ^ 5 + rd / 2 * 2))
  | 0x03 => if f3 < 7 then some (.load false (f3 < 4) (2 ^ (f3 % 4)) rd a i) else none
  | 0x07 => if f3 = 1 || f3 = 2 || f3 = 3 then some (.load true false (2 ^ f3) rd a i) else none
  | 0x23 => if f3 < 4 then some (.store false (2 ^ f3) b a st) else none
  | 0x27 => if f3 = 1 || f3 = 2 || f3 = 3 then some (.store true (2 ^ f3) b a st) else none
  | 0x13 =>
    if f3 = 1 || f3 = 5 then
      (match unaryOp (w / 2 ^ 20) f3 with
        | some o => some (.unary o false rd a)
        | none => (shiftOp (f7 / 2) f3).map fun o => .alu o false rd a (.imm (BitVec.ofNat 64 (w / 2 ^ 20 % 64))))
    else some (.alu (aluOf f3) false rd a (.imm i))
  | 0x1B =>
    if f3 = 0 then some (.alu .add true rd a (.imm i))
    else if f3 = 1 && f7 = 0 then some (.alu .sll true rd a (.imm (BitVec.ofNat 64 b)))
    else if f3 = 5 && f7 = 0 then some (.alu .srl true rd a (.imm (BitVec.ofNat 64 b)))
    else if f3 = 5 && f7 = 32 then some (.alu .sra true rd a (.imm (BitVec.ofNat 64 b)))
    else if f3 = 1 && f7 / 2 = 2 then some (.aluUw .sll rd a (.imm (BitVec.ofNat 64 (w / 2 ^ 20 % 64))))
    else if f3 = 5 && f7 = 0x30 then some (.alu .ror true rd a (.imm (BitVec.ofNat 64 b)))
    else if f3 = 1 && f7 = 0x30 && b < 3 then (unaryOp (w / 2 ^ 20) f3).map fun o => .unary o true rd a
    else none
  | 0x33 =>
    if f7 = 0 then some (.alu (aluOf f3) false rd a (.reg b))
    else if f7 = 32 && f3 = 0 then some (.alu .sub false rd a (.reg b))
    else if f7 = 32 && f3 = 5 then some (.alu .sra false rd a (.reg b))
    else if f7 = 1 then some (.alu (mulOf f3) false rd a (.reg b))
    else (bitsOp f7 f3).map fun o => .alu o false rd a (.reg b)
  | 0x3B =>
    if f7 = 0 && (f3 = 0 || f3 = 1 || f3 = 5) then some (.alu (aluOf f3) true rd a (.reg b))
    else if f7 = 32 && f3 = 0 then some (.alu .sub true rd a (.reg b))
    else if f7 = 32 && f3 = 5 then some (.alu .sra true rd a (.reg b))
    else if f7 = 1 && (f3 = 0 || 4 ≤ f3) then some (.alu (mulOf f3) true rd a (.reg b))
    else if f7 = 4 && f3 = 0 then some (.aluUw .add rd a (.reg b))
    else if f7 = 4 && f3 = 4 && b = 0 then some (.unary .zexth false rd a)
    else if f7 = 0x10 then (bitsOp f7 f3).map fun o => .aluUw o rd a (.reg b)
    else if f7 = 0x30 then (bitsOp f7 f3).map fun o => .alu o true rd a (.reg b)
    else none
  | 0x0F =>
    if f3 < 2 then some .fence
    else if f3 = 2 && rd = 0 && (w / 2 ^ 20 < 3 || w / 2 ^ 20 = 4) then some (.block (w / 2 ^ 20) a)
    else none
  | 0x2F =>
    let n := 2 ^ f3
    let rl := f7 % 2 = 1
    if f3 ≠ 2 && f3 ≠ 3 then none
    else if f7 / 4 = 2 then (if b = 0 then some (.lr n rd a rl) else none)
    else if f7 / 4 = 3 then some (.sc n rd a b rl)
    else (amoOf (f7 / 4)).map fun o => .amo o n rd a b rl
  | 0x73 => decodeSystem w
  | _ => if w = 0xFFFFFFFF then some .illegal else (decodeFloat w).map .float

/-- Bits of a compressed word, each group as (highest, lowest, place of the lowest). -/
def bitsAt (w : Nat) (l : List (Nat × Nat × Nat)) : Nat := (l.map fun p => bitsOf w p.1 p.2.1 * 2 ^ p.2.2).sum

/-- A compressed word of 16 bits. -/
def decodeNarrow (w : Nat) : Option HelmOp :=
  let f3 := w / 2 ^ 13 % 8
  let r := w / 2 ^ 7 % 32
  let t := w / 2 ^ 2 % 32
  let r' := 8 + w / 2 ^ 7 % 8
  let t' := 8 + w / 2 ^ 2 % 8
  let six := simm 6 (bitsAt w [(12, 12, 5), (6, 2, 0)])
  let sh : Dword := BitVec.ofNat 64 (bitsAt w [(12, 12, 5), (6, 2, 0)])
  let u (l : List (Nat × Nat × Nat)) : Dword := BitVec.ofNat 64 (bitsAt w l)
  let off8 := u [(12, 10, 3), (6, 5, 6)]
  let off4 := u [(12, 10, 3), (6, 6, 2), (5, 5, 6)]
  match w % 4, f3 with
  | 0, 0 =>
    let k := u [(12, 11, 4), (10, 7, 6), (6, 6, 2), (5, 5, 3)]
    some (if k = 0 then .illegal else .alu .add false t' 2 (.imm k))
  | 0, 1 => some (.load true false 8 t' r' off8)
  | 0, 2 => some (.load false true 4 t' r' off4)
  | 0, 3 => some (.load false true 8 t' r' off8)
  | 0, 4 =>
    let ub := u [(6, 6, 0), (5, 5, 1)]
    let uh := u [(5, 5, 1)]
    (match w / 2 ^ 10 % 8, w / 2 ^ 6 % 2 with
      | 0, _ => some (.load false false 1 t' r' ub)
      | 1, 0 => some (.load false false 2 t' r' uh)
      | 1, _ => some (.load false true 2 t' r' uh)
      | 2, _ => some (.store false 1 t' r' ub)
      | 3, 0 => some (.store false 2 t' r' uh)
      | _, _ => none)
  | 0, 5 => some (.store true 8 t' r' off8)
  | 0, 6 => some (.store false 4 t' r' off4)
  | 0, 7 => some (.store false 8 t' r' off8)
  | 1, 0 => some (.alu .add false r r (.imm six))
  | 1, 1 => some (if r = 0 then .illegal else .alu .add true r r (.imm six))
  | 1, 2 => some (.alu .add false r 0 (.imm six))
  | 1, 3 =>
    if r = 2 then
      let k := simm 10 (bitsAt w [(12, 12, 9), (6, 6, 4), (5, 5, 6), (4, 3, 7), (2, 2, 5)])
      some (if k = 0 then .illegal else .alu .add false 2 2 (.imm k))
    else if six = 0 then (if r % 2 = 1 && r < 16 then some .nop else none)
    else some (.const r (six <<< 12) false)
  | 1, 4 =>
    (match w / 2 ^ 10 % 4, w / 2 ^ 12 % 2, w / 2 ^ 5 % 4 with
      | 0, _, _ => some (.alu .srl false r' r' (.imm sh))
      | 1, _, _ => some (.alu .sra false r' r' (.imm sh))
      | 2, _, _ => some (.alu .and false r' r' (.imm six))
      | _, 0, 0 => some (.alu .sub false r' r' (.reg t'))
      | _, 0, 1 => some (.alu .xor false r' r' (.reg t'))
      | _, 0, 2 => some (.alu .or false r' r' (.reg t'))
      | _, 0, _ => some (.alu .and false r' r' (.reg t'))
      | _, _, 0 => some (.alu .sub true r' r' (.reg t'))
      | _, _, 1 => some (.alu .add true r' r' (.reg t'))
      | _, _, 2 => some (.alu .mul false r' r' (.reg t'))
      | _, _, _ => (match w / 2 ^ 2 % 8 with
          | 0 => some (.unary .zextb false r' r') | 1 => some (.unary .sextb false r' r')
          | 2 => some (.unary .zexth false r' r') | 3 => some (.unary .sexth false r' r')
          | 4 => some (.aluUw .add r' r' (.reg 0)) | 5 => some (.alu .xor false r' r' (.imm (BitVec.allOnes 64)))
          | _ => none))
  | 1, 5 => some (.jal 0 (simm 12 (bitsAt w
      [(12, 12, 11), (11, 11, 4), (10, 9, 8), (8, 8, 10), (7, 7, 6), (6, 6, 7), (5, 3, 1), (2, 2, 5)])))
  | 1, 6 => some (.branch .eq r' 0 (simm 9 (bitsAt w [(12, 12, 8), (11, 10, 3), (6, 5, 6), (4, 3, 1), (2, 2, 5)])))
  | 1, 7 => some (.branch .ne r' 0 (simm 9 (bitsAt w [(12, 12, 8), (11, 10, 3), (6, 5, 6), (4, 3, 1), (2, 2, 5)])))
  | 2, 0 => some (.alu .sll false r r (.imm sh))
  | 2, 1 => some (.load true false 8 r 2 (u [(12, 12, 5), (6, 5, 3), (4, 2, 6)]))
  | 2, 2 => some (if r = 0 then .illegal else .load false true 4 r 2 (u [(12, 12, 5), (6, 4, 2), (3, 2, 6)]))
  | 2, 3 => some (if r = 0 then .illegal else .load false true 8 r 2 (u [(12, 12, 5), (6, 5, 3), (4, 2, 6)]))
  | 2, 4 =>
    if w / 2 ^ 12 % 2 = 0 then
      some (if t ≠ 0 then .alu .add false r 0 (.reg t) else if r = 0 then .illegal else .jalr 0 r 0)
    else some (if t ≠ 0 then .alu .add false r r (.reg t) else if r = 0 then .ebreak else .jalr 1 r 0)
  | 2, 5 => some (.store true 8 t 2 (u [(12, 10, 3), (9, 7, 6)]))
  | 2, 6 => some (.store false 4 t 2 (u [(12, 9, 2), (8, 7, 6)]))
  | 2, 7 => some (.store false 8 t 2 (u [(12, 10, 3), (9, 7, 6)]))
  | _, _ => none

/-- The instruction of the base that a word holds, with its length; none where the model does not hold it. -/
def decodeBase (w : Nat) : Option (HelmOp × Nat) :=
  if w % 4 = 3 then (decodeWide w).map (·, 4) else (decodeNarrow (w % 2 ^ 16)).map (·, 2)

/-! ## Arithmetic -/

/-- An operation on words of one width; a division by zero gives all ones, and its remainder the dividend. -/
def aluValue {w : Nat} (op : HAlu) (a b : BitVec w) : BitVec w :=
  let sh := b.toNat % w
  match op with
  | .add => a + b
  | .sub => a - b
  | .sll => a <<< sh
  | .slt => BitVec.ofNat w (a.slt b).toNat
  | .sltu => BitVec.ofNat w (a.ult b).toNat
  | .xor => a ^^^ b
  | .srl => a >>> sh
  | .sra => a.sshiftRight sh
  | .or => a ||| b
  | .and => a &&& b
  | .mul => a * b
  | .mulh => BitVec.ofInt w (a.toInt * b.toInt / 2 ^ w)
  | .mulhsu => BitVec.ofInt w (a.toInt * b.toNat / 2 ^ w)
  | .mulhu => BitVec.ofNat w (a.toNat * b.toNat / 2 ^ w)
  | .div => if b = 0 then BitVec.allOnes w else a.sdiv b
  | .divu => if b = 0 then BitVec.allOnes w else a.udiv b
  | .rem => if b = 0 then a else a.srem b
  | .remu => if b = 0 then a else a.umod b
  | .shadd k => (a <<< k) + b
  | .andn => a &&& ~~~b
  | .orn => a ||| ~~~b
  | .xnor => ~~~(a ^^^ b)
  | .min => if a.slt b then a else b
  | .minu => if a.ult b then a else b
  | .max => if a.slt b then b else a
  | .maxu => if a.ult b then b else a
  | .rol => a.rotateLeft sh
  | .ror => a.rotateRight sh
  | .bclr => a &&& ~~~((1 : BitVec w) <<< sh)
  | .bext => (a >>> sh) &&& 1
  | .binv => a ^^^ ((1 : BitVec w) <<< sh)
  | .bset => a ||| ((1 : BitVec w) <<< sh)
  | .czeroEqz => if b = 0 then 0 else a
  | .czeroNez => if b = 0 then a else 0

/-- An operation on one register of `n` bits; a count of the bits of zero is the width. -/
def unaryValue (op : HUnary) (n v : Nat) : Nat :=
  let bytes (f : Nat → Nat) : Nat := ((List.range 8).map fun i => f i * 2 ^ (8 * i)).sum
  let byte (i : Nat) : Nat := v / 2 ^ (8 * i) % 256
  match op with
  | .clz => if v = 0 then n else n - 1 - Nat.log2 v
  | .ctz => ((List.range n).find? fun i => Nat.testBit v i).getD n
  | .cpop => ((List.range n).filter fun i => Nat.testBit v i).length
  | .sextb => (BitVec.ofInt 64 (sval 8 v)).toNat
  | .sexth => (BitVec.ofInt 64 (sval 16 v)).toNat
  | .zextb => v % 2 ^ 8
  | .zexth => v % 2 ^ 16
  | .orcb => bytes fun i => if byte i = 0 then 0 else 255
  | .rev8 => bytes fun i => byte (7 - i)

def aluResult (op : HAlu) (w : Bool) (a b : Dword) : Dword :=
  if w then (aluValue op (a.truncate 32) (b.truncate 32) : BitVec 32).signExtend 64 else aluValue op a b

def condHolds (c : HCond) (a b : Dword) : Bool :=
  match c with
  | .eq => a = b
  | .ne => a ≠ b
  | .lt => a.slt b
  | .ge => !a.slt b
  | .ltu => a.ult b
  | .geu => !a.ult b

def amoValue (op : HAmo) (n old b : Nat) : Nat :=
  match op with
  | .swap => b % 2 ^ (8 * n)
  | .add => atomVal .add n old b
  | .xor => atomVal .xor n old (b % 2 ^ (8 * n))
  | .and => atomVal .and n old b
  | .or => atomVal .or n old (b % 2 ^ (8 * n))
  | .min => atomVal .min n old b
  | .max => atomVal .max n old b
  | .minu => atomVal .minu n old b
  | .maxu => atomVal .maxu n old b

/-- ADD.UW, SHnADD.UW and SLLI.UW. -/
def uwResult (op : HAlu) (a b : Dword) : Dword := aluValue op ((a.truncate 32).zeroExtend 64) b

/-! ## Control and status registers -/

/-- The bits of mstatus that the model holds, and those of them that sstatus shows. -/
def mstatusMask : Nat := 0xC79AA
def sstatusMask : Nat := 0xC6122

/-- A register's bits under a mask, the others from an old value. -/
def underMask (mask old v : Nat) : Nat := Nat.lor (Nat.land v mask) (old - Nat.land old mask)

/-- The registers that the model holds; mhartid is the number of the helm core (R347). -/
def csrKnown (n : Nat) : Bool :=
  [1, 2, 3, 0x100, 0x104, 0x105, 0x106, 0x10A, 0x140, 0x141, 0x142, 0x143, 0x144, 0x15C, 0x180, 0x300, 0x301, 0x302, 0x303, 0x304, 0x305, 0x306,
    0x30A, 0x340, 0x341, 0x342, 0x343, 0x344, 0xC00, 0xC01, 0xF11, 0xF12, 0xF13, 0xF14].contains n

/-- The lowest pending identity: it has the highest priority. -/
def topIrq (x : Helm) : Nat := (lowestOf x.irqs).getD 0

/-- The value of a register. The cycle counter counts core clocks, and the time the ticks of the meridian count. -/
def csrRead (s : State) (h : Nat) (x : Helm) (n : Nat) : Nat :=
  let dirty (v : Nat) : Nat := v + if bitsOf v 14 13 = 3 then 2 ^ 63 else 0
  let pending := if x.irqs.isEmpty then 0 else 2 ^ 9
  match n with
  | 0xF14 => h
  | 1 => csr x 3 % 32
  | 2 => csr x 3 / 32 % 8
  | 0xC00 => s.clock % 2 ^ 64
  | 0xC01 => meridian s
  | 0x300 => dirty (csr x 0x300)
  | 0x100 => dirty (Nat.land (csr x 0x300) sstatusMask)
  | 0x104 => Nat.land (csr x 0x304) (csr x 0x303)
  | 0x144 => Nat.land pending (csr x 0x303)
  | 0x344 => pending
  | 0x15C => topIrq x * 2 ^ 16 + topIrq x
  | n => csr x n

/-- The bits of menvcfg and senvcfg that the model holds; a reserved setting of invalidations is none. -/
def envMask (v : Nat) : Nat := Nat.land (if bitsOf v 5 4 = 2 then putField v 5 4 0 else v) 0xF1

def csrWrite (n v : Nat) (x : Helm) : Helm :=
  match n with
  | 1 => floatDirty (setCsr 3 (csr x 3 / 32 * 32 + v % 32) x)
  | 2 => floatDirty (setCsr 3 (v % 8 * 32 + csr x 3 % 32) x)
  | 3 => floatDirty (setCsr 3 (v % 256) x)
  | 0x10A | 0x30A => setCsr n (envMask v) x
  | 0x100 => setCsr 0x300 (underMask sstatusMask (csr x 0x300) v) x
  | 0x104 => setCsr 0x304 (underMask (csr x 0x303) (csr x 0x304) v) x
  | 0x300 => setCsr 0x300 (Nat.land (if bitsOf v 12 11 = 2 then putField v 12 11 0 else v) mstatusMask) x
  | 0x141 | 0x341 => setCsr n (v / 2 * 2) x
  | 0x180 => if v / 2 ^ 60 = 0 || v / 2 ^ 60 = 10 then setCsr n v x else x
  | 0x15C => { x with irqs := x.irqs.filter (· ≠ topIrq x) }
  | 0x144 | 0x344 | 0x301 => x
  | n => setCsr n v x

/-! ## Running an instruction -/

def srcVal (x : Helm) : HSrc → Dword
  | .reg r => getX x r
  | .imm v => v

/-- The core goes on after a word of `len` bytes. -/
def helmSkip (len : Nat) (x : Helm) : Helm := { x with regs := { x.regs with pc := x.regs.pc + BitVec.ofNat 64 len } }

def helmJump (pc : Dword) (x : Helm) : Helm := { x with regs := { x.regs with pc := pc } }

/-- The end of an access that a word makes. -/
def helmEnd {α : Type} (h va : Nat) (r : HelmMem α) (k : α → State → State) : State :=
  match r with
  | .ok a s => k a s
  | .wait s => s
  | .exc c s =>
    let s1 := match s.helms[h]? with
      | some x => if c = 13 || c = 15 then helmFailed s x va else s
      | none => s
    modHelm s1 h (helmException c va)
  | .abort c s => modHelm s h (helmAbort c)

/-- A loaded value in its register. -/
def putLoaded (f signed : Bool) (n rd : Nat) (v : Nat) (x : Helm) : Helm :=
  if f then setF rd (BitVec.ofNat 64 (2 ^ 64 - 2 ^ (8 * n) + v)) x
  else setX rd (if signed then BitVec.ofInt 64 (sval (8 * n) v) else BitVec.ofNat 64 v) x

/-- Whether a register is closed to a mode: the counters by mcounteren and scounteren, those of floating point while it is off. -/
def csrClosed (n : Nat) (x : Helm) : Bool :=
  let shut (m : Nat) : Bool := !Nat.testBit (csr x m) (n % 32)
  (n / 256 = 0xC && ((x.priv < 3 && shut 0x306) || (x.priv = 0 && shut 0x106))) || (n ≤ 3 && !floatOn x)

/-- A read and write of a control and status register; the wrong mode or a write of a read-only one is an illegal instruction. -/
def helmCsr (s : State) (h op n rd : Nat) (src : HSrc) (writes : Bool) (len w : Nat) (x : Helm) : Helm :=
  if n / 256 % 4 > x.priv || (writes && n / 1024 = 3) || csrClosed n x then helmException 2 w x
  else
    let old := csrRead s h x n
    let v := (srcVal x src).toNat
    let new := if op = 1 then v else if op = 2 then Nat.lor old v else old - Nat.land old v
    helmSkip len (setX rd (BitVec.ofNat 64 old) (if writes then csrWrite n new x else x))

/-- The return from an exception of mode `m`. -/
def trapReturn (m : Nat) (x : Helm) : Helm :=
  let st := csr x 0x300
  let st1 := if m = 1 then putField (putField (putField st 1 1 (bitsOf st 5 5)) 5 5 1) 8 8 0
    else putField (putField (putField st 3 3 (bitsOf st 7 7)) 7 7 1) 12 11 0
  { setCsr 0x300 st1 x with
    priv := if m = 1 then bitsOf st 8 8 else bitsOf st 12 11
    regs := { x.regs with pc := BitVec.ofNat 64 (csr x (if m = 1 then 0x141 else 0x341)) } }

/-- Whether a mode may run a cache-block word, by menvcfg and senvcfg. -/
def blockAllowed (kind : Nat) (x : Helm) : Bool :=
  let opens (m : Nat) : Bool := if kind = 0 then bitsOf (csr x m) 5 4 ≠ 0 else Nat.testBit (csr x m) (if kind = 4 then 7 else 6)
  (x.priv = 3 || opens 0x30A) && (x.priv ≠ 0 || opens 0x10A)

/-- The stores of zeros that ZERO makes in its block of 64 bytes, in the order of their addresses. -/
def zeroBlock (h va : Nat) (s : State) : HelmMem Unit :=
  (List.range 8).foldl (fun r i => match r with
    | .ok _ s => helmStore s h (va + 8 * i) (List.replicate 8 0)
    | r => r) (.ok () s)

/-- The permission that INVAL, CLEAN and FLUSH need: of a load or of a store; they change nothing, since every agent sees one order. -/
def blockTouch (s : State) (x : Helm) (va : Nat) : HelmMem Unit :=
  match helmTranslate s x va .load, helmTranslate s x va .store with
  | .fault _, .fault c => .exc c s
  | _, _ => .ok () s

/-- Whether an address is homed in another package. -/
def isFabric (pa : Nat) : Bool :=
  match regionOf pa with
  | .fabric _ => true
  | _ => false

/-- One instruction of the base; `w` is its word, `len` its bytes. A FENCE, and the fences of translations and of
instructions, wait for the core's stores (R347). WFI ends at once. (log 8: PRESUMED, unsafe) -/
def helmRun (s : State) (h : Nat) (x : Helm) (op : HelmOp) (len w : Nat) : State :=
  let pc := x.regs.pc
  let next := pc + BitVec.ofNat 64 len
  let set (f : Helm → Helm) : State := modHelm s h f
  match op with
  | .const rd v rel => set fun y => helmSkip len (setX rd (if rel then pc + v else v) y)
  | .jal rd off => set fun y => helmJump (pc + off) (setX rd next y)
  | .jalr rd rs off => set fun y => helmJump ((getX x rs + off) &&& ~~~1) (setX rd next y)
  | .branch c a b off => set (helmJump (if condHolds c (getX x a) (getX x b) then pc + off else next))
  | .alu op w rd a b => set fun y => helmSkip len (setX rd (aluResult op w (getX x a) (srcVal x b)) y)
  | .aluUw op rd a b => set fun y => helmSkip len (setX rd (uwResult op (getX x a) (srcVal x b)) y)
  | .unary op half rd a =>
    let v := if half then unaryValue op 32 ((getX x a).toNat % 2 ^ 32) else unaryValue op 64 (getX x a).toNat
    set fun y => helmSkip len (setX rd (BitVec.ofNat 64 v) y)
  | .float op => set fun y => match floatRun y op with
      | some z => helmSkip len z
      | none => helmException 2 w y
  | .block kind rs =>
    let va := (getX x rs).toNat / 64 * 64
    if !blockAllowed kind x then set (helmException 2 w)
    else helmEnd h va (if kind = 4 then zeroBlock h va s else blockTouch s x va) fun _ s1 => modHelm s1 h (helmSkip len)
  | .nop => set (helmSkip len)
  | .load f sg n rd rs off =>
    if f && !floatOn x then set (helmException 2 w) else
    let va := (getX x rs + off).toNat
    helmEnd h va (helmLoad s h va (helmParts va n)) fun bs s1 =>
      modHelm s1 h fun y => helmSkip len (putLoaded f sg n rd (leNat bs) y)
  | .store f n src rs off =>
    if f && !floatOn x then set (helmException 2 w) else
    let va := (getX x rs + off).toNat
    let v := if f then getF x src else getX x src
    helmEnd h va (helmStore s h va (leBytes n v.toNat)) fun _ s1 => modHelm s1 h (helmSkip len)
  | .fence => if x.outb.isEmpty then set (helmSkip len) else s
  | .lr n rd rs rl =>
    let va := (getX x rs).toNat
    helmEnd h va (helmAtomic s h va n .load rl fun _ _ => none) fun r s1 =>
      modHelm s1 h fun y => helmSkip len (putLoaded false true n rd r.2 { y with resv := some (r.1 / 32 * 32) })
  | .sc n rd rs src rl =>
    let va := (getX x rs).toNat
    -- another package's write may have cleared it at a remote home
    let ok (pa : Nat) : Bool := x.resv = some (pa / 32 * 32) && !(isFabric pa && Config.freeBool s.freeCount)
    helmEnd h va (helmAtomic s h va n .atomic rl fun pa _ => if ok pa then some (getX x src).toNat else none) fun r s1 =>
      modHelm { s1 with freeCount := s1.freeCount + 1 } h fun y =>
        helmSkip len (setX rd (if ok r.1 then 0 else 1) { y with resv := none })
  | .amo op n rd rs src rl =>
    let va := (getX x rs).toNat
    helmEnd h va (helmAtomic s h va n .atomic rl fun _ old => some (amoValue op n old (getX x src).toNat)) fun r s1 =>
      modHelm s1 h fun y => helmSkip len (putLoaded false true n rd r.2 y)
  | .ecall => set (helmException (8 + x.priv) 0)
  | .ebreak => set (helmException 3 pc.toNat)
  | .mret => set (if x.priv = 3 then trapReturn 3 else helmException 2 w)
  | .sret => set (if 1 ≤ x.priv then trapReturn 1 else helmException 2 w)
  | .wfi => set (helmSkip len)
  | .csr op n rd src wr => set (helmCsr s h op n rd src wr len w)
  | .illegal => set (helmException 2 w)

/-! ## The turn of a helm core -/

/-- What a helm core's turn meets at its pc. -/
inductive HelmFetch where
  /-- it waits: for its commit, or for the grain at an address -/
  | wait (pa : Option Nat)
  | fault (cause va : Nat)
  | poison (pa va : Nat)
  | word (w : Nat)
  deriving DecidableEq, Repr

/-- Two bytes of an instruction. -/
def fetchHalf (s : State) (h : Nat) (x : Helm) (va : Nat) : HelmFetch :=
  match helmTranslate s x va .fetch with
  | .fault c => .fault c va
  | .ok pa _ _ _ _ =>
    if viaWindow s pa then
      match agentRead s (helmSrc h x) pa 2 with
      | .error _ => .wait (some pa)
      | .ok r => if r.bad.isSome then .poison pa va else .word (leNat r.bytes)
    else if !backed s pa || linePoisoned s (pa / 64 * 64) then .poison pa va
    else if !readableNow s none (some h) pa 2 512 then .wait (some pa)
    else .word (readLe s.mem pa 2)

/-- The word at a helm core's pc: 16 bits, or 32 where the low two are ones. A committing transaction waits (R314). -/
def helmFetch (s : State) (h : Nat) (x : Helm) : HelmFetch :=
  let va := x.regs.pc.toNat
  if x.ticket.isSome then .wait none
  else if va % 2 ≠ 0 then .fault 0 va
  else match fetchHalf s h x va with
    | .word lo =>
      if lo % 4 ≠ 3 then .word lo
      else match fetchHalf s h x (va + 2) with
        | .word hi => .word (lo + 2 ^ 16 * hi)
        | f => f
    | f => f

/-- The entries that the fetch's walks used are marked as used (R324). -/
def noteFetch (s : State) (x : Helm) : State :=
  match helmTranslate s x x.regs.pc.toNat .fetch with
  | .ok _ _ _ _ walk => setPath none walk false s
  | .fault _ => s

/-- Whether the model holds a base instruction: a control and status register among those it has. -/
def baseHeld (op : HelmOp) : Bool :=
  match op with
  | .csr _ n _ _ _ => csrKnown n
  | _ => true

/-- A helm core's turn that does not run a word of the extension. A reserved encoding of the extension's opcode is an
illegal instruction, or aborts with UNSUPP where funct3 is 4 to 7 (R313). (log 8: PRESUMED, unsafe) -/
def helmOther (s : State) (h : Nat) (x : Helm) : HelmFetch → Out
  | .wait none => .next s
  | .wait (some pa) =>
    .next ((if viaWindow s pa then unblock s (.read (helmSrc h x) pa 2) else askOnceBy s (some h) pa 2 512).getD s)
  | .fault c va => .next (modHelm (if c = 12 then helmFailed s x va else s) h (helmException c va))
  | .poison pa va => .next (modHelm (faultQueue s pa 3 (faultSource pa)) h (helmException 1 va))
  | .word w =>
    if isCustom0 w then
      .next (modHelm s h (if x.depth ≠ 0 && 4 ≤ w / 2 ^ 12 % 8 then helmAbort 0x0A else helmException 2 w))
    else if x.depth ≠ 0 && helmForbidden w then .next (modHelm s h (helmAbort 0x0A))
    else match decodeBase w with
      | some (op, len) => if baseHeld op then .next (helmRun (noteFetch s x) h x op len w) else .refused (.helmBaseInstruction w)
      | none => .refused (.helmBaseInstruction w)

end Sys2Proof.Machine
end

