-- ==== Sys2Proof/Machine/System.lean ====
section
/-! DEFINITION. Control registers (10 R224 to R226; 12 R269, R270), the mailbox and system calls (R227, R228, R230), SRET
(R229), translation invalidation (R234), asynchronous causes and the trap ring (R220 to R222). -/

namespace Sys2Proof.Machine

/-! ## Bearings (R4) -/

/-- Whether lane `a` precedes lane `b`: the greater depth, then the lower PC. -/
def precedes (a b : Lane) : Bool := b.depth < a.depth || (a.depth = b.depth && a.pc.toNat < b.pc.toNat)

/-- The first lane of a mask in bearing order. -/
def leadOf (g : Grp) (m : Mask) : Option Nat :=
  (lanesOf m).foldl (fun b l => match b with
    | none => some l
    | some k => if precedes (laneAt g l) (laneAt g k) then some l else some k) none

/-- The last lane of a mask in bearing order. -/
def lastOf (g : Grp) (m : Mask) : Option Nat :=
  (lanesOf m).foldl (fun b l => match b with
    | none => some l
    | some k => if precedes (laneAt g k) (laneAt g l) then some l else some k) none

/-- The ready lanes of a group (R77). -/
def readyMask (g : Grp) : Mask := lanesWhere g fun ln => ln.status = .live && ln.wait = .ready

/-- The lanes of a mask that stand at the PC of lane `l`. -/
def samePc (g : Grp) (m : Mask) (l : Nat) : Mask := maskOf fun k => m.getLsbD k && (laneAt g k).pc = (laneAt g l).pc

/-- The set that issues next: of a REP, of a tack, or the lead's (R4, R83, R99). -/
def nextSet (g : Grp) : Mask :=
  match g.rep with
  | some r => r.set
  | none =>
    match g.tack with
    | some t => t.set
    | none =>
      match leadOf g (readyMask g) with
      | some l => samePc g (readyMask g) l
      | none => 0

/-- The PC of the word that a group issues next; with no lane ready, that of its lowest live lane (R220). (log 50:
DEDUCED, unsafe) -/
def nextPc (g : Grp) : Dword :=
  match lowest (nextSet g) with
  | some l => (laneAt g l).pc
  | none => match lowest (liveMask g) with
    | some l => (laneAt g l).pc
    | none => 0

/-! ## Control registers (R224 to R226, R269, R270) -/

/-- Voyagers in the berth now. -/
def berthCount (x : Core) : Nat :=
  match x.voyage with
  | some v => v.berth.length + (v.due.map (·.length)).sum
  | none => 0

/-- (log 5: DESIGN CHOICE, unsafe) -/
def placeVal (c k : Nat) (g : Grp) : Nat := c * 2 ^ 24 + g.team % 256 * 2 ^ 16 + slotWord k

/-- A register of the user view, as CRD reads it. -/
def userVal (s : State) (c k : Nat) (g : Grp) (ln : Lane) : UReg → Nat
  | .lsw => ln.lsw.toNat
  | .ftz => g.ftz.toNat
  | .fair => g.fair.toNat
  | .rdvz => g.rdvz.toNat
  | .dmr => g.dmr.toNat
  | .dmrc => g.dmrc.toNat
  | .dmra => g.dmra.toNat
  | .hint => g.hint.toNat
  | .spill => g.spill.toNat
  | .tretry => g.tretry.toNat
  | .mer => meridian s
  | .grid => g.grid.toNat
  | .place => placeVal c k g
  | .vdep => (coreAt s c).vdep.toNat
  | .varr => (coreAt s c).varr.toNat
  | .vhar => (coreAt s c).vhar.toNat
  | .vmus => (coreAt s c).vmus.toNat
  | .vber => (coreAt s c).vber.toNat / 2 ^ 16 * 2 ^ 16 + berthCount (coreAt s c)
  | .vgen => (coreAt s c).vgen.toNat

def cregVal (s : State) (c k : Nat) (g : Grp) (ln : Lane) : CReg → Nat
  | .user r | .sv r => userVal s c k g ln r
  | .tring => (coreAt s c).tring.toNat
  | .trptr => (coreAt s c).tail * 2 ^ 32 + (coreAt s c).head
  | .stage => (coreAt s c).stage.toNat

/-- Whether an index lies in the supervisor view. -/
def viewRefused (g : Grp) (r : CReg) : Bool := r.supervisor && !g.supervisor

def cregUser : CReg → Option UReg
  | .user r | .sv r => some r
  | _ => none

/-- CRD. (log 48: DEDUCED, unsafe) -/
def execCrd (g : Guard) (d : Reg) (r : CReg) (s : State) : Out :=
  withWord (.crd g d r) s fun gr gm =>
    if viewRefused gr r && gm ≠ 0 then trap s 0x13 gm 0 0
    else
      let n := regs12 r.w64
      finishWord (modCur s (putAll s gm (some (d, n)) fun e =>
        .ofNat (cregVal s s.cur.core s.cur.slot e.grp e.lane r)))

/-- The bits [hi:lo] of a value, in place. -/
def keepBits (v hi lo : Nat) : Nat := bitsOf v hi lo * 2 ^ lo

/-- A group's own register takes the RW fields of a value; `sv` is the supervisor view. -/
def writeGrpReg (r : UReg) (sv : Bool) (v : Nat) (g : Grp) : Grp :=
  match r with
  | .ftz => { g with ftz := BitVec.ofNat 32 (keepBits v 2 0) }
  | .fair => { g with fair := BitVec.ofNat 32 (keepBits v 15 0) }
  | .rdvz => { g with rdvz := BitVec.ofNat 32 v }
  | .dmr => { g with dmr := BitVec.ofNat 32 (keepBits v 1 0) }
  | .dmrc => { g with dmrc := BitVec.ofNat 64 v }
  | .dmra => { g with dmra := BitVec.ofNat 64 v }
  | .hint => { g with hint := BitVec.ofNat 64 v }
  | .spill => if sv then { g with spill := BitVec.ofNat 64 (keepBits v 56 12 + keepBits v 4 0) } else g
  | .tretry => { g with tretry := BitVec.ofNat 32 (keepBits v 31 16 + keepBits v 3 0) }
  | _ => g

/-- A voyage register of the core, through the supervisor view. -/
def writeVoyReg (r : UReg) (v : Nat) (x : Core) : Core :=
  match r with
  | .vdep => { x with vdep := BitVec.ofNat 64 v }
  | .varr => { x with varr := BitVec.ofNat 64 v }
  | .vhar => { x with vhar := BitVec.ofNat 64 v }
  | .vmus => { x with vmus := BitVec.ofNat 64 v }
  | .vber => { x with vber := BitVec.ofNat 32 (keepBits v 24 16) }
  | _ => x

/-- A ring's HEAD after a write: past TAIL it becomes TAIL. -/
def newHead (tail head v : Nat) : Nat :=
  if (tail + 2 ^ 32 - head) % 2 ^ 32 < (v % 2 ^ 32 + 2 ^ 32 - head) % 2 ^ 32 then tail else v % 2 ^ 32

/-- A CWR of a register other than cr.lsw. -/
def writeCreg (s : State) (r : CReg) (v : Nat) : State :=
  let c := s.cur.core
  match r with
  | .user u => modCur s (writeGrpReg u false v)
  | .sv u => modCore (modCur s (writeGrpReg u true v)) c (writeVoyReg u v)
  | .tring => modCore s c fun x => { x with tring := BitVec.ofNat 64 (keepBits v 56 12 + keepBits v 3 0) }
  | .trptr => modCore s c fun x => { x with head := newHead x.tail x.head v }
  | .stage => modCore s c fun x => { x with stage := BitVec.ofNat 64 (keepBits v 56 16) }

/-- A lane's LSW takes the sticky flags of a value. -/
def writeLsw (v : Nat) (ln : Lane) : Lane := { ln with lsw := BitVec.ofNat 32 (ln.lsw.toNat / 2 ^ 6 * 2 ^ 6 + v % 2 ^ 6) }

/-- CWR: cr.lsw in each lane; any other register once. (log 48: DEDUCED, unsafe) -/
def execCwr (g : Guard) (r : CReg) (a : Operand) (s : State) : Out :=
  withWord (.cwr g r a) s fun gr gm =>
    if viewRefused gr r && gm ≠ 0 then trap s 0x13 gm 0 0
    else if cregUser r = some .lsw then
      finishWord (modCur s (mapLanes gm fun l ln => writeLsw (opI (envOf s gr l) 1 a) ln))
    else match lowest gm with
      | none => finishWord s
      | some l => finishWord (writeCreg s r (opI (envOf s gr l) (regs12 r.w64) a))

/-! ## The mailbox and SYSC (R227, R228) -/

/-- The KIND of a record. -/
def recKind (r : List Byte) : Nat := fieldAt r 0 2

/-- Whether the mailbox has an entry for a record. -/
def mailRoom (x : Core) (kind : Nat) : Bool :=
  x.mailbox.length < 32 && (kind ≠ 1 || (x.mailbox.filter fun r => recKind r = 1).length < 24)

/-- A system call's record. -/
def callRecord (k : Nat) (g : Grp) (n : Word) (a : SReg) : List Byte :=
  leBytes 2 1 ++ leBytes 1 (k / 8) ++ leBytes 1 (k % 8) ++ leBytes 4 n.toNat ++ leBytes 8 g.grid.toNat
    ++ leBytes 48 (getS g a.val 12)

/-- SYSC. Its earlier stores are performed when it issues (`holds`). -/
def execSysc (g : Guard) (n : Word) (d a : SReg) (s : State) : Out :=
  withWord (.sysc g n d a) s fun gr gm => withoutTxn 0x0A s gr gm fun s gr gm =>
    let c := s.cur.core
    if gm = 0 then finishWord s
    else if gr.supervisor then trap s 0x13 gm 0 0
    else if gr.sysc.isSome || !mailRoom (coreAt s c) 1 then
      modCur s fun g2 => parkLanes (s.cur.mask &&& ~~~passing s gr gm) (fun _ => .mailbox) (advance (passing s gr gm) g2)
    else
      let s1 := modCore s c fun x => { x with mailbox := x.mailbox ++ [callRecord s.cur.slot gr n a] }
      modCur s1 fun g2 =>
        { parkLanes gm (fun _ => .sysc) (advance (s.cur.mask &&& ~~~gm) g2) with sysc := some d.val }

/-- A post from another agent: it is held at its sender until it enters. -/
def postTo (s : State) (c : Nat) (r : List Byte) : State := modCore s c fun x => { x with posts := x.posts ++ [r] }

/-! ## The supervisor's words (R223) -/

/-- The frame of a supervisor form: PRIV in a user group; it takes effect once, for the lowest lane with a true guard.
(log 48: DEDUCED, unsafe) -/
def svWord (i : Instr) (s : State) (body : Grp → Mask → State) : Out :=
  withWord i s fun g gm => supervisorOnly s g gm (body g gm)

/-- Write a status to a scalar register, and go on. -/
def status (d : SReg) (v : Nat) (s : State) : State := finishWord (modCur s fun g => putS g d.val 1 v)

/-- The user group that a slot word names (R225, R229). -/
def targetOf (s : State) (w : Nat) : Option (Nat × Grp) :=
  match slotOf w with
  | none => none
  | some k => (grpAt s s.cur.core k).map fun g => (k, g)

/-- SRET.REPLY's effect: the lanes parked at the SYSC are ready past it. -/
def replyGrp (v : Nat) (g : Grp) : Grp :=
  match g.sysc with
  | none => g
  | some d =>
    { putS g d 2 v with
      sysc := none
      lanes := g.lanes.map fun ln => if ln.wait = .sysc then { ln with wait := .ready, pc := ln.pc + 8 } else ln }

/-- SRET.REPLY. -/
def execSretReply (g : Guard) (d a b : SReg) (s : State) : Out :=
  svWord (.sretReply g d a b) s fun gr _ =>
    match targetOf s (getS gr a.val 1) with
    | none => status d 1 s
    | some (k, t) =>
      if t.sysc.isNone then status d 2 s
      else status d 0 (modGrp s s.cur.core k (replyGrp (getS gr b.val 2)))

/-- Whether a job's own fault is still held for its group. -/
def faultHeld (g : Grp) (j : Job) : Bool :=
  g.causes.any fun r => r.kind = 1 && r.mask = 0 && r.cause ≠ 0x16 && r.info = (match j.kind with
    | .cpy .. => 0xFF
    | .sweep h .. => h.val)

/-- SRET.RESUME's effect; the engine's work that a served fault had paused goes on (R194, R198). -/
def resume (s : State) (c k : Nat) (skip : Bool) : State :=
  match grpAt s c k with
  | none => s
  | some g =>
    let s1 := setGrp s c k (some (resumeGroup s.clock skip g))
    modCore s1 c fun x => { x with jobs := x.jobs.map fun j =>
      if j.slot = k then { j with paused := j.paused && faultHeld g j } else j }

/-- Whether the record of a slot is still held by the core (R221). (log 47: DEDUCED, unsafe) -/
def recordHeld (x : Core) (k : Nat) : Bool := x.records.any fun r => r.slot = k

/-- SRET.RESUME. A group whose record is still held stays stopped (R221). (log 47: DEDUCED, unsafe) -/
def execSretResume (g : Guard) (skip : Bool) (d a : SReg) (s : State) : Out :=
  svWord (.sretResume g skip d a) s fun gr _ =>
    match targetOf s (getS gr a.val 1) with
    | none => status d 1 s
    | some (k, t) =>
      if t.stop.isNone || recordHeld (coreAt s s.cur.core) k then status d 2 s
      else status d 0 (resume s s.cur.core k skip)

/-- The engine work of a slot stops. -/
def dropWork (k now : Nat) (x : Core) : Core :=
  let mops := x.mops.filter fun m => m.slot ≠ k
  { x with
    mops := mops
    grantAt := if x.owner = none && mops.isEmpty && !x.mops.isEmpty then now + 8 else x.grantAt
    jobs := x.jobs.filter fun j => j.slot ≠ k }

/-- The watches of a slot's parked lanes end. -/
def dropWatches (s : State) (c k : Nat) (m : Mask) : State :=
  syncWatches (modCore s c fun x => { x with pend := x.pend.filter fun a =>
    !(a.slot = k && m.getLsbD a.lane && match a.kind with | .waitv _ _ => true | _ => false) }) c

/-- SRET.DROP's effect. (log 57: DEDUCED, unsafe) -/
def dropGroup (s : State) (c k : Nat) : State :=
  match grpAt s c k with
  | none => s
  | some _ =>
    let out := ~~~ticketedLanes s c k
    let s1 := abortLanes s c k out 0x07
    let s2 := (lanesOf out).foldl (fun s l => leaveAnchors s (c, k, l)) s1
    let s3 := dropWatches (modCore s2 c (dropWork k s.clock)) c k full
    let s4 := modGrp s3 c k fun g =>
      { g with dropped := true, stop := none, causes := [], rdv := none, outs := [], bars := [], rep := none, tack := none,
               sysc := none, growth := none }
    settleDropped c k (releaseEngine s4 c k)

/-- SRET.DROP. -/
def execSretDrop (g : Guard) (d a : SReg) (s : State) : Out :=
  svWord (.sretDrop g d a) s fun gr _ =>
    match targetOf s (getS gr a.val 1) with
    | none => status d 1 s
    | some (k, _) => dropGroup (status d 0 s) s.cur.core k

/-! ## MBOX (R230) -/

def ringCount (x : Core) : Nat := (x.tail + 2 ^ 32 - x.head) % 2 ^ 32

/-- The mailbox's status word. -/
def mboxStatus (x : Core) : Nat := x.mailbox.length % 256 + ringCount x % 2 ^ 24 * 2 ^ 8

def mboxWakes (x : Core) : Bool := !x.mailbox.isEmpty || ringCount x ≠ 0

/-- MBOX.WAIT. -/
def execMboxWait (g : Guard) (d : SReg) (s : State) : Out :=
  svWord (.mboxWait g d) s fun _ gm =>
    let x := coreAt s s.cur.core
    if mboxWakes x then status d (mboxStatus x) s
    else modCur s fun g2 =>
      parkLanes gm (fun l => .mbox d.val (lowest gm = some l)) (advance (s.cur.mask &&& ~~~gm) g2)

/-- Lanes parked at MBOX.WAIT go on once there is something to read. -/
def wakeMbox (x : Core) (g : Grp) : Grp :=
  if !mboxWakes x then g
  else (List.range 64).foldl (fun g l =>
    match (laneAt g l).wait with
    | .mbox d lead =>
      let g1 := modLane g l fun ln => { ln with wait := .ready, pc := ln.pc + 8 }
      if lead then putS g1 d 1 (mboxStatus x) else g1
    | _ => g) g

/-- MBOX.POP: an offset that is no place for a record in the allotment writes 2. (log 49: DEDUCED, unsafe) -/
def execMboxPop (g : Guard) (d a : SReg) (s : State) : Out :=
  svWord (.mboxPop g d a) s fun gr _ =>
    let c := s.cur.core
    let off := getS gr a.val 1
    let shared := ((teamAt s c gr.team).map (·.shared)).getD 0
    if off % 64 ≠ 0 || shared < off + 64 then status d 2 s
    else match (coreAt s c).mailbox with
      | [] => status d 0 s
      | r :: rs =>
        match directPut s (.word c s.cur.slot) (.scr c gr.team off) r with
        | .error b => stalled ((unblock s b).getD s)
        | .ok s1 => status d 1 (modCore s1 c fun x => { x with mailbox := rs })

/-- MBOX.STAT. -/
def execMboxStat (g : Guard) (d : SReg) (s : State) : Out :=
  svWord (.mboxStat g d) s fun _ _ => status d (mboxStatus (coreAt s s.cur.core)) s

/-! ## TINV (R234) -/

/-- The entries of the TLB that a TINV removes: all, or those whose page covers an address. (log 51: DEDUCED, unsafe)
-/
def tinvHits (page : Option Nat) (e : TlbEntry) : Bool :=
  match page with
  | none => true
  | some va => leafCovers e.leaf va

/-- Whether an access used an entry: of its grid's address space, and on its page. (log 51: DEDUCED, unsafe) -/
def usedEntry (s : State) (es : List TlbEntry) (a : Acc) : Bool :=
  es.any fun e => e.asid = rootAsid (gridRoot s a.grid) && leafCovers e.leaf a.va

/-- TINV's effect: the entries go, and the lanes wait for the accesses that used them. (log 51: DEDUCED, unsafe) -/
def tinv (page : Option Nat) (s : State) (gm : Mask) : State :=
  let c := s.cur.core
  let x := coreAt s c
  let gone := x.tlb.filter (tinvHits page)
  let ids := ((x.pend ++ x.outb).filter fun a => scrCore a.place = none && a.grid ≠ 0 && usedEntry s gone a).map (·.id)
  let s1 := modCore s c fun y => { y with tlb := y.tlb.filter fun e => !tinvHits page e }
  if ids.isEmpty then finishWord s1
  else modCur s1 fun g2 => parkLanes gm (fun _ => .tinv ids) (advance (s.cur.mask &&& ~~~gm) g2)

/-- TINV.ALL. -/
def execTinvAll (g : Guard) (s : State) : Out := svWord (.tinvAll g) s fun _ gm => tinv none s gm
/-- TINV.PAGE. -/
def execTinvPage (g : Guard) (a : SReg) (s : State) : Out :=
  svWord (.tinvPage g a) s fun gr gm => tinv (some (getS gr a.val 2)) s gm

/-- A lane parked at TINV goes on once none of its accesses is left. -/
def wakeTinv (x : Core) (ln : Lane) : Lane :=
  match ln.wait with
  | .tinv ids =>
    if (x.pend ++ x.outb).any fun a => ids.contains a.id then ln else { ln with wait := .ready, pc := ln.pc + 8 }
  | _ => ln

/-! ## Asynchronous causes and the trap ring (R220 to R222) -/

/-- The first cause that a group holds stops it, with the PC of its next word. (log 50: DEDUCED, unsafe) -/
def takeHeld (s : State) (c k : Nat) (g : Grp) : State :=
  match g.causes with
  | [] => s
  | r :: rs => takeTrap (setGrp s c k (some { g with causes := rs })) c k { r with pc := nextPc g }

/-- ASYNC_TRAP: at an issue opportunity of the group. -/
def evAsyncTrap (c k : Nat) (s : State) : Option State :=
  match grpAt s c k with
  | none => none
  | some g => if running g && !g.causes.isEmpty then some (takeHeld s c k g) else none

/-- A trap record's 64 bytes (R221). -/
def recordBytes (now : Nat) (r : TrapRec) : List Byte :=
  leBytes 8 r.mask.toNat ++ leBytes 8 r.pc.toNat ++ leBytes 8 r.addr ++ leBytes 8 r.info ++ leBytes 1 r.cause
    ++ leBytes 1 r.kind ++ leBytes 1 (r.slot / 8) ++ leBytes 1 (r.slot % 8) ++ leBytes 1 r.team ++ leBytes 3 0
    ++ leBytes 8 now ++ leBytes 8 r.grid.toNat ++ leBytes 8 0

/-- Whether the register writes of a group's earlier words have landed. -/
def writesLanded (x : Core) (k : Nat) : Bool :=
  ((grpIn x k).all fun g => g.outs.isEmpty) && !x.pend.any fun a => a.slot = k && isLoadLike a && (match a.kind with | .waitv _ _ => false | _ => true)

/-- A page that a stopped group needs, and that the helm kernel has made present: the reply that the kernel posts (R338). -/
def servedReply (s : State) (c k : Nat) : Option (List Byte) :=
  match grpAt s c k with
  | none => none
  | some g => match g.stop with
    | none => none
    | some r =>
      let filled : Bool := match findLeaf s c g.grid r.addr with | .leaf .. => true | _ => false
      if !g.supervisor && (r.cause = 0x0D || r.cause = 0x05) && !recordHeld (coreAt s c) k && filled then
        some (leBytes 2 2 ++ leBytes 1 (k / 8) ++ leBytes 1 (k % 8) ++ leBytes 4 1 ++ leBytes 8 g.grid.toNat ++ leBytes 8 r.addr
          ++ leBytes 40 0)
      else none

/-- MAILBOX_POST: the oldest remote post held for a core enters its mailbox once there is an entry for it. With none
held, the helm kernel posts that it has served the fault of a group of the core, where it has and no such record
stands in the mailbox (R338). (log 122: DEDUCED, safe) -/
def evMailboxPost (c : Nat) (s : State) : Option State :=
  let x := coreAt s c
  match x.posts with
  | [] =>
    ((List.range 96).findSome? fun k => (servedReply s c k).filter fun r => !x.mailbox.contains r).bind fun r =>
      if mailRoom x 2 then some (modCore s c fun y => { y with mailbox := y.mailbox ++ [r] }) else none
  | r :: rs =>
    if mailRoom x (recKind r) then some (modCore s c fun y => { y with mailbox := y.mailbox ++ [r], posts := rs }) else none

/-- TRAP_RECORD_WRITE: the oldest record goes to the ring, and TAIL rises. -/
def evTrapRecordWrite (c : Nat) (s : State) : Option State :=
  let x := coreAt s c
  match x.records with
  | [] => none
  | r :: rs =>
    if !writesLanded x r.slot then none
    else match ringSlot x.tring x.tail x.head with
      | none => none
      | some i =>
        let pa := bitsOf x.tring.toNat 56 12 * 4096 + 64 * i
        match directWrite s (.turn (.trapRecordWrite c) x.tail) pa (recordBytes (meridian s) r) with
        | .error b => unblock s b
        | .ok s1 => some (modCore s1 c fun y => { y with records := rs, tail := (y.tail + 1) % 2 ^ 32 })

/-- ASYNC_TRAP. -/
def execAsyncTrap (c k : Nat) (s : State) : Out := stepOr s (evAsyncTrap c k s)
/-- TRAP_RECORD_WRITE. -/
def execTrapRecordWrite (c : Nat) (s : State) : Out := stepOr s (evTrapRecordWrite c s)
/-- MAILBOX_POST. -/
def execMailboxPost (c : Nat) (s : State) : Out := stepOr s (evMailboxPost c s)

end Sys2Proof.Machine
end

