-- ==== Sys2Proof/Machine/Record.lean ====
section
/-! DEFINITION. The launch record and its checks (18 R327, R328), the voyage chart (12 R250), the rectangle of a cluster
(R244, R245), and the groups that a launch or a muster starts (04 R75; 06 R135, R136; 18 R336). -/

namespace Sys2Proof.Machine

/-! ## The launch record (R327) -/

def recEntry (r : List Byte) : Nat := fieldAt r 0 8
def recChart (r : List Byte) : Nat := fieldAt r 16 8
def recGx (r : List Byte) : Nat := fieldAt r 24 2
def recGy (r : List Byte) : Nat := fieldAt r 26 2
def recGz (r : List Byte) : Nat := fieldAt r 28 2
def recCw (r : List Byte) : Nat := fieldAt r 30 1
def recCh (r : List Byte) : Nat := fieldAt r 31 1
def recGpt (r : List Byte) : Nat := fieldAt r 32 1
def recPrio (r : List Byte) : Nat := fieldAt r 33 1 % 8
def recVoyage (r : List Byte) : Bool := Nat.testBit (fieldAt r 33 1) 3
def recPlace (r : List Byte) : Nat := bitsOf (fieldAt r 33 1) 5 4
def recRegs (r : List Byte) : Nat := fieldAt r 34 2
def recScal (r : List Byte) : Nat := fieldAt r 36 2
def recRetain (r : List Byte) : Nat := fieldAt r 38 2
def recShared (r : List Byte) : Nat := fieldAt r 40 4
def recArgc (r : List Byte) : Nat := fieldAt r 44 1
def recNdep (r : List Byte) : Nat := fieldAt r 45 1
def recNman (r : List Byte) : Nat := fieldAt r 46 1
def recDcond (r : List Byte) (i : Nat) : Nat := fieldAt r 47 1 / 4 ^ i % 4
def recSpill (r : List Byte) : Nat := fieldAt r 48 8
def recDone (r : List Byte) : Nat := fieldAt r 56 8
def recArg (r : List Byte) (i : Nat) : Nat := fieldAt r (64 + 4 * i) 4
def recDepAddr (r : List Byte) (i : Nat) : Nat := fieldAt r (128 + 16 * i) 8
def recDepVal (r : List Byte) (i : Nat) : Nat := fieldAt r (136 + 16 * i) 8
def recManStart (r : List Byte) (i : Nat) : Nat := fieldAt r (192 + 16 * i) 8
def recManLen (r : List Byte) (i : Nat) : Nat := fieldAt r (200 + 16 * i) 8
def recDonev (r : List Byte) : Nat := fieldAt r 448 8

/-- Clusters of a grid, and cores of a cluster. -/
def recClusters (r : List Byte) : Nat := recGx r * recGy r * recGz r
def recCores (r : List Byte) : Nat := recCw r * recCh r

/-- A whole launch record from what was read of it. -/
def pad512 (r : List Byte) : List Byte := r ++ List.replicate (512 - r.length) 0

/-- The manifest ranges, as (start, length). -/
def recRanges (r : List Byte) : List (Nat × Nat) :=
  (List.range (recNman r)).map fun i => (recManStart r i, recManLen r i)

/-- Whether ranges are nonempty and disjoint. -/
def rangesOk : List (Nat × Nat) → Bool
  | [] => true
  | a :: rs => a.2 ≠ 0 && (rs.all fun b => !(a.1 < b.1 + b.2 && b.1 < a.1 + a.2)) && rangesOk rs

/-- LNCH's checks of a record's snapshot (R328). -/
def recordOk (r : List Byte) : Bool :=
  recEntry r % 8 = 0 && canonical (recEntry r)
    && bitsOf (fieldAt r 8 8) 63 60 = 10
    && recChart r % 64 = 0 && (recVoyage r = (recChart r ≠ 0))
    && recGx r ≠ 0 && recGy r ≠ 0 && recGz r ≠ 0
    && 1 ≤ recCw r && recCw r ≤ 8 && 1 ≤ recCh r && recCh r ≤ 6 && recCores r ≤ 12
    && 1 ≤ recGpt r && recGpt r ≤ 32 && (!recVoyage r || recGpt r = 1)
    && fieldAt r 33 1 / 2 ^ 6 = 0
    && 8 ≤ recRegs r && recRegs r ≤ 256 && recRegs r % 8 = 0
    && 16 ≤ recScal r && recScal r ≤ 192 && recScal r % 16 = 0
    && recRetain r ≤ 2048
    && recShared r ≤ 1310720 && recShared r % 512 = 0
    && recArgc r ≤ 16 && recNdep r ≤ 4 && recNman r ≤ 16
    && recDone r % 16 = 0
    && ((List.range 4).all fun i =>
        if i < recNdep r then recDepAddr r i % 8 = 0 else recDepAddr r i = 0 && recDepVal r i = 0)
    && ((List.range 16).all fun i => i < recNman r || (recManStart r i = 0 && recManLen r i = 0))
    && rangesOk (recRanges r)
    && ((r.drop 456).take 56).all (· = 0)
    && recClusters r * recCores r * recGpt r * 64 ≤ 2 ^ 32

/-! ## The chart (R250) -/

/-- Segment entry `i` of a chart's bytes. -/
def decodeSegment (bs : List Byte) (i : Nat) : Segment :=
  let o := 64 + 32 * i
  { start := fieldAt bs o 8, len := fieldAt bs (o + 8) 4,
    holders := (List.range (fieldAt bs (o + 12) 1)).map fun j => fieldAt bs (o + 16 + j) 1,
    select := fieldAt bs (o + 13) 1, nfixed := fieldAt bs (o + 14) 1 }

def decodeChart (bs : List Byte) : Chart :=
  { gen := fieldAt bs 4 2, muster := fieldAt bs 8 4, spare := fieldAt bs 12 2, harbour := fieldAt bs 16 8,
    fpc := fieldAt bs 24 4, hstride := fieldAt bs 32 8,
    segs := (List.range (fieldAt bs 6 1)).map (decodeSegment bs) }

/-- The fibres of a cluster at launch: 64 for each holder of the segment that holds the entry (R251). (log 53:
DEDUCED, unsafe) -/
def entryFibres (ch : Chart) (entry : Nat) : Nat :=
  match segmentOf ch entry with
  | some sg => 64 * sg.holders.length
  | none => 0

/-- Whether a segment entry of a chart's bytes holds values of the table. -/
def segmentOk (bs : List Byte) (cores i : Nat) : Bool :=
  let o := 64 + 32 * i
  let sg := decodeSegment bs i
  let n := fieldAt bs (o + 12) 1
  sg.start % 8 = 0 && sg.len % 8 = 0 && 8 ≤ sg.len && sg.len ≤ 98304 && 1 ≤ n && n ≤ 4 && sg.select ≤ 1
    && 1 ≤ sg.nfixed && sg.nfixed ≤ n && fieldAt bs (o + 15) 1 = 0 && fieldAt bs (o + 20) 12 = 0
    && ((List.range 4).all fun j => if j < n then fieldAt bs (o + 16 + j) 1 < cores else fieldAt bs (o + 16 + j) 1 = 0xFF)

/-- Whether segments are pairwise disjoint. -/
def segmentsApart : List Segment → Bool
  | [] => true
  | a :: rs => (rs.all fun b => !(a.start < b.start + b.len && b.start < a.start + a.len)) && segmentsApart rs

/-- Whether a chart's bytes keep R250's table, for a cluster of `cores` cores. -/
def chartShape (bs : List Byte) (cores : Nat) : Bool :=
  let ch := decodeChart bs
  let hold := ch.segs.flatMap (·.holders)
  fieldAt bs 0 4 = 0x10000 && 1 ≤ ch.segs.length && ch.segs.length ≤ 12 && fieldAt bs 7 1 = 0
    && ch.spare / 2 ^ 12 = 0 && fieldAt bs 14 2 = 0 && ch.harbour % 4096 = 0 && fieldAt bs 28 4 = 0
    && fieldAt bs 40 24 = 0 && ((List.range ch.segs.length).all (segmentOk bs cores))
    && segmentsApart ch.segs && hold.length = hold.dedup.length
    && ((List.range 12).all fun c => !Nat.testBit ch.spare c || (c < cores && !hold.contains c))
    && ch.hstride % 4096 = 0 && 256 * ch.fpc + 12 * (64 + 4 * ch.fpc) ≤ ch.hstride

/-- Whether a chart keeps R250 at launch. (log 53: DEDUCED, unsafe) -/
def chartOk (bs : List Byte) (cores entry : Nat) : Bool :=
  chartShape bs cores && (decodeChart bs).fpc = entryFibres (decodeChart bs) entry

/-- A chart's bytes. -/
def encodeChart (ch : Chart) : List Byte :=
  leBytes 4 0x10000 ++ leBytes 2 ch.gen ++ leBytes 1 ch.segs.length ++ leBytes 1 0 ++ leBytes 4 ch.muster
    ++ leBytes 2 ch.spare ++ leBytes 2 0 ++ leBytes 8 ch.harbour ++ leBytes 4 ch.fpc ++ leBytes 4 0
    ++ leBytes 8 ch.hstride ++ leBytes 24 0
    ++ ch.segs.flatMap fun sg =>
      leBytes 8 sg.start ++ leBytes 4 sg.len ++ leBytes 1 sg.holders.length ++ leBytes 1 sg.select
        ++ leBytes 1 sg.nfixed ++ leBytes 1 0
        ++ ((List.range 4).flatMap fun j => leBytes 1 (sg.holders.getD j 0xFF)) ++ leBytes 12 0

/-! ## Places (R244, R245) -/

/-- The vector core at a router; none in the helm row. -/
def coreOfRouter (die col row : Nat) : Nat := 88 * die + 8 * (if row < 6 then row else row - 1) + col

/-- Whether a rectangle lies on one die's routers, clear of the helm row. -/
def rectOk (p : Placement) (w h : Nat) : Bool :=
  p.col + w ≤ 8 && (p.row + h ≤ 6 || (7 ≤ p.row && p.row + h ≤ 12))

/-- The physical cores of a rectangle, by cluster core index. -/
def rectCores (p : Placement) (w h : Nat) : List Nat :=
  (List.range (w * h)).map fun c => coreOfRouter p.die.val (p.col + c % w) (p.row + c / w)

/-- The vector cores of a dispatch region (R334). -/
def regionCores (die r : Nat) : List Nat :=
  (List.range 88).filterMap fun i => if i % 8 / 2 = r then some (88 * die + i) else none

/-! ## Room and placement of groups (R135, R162, R334) -/

/-- Scratchpad in use on a core by the teams of grids: the supervisor's own team is not among them. -/
def sharedUsed (x : Core) : Nat := ((x.teams.filter fun t => t.num < 128).map (·.shared)).sum

def sharedRoom (x : Core) (n : Nat) : Bool := sharedUsed x + n ≤ 1310720

/-- The lowest free slot of a partition. -/
def freeSlotIn (x : Core) (p : Nat) : Option Nat :=
  ((List.range 8).map fun i => 8 * p + i).find? fun k => k ≠ 0 && (grpIn x k).isNone

/-- The slot that a group of `units` register units takes: in the lowest partition that has room. -/
def placeFor (x : Core) (units : Nat) : Option Nat :=
  (List.range 12).findSome? fun p => if units ≤ freeUnits x p then freeSlotIn x p else none

/-- A group placed in a slot, youngest of its core. -/
def putNew (x : Core) (k : Nat) (g : Grp) : Core :=
  { x with groups := x.groups.set k (some g), ages := x.ages.filter (· ≠ k) ++ [k] }

/-- The group that a launch record starts, with its lanes still idle. -/
def recGroup (r : List Byte) (id : Dword) (team index : Nat) : Grp :=
  { Grp.fresh with
    grid := id, team := team, index := index, prio := recPrio r, alloc := recRegs r, scal := recScal r,
    sregs := (List.range (min (recArgc r) (recScal r))).foldl (fun m i => sset m i (BitVec.ofNat 32 (recArg r i))) [],
    spill := BitVec.ofNat 64 (keepBits (recSpill r) 56 12 + keepBits (recSpill r) 4 0) }

/-- A group at launch: every lane live at the entry, with fibre numbers from `f` on (R75, R336). -/
def launchedGroup (r : List Byte) (id : Dword) (team index f : Nat) : Grp :=
  { recGroup r id team index with
    lanes := (List.range 64).map fun l =>
      { Lane.empty with status := .live, pc := BitVec.ofNat 64 (recEntry r), fibre := BitVec.ofNat 32 (f + l) } }

/-- Lane slots of a group that starts without fibres. -/
def idleLanes : List Lane := List.replicate 64 Lane.empty

/-- The lowest group index that no resident group of a team has. -/
def freeIndex (x : Core) (t : Nat) : Option Nat :=
  (List.range 32).find? fun i => !x.groups.any fun og => match og with
    | some g => g.team = t && !g.supervisor && g.index = i
    | none => false

/-- The lowest free core-local team number, 0 to 127 (R131); the supervisor's own team has none (log 5: DESIGN CHOICE,
unsafe). (log 15: DESIGN CHOICE, safe) -/
def freeTeam (x : Core) : Option Nat := (List.range 128).find? fun n => !x.teams.any fun t => t.num = n

end Sys2Proof.Machine
end

