-- ==== Sys2Proof/Machine/Voyage.lean ====
section
/-! DEFINITION. Voyage mode between departures and musters (12 R254, R255, R258 to R265, R270, R271): trains, credits, the
berth, the harbour, due batches, and the adoption of a chart. -/

namespace Sys2Proof.Machine

/-- Change a core's voyage. -/
def modVoyage (s : State) (c : Nat) (f : Voyage → Voyage) : State :=
  modCore s c fun x => { x with voyage := x.voyage.map f }

/-- The team of a voyage where it is resident, and where it stands also while CTXS.T has saved it (R272). -/
def residentTeam (s : State) (c : Nat) (v : Voyage) : Option Team := (teamAt s c v.team).filter fun t => t.grid = v.grid
def voyageTeam (s : State) (c : Nat) (v : Voyage) : Option Team :=
  (residentTeam s c v).or ((coreAt s c).away.find? fun t => t.grid = v.grid)

def satAdd64 (w : Dword) (n : Nat) : Dword := BitVec.ofNat 64 (min (2 ^ 64 - 1) (w.toNat + n))

/-! ## A voyager's 256 bytes (R254) -/

/-- The address that stands for a reservation's granule: a scratchpad granule by its core's peer address. -/
def resvAddr (s : State) (tm : Team) : Place → Nat
  | .glob pa => pa
  | .scr c t off =>
    let cc := ((List.range tm.place.length).find? fun i => match member s tm i with
      | some (p, t') => p = c && t'.num = t
      | none => false).getD 0
    peerAperture + cc * 2 ^ 24 + off

/-- The reservation of a RESV field. -/
def resvPlace (s : State) (tm : Team) (v : Nat) : Option Place :=
  if !Nat.testBit v 63 then none
  else
    let a := bitsOf v 56 5 * 32
    if !Nat.testBit a 56 then some (.glob a)
    else
      let p := a + 2 ^ 64 - 2 ^ 57
      (member s tm ((p - peerAperture) / 2 ^ 24)).map fun r => .scr r.1 r.2.num ((p - peerAperture) % 2 ^ 24)

def voyagerBytes (s : State) (tm : Team) (v : Voyager) : List Byte :=
  leBytes 8 v.pc.toNat ++ leBytes 2 v.depth ++ leBytes 1 v.preds.toNat ++ leBytes 1 v.base ++ leBytes 1 v.cab.length
    ++ leBytes 1 v.live ++ leBytes 2 v.spill ++ leBytes 4 v.fibre.toNat ++ leBytes 2 v.gen ++ leBytes 1 v.origin
    ++ leBytes 1 0 ++ leBytes 8 (match v.resv with | some p => 2 ^ 63 + resvAddr s tm p % 2 ^ 57 | none => 0)
    ++ ((List.range 4).flatMap fun i => match v.cab[i]? with | some r => leBytes 16 (retWord r) | none => leBytes 16 0)
    ++ ((List.range 32).flatMap fun i => leBytes 4 (v.regs.getD i 0).toNat) ++ leBytes 32 0

def voyagerFrom (s : State) (tm : Team) (bs : List Byte) : Voyager :=
  { pc := BitVec.ofNat 64 (fieldAt bs 0 8), depth := fieldAt bs 8 2, preds := BitVec.ofNat 8 (fieldAt bs 10 1),
    base := fieldAt bs 11 1,
    cab := (List.range (fieldAt bs 12 1 % 8)).map fun i => retOf (fieldAt bs (32 + 16 * i) 16),
    live := fieldAt bs 13 1, spill := fieldAt bs 14 2, fibre := BitVec.ofNat 32 (fieldAt bs 16 4),
    gen := fieldAt bs 20 2, origin := fieldAt bs 22 1, resv := resvPlace s tm (fieldAt bs 24 8),
    regs := (List.range (fieldAt bs 13 1)).map fun i => BitVec.ofNat 32 (fieldAt bs (96 + 4 * i) 4) }

/-! ## The harbour (R260, R261) -/

/-- The harbour block of a cluster. -/
def harbourBlock (ch : Chart) (q : Nat) : Nat := ch.harbour + q * ch.hstride
/-- The voyager slot of fibre `f`. -/
def harbourSlot (ch : Chart) (q f : Nat) : Nat := harbourBlock ch q + 256 * (f - q * ch.fpc)
/-- The harbour list of a cluster core: TAIL, HEAD 8 bytes on, entries 64 bytes on. -/
def harbourList (ch : Chart) (q cc : Nat) : Nat := harbourBlock ch q + 256 * ch.fpc + cc * (64 + 4 * ch.fpc)

/-- The physical address of a harbour address of a grid. -/
def gridAddr (s : State) (c : Nat) (grid : Dword) (va : Nat) : Option Nat :=
  match findLeaf s c grid va with
  | .leaf lf _ => some (lf.pa + (va - lf.va))
  | _ => none

/-- The parts of a range, page by page: (address, bytes). -/
def pageParts (va n : Nat) : List (Nat × Nat) :=
  (List.range ((va + n + 4095) / 4096 - va / 4096)).map fun i =>
    let lo := max va ((va / 4096 + i) * 4096)
    (lo, min (va + n) ((va / 4096 + i + 1) * 4096) - lo)

/-- The ranges of memory behind a range of a grid's addresses: (first address, bytes). -/
def gridRanges (s : State) (c : Nat) (grid : Dword) (va n : Nat) : List (Nat × Nat) :=
  (pageParts va n).filterMap fun p => (gridAddr s c grid p.1).map fun pa => (pa, p.2)

/-- What the hardware writes to a grid's memory when it has its turn; each page is translated. -/
def gridWrite (s : State) (c : Nat) (grid : Dword) (va : Nat) (bs : List Byte) : State :=
  (pageParts va bs.length).foldl (fun t p =>
    match gridAddr s c grid p.1 with
    | some pa => writeNow t pa ((bs.drop (p.1 - va)).take p.2)
    | none => t) s

/-- What the hardware reads of a grid's memory; none while some of it cannot be read. -/
def gridRead (s : State) (c : Nat) (grid : Dword) (va n : Nat) : Option (List Byte) :=
  (pageParts va n).foldl (fun o p => o.bind fun bs =>
    match gridAddr s c grid p.1 with
    | some pa => (directRead s pa p.2).map fun r => bs ++ r.1
    | none => some (bs ++ List.replicate p.2 0)) (some [])

/-- The ranges that a voyager's way to the harbour of a cluster core touches: its slot, the core's list. -/
def harbourRanges (s : State) (c : Nat) (v : Voyage) (tm : Team) (dest : Nat) (w : Voyager) : List (Nat × Nat) :=
  gridRanges s c v.grid (harbourSlot v.chart tm.cluster w.fibre.toNat) 256
    ++ gridRanges s c v.grid (harbourList v.chart tm.cluster dest) (64 + 4 * v.chart.fpc)

/-- Append a fibre to a harbour list. -/
def appendList (s : State) (c : Nat) (v : Voyage) (q cc : Nat) (f : Nat) : State :=
  let l := harbourList v.chart q cc
  let tail := leNat ((gridRead s c v.grid l 8).getD [])
  let s1 := gridWrite s c v.grid (l + 64 + 4 * (tail % max 1 v.chart.fpc)) (leBytes 4 f)
  gridWrite s1 c v.grid l (leBytes 8 (tail + 1))

/-- A voyager goes to the harbour: its slot, then the holder's list. -/
def toHarbour (s : State) (c : Nat) (v : Voyage) (tm : Team) (dest : Nat) (w : Voyager) : State :=
  appendList (gridWrite s c v.grid (harbourSlot v.chart tm.cluster w.fibre.toNat) (voyagerBytes s tm w)) c v tm.cluster dest
    w.fibre.toNat

/-! ## VOYAGER_SEND (R255, R259, R260, R271) -/

/-- Whether the stores of a held voyager are performed. -/
def voyagerFree (x : Core) (h : HeldVoyager) : Bool := !(x.pend ++ x.outb).any fun a => h.waits.contains a.id

/-- The train of a held voyager. (log 86: DEDUCED, unsafe) -/
def trainOf (v : Voyage) (h : HeldVoyager) : List HeldVoyager :=
  v.held.filter fun g => g.train = h.train && g.dest = h.dest

/-- VOYAGER_SEND: the train of held voyager `i` leaves in one step, its first voyagers with the credits that the core
holds then; the others go to the harbour, whose grains the train waits for. (log 86: DEDUCED, unsafe; 92: DESIGN
CHOICE, safe) -/
def evVoyagerSend (c i : Nat) (s : State) : Option State :=
  let x := coreAt s c
  match x.voyage with
  | none => none
  | some v =>
    match v.held[i]?, voyageTeam s c v with
    | some h, some tm =>
      let train := trainOf v h
      if !(train.all (voyagerFree x)) then none
      else
        match tm.place[h.dest]? with
        | none => none
        | some p =>
          let n := min train.length (v.credits.getD h.dest 0)
          let sent := (train.take n).map fun g => ({ v := g.v, from_ := tm.ccore, train := h.train } : Flying)
          let rest := train.drop n
          match withTurn s (.turn (.voyagerSend c 0) h.train) (rest.flatMap fun g => harbourRanges s c v tm h.dest g.v) with
          | .error b => unblock s b
          | .ok s0 =>
          let s1 := modVoyage s0 c fun v => { v with
            held := v.held.filter fun g => !(g.train = h.train && g.dest = h.dest)
            credits := v.credits.set h.dest (v.credits.getD h.dest 0 - n) }
          let s2 := modVoyage s1 p fun w => { w with flight := w.flight ++ sent }
          let s3 := rest.foldl (fun s g => toHarbour s c v tm h.dest g.v) s2
          some (modCore s3 c fun y => { y with vhar := satAdd64 y.vhar rest.length })
    | _, _ => none

/-! ## The berth and due batches (R258, R259, R262) -/

/-- The PC's voyagers of a berth, at most 64, and the rest. -/
def takeBatch (pc : Dword) (n : Nat) : List Berthed → List Berthed × List Berthed
  | [] => ([], [])
  | b :: bs =>
    if b.v.pc = pc && n ≠ 0 then let r := takeBatch pc (n - 1) bs; (b :: r.1, r.2)
    else let r := takeBatch pc n bs; (r.1, b :: r.2)

/-- (log 52: DEDUCED, unsafe) -/
def addMus (full timed : Nat) (w : Dword) : Dword :=
  BitVec.ofNat 64 (min (2 ^ 32 - 1) (w.toNat / 2 ^ 32 + timed) * 2 ^ 32 + min (2 ^ 32 - 1) (w.toNat % 2 ^ 32 + full))

/-- The batch of a PC becomes due. (log 52: DEDUCED, unsafe) -/
def makeDue (pc : Dword) (full : Bool) (x : Core) : Core :=
  match x.voyage with
  | none => x
  | some v =>
    let r := takeBatch pc 64 v.berth
    { x with voyage := some { v with berth := r.2, due := v.due ++ [r.1] }
             vmus := addMus full.toNat (!full).toNat x.vmus }

/-- The PCs of a berth, oldest first. -/
def berthPcs (v : Voyage) : List Dword := (v.berth.map (·.v.pc)).reverse.dedup.reverse

/-- After an arrival: every full batch is due; with a MUSTER of 0 every voyager is due. -/
def settleBerth (x : Core) : Core :=
  match x.voyage with
  | none => x
  | some v =>
    (berthPcs v).foldl (fun x pc =>
      let n := ((x.voyage.map fun w => (w.berth.filter fun b => b.v.pc = pc).length).getD 0)
      let x1 := (List.range (n / 64)).foldl (fun x _ => makeDue pc true x) x
      if v.chart.muster = 0 && n % 64 ≠ 0 then makeDue pc false x1 else x1) x

/-- Voyagers enter a core's berth: they are delivered. -/
def enterBerth (s : State) (c : Nat) (bs : List Berthed) : State :=
  let s1 := modVoyage s c fun v => { v with berth := v.berth ++ bs }
  modCore s1 c fun x =>
    let high := max (x.vber.toNat / 2 ^ 16) (berthCount x)
    settleBerth { x with varr := satAdd64 x.varr bs.length, vber := BitVec.ofNat 32 (high * 2 ^ 16) }

/-- VOYAGER_DELIVERY: the train of voyager `i` in flight enters the berth; those of one core in the order they left.
(log 86: DEDUCED, unsafe) -/
def evVoyagerDelivery (c i : Nat) (s : State) : Option State :=
  match (coreAt s c).voyage with
  | none => none
  | some v =>
    match v.flight[i]? with
    | none => none
    | some f =>
      let mine (g : Flying) : Bool := g.from_ = f.from_ && g.train = f.train
      if (v.flight.take i).any fun g => g.from_ = f.from_ && g.train ≠ f.train then none
      else
        let bs := (v.flight.filter mine).map fun g =>
          ({ v := g.v, since := meridian s, credit := some f.from_ } : Berthed)
        some (enterBerth (modVoyage s c fun v => { v with flight := v.flight.filter (!mine ·) }) c bs)

/-- Credits that each core of a cluster of `n` starts with for each other one. -/
def startCredits (n : Nat) : Nat := 240 / (n - 1)

/-- Berth slots that no credit holds, of a cluster of `n`, and those in use. -/
def reserveSlots (n : Nat) : Nat := 256 - (n - 1) * startCredits n
def reserveUsed (v : Voyage) : Nat :=
  (v.berth.filter fun b => b.credit.isNone).length + (v.due.map fun d => (d.filter fun b => b.credit.isNone).length).sum

/-- Whether a core's harbour list is seen to be empty. -/
def harbourEmpty (s : State) (c : Nat) (v : Voyage) (tm : Team) : Bool :=
  (gridRead s c v.grid (harbourList v.chart tm.cluster tm.ccore) 16).any fun hd => fieldAt hd 0 8 ≤ fieldAt hd 8 8

/-- HARBOUR_DRAIN: the oldest entry of the core's harbour list enters the berth. -/
def evHarbourDrain (c : Nat) (s : State) : Option State :=
  match (coreAt s c).voyage with
  | none => none
  | some v =>
    match residentTeam s c v with
    | none => none
    | some tm =>
      if reserveSlots tm.place.length ≤ reserveUsed v then none
      else
        let l := harbourList v.chart tm.cluster tm.ccore
        match withTurn s (.turn (.harbourDrain c) 0) (gridRanges s c v.grid l (64 + 4 * v.chart.fpc)) with
        | .error b => if harbourEmpty s c v tm then none else unblock s b
        | .ok s0 =>
          let hd := (gridRead s0 c v.grid l 16).getD (List.replicate 16 0)
          let head := fieldAt hd 8 8
          if fieldAt hd 0 8 ≤ head then none
          else
            let f := leNat ((gridRead s0 c v.grid (l + 64 + 4 * (head % max 1 v.chart.fpc)) 4).getD [])
            let a := harbourSlot v.chart tm.cluster f
            match gridRead s0 c v.grid a 256 with
            | none => (gridRanges s c v.grid a 256).findSome? fun r => askOnce s r.1 r.2 512
            | some vb =>
              let s1 := gridWrite s0 c v.grid (l + 8) (leBytes 8 (head + 1))
              some (enterBerth s1 c [{ v := voyagerFrom s tm vb, since := meridian s, credit := none }])

/-- MUSTER_TIMEOUT: the oldest voyager for a PC has waited MUSTER ticks. -/
def evMusterTimeout (c : Nat) (pc : Dword) (s : State) : Option State :=
  match (coreAt s c).voyage with
  | none => none
  | some v =>
    match v.berth.find? fun b => b.v.pc = pc with
    | none => none
    | some b => if b.since + v.chart.muster ≤ meridian s then some (modCore s c (makeDue pc false)) else none

/-! ## MUSTER (R262, R263) -/

/-- A lane that takes a voyager. -/
def musteredLane (b : Berthed) : Lane :=
  let v := b.v
  { Lane.empty with
    status := .live, pc := v.pc, preds := v.preds ||| 0x80, base := v.base, depth := v.depth, cab := v.cab,
    spill := v.spill, fibre := v.fibre, resv := v.resv,
    regs := (mapFrom (fun i (w : Word) => (v.base + i, w)) 0 v.regs).foldl (fun m p => sset m p.1 p.2) [] }

/-- Credits go back to the cores whose voyagers have left the berth. -/
def returnCredits (s : State) (tm : Team) (bs : List Berthed) : State :=
  (bs.filterMap (·.credit)).foldl (fun s h =>
    match tm.place[h]? with
    | some p => modVoyage s p fun w => { w with credits := w.credits.set tm.ccore (w.credits.getD tm.ccore 0 + 1) }
    | none => s) s

/-- MUSTER: the oldest due batch becomes a group, once its team, a slot and register units allow it. (log 129:
DEDUCED, unsafe) -/
def evMuster (c : Nat) (s : State) : Option State :=
  let x := coreAt s c
  match x.voyage with
  | none => none
  | some v =>
    match v.due, residentTeam s c v, gridOf s v.grid with
    | b :: ds, some tm, some gr =>
      match freeIndex x tm.num, placeFor x (recRegs gr.record / 8) with
      | some idx, some k =>
        if 32 ≤ groupsAlive s c tm false then none
        else
          let g : Grp := { recGroup gr.record gr.id tm.num idx with
            lanes := b.map musteredLane ++ List.replicate (64 - b.length) Lane.empty }
          let s1 := modVoyage s c fun v => { v with due := ds }
          let s2 := modCore (returnCredits s1 tm b) c fun x => putNew x k g
          let s3 := modTeam s2 c tm.num fun t => { t with fails := t.fails.set idx 0 }
          some (recountBars (modGrid s3 v.grid (countAlive (· + 1) tm)) c tm)
      | _, _ => none
    | _, _, _ => none

/-! ## CHART_ADOPT (R265) -/

/-- The segment that a cluster core holds under a chart. -/
def heldSeg (ch : Chart) (cc : Nat) : Option Nat :=
  (List.range ch.segs.length).find? fun i => match ch.segs[i]? with
    | some sg => sg.holders.contains cc
    | none => false

/-- A core's group of a voyage grid is live. -/
def voyageGroups (x : Core) (v : Voyage) : Bool :=
  x.groups.any fun og => match og with
    | some g => g.grid = v.grid && !g.supervisor
    | none => false

/-- Whether one segment follows from another by a step of R265: the same, with a holder from SPARE appended, or without one of the
holders past NFIXED. -/
def segStep (spare : Nat) (a b : Segment) : Bool :=
  b.start = a.start && b.len = a.len && b.select = a.select && b.nfixed = a.nfixed
    && (b.holders = a.holders
      || (b.holders.dropLast = a.holders && b.holders.getLast?.any (Nat.testBit spare))
      || (List.range a.holders.length).any fun i => a.nfixed ≤ i && b.holders = a.holders.eraseIdx i)

/-- What a chart keeps through every generation, and whether `b` is of a later one (generations count mod 2^16). -/
def chartLater (a b : Chart) : Bool :=
  let d := (b.gen + 2 ^ 16 - a.gen) % 2 ^ 16
  0 < d && d < 2 ^ 15 && b.muster = a.muster && b.harbour = a.harbour && b.fpc = a.fpc && b.hstride = a.hstride
    && b.segs.length = a.segs.length
    && (a.segs.zip b.segs).all fun p => p.2.start = p.1.start && p.2.len = p.1.len && p.2.select = p.1.select && p.2.nfixed = p.1.nfixed
        && p.2.holders.take p.1.nfixed = p.1.holders.take p.1.nfixed

/-- Whether a chart follows from the one before it by a step of R265: one segment's holders change at most. -/
def chartStep (a b : Chart) : Bool :=
  ((a.segs.zip b.segs).all fun p => segStep a.spare p.1 p.2)
    && ((a.segs.zip b.segs).filter fun p => p.1.holders ≠ p.2.holders).length ≤ 1

/-- Whether a core of a cluster that enters SPARE has been unpinned (R265). -/
def sparesFree (s : State) (tm : Team) (a b : Chart) : Bool :=
  (mapFrom (fun cc p => (cc, p)) 0 tm.place).all fun cp =>
    !Nat.testBit b.spare cp.1 || Nat.testBit a.spare cp.1 || ((coreAt s cp.2).voyage.all fun v => v.seg.isNone)

/-- Whether a core may adopt a chart that it finds in memory: one of a later generation, which another core of its
cluster has adopted, or which follows from its own: by one step, where it is the next; a core that has missed
generations takes the latest. (log 60: DEDUCED, unsafe) -/
def adoptable (s : State) (tm : Team) (a b : Chart) : Bool :=
  chartLater a b
    && ((tm.place.any fun p => (coreAt s p).voyage.any fun w => w.chart = b)
      || (sparesFree s tm a b && (b.gen ≠ (a.gen + 1) % 2 ^ 16 || chartStep a b)))

/-- The chart that a core is to adopt: the one sent to it, or the one that the firmware has written in memory, with a
new generation. (log 60: DEDUCED, unsafe) -/
def newChart (s : State) (c : Nat) (v : Voyage) (tm : Team) (gr : Grid) : Option Chart :=
  match v.next with
  | some ch => some ch
  | none =>
    match gridRead s c v.grid (recChart gr.record) 448 with
    | none => none
    | some bs =>
      let ch := decodeChart bs
      if adoptable s tm v.chart ch && chartShape bs (recCores gr.record) then some ch else none

/-- A core adopts a chart; the firmware has pinned a new holder's segment before it sent the chart. -/
def adopt (ch : Chart) (x : Core) : Core :=
  { x with voyage := x.voyage.map fun v => { v with chart := ch, next := none }, vgen := BitVec.ofNat 32 ch.gen }

/-- (log 60: DEDUCED, unsafe) -/
def pinHolders (s : State) (tm : Team) (ch : Chart) : State :=
  (mapFrom (fun cc p => (cc, p)) 0 tm.place).foldl (fun s cp =>
    modVoyage s cp.2 fun v => { v with seg := (heldSeg ch cp.1).orElse fun _ => v.seg }) s

/-- Whether a core's segment can be unpinned: the core is no holder under the chart of every core of its cluster, and
no voyager of the grid is at it or bound for it. -/
def unpinnable (s : State) (c : Nat) (v : Voyage) (tm : Team) : Bool :=
  let x := coreAt s c
  v.seg.isSome && v.next.isNone && v.berth.isEmpty && v.due.isEmpty && v.flight.isEmpty && !voyageGroups x v
    && (tm.place.all fun p => match (coreAt s p).voyage with
      | some w => w.chart.gen = v.chart.gen && (heldSeg w.chart tm.ccore).isNone
          && !w.held.any (fun h => h.dest = tm.ccore)
      | none => true)
    && harbourEmpty s c v tm

/-- CHART_ADOPT: between two departures a core adopts a new generation; or a core that is no longer a holder is
unpinned. (log 60: DEDUCED, unsafe) -/
def evChartAdopt (c : Nat) (s : State) : Option State :=
  match (coreAt s c).voyage with
  | none => none
  | some v =>
    match voyageTeam s c v, gridOf s v.grid with
    | some tm, some gr =>
      match newChart s c v tm gr with
      | some ch => some (modCore (pinHolders s tm ch) c (adopt ch))
      | none => if unpinnable s c v tm then some (modVoyage s c fun v => { v with seg := none }) else none
    | _, _ => none

/-- VOYAGER_SEND. -/
def execVoyagerSend (c i : Nat) (s : State) : Out := stepOr s (evVoyagerSend c i s)
/-- VOYAGER_DELIVERY. -/
def execVoyagerDelivery (c i : Nat) (s : State) : Out := stepOr s (evVoyagerDelivery c i s)
/-- HARBOUR_DRAIN. -/
def execHarbourDrain (c : Nat) (s : State) : Out := stepOr s (evHarbourDrain c s)
/-- MUSTER_TIMEOUT. -/
def execMusterTimeout (c : Nat) (pc : Dword) (s : State) : Out := stepOr s (evMusterTimeout c pc s)
/-- MUSTER. -/
def execMuster (c : Nat) (s : State) : Out := stepOr s (evMuster c s)
/-- CHART_ADOPT. -/
def execChartAdopt (c : Nat) (s : State) : Out := stepOr s (evChartAdopt c s)

end Sys2Proof.Machine
end

