-- ==== Sys2Proof/Machine/Launch.lean ====
section
/-! DEFINITION. Launching (10 R233; 18 R328 to R337): LNCH, the firmware's taking of a launch record, dependences, the
residency lease, bind records, the start of teams, stealing, the end of a grid and its completion; and the bad-page list
(R323). -/

namespace Sys2Proof.Machine

/-! ## LNCH (R233, R328, R329) -/

def queueAt (s : State) (p : Nat) : List (Dword × List Byte) := s.queues.getD p []

/-- LNCH. Its earlier stores are performed when it issues (`holds`). (log 128: DEDUCED, unsafe) -/
def execLnch (g : Guard) (d a : SReg) (s : State) : Out :=
  onceWord (.lnch g d a) s fun s gr gm l =>
    match snapRead gr l 64 64 8 (getS gr a.val 2) s with
    | .wait k t => stalled (askLoad s k t)
    | .fault f va => trap s f.cause gm va 0
    | .ok r s1 =>
      if !recordOk r then trap s1 0x14 gm (getS gr a.val 2) 0
      else
        let p := recPrio r
        if 64 ≤ (queueAt s1 p).length then
          modCur s1 fun g2 => parkLanes (s1.cur.mask &&& ~~~passing s1 gr gm) (fun _ => .launch p) (advance (passing s1 gr gm) g2)
        else
          let id := BitVec.ofNat 64 s1.nextGrid
          let s2 := { s1 with queues := s1.queues.set p (queueAt s1 p ++ [(id, r)]), nextGrid := s1.nextGrid + 1 }
          finishWord (modCur s2 fun g2 => putS g2 d.val 2 id.toNat)

/-! ## The firmware's view of a grid's memory -/

/-- A walk of a grid's tables. -/
def rootWalk (s : State) (root va : Nat) : Walk := walkFrom s va 5 (rootTable root)

/-- The physical address of a grid's virtual one, as the firmware finds it. -/
def firmAddr (s : State) (root va : Nat) : Option Nat :=
  match rootWalk s root va with
  | .leaf lf _ => some (lf.pa + (va - lf.va))
  | _ => none

def recRoot (r : List Byte) : Nat := fieldAt r 8 8

/-! ## The residency lease (R331, R332) -/

inductive Leased where
  | ok (pins : List Leaf)
  | absent
  | bad
  deriving DecidableEq, Repr

/-- The leaves of a range's pages: an address that R169 never lets through, and a page without U, R or W, are bad.
(log 58: DEDUCED, unsafe) -/
def leaseRange (s : State) (root : Nat) : Nat → Nat → Nat → Leased
  | 0, _, _ => .ok []
  | n + 1, va, stop =>
    if stop ≤ va then .ok []
    else if !canonical va || ownAperture ≤ va then .bad
    else match rootWalk s root va with
      | .unmapped => .bad
      | .absent => .absent
      | .leaf lf _ =>
        if !(lf.u && lf.r && lf.w && !lf.io) then .bad
        else match leaseRange s root n (lf.va + lf.size) stop with
          | .ok ls => .ok (lf :: ls)
          | other => other

def leaseRanges (s : State) (root : Nat) : List (Nat × Nat) → Leased
  | [] => .ok []
  | r :: rs =>
    match leaseRange s root (r.2 / 4096 + 2) r.1 (r.1 + r.2) with
    | .ok ls => (match leaseRanges s root rs with
        | .ok ms => .ok (ls ++ ms.filter fun m => !ls.contains m)
        | other => other)
    | other => other

/-- The chart of a voyage grid, of `n` segments, as a range. -/
def chartRange (r : List Byte) (n : Nat) : Nat × Nat := (recChart r, 64 + 32 * n)

/-- RETAIN and pinned bytes of the running grids. -/
def stands (g : Grid) : Bool := match g.stage with
  | .running => true
  | _ => false
/-- A grid holds its lease until it completes. -/
def leased (g : Grid) : Bool := stands g || (0 < g.bound || !g.pins.isEmpty)
def retainInUse (s : State) : Nat := ((s.grids.filter leased).map fun g => recRetain g.record).sum
/-- (log 58: DEDUCED, unsafe) -/
def pinnedInUse (s : State) : Nat := ((s.grids.filter leased).map (·.pinnedBytes)).sum

/-- What the firmware decides of a grid whose dependences are met: a status that refuses it, a wait, or its lease. -/
inductive Admission where
  | refuse (status : Nat)
  | wait
  | granted (pins : List Leaf) (chart : Option Chart)
  deriving DecidableEq, Repr

/-- `k` lines of a grid's memory from a line's address, as the firmware reads them: none where they cannot be read yet. -/
def firmLines (s : State) (root : Nat) : Nat → Nat → Option (List Byte)
  | 0, _ => some []
  | k + 1, va =>
    match (match firmAddr s root va with
      | some pa => (directRead s pa 64).map (·.1)
      | none => some (List.replicate 64 0)) with
    | none => none
    | some bs => (firmLines s root k (va + 64)).map (bs ++ ·)

/-- The poison that such a reading consumes (R322, R357). -/
def firmPoison (s : State) (root va k : Nat) : State :=
  (List.range k).foldl (fun s i => match firmAddr s root (va + 64 * i) with
    | some pa => if (directRead s pa 64).any (·.2) then faultQueue s (pa / 64 * 64) 3 (faultSource pa) else s
    | none => s) s

/-- Ask for what keeps the firmware from reading `k` lines. -/
def askLines (s : State) (root va k : Nat) : State :=
  (List.range k).foldl (fun s i => match firmAddr s root (va + 64 * i) with
    | some pa => (askOnce s pa 64 512).getD s
    | none => s) s

/-- The quota and the pinned bytes that a grid's lease adds to (R331, R332). -/
def grantLeases (s : State) (r : List Byte) (pins : List Leaf) (ch : Option Chart) : Admission :=
  if 3072 < retainInUse s + recRetain r then .refuse 3
  else if 448 * 2 ^ 30 < pinnedInUse s + (pins.map (·.size)).sum then .wait
  else .granted pins ch

/-- A voyage grid's admission: the lease of its chart comes first, then the chart's own check, then the lease of its harbour. (log
58: DEDUCED, unsafe) -/
def admitVoyage (s : State) (r : List Byte) : Admission :=
  let root := recRoot r
  match leaseRanges s root (recRanges r ++ [chartRange r 0]), firmLines s root 1 (recChart r) with
  | .bad, _ => .refuse 1
  | .absent, _ | _, none => .wait
  | .ok _, some hd =>
    let n := min 12 (fieldAt hd 6 1)
    match leaseRanges s root (recRanges r ++ [chartRange r n]), firmLines s root 7 (recChart r) with
    | .bad, _ => .refuse 1
    | .absent, _ | _, none => .wait
    | .ok _, some cb =>
      let ch := decodeChart cb
      if !(chartOk cb (recCores r) (recEntry r) && ch.gen = 0) then .refuse 2
      else match leaseRanges s root (recRanges r ++ [chartRange r n, (ch.harbour, recClusters r * ch.hstride)]) with
        | .bad => .refuse 1
        | .absent => .wait
        | .ok pins => grantLeases s r pins (some ch)

/-- (log 58: DEDUCED, unsafe) -/
def admission (s : State) (r : List Byte) : Admission :=
  if recVoyage r then admitVoyage s r
  else match leaseRanges s (recRoot r) (recRanges r) with
    | .bad => .refuse 1
    | .absent => .wait
    | .ok pins => grantLeases s r pins none

/-! ## Bind records (R333, R334) -/

/-- The placement of cluster `q`: the firmware's choices, taken in turn. (log 54: DESIGN CHOICE, safe) -/
def placementOf (g : Grid) (q : Nat) : Option Placement := g.places[q % g.places.length]?

/-- Whether the firmware's placements keep R245, R327 and R333. (log 54: DESIGN CHOICE, safe) -/
def placesOk (r : List Byte) (ps : List Placement) : Bool :=
  !ps.isEmpty && (recPlace r ≠ 3 || ps.length % 2 = 0) && (mapFrom (fun i p => (i, p)) 0 ps).all fun ip =>
    let p := ip.2
    (if p.floating then recCores r = 1 && !recVoyage r else rectOk p (recCw r) (recCh r))
      && (match recPlace r with
        | 0 => true
        | 1 => p.die = 0
        | 2 => p.die = 1
        | _ => p.die.val = ip.1 % 2)

/-- Bind the next clusters of a grid, as long as the slot tables have entries. A floating block goes to its region. -/
def bindMore (id : Dword) : Nat → State → State
  | 0, s => s
  | n + 1, s =>
    match gridOf s id with
    | none => s
    | some g =>
      if recClusters g.record ≤ g.bound || !stands g then s
      else match placementOf g g.bound with
        | none => s
        | some p =>
          let up (s : State) : State := modGrid s id fun g => { g with bound := g.bound + 1 }
          if p.floating then
            let f : Floating := { grid := id, cluster := g.bound, prio := recPrio g.record }
            bindMore id n (up { s with regions := modAt (· ++ [f]) (4 * p.die.val + p.region.val) s.regions })
          else if 256 ≤ (s.binds.getD p.die.val []).length then s
          else
            let b : Bind := { grid := id, cluster := g.bound, place := p }
            bindMore id n (up { s with binds := modAt (· ++ [b]) p.die.val s.binds })

/-- The firmware writes the bind records for which the slot tables have become free, of every grid in turn (R333). -/
def bindAll (s : State) : State := s.grids.foldl (fun s g => bindMore g.id 512 s) s

/-- Start a held grid, refuse it, or let it wait (R330 to R333). (log 59: DEDUCED, safe) -/
def admitGrid (s : State) (id : Dword) : State :=
  match gridOf s id with
  | none => s
  | some g =>
    let read := if recVoyage g.record then firmPoison s (recRoot g.record) (recChart g.record) 7 else s
    match admission s g.record with
    | .wait => if recVoyage g.record then askLines s (recRoot g.record) (recChart g.record) 7 else s
    | .refuse st => modGrid read id fun g => { g with stage := .ending st }
    | .granted pins ch =>
      bindMore id 512 (modGrid read id fun g =>
        { g with stage := .running, pins := pins, pinnedBytes := (pins.map (·.size)).sum, chart := ch })

/-! ## LAUNCH_RECORD_TAKEN, DEPENDENCE_SATISFIED (R329, R330) -/

def heldGrids (s : State) : Nat := (s.grids.filter fun g => match g.stage with
  | .held _ => true
  | _ => false).length

/-- The highest priority class with a record. -/
def topQueue (s : State) : Option Nat := [7, 6, 5, 4, 3, 2, 1, 0].find? fun p => !(queueAt s p).isEmpty

/-- LAUNCH_RECORD_TAKEN: the firmware takes the oldest record of the highest class. -/
def evLaunchRecordTaken (places : List Placement) (s : State) : Option State :=
  match topQueue s with
  | none => none
  | some p =>
    match queueAt s p with
    | [] => none
    | (id, r) :: rest =>
      if 256 ≤ heldGrids s || !placesOk r places then none
      else
        let g : Grid :=
          { id := id, record := r, stage := .held [], places := places, pins := [], pinnedBytes := 0, chart := none,
            bound := 0, started := 0, alive := [] }
        let s1 := { s with queues := s.queues.set p rest, grids := s.grids ++ [g] }
        some (if recNdep r = 0 then admitGrid s1 id else s1)

/-- Whether a dependence's value satisfies its condition. -/
def dependenceMet (r : List Byte) (i : Nat) (bs : List Byte) : Bool :=
  let cc : WCond := match recDcond r i with | 0 => .eq | 1 => .ne | 2 => .lt | _ => .ge
  waitCond cc (leNat bs) (recDepVal r i)

/-- DEPENDENCE_SATISFIED: a dependence of a held grid is met; with the last, the grid is admitted. A grid that waits
with every dependence met is looked at again. (log 59: DEDUCED, safe) -/
def evDependenceSatisfied (gid i : Nat) (s : State) : Option State :=
  let id := BitVec.ofNat 64 gid
  match gridOf s id with
  | none => none
  | some g =>
    match g.stage with
    | .held met =>
      if met.length = recNdep g.record then some (admitGrid s id)
      else if recNdep g.record ≤ i || met.contains i then none
      else
        match firmAddr s (recRoot g.record) (recDepAddr g.record i) with
        | none => none
        | some pa =>
          match agentRead s (.turn (.dependenceSatisfied gid i) 0) pa 8 with
          | .error b => unblock s b
          | .ok q =>
            let s0 := match q.bad with
              | some b => faultQueue q.state b 3 (faultSource b)
              | none => q.state
            if !dependenceMet g.record i q.bytes then some s0
            else
              let s1 := modGrid s0 id fun g => { g with stage := .held (i :: met) }
              some (if met.length + 1 = recNdep g.record then admitGrid s1 id else s1)
    | _ => none

/-! ## TEAM_START (R246, R251, R334, R336) -/

/-- The core after the groups of a team are placed, `n` from index `i` on; none without room. -/
def placeGroups (r : List Byte) (id : Dword) (t f : Nat) : Nat → Nat → Core → Option Core
  | 0, _, x => some x
  | n + 1, i, x =>
    match placeFor x (recRegs r / 8) with
    | none => none
    | some k => placeGroups r id t f n (i + 1) (putNew x k (launchedGroup r id t i (f + 64 * i)))

/-- The groups that a team starts with, and its first fibre number. (log 53: DEDUCED, unsafe) -/
def teamGroups (g : Grid) (q c : Nat) : Nat × Nat :=
  let r := g.record
  match g.chart with
  | none => (recGpt r, (q * recCores r + c) * recGpt r * 64)
  | some ch =>
    match segmentOf ch (recEntry r) with
    | none => (0, 0)
    | some sg =>
      if sg.holders.contains c then (1, q * ch.fpc + 64 * (sg.holders.filter (· < c)).length) else (0, 0)

/-- A core's part in a voyage grid at its start. -/
def startVoyage (id : Dword) (t c n : Nat) (ch : Chart) (x : Core) : Core :=
  { x with
    voyage := some
      { grid := id, team := t, chart := ch, next := none, seg := heldSeg ch c,
        credits := (List.range n).map fun h => if h = c then 0 else startCredits n,
        held := [], flight := [], berth := [], due := [] }
    vdep := 0, varr := 0, vhar := 0, vmus := 0, vber := 0, vgen := BitVec.ofNat 32 ch.gen }

/-- One team of a starting cluster on its core; none without room for all its groups, also where it starts with none (R251,
R334). -/
def startTeam (g : Grid) (q : Nat) (cores : List Nat) (c : Nat) (x : Core) : Option Core :=
  let r := g.record
  match freeTeam x with
  | none => none
  | some t =>
    if !sharedRoom x (recShared r) || (g.chart.isSome && x.voyage.isSome) then none
    else
      let tm : Team := { Team.fresh with
        num := t, grid := g.id, cluster := q, ccore := c, place := cores, shared := recShared r }
      let gs := teamGroups g q c
      let x1 := { x with teams := x.teams ++ [tm] }
      let x2 := match g.chart with
        | some ch => startVoyage g.id t c cores.length ch x1
        | none => x1
      (placeGroups r g.id t gs.2 (recGpt r) 0 x2).bind fun _ => placeGroups r g.id t gs.2 gs.1 0 x2

/-- Every team of a cluster starts, or none. -/
def startCluster (s : State) (g : Grid) (q : Nat) (cores : List Nat) : Option State :=
  (mapFrom (fun c p => (c, p)) 0 cores).foldl (fun o cp =>
    o.bind fun s => (startTeam g q cores cp.1 (coreAt s cp.2)).map fun x =>
      modGrid (setCore s cp.2 x) g.id fun g => { g with alive := g.alive ++ [(q, cp.1, (teamGroups g q cp.1).1)] }) (some s)

/-- The next floating block of a region: the highest class, oldest first. -/
def nextFloating (fs : List Floating) : Option Floating :=
  fs.find? fun f => fs.all fun e => e.prio ≤ f.prio

/-- TEAM_START: a bound cluster's teams start in one clock, once every core has room; a floating one on `core`. -/
def evTeamStart (die : Fin 2) (gid q core : Nat) (s : State) : Option State :=
  let id := BitVec.ofNat 64 gid
  match gridOf s id with
  | none => none
  | some g =>
    let done (s : State) : State := bindAll (modGrid s id fun g => { g with started := g.started + 1 })
    match (s.binds.getD die.val []).find? fun b => b.grid = id ∧ b.cluster = q with
    | some b =>
      (startCluster s g q (rectCores b.place (recCw g.record) (recCh g.record))).map fun s1 =>
        done { s1 with binds := modAt (·.erase b) die.val s1.binds }
    | none =>
      let r := 4 * die.val + core % 8 / 2
      if core / 88 ≠ die.val then none
      else match nextFloating (s.regions.getD r []) with
        | none => none
        | some f =>
          if f.grid ≠ id ∨ f.cluster ≠ q then none
          else (startCluster s g q [core]).map fun s1 => done { s1 with regions := modAt (·.erase f) r s1.regions }

/-! ## STEAL_REQUEST (R335) -/

/-- Whether some core of a region has room for a floating block. -/
def regionRoom (s : State) (die r : Nat) (f : Floating) : Bool :=
  match gridOf s f.grid with
  | none => false
  | some g => (regionCores die r).any fun c => (startTeam g f.cluster [c] 0 (coreAt s c)).isSome

/-- Ship the youngest half of a neighbour's blocks. -/
def shipFrom (s : State) (die r v : Nat) : Option State :=
  let fs := s.regions.getD (4 * die + v) []
  let n := fs.length / 2
  let out := fs.drop (fs.length - n)
  if n = 0 || !(out.any (regionRoom s die r)) then none
  else some { s with regions := modAt (fun _ => out) (4 * die + r) (modAt (fun _ => fs.take (fs.length - n)) (4 * die + v) s.regions) }

/-- STEAL_REQUEST: an empty region with a core that has room asks its lower neighbour, then its upper one. -/
def evStealRequest (die : Fin 2) (r : Fin 4) (s : State) : Option State :=
  if !(s.regions.getD (4 * die.val + r.val) []).isEmpty then none
  else
    let low := if r.val = 0 then none else shipFrom s die.val r.val (r.val - 1)
    match low with
    | some s1 => some s1
    | none => if r.val = 3 then none else shipFrom s die.val r.val (r.val + 1)

/-! ## The end of a grid (R337) -/

/-- Every slot of a core whose group belongs to a grid. -/
def slotsOf (x : Core) (id : Dword) : List Nat :=
  (List.range 96).filter fun k => match grpIn x k with
    | some g => g.grid = id && !g.supervisor
    | none => false

def overCores (s : State) (f : State → Nat → State) : State := (List.range s.cores.length).foldl f s

/-- The matrix engine of a group that was saved by CTXS is free again. -/
def freeSavedOwner (s : State) (id : Dword) (c : Nat) : State :=
  let x := coreAt s c
  if (x.owner = some 96 || x.owner = some 97) && x.launch = some id then
    setCore s c { x with owner := none, grantAt := if x.mops.isEmpty then s.clock + 8 else x.grantAt, cleared := false }
  else s

/-- The teams of a grid leave a core. (log 15: DESIGN CHOICE, safe) -/
def dropTeams (id : Dword) (s : State) (c : Nat) : State :=
  modCore (freeTeams s c fun t => t.grid = id) c fun x =>
    { x with
      away := x.away.filter fun t => t.grid ≠ id
      voyage := x.voyage.bind fun v => if v.grid = id then none else some v }

/-- A grid ends before it completes: it is dropped from every core, and what has not started never does. -/
def endGrid (s : State) (id : Dword) (st : Nat) : State :=
  match gridOf s id with
  | none => s
  | some g =>
    match g.stage with
    | .ending _ | .done _ => s
    | _ =>
      let s1 := modGrid s id fun g => { g with stage := .ending st }
      let s2 := { s1 with
        binds := s1.binds.map (·.filter fun b => b.grid ≠ id)
        regions := s1.regions.map (·.filter fun f => f.grid ≠ id) }
      let s3 := overCores s2 fun s c => (slotsOf (coreAt s c) id).foldl (fun s k => dropGroup s c k) s
      bindAll (overCores (modGrid s3 id fun g => { g with alive := [] }) (freeSavedOwner · id))

/-- Whether a grid still stands on a core: a group, a voyager, a store that is not performed. -/
def onCore (s : State) (c : Nat) (id : Dword) : Bool :=
  let x := coreAt s c
  !(slotsOf x id).isEmpty || (x.pend ++ x.outb).any (fun a => a.grid = id) || x.jobs.any (fun j => j.grid = id)
    || x.mops.any (fun m => m.grid = id)

/-- Whether voyagers of a grid are under way at a core, or on its harbour list. -/
def voyagersAt (s : State) (c : Nat) (id : Dword) : Bool :=
  match (coreAt s c).voyage with
  | none => false
  | some v =>
    v.grid = id && (!v.held.isEmpty || !v.flight.isEmpty || !v.berth.isEmpty || !v.due.isEmpty
      || match voyageTeam s c v with
        | some tm =>
          (match gridRead s c id (harbourList v.chart tm.cluster tm.ccore) 16 with
            | some hd => fieldAt hd 8 8 < fieldAt hd 0 8
            | none => true)
        | none => true)

/-- Whether a grid's work is over (R337, R360). -/
def gridOver (s : State) (g : Grid) : Bool :=
  let cores := List.range s.cores.length
  let quiet := !(cores.any fun c => onCore s c g.id) && !(s.landings.any fun l => l.grid = g.id)
  match g.stage with
  | .ending _ => quiet
  | .running =>
    quiet && g.started = recClusters g.record && (g.alive.map fun a => a.2.2).sum = 0
      && !(cores.any fun c => voyagersAt s c g.id)
  | _ => false

/-- Store a value in a grid's memory, by its root. -/
def firmStore (s : State) (src : Source) (root va n v : Nat) : Except Blocked State :=
  match firmAddr s root va with
  | some pa => directWrite s src pa (leBytes n v)
  | none => .ok s

/-- The FREAD commands of a grid that its supervisor has ended may time out, after a time that the spec does not state
(R360). (log 123: DESIGN CHOICE, safe) -/
def landingsLate (s : State) (g : Grid) : Option State :=
  match g.stage with
  | .ending _ =>
    if s.landings.any fun l => l.grid = g.id then
      let s1 := { s with freeCount := s.freeCount + 1 }
      some (if Config.freeBool s.freeCount then dropLandings s1 fun l => l.grid = g.id else s1)
    else none
  | _ => none

/-- GRID_COMPLETE: the leases end, the status goes to DONE + 8, then DONEV to DONE. -/
def evGridComplete (gid : Nat) (s : State) : Option State :=
  let id := BitVec.ofNat 64 gid
  match gridOf s id with
  | none => none
  | some g =>
    if !gridOver s g then landingsLate s g
    else
      let st := match g.stage with
        | .ending n => n
        | _ => 0
      let s1 := overCores s (dropTeams id)
      let gone (s : State) : State := { s with grids := s.grids.filter fun h => h.id ≠ id }
      let done := recDone g.record
      let root := recRoot g.record
      if done = 0 then some (gone s1)
      else match firmStore s1 (.grid gid 0) root (done + 8) 8 st with
        | .error b => unblock s b
        | .ok s2 =>
          match firmStore s2 (.grid gid 1) root done 8 (recDonev g.record) with
          | .error b => unblock s b
          | .ok s3 => some (gone s3)

/-! ## BAD_PAGE_APPEND (R323) -/

/-- BAD_PAGE_APPEND: a page under no lease, and that no FREAD has pinned (R358), joins the list of up to 4,096. -/
def evBadPageAppend (page : Nat) (s : State) : Option State :=
  let covers (lf : Leaf) : Bool := lf.pa < 4096 * page + 4096 && 4096 * page < lf.pa + lf.size
  let pinned := (s.grids.any fun g => g.pins.any covers) || s.landings.any fun l => l.pins.any covers
  if 4096 ≤ s.badPages.length || s.badPages.contains page || pinned then none
  else some { s with badPages := s.badPages ++ [page] }

/-- LAUNCH_RECORD_TAKEN. -/
def execLaunchRecordTaken (places : List Placement) (s : State) : Out := stepOr s (evLaunchRecordTaken places s)
/-- DEPENDENCE_SATISFIED. -/
def execDependenceSatisfied (gid i : Nat) (s : State) : Out := stepOr s (evDependenceSatisfied gid i s)
/-- TEAM_START. -/
def execTeamStart (die : Fin 2) (gid q core : Nat) (s : State) : Out := stepOr s (evTeamStart die gid q core s)
/-- STEAL_REQUEST. -/
def execStealRequest (die : Fin 2) (r : Fin 4) (s : State) : Out := stepOr s (evStealRequest die r s)
/-- GRID_COMPLETE. -/
def execGridComplete (gid : Nat) (s : State) : Out := stepOr s (evGridComplete gid s)
/-- BAD_PAGE_APPEND. -/
def execBadPageAppend (page : Nat) (s : State) : Out := stepOr s (evBadPageAppend page s)

end Sys2Proof.Machine
end

