-- ==== Sys2Proof/Machine/Context.lean ====
section
/-! DEFINITION. Pre-emption (10 R235 to R240; 12 R268): the group image and the team image, CTXS and CTXL. -/

namespace Sys2Proof.Machine

def zeros (n : Nat) : List Byte := List.replicate n 0

/-! ## The group image (R237) -/

/-- A lane's wait code, with the barrier phase at arrival (R240). -/
def waitCode : Wait → Nat
  | .ready => 0
  | .waitv => 1
  | .hwait .. => 2
  | .barw _ => 3
  | .rendezvous => 4
  | .barrier ph => 5 + ph.toNat * 2 ^ 8
  | .sysc => 6
  | .mailbox => 7
  | .macq | .macqFull => 8
  | .yield => 9
  | .launch _ => 10
  | .behind => 11
  | .grow => 12
  | .tbegin .. => 13
  | .tend _ | .mbox .. | .tinv _ | .ctxsG .. | .ctxsT .. | .ctxlG .. | .ctxlT .. => 0
  | .refetch => 2

/-- A commit has given the lane its PC: it is parked no more (R240). -/
def endsAtTend : Wait → Bool
  | .tend _ => true
  | _ => false

def statusCode (ln : Lane) : Nat :=
  (match ln.status with | .idle => 0 | .live => 1 | .exited => 2)
    + (if ln.status = .live && ln.wait ≠ .ready && !endsAtTend ln.wait then 4 else 0)

/-- The operands that a lane supplied at its rendezvous. -/
def suppliedAt (g : Grp) (l : Nat) : Supply :=
  match g.rdv.toList ++ g.bars |>.find? fun r => r.arrived.getLsbD l with
  | some r => supplied r l
  | none => (0, 0, 0)

/-- The word of the team or cluster barrier at which a lane has arrived. -/
def barrierWord (g : Grp) (l : Nat) : Option Nat :=
  (g.bars.find? fun r => r.arrived.getLsbD l).bind fun r => r.word.bind (·.encode)

/-- The second operand field of a lane record: a lane that has arrived at a barrier keeps its word there. (log 110: DESIGN
CHOICE, safe) -/
def secondOperand (g : Grp) (l : Nat) : Nat :=
  let op := suppliedAt g l
  match (laneAt g l).wait with
  | .barrier _ => (barrierWord g l).getD 0
  | _ => op.2.1 + 2 ^ 32 * op.2.2

/-- A lane record of 128 bytes. (log 55: DEDUCED, unsafe) (log 110: DESIGN CHOICE, safe) -/
def laneRecord (g : Grp) (l : Nat) : List Byte :=
  let ln := laneAt g l
  let op := suppliedAt g l
  leBytes 8 ln.pc.toNat ++ leBytes 1 (statusCode ln) ++ leBytes 1 ln.preds.toNat ++ leBytes 1 ln.base
    ++ leBytes 1 ln.cab.length ++ leBytes 2 ln.depth ++ leBytes 2 ln.spill ++ leBytes 4 ln.fibre.toNat
    ++ leBytes 2 ln.starve ++ leBytes 2 (waitCode ln.wait) ++ leBytes 4 ln.lsw.toNat ++ zeros 4
    ++ ((List.range 4).flatMap fun i => match ln.cab[i]? with | some r => leBytes 16 (retWord r) | none => zeros 16)
    ++ leBytes 8 ln.txnStart.toNat ++ leBytes 8 op.1 ++ leBytes 8 (secondOperand g l) ++ zeros 8

/-- A course record's bytes. -/
def courseBytes (c : Course) : List Byte :=
  leBytes 8 c.src ++ leBytes 8 c.dst ++ leBytes 8 c.bar ++ leBytes 8 c.grec ++ leBytes 8 c.side ++ leBytes 4 c.ctrl
    ++ zeros 4 ++ c.dims.flatMap fun d =>
      leBytes 16 (d.extent + wrapI 32 d.dstride * 2 ^ 32 + wrapI 56 d.sstride * 2 ^ 64 + d.bcast.toNat * 2 ^ 127)

def rmCode : Rm → Nat
  | .rne => 0
  | .rtz => 1
  | .rdn => 2
  | .rup => 3
  | .rna => 4

/-- An iterator record's bytes; an empty slot is zeros. -/
def iterBytes : Option Iter → List Byte
  | none => zeros 64
  | some it =>
    leBytes 8 it.addr ++ ((List.range 4).flatMap fun d =>
        leBytes 4 (it.extent.getD d 1) ++ leBytes 4 (wrapI 32 (it.stride.getD d 0)))
      ++ leBytes 4 (it.ty + rmCode it.rm * 2 ^ 4 + it.sat.toNat * 2 ^ 7) ++ zeros 20

/-- Bytes brought to a length. -/
def fit (n : Nat) (bs : List Byte) : List Byte := (bs ++ zeros (n - bs.length)).take n

/-- The frame of an engine record: kind, handle, steps, word, operand values with the flush sample in their last four
bytes, counters, and its last field. (log 106: DESIGN CHOICE, unsafe) -/
def engineRecord (kind handle steps word : Nat) (ops : List Byte) (flush : Bool) (counters tail : List Byte) : List Byte :=
  leBytes 1 kind ++ leBytes 1 handle ++ zeros 2 ++ leBytes 4 steps ++ leBytes 8 word ++ fit 28 ops ++ leBytes 4 flush.toNat
    ++ fit 64 counters ++ fit 272 tail

/-- The flush sample of an engine record. -/
def recFlush (r : List Byte) : Bool := fieldAt r 0x2C 4 % 2 = 1

/-- The index counters of a job: its next element, and a bit for each unit done early past it. (log 106: DESIGN
CHOICE, unsafe) -/
def jobCounters (j : Job) : List Byte :=
  leBytes 8 j.next ++ leBytes 56 (maskBelow (fun i => j.extra.contains (j.next + 1 + i)) earlyUnits)

/-- The units done early that a record's counters name. -/
def recEarly (r : List Byte) : List Nat :=
  let next := fieldAt r 0x30 8
  ((List.range earlyUnits).filter fun i => Nat.testBit (fieldAt r 0x38 56) i).map (next + 1 + ·)

/-- The record of a matrix operation. -/
def opRecord (m : MOp) : List Byte :=
  let rec4 (kind : Nat) (vals : List Nat) (tail : List Byte) : List Byte :=
    engineRecord kind m.h.val m.steps m.word (vals.flatMap (leBytes 4)) m.fzm (leBytes 8 m.steps) tail
  match m.kind with
  | .mma _ _ _ _ _ a b nb => rec4 1 [a, b, nb] []
  | .mmag _ _ _ _ _ b t rs nb bar rows =>
    rec4 2 [b, t, rs / 16 * 2 ^ 16 + nb, bar, 0] (rows.flatMap fun r => leBytes 4 (r.getD 0xFFFFFFFF))
  | .mzero n => rec4 3 [n] []
  | .mldz _ o st => rec4 4 [o, st] []
  | .mstz _ _ _ o st => rec4 5 [o, st] []

/-- The record of a copy or a sweep. -/
def jobRecord (j : Job) : List Byte :=
  match j.kind with
  | .cpy a b c ix =>
    engineRecord (if ix.isSome then 8 else 7) 0xFF j.next j.word (leBytes 8 a ++ leBytes 8 (if ix.isSome then b else 0))
      false (jobCounters j) (courseBytes c)
  | .sweep h _ it b fz => engineRecord 6 h.val j.next j.word (leBytes 4 b) fz (jobCounters j) (iterBytes (some it))

/-- The engine work of a slot: its operations, then its jobs. (log 55: DEDUCED, unsafe) -/
def engineRecords (x : Core) (k : Nat) : List (List Byte) :=
  ((x.mops.filter fun m => m.slot = k).map opRecord) ++ ((x.jobs.filter fun j => j.slot = k).map jobRecord)

def repCode (r : RepState) : Nat :=
  r.count + r.next * 2 ^ 8 + (repIdx r.d * 64 + repIdx r.a * 16 + repIdx r.b * 4 + repIdx r.c) * 2 ^ 16
where
  repIdx : RepStep → Nat
    | .s0 => 0
    | .s1 => 1
    | .s2 => 2
    | .s4 => 3

/-- The allotment that an image gives: a growing group's new one. -/
def imageAlloc (g : Grp) : Nat := g.growth.getD g.alloc

/-- The whole group image of slot `k`. (log 55: DEDUCED, unsafe) -/
def groupImage (s : State) (c k : Nat) (g : Grp) : List Byte :=
  let x := coreAt s c
  let eng := engineRecords x k
  let st := g.stop.isSome.toNat + (decide (x.owner = some k)).toNat * 2 + g.rdv.isSome.toNat * 4 + g.rep.isSome.toNat * 8
    + g.sysc.isSome.toNat * 16
  let r8 (f : Rdv → Nat) : List Byte := leBytes 8 ((g.rdv.map f).getD 0)
  leBytes 4 0x10000 ++ leBytes 2 (imageAlloc g) ++ leBytes 2 g.scal ++ leBytes 8 g.grid.toNat ++ leBytes 8 (meridian s)
    ++ leBytes 1 c ++ leBytes 1 g.team ++ leBytes 1 g.index ++ leBytes 1 g.prio
    ++ leBytes 1 st ++ leBytes 1 eng.length ++ leBytes 1 ((g.stop.map (·.cause)).getD 0) ++ zeros 1
    ++ leBytes 8 ((g.rep.map repCode).getD 0) ++ leBytes 8 ((g.rep.map fun r => r.set.toNat).getD 0)
    ++ r8 (·.pc.toNat) ++ r8 (·.captured.toNat) ++ r8 (fun r => (r.arrived ||| r.excused).toNat) ++ r8 (·.guards.toNat)
    ++ leBytes 4 ((g.rdv.map (·.base)).getD 0) ++ leBytes 4 ((g.sysc.map fun d => 0x100 + d).getD 0)
    ++ leBytes 8 ((g.stop.map fun r => r.mask.toNat).getD 0) ++ leBytes 8 ((g.stop.map fun r => r.pc.toNat).getD 0) ++ zeros 24
    ++ leBytes 4 g.ftz.toNat ++ leBytes 4 g.fair.toNat ++ leBytes 4 g.rdvz.toNat ++ leBytes 4 g.dmr.toNat
    ++ leBytes 8 g.dmrc.toNat ++ leBytes 8 g.dmra.toNat ++ leBytes 8 g.hint.toNat ++ leBytes 8 g.spill.toNat
    ++ leBytes 4 g.tretry.toNat ++ zeros 12
    ++ ((List.range 7).flatMap fun i => leBytes 8 (g.masks.getD i 0).toNat) ++ zeros 8
    ++ ((List.range 16).flatMap fun i => leBytes 4 (g.handles.getD i 0).toNat)
    ++ iterBytes (g.iters.getD 0 none) ++ iterBytes (g.iters.getD 1 none) ++ zeros 64
    ++ ((List.range 192).flatMap fun i => leBytes 4 (sget g.sregs i).toNat)
    ++ ((List.range 64).flatMap (laneRecord g))
    ++ ((List.range (imageAlloc g)).flatMap fun n => (List.range 64).flatMap fun l =>
        leBytes 4 (sget (laneAt g l).regs n).toNat)
    ++ eng.flatMap id

def groupImageSize (alloc neng : Nat) : Nat := 0x2500 + 256 * alloc + 384 * neng

/-! ## CTXS (R236) -/

/-- Whether an image address passes R235 and R169 for `n` bytes; the supervisor's addresses are physical (log 4: DESIGN CHOICE, unsafe). -/
def imageOk (img n : Nat) : Bool := img % 256 = 0 && img + n ≤ 2 ^ 56

/-- The target of a CTXS.G stops, its ticketed commits having ended (R316): its open transactions abort, its lanes leave the
locks' queues, its reservations, its place in the engine's queue and its watches go (R236). -/
def freeze (s : State) (c k : Nat) : State :=
  let s1 := (List.range 64).foldl (fun s l => leaveAnchors s (c, k, l)) (abortLanes s c k full 0x03)
  let s3 := modCore (dropWatches s1 c k full) c fun x => { x with waiters := x.waiters.filter (· ≠ k) }
  modGrp s3 c k fun g =>
    let halt (r : Rdv) : Rdv := if g.stop.isSome then r else r.halt s.clock
    { clearResv (coreAt s3 c) k (endTack g) with frozen := true, draining := 0, rdv := g.rdv.map halt, bars := g.bars.map halt }

/-- What a core's supervisor has sent of an image is forgotten with its word. -/
def endImage (s : State) (c : Nat) : State :=
  { s with sent := s.sent.filter fun k => match k.1 with | .image d _ => d ≠ c | _ => true }

/-- Release the lanes of the supervisor that wait for a CTXS, with its result. (log 15: DESIGN CHOICE, safe) -/
def ctxsDone (c v : Nat) (s : State) (isIt : Wait → Option (Nat × Bool)) : State :=
  modGrp (endImage s c) c 0 fun g => (List.range 64).foldl (fun g l =>
    match isIt (laneAt g l).wait with
    | some (d, lead) =>
      let g1 := modLane g l fun ln => { ln with wait := .ready, pc := ln.pc + 8 }
      if lead then putS g1 d 1 v else g1
    | none => g) g

/-- Causes that a frozen group holds go to the ring before the image. -/
def flushCauses (s : State) (c k : Nat) (g : Grp) : State :=
  let s1 := setGrp s c k (some { g with causes := [] })
  modCore s1 c fun x => { x with records := x.records ++ g.causes.map fun r => { r with pc := nextPc g } }

/-- Whether a frozen group's work has come to rest. -/
def atRest (s : State) (c k : Nat) : Bool :=
  let x := coreAt s c
  !(x.pend.any fun a => a.slot = k) && !recordHeld x k && ((grpIn x k).map (·.outs.isEmpty)).getD true && !(x.mops.any fun m => m.slot = k && mopMustFinish m)

/-- Who owns the engine once a group has been saved: nobody else while the image holds its ownership (96), or operations that it had
accepted before its MREL (97), since the next grant follows the last of them (R200). (log 55: DEDUCED, unsafe) -/
def keptOwner (k : Nat) (x : Core) : Option Nat :=
  if x.owner = some k then some 96
  else if x.owner = none && x.mops.any (·.slot = k) then some 97
  else x.owner

/-- A CTXS.G that waits goes on: the image is written once the group is at rest. -/
def tryCtxsG (s : State) (c k img d : Nat) : State :=
  let isIt (w : Wait) : Option (Nat × Bool) := match w with
    | .ctxsG k' i d' lead => if k' = k ∧ i = img ∧ d' = d then some (d', lead) else none
    | _ => none
  match grpAt s c k with
  | none => ctxsDone c 1 s isIt
  | some g =>
    if ticketed s c k then s
    else if !g.frozen then freeze s c k
    else if !g.causes.isEmpty then flushCauses s c k g
    else if !atRest s c k then s
    else
      let bs := groupImage s c k g
      match directWrite s (.image c k) img bs with
      | .error b => (unblock s b).getD s
      | .ok s1 =>
        let s2 := modCore s1 c fun x =>
          let x1 := dropWork k s.clock x
          { x1 with owner := keptOwner k x }
        ctxsDone c 0 (freeSlot s2 c k) isIt

/-- CTXS.G. -/
def execCtxsG (g : Guard) (d a b : SReg) (s : State) : Out :=
  svWord (.ctxsG g d a b) s fun gr gm =>
    let c := s.cur.core
    let img := getS gr b.val 2
    match targetOf s (getS gr a.val 1) with
    | none => status d 1 s
    | some (k, t) =>
      let n := groupImageSize (imageAlloc t) (engineRecords (coreAt s c) k).length
      if !imageOk img n then status d 4 s
      else modCur (if ticketed s c k then s else freeze s c k) fun g2 =>
        parkLanes gm (fun l => .ctxsG k img d.val (lowest gm = some l)) (advance (s.cur.mask &&& ~~~gm) g2)

/-! ## Loading a group (R238, R240) -/

def imgBits (v : Nat) (n : Nat) : BitVec n := BitVec.ofNat n v

/-- A lane from its record, ready: its PC and its window base hold the multiples that R51 and R79 give them, its depth
is the cabinet count plus the spill count (R76), and reserved bits are 0. (log 55: DEDUCED, unsafe) -/
def loadLane (bs : List Byte) (alloc l : Nat) : Lane :=
  let o := 0x500 + 128 * l
  let cab := min 4 (fieldAt bs (o + 11) 1)
  let spill := min (65535 - cab) (fieldAt bs (o + 14) 2)
  let lsw := fieldAt bs (o + 24) 4
  { Lane.empty with
    status := (match fieldAt bs (o + 8) 1 % 4 with | 1 => .live | 2 => .exited | _ => .idle),
    pc := imgBits (fieldAt bs o 8 / 8 * 8) 64, preds := imgBits (fieldAt bs (o + 9) 1) 8 ||| 0x80, base := fieldAt bs (o + 10) 1 / 4 * 4,
    cab := (List.range cab).map fun i => retOf (fieldAt bs (o + 0x20 + 16 * i) 16),
    depth := cab + spill, spill := spill, fibre := imgBits (fieldAt bs (o + 16) 4) 32,
    starve := fieldAt bs (o + 20) 2, lsw := imgBits (keepBits lsw 31 22 + keepBits lsw 5 0) 32, txnStart := imgBits (fieldAt bs (o + 0x60) 8) 64,
    regs := (List.range alloc).foldl (fun m n => sset m n (imgBits (fieldAt bs (0x2500 + 4 * (64 * n + l)) 4) 32)) [] }

/-- The wait code of a lane record, and its barrier phase. -/
def loadCode (bs : List Byte) (l : Nat) : Nat × Bool :=
  let w := fieldAt bs (0x500 + 128 * l + 0x16) 2
  (w % 2 ^ 8, Nat.testBit w 8)

/-- The word at which a lane had arrived, as its record keeps it. (log 110: DESIGN CHOICE, safe) -/
def arrivalWord (bs : List Byte) (l : Nat) : Option Instr := decode (fieldAt bs (0x500 + 128 * l + 0x70) 8)

/-- The team or cluster barrier that a word names; that of a team which CTXS.T has saved as well. -/
def barrierOf (s : State) (c : Nat) (tm : Team) : Option Instr → Barrier
  | some (.tbar _ _ id _) => barAt tm false id.val
  | some (.cbar _ _ id _) =>
    let kept (t : Team) : Bool := t.grid = tm.grid && t.cluster = tm.cluster && t.ccore = 0
    (((barHome s c tm true).bind fun h => teamAt s h.1 h.2).or
      (tm.place[0]?.bind fun p => (coreAt s p).away.find? kept)).elim Barrier.zero fun t => barAt t true id.val
  | _ => Barrier.zero

/-- A lane takes its wait up again (R240); the lanes of an HWAIT's PC have their lowest as the lead. -/
def loadWait (s : State) (c : Nat) (tm : Team) (g : Grp) (bs : List Byte) (l : Nat) (ln : Lane) : Lane :=
  let cd := loadCode bs l
  let parked := Nat.testBit (fieldAt bs (0x500 + 128 * l + 8) 1) 2
  if !parked then ln
  else match cd.1 with
    | 2 =>
      (match wordAt s c g ln.pc with
        | some (.hwait _ d h) =>
          if handleState (getHandle g h) = 1 then
            let first := (List.range 64).find? fun k => (loadCode bs k).1 = 2 && (laneAt g k).pc = ln.pc
            { ln with wait := .hwait h d (first = some l) }
          else ln
        | some _ => ln
        | none => { ln with wait := .refetch })
    | 4 => { ln with wait := .rendezvous }
    | 5 =>
      if (barrierOf s c tm (arrivalWord bs l)).phase = cd.2 then { ln with wait := .barrier cd.2 }
      else { ln with pc := ln.pc + 8 }
    | 6 => { ln with wait := .sysc }
    | _ => ln

/-- What the lanes supplied, as the image holds it: the second field carries two operands of 32 bits. -/
def loadOps (bs : List Byte) (m : Mask) : List (Nat × Nat × Nat × Nat) :=
  (lanesOf m).map fun l =>
    let o := 0x500 + 128 * l
    let b := fieldAt bs (o + 0x70) 8
    (l, fieldAt bs (o + 0x68) 8, b % 2 ^ 32, b / 2 ^ 32)

/-- The pending rendezvous of an image, with its word where that can be fetched now (R148). -/
def loadRdv (s : State) (c : Nat) (g : Grp) (bs : List Byte) : Option Rdv :=
  if !Nat.testBit (fieldAt bs 0x1C 1) 2 then none
  else
    let pc := imgBits (fieldAt bs 0x30 8) 64
    let arr : Mask := imgBits (fieldAt bs 0x40 8) 64
    let exc := maskOf fun l => arr.getLsbD l && (loadCode bs l).1 ≠ 4
    some
      { pc := pc, word := wordAt s c g pc, captured := imgBits (fieldAt bs 0x38 8) 64, arrived := arr &&& ~~~exc,
        guards := imgBits (fieldAt bs 0x48 8) 64, excused := exc, ops := loadOps bs (arr &&& ~~~exc),
        base := fieldAt bs 0x50 4, since := s.clock }

/-- The arrivals at barriers that go on, one for each PC: the lanes that had arrived are the captured ones, and their
time out starts again. (log 108: DEDUCED, unsafe) -/
def loadBars (s : State) (bs : List Byte) (g : Grp) : List Rdv :=
  let ls := (List.range 64).filter fun l => match (laneAt g l).wait with | .barrier _ => true | _ => false
  ((ls.map fun l => (laneAt g l).pc).dedup).filterMap fun pc =>
    let m := maskOf fun l => ls.contains l && (laneAt g l).pc = pc
    ((lowest m).bind (arrivalWord bs)).map fun i =>
      { pc := pc, word := some i, captured := m, arrived := m, guards := m, excused := 0, ops := [], base := 0, since := s.clock }

/-- The REP state of an image; the word that its set stands at is fetched before its next issue (R99). -/
def loadRep (bs : List Byte) : Option RepState :=
  if !Nat.testBit (fieldAt bs 0x1C 1) 3 then none
  else
    let v := fieldAt bs 0x20 8
    let st (i : Nat) : RepStep := match bitsOf v (17 + 2 * i) (16 + 2 * i) with
      | 0 => .s0
      | 1 => .s1
      | 2 => .s2
      | _ => .s4
    let set : Mask := imgBits (fieldAt bs 0x28 8) 64
    some { word := none, count := v % 2 ^ 7, next := bitsOf v 14 8, d := st 3, a := st 2, b := st 1, c := st 0, set := set }

/-- An iterator slot of an image. -/
def loadIter (bs : List Byte) (o : Nat) : Option Iter := decodeIter ((bs.drop o).take 64)

/-- The stopping record of an image. -/
def loadStop (bs : List Byte) (k team : Nat) : Option TrapRec :=
  if !Nat.testBit (fieldAt bs 0x1C 1) 0 then none
  else some
    { mask := imgBits (fieldAt bs 0x58 8) 64, pc := imgBits (fieldAt bs 0x60 8) 64, addr := 0, info := 0,
      cause := fieldAt bs 0x1E 1, kind := 0, slot := k, team := team, grid := imgBits (fieldAt bs 8 8) 64, wid := 0 }

/-- A handle word of an image: its reserved bits are 0, and one of no producer is empty. (log 55: DEDUCED, unsafe) -/
def loadHandle (v : Nat) : Word := if bitsOf v 7 4 ≤ 6 then imgBits (keepBits v 31 4 + keepBits v 1 0) 32 else 0

/-- The group of an image in slot `k`; the reserved bits of its registers read 0. (log 55: DEDUCED, unsafe) -/
def loadGroup (s : State) (c k : Nat) (tm : Team) (bs : List Byte) : Grp :=
  let alloc := fieldAt bs 4 2
  let sysc := fieldAt bs 0x54 4 % 2 ^ 9
  let g : Grp :=
    { Grp.fresh with
      grid := imgBits (fieldAt bs 8 8) 64, team := tm.num, index := fieldAt bs 0x1A 1, prio := fieldAt bs 0x1B 1 % 8,
      alloc := alloc, scal := fieldAt bs 6 2, lanes := (List.range 64).map (loadLane bs alloc),
      sregs := (List.range 192).foldl (fun m i => sset m i (imgBits (fieldAt bs (0x200 + 4 * i) 4) 32)) [],
      masks := (List.range 7).map fun i => imgBits (fieldAt bs (0xC0 + 8 * i) 8) 64,
      handles := (List.range 16).map fun i => loadHandle (fieldAt bs (0x100 + 4 * i) 4),
      iters := [loadIter bs 0x140, loadIter bs 0x180], stop := loadStop bs k tm.num,
      sysc := if Nat.testBit (fieldAt bs 0x1C 1) 4 then some (sysc - 0x100) else none,
      ftz := imgBits (keepBits (fieldAt bs 0x80 4) 2 0) 32, fair := imgBits (keepBits (fieldAt bs 0x84 4) 15 0) 32,
      rdvz := imgBits (fieldAt bs 0x88 4) 32, dmr := imgBits (keepBits (fieldAt bs 0x8C 4) 1 0) 32, dmrc := imgBits (fieldAt bs 0x90 8) 64, dmra := imgBits (fieldAt bs 0x98 8) 64,
      hint := imgBits (fieldAt bs 0xA0 8) 64, 
      spill := imgBits (keepBits (fieldAt bs 0xA8 8) 56 12 + keepBits (fieldAt bs 0xA8 8) 4 0) 64,
      tretry := imgBits (keepBits (fieldAt bs 0xB0 4) 31 16 + keepBits (fieldAt bs 0xB0 4) 3 0) 32 }
  let g1 := { g with lanes := mapFrom (loadWait s c tm g bs) 0 g.lanes, rep := loadRep bs }
  let g2 : Grp := { g1 with rdv := loadRdv s c g1 bs }
  { g2 with bars := loadBars s bs g2 }

/-! ### Engine records (R237, R238) -/

/-- The index list of a copy, from the own scratchpad. -/
def loadList (s : State) (c : Nat) (tm : Team) (a n : Nat) : List Nat :=
  let bs := readScr s c tm.num ((apertureOff a).getD 0) (4 * n)
  (List.range n).map fun k => fieldAt bs (4 * k) 4

/-- A job of an engine record. -/
def loadJob (s : State) (c : Nat) (tm : Team) (r : List Byte) : Option JobKind :=
  match decode (fieldAt r 8 8) with
  | some (.cpy _ _) => some (.cpy (fieldAt r 0x10 8) 0 (decodeCourse (r.drop 0x70)) none)
  | some (.cpyg _ _ _) =>
    let crs := decodeCourse (r.drop 0x70)
    some (.cpy (fieldAt r 0x10 8) (fieldAt r 0x18 8) crs
      (some (loadList s c tm (fieldAt r 0x18 8) (crsExtent crs (crsNdim crs - 1)))))
  | some (.tswp _ op h _ _) => (decodeIter ((r.drop 0x70).take 64)).map fun it => .sweep h op it (fieldAt r 0x10 4) (recFlush r)
  | _ => none

/-- A matrix operation of an engine record: its handle, its tile, what it does. -/
def loadOp (r : List Byte) : Option (HReg × Nat × MKind) :=
  let v (i : Nat) : Nat := fieldAt r (0x10 + 4 * i) 4
  match decode (fieldAt r 8 8) with
  | some (.mma _ h t ka kb ga gb ovw _ _ _) => some (h, t.val, .mma ka kb ga gb ovw (v 0) (v 1) (v 2))
  | some (.mmag _ h t ka kb ga gb ovw _ _ _) =>
    let rows := (List.range 64).map fun l => let u := fieldAt r (0x70 + 4 * l) 4; if u = 0xFFFFFFFF then none else some u
    some (h, t.val, .mmag ka kb ga gb ovw (v 0) (v 1) (v 2 / 2 ^ 16 * 16) (v 2 % 2 ^ 16) (v 3) rows)
  | some (.mzero _ h t _) => some (h, t.val, .mzero (v 0))
  | some (.mldz _ h f t _ _) => some (h, t.val, .mldz f (v 0) (v 1))
  | some (.mstz _ h f rm sat t _ _) => some (h, t.val, .mstz f rm sat (v 0) (v 1))
  | _ => none

/-- Queue an engine record again; an operation of the matrix engine writes tiles, which a change of launch clears
again (R202). (log 55: DEDUCED, unsafe) -/
def loadEngine (c k : Nat) (tm : Team) (g : Grp) (s : State) (r : List Byte) : State :=
  match loadOp r with
  | some (h, t, kind) =>
    let m : MOp := { slot := k, team := tm.num, grid := g.grid, h := h, word := fieldAt r 8 8, tile := t, kind := kind,
                     fzm := recFlush r, steps := fieldAt r 4 4, latched := fieldAt r 4 4, latch := [], cancelled := false }
    modCore s c fun x => { x with mops := x.mops ++ [m], cleared := false }
  | none =>
    match loadJob s c tm r with
    | some kind =>
      let j : Job := { id := s.nextId, slot := k, team := tm.num, grid := g.grid, word := fieldAt r 8 8, kind := kind,
                       next := fieldAt r 0x30 8, extra := recEarly r, paused := false, cancelled := false }
      modCore { s with nextId := s.nextId + 1 } c fun x => { x with jobs := x.jobs ++ [j] }
    | none => s

/-! ### CTXL.G -/

/-- Whether a grid has ended. -/
def gridEnded (s : State) (id : Dword) : Bool :=
  match gridOf s id with
  | some g => !stands g
  | none => true

/-- The bytes of an image in memory: none while they cannot be read. -/
def imageRead (s : State) (img n : Nat) : Option (List Byte) := (directRead s img n).map (·.1)

/-- Why a group image cannot be loaded, by its result code; an allotment that R136 does not admit is a bad format.
(log 55: DEDUCED, unsafe) -/
def groupRefusal (s : State) (c : Nat) (bs : List Byte) (part : Nat) : Option Nat :=
  let x := coreAt s c
  let id : Dword := imgBits (fieldAt bs 8 8) 64
  let team := fieldAt bs 0x19 1
  let idx := fieldAt bs 0x1A 1
  let alloc := fieldAt bs 4 2
  if fieldAt bs 0 4 ≠ 0x10000 ∨ fieldAt bs 0x18 1 ≠ c ∨ meridian s < fieldAt bs 0x10 8 ∨ 256 < alloc ∨ alloc % 8 ≠ 0 then some 5
  else if (List.range 64).any fun l => Nat.testBit (fieldAt bs (0x500 + 128 * l + 0x18) 4) 31 then some 6
  else if gridEnded s id then some 7
  else if !((teamIn x team).any fun t => t.grid = id) then some 8
  else if 11 < part ∨ (freeSlotIn x part).isNone ∨ freeUnits x part < alloc / 8 then some 9
  else if x.groups.any fun og => match og with
      | some g => g.team = team && !g.supervisor && g.index = idx
      | none => false then some 11
  else none

/-- A group image takes its slot; the engine goes back to it, or to the operations that it holds after its MREL (R200). -/
def placeImage (s : State) (c k : Nat) (bs : List Byte) : State :=
  match teamAt s c (fieldAt bs 0x19 1) with
  | none => s
  | some tm =>
    let g := loadGroup s c k tm bs
    let s1 := modCore s c fun x =>
      let x1 := putNew x k g
      { x1 with owner := if Nat.testBit (fieldAt bs 0x1C 1) 1 && x.owner = some 96 then some k else x.owner }
    let n := fieldAt bs 0x1D 1
    let s2 := (List.range n).foldl (fun s e =>
      loadEngine c k tm g s ((bs.drop (groupImageSize (fieldAt bs 4 2) e)).take 384)) s1
    modCore s2 c fun x => { x with owner := if x.owner = some 97 && x.mops.any (·.slot = k) then none else x.owner }

/-- CTXL.G's answer with the state it leaves, or the state in which it waits for bytes of the image; bytes that nothing backs
hold no FORMAT. (log 55: DEDUCED, unsafe) -/
def loadImageG (s : State) (c part img : Nat) : (State × Nat) ⊕ State :=
  if !imageOk img 0x2500 then .inl (s, 5 * 2 ^ 24)
  else match imageRead s img 0x2500 with
    | none => .inr ((askOnce s img 0x2500 512).getD s)
    | some hd =>
      match groupRefusal s c hd part with
      | some n => .inl (s, n * 2 ^ 24)
      | none =>
        let size := groupImageSize (fieldAt hd 4 2) (fieldAt hd 0x1D 1)
        match imageRead s img size, freeSlotIn (coreAt s c) part with
        | some bs, some k => .inl (placeImage s c k bs, slotWord k)
        | none, _ => .inr ((askOnce s img size 512).getD s)
        | _, none => .inl (s, 9 * 2 ^ 24)

/-- A CTXL at issue: it is complete, or its lanes park (R77, R235). -/
def ctxlGo (gm : Mask) (d : SReg) (r : (State × Nat) ⊕ State) (w : Bool → Wait) : State :=
  match r with
  | .inl v => status d v.2 v.1
  | .inr t => modCur t fun g => parkLanes gm (fun l => w (lowest gm = some l)) (advance (t.cur.mask &&& ~~~gm) g)

/-- A CTXL that waits goes on. -/
def ctxlOn (c : Nat) (isIt : Wait → Option (Nat × Bool)) (r : (State × Nat) ⊕ State) : State :=
  match r with
  | .inl v => ctxsDone c v.2 v.1 isIt
  | .inr t => t

/-- CTXL.G. (log 56: DEDUCED, unsafe) -/
def execCtxlG (g : Guard) (d a b : SReg) (s : State) : Out :=
  svWord (.ctxlG g d a b) s fun gr gm =>
    let part := getS gr a.val 1
    let img := getS gr b.val 2
    ctxlGo gm d (loadImageG s s.cur.core part img) (.ctxlG part img d.val)

/-- A CTXL.G that waits goes on. -/
def tryCtxlG (s : State) (c part img d : Nat) : State :=
  ctxlOn c (fun w => match w with
    | .ctxlG p i d' lead => if p = part ∧ i = img ∧ d' = d then some (d', lead) else none
    | _ => none) (loadImageG s c part img)

/-! ## The team image (R239) -/

def barrierBytes (wide : Bool) (b : Barrier) : List Byte :=
  if wide then leBytes 8 (b.expect % 2 ^ 16 + b.arrived % 2 ^ 16 * 2 ^ 16 + b.phase.toNat * 2 ^ 32 + b.all.toNat * 2 ^ 33)
  else leBytes 4 (b.expect % 2 ^ 8 + b.arrived % 2 ^ 8 * 2 ^ 8 + b.phase.toNat * 2 ^ 16 + b.all.toNat * 2 ^ 17)

def loadBarrier (wide : Bool) (v : Nat) : Barrier :=
  if wide then { expect := v % 2 ^ 16, arrived := bitsOf v 31 16, phase := Nat.testBit v 32, all := Nat.testBit v 33 }
  else { expect := v % 2 ^ 8, arrived := bitsOf v 15 8, phase := Nat.testBit v 16, all := Nat.testBit v 17 }

def windowBytes : Option Window → List Byte
  | none => zeros 32
  | some w => leBytes 8 w.va ++ leBytes 4 w.off ++ leBytes 4 w.len ++ leBytes 4 1 ++ zeros 12

def loadWindow (bs : List Byte) (o : Nat) : Option Window :=
  if !Nat.testBit (fieldAt bs (o + 16) 4) 0 then none
  else
    let len := fieldAt bs (o + 12) 4
    some { va := fieldAt bs o 8, off := fieldAt bs (o + 8) 4, len := len, blocks := List.replicate (len / 512) .invalid }

/-- The voyage of a core, for a team of its grid. -/
def teamVoyage (x : Core) (tm : Team) : Option Voyage :=
  match x.voyage with
  | some v => if v.grid = tm.grid then some v else none
  | none => none

/-- (log 55: DEDUCED, unsafe) -/
def teamImage (s : State) (c : Nat) (tm : Team) : List Byte :=
  let v := teamVoyage (coreAt s c) tm
  leBytes 4 0x20000 ++ leBytes 4 tm.shared ++ leBytes 8 tm.grid.toNat ++ leBytes 8 (meridian s) ++ leBytes 1 c
    ++ leBytes 1 tm.num ++ leBytes 1 tm.ccore ++ leBytes 1 ((decide (tm.ccore = 0)).toNat + v.isSome.toNat * 2) ++ zeros 4
    ++ (tm.bars.flatMap (barrierBytes false))
    ++ (if tm.ccore = 0 then tm.cbars.flatMap (barrierBytes true) else zeros 64)
    ++ (tm.wins.flatMap windowBytes) ++ (tm.fails.flatMap fun w => leBytes 8 w.toNat)
    ++ (match v with
      | some w => (List.range 12).flatMap fun i => leBytes 2 (w.credits.getD i 0)
      | none => zeros 24)
    ++ zeros (0x400 - 0x238) ++ readBytes tm.bytes 0 tm.shared

/-! ## CTXS.T and CTXL.T (R236, R238, R239, R268) -/

def anyGroup (x : Core) (t : Nat) : Bool :=
  x.groups.any fun og => match og with | some g => g.team = t | none => false

/-- Set the credits that the other cores of a cluster hold for a core. -/
def setCredits (s : State) (tm : Team) (n : Nat) : State :=
  (mapFrom (fun cc p => (cc, p)) 0 tm.place).foldl (fun s cp =>
    if cp.1 = tm.ccore then s
    else modVoyage s cp.2 fun v => if v.grid = tm.grid then { v with credits := v.credits.set tm.ccore n } else v) s

/-- A CTXS.T that ends without effect gives the withdrawn credits back: all but those that voyagers in flight or in the berth
hold. -/
def regrantCredits (s : State) (c : Nat) (tm : Team) : State :=
  match teamVoyage (coreAt s c) tm with
  | none => s
  | some w =>
    (mapFrom (fun cc p => (cc, p)) 0 tm.place).foldl (fun s cp =>
      if cp.1 = tm.ccore then s
      else
        let used := ((w.berth ++ w.due.flatten).filter fun b => b.credit = some cp.1).length
          + (w.flight.filter fun f => f.from_ = cp.1).length
        modVoyage s cp.2 fun v =>
          if v.grid = tm.grid then { v with credits := v.credits.set tm.ccore (startCredits tm.place.length - used) } else v) s

/-- The voyagers of a berth go to the harbour, to the core's own list (R268). -/
def berthOut (s : State) (c : Nat) (v : Voyage) (tm : Team) : Except Blocked State :=
  let all := v.due.flatten ++ v.berth
  match withTurn s (.image c (352 + tm.num)) (all.flatMap fun b => harbourRanges s c v tm tm.ccore b.v) with
  | .error b => .error b
  | .ok s0 =>
    let s1 := modVoyage s0 c fun v => { v with berth := [], due := [] }
    .ok (all.foldl (fun s b => toHarbour s c v tm tm.ccore b.v) s1)

/-- A CTXS.T that waits goes on: voyagers in flight first, then the windows, then the image; the allotment is freed. -/
def tryCtxsT (s : State) (c t img d : Nat) : State :=
  let isIt (w : Wait) : Option (Nat × Bool) := match w with
    | .ctxsT t' i d' lead => if t' = t ∧ i = img ∧ d' = d then some (d', lead) else none
    | _ => none
  match teamAt s c t with
  | none => ctxsDone c 1 s isIt
  | some tm =>
    if anyGroup (coreAt s c) t then ctxsDone c 3 (regrantCredits s c tm) isIt
    else
    let s0 := match teamVoyage (coreAt s c) tm with
      | some _ => setCredits s tm 0
      | none => s
    let x := coreAt s0 c
    let v := teamVoyage x tm
    if x.outb.any (fun a => a.team = t && a.grid = tm.grid) || (v.any fun w => !w.flight.isEmpty) then s0
    else
      let s1 := match v with
        | some w => berthOut s0 c w tm
        | none => .ok s0
      match s1 with
      | .error b => (unblock s0 b).getD s0
      | .ok s2 =>
        let s3 := (List.range 4).foldl (fun s w => sweepWindow s c t w true false none) s2
        match teamAt s3 c t with
        | none => s3
        | some tm3 =>
          let bs := teamImage s3 c tm3
          match directWrite s3 (.image c (96 + t)) img bs with
          | .error b => (unblock s0 b).getD s0
          | .ok s4 =>
            let s5 := modCore s4 c fun x =>
              { x with teams := x.teams.filter fun y => y.num ≠ t, away := x.away ++ [{ tm3 with bytes := [], away := true, vcred := ((teamVoyage x tm3).map (·.credits)).getD [] }] }
            ctxsDone c 0 s5 isIt

/-- CTXS.T. A number that names no user team of the core gives 1. (log 56: DEDUCED, unsafe) -/
def execCtxsT (g : Guard) (d a b : SReg) (s : State) : Out :=
  svWord (.ctxsT g d a b) s fun gr gm =>
    let c := s.cur.core
    let t := getS gr a.val 1
    let img := getS gr b.val 2
    match teamAt s c t with
    | none => status d 1 s
    | some tm =>
      if 128 ≤ t then status d 1 s
      else if anyGroup (coreAt s c) t then status d 3 s
      else if !imageOk img (0x400 + tm.shared) then status d 4 s
      else modCur s fun g2 =>
        parkLanes gm (fun l => .ctxsT t img d.val (lowest gm = some l)) (advance (s.cur.mask &&& ~~~gm) g2)

/-- Where a team of an image stands: as it was when it was saved; or as another team of its grid on this core's
rectangle says. -/
def teamHome (s : State) (c : Nat) (bs : List Byte) : Team :=
  let id : Dword := imgBits (fieldAt bs 8 8) 64
  let cc := fieldAt bs 0x1A 1
  let mate := s.cores.findSome? fun x => (x.teams ++ x.away).find? fun t => t.grid = id && t.place[cc]? = some c
  match (coreAt s c).away.find? fun t => t.grid = id && t.num = fieldAt bs 0x19 1 with
  | some t => t
  | none => match mate with
    | some t => { Team.fresh with grid := id, cluster := t.cluster, ccore := cc, place := t.place }
    | none => { Team.fresh with grid := id, ccore := cc, place := [c] }

/-- Why a team image cannot be loaded. (log 56: DEDUCED, unsafe) -/
def teamRefusal (s : State) (c t : Nat) (bs : List Byte) : Option Nat :=
  if fieldAt bs 0 4 ≠ 0x20000 ∨ fieldAt bs 0x18 1 ≠ c ∨ meridian s < fieldAt bs 0x10 8 then some 5
  else if gridEnded s (imgBits (fieldAt bs 8 8) 64) then some 7
  else if !sharedRoom (coreAt s c) (fieldAt bs 4 4) || 128 ≤ t then some 9
  else if (teamAt s c t).isSome then some 10
  else none

/-- A cluster barrier of an image, without the arrivals that have been withdrawn since the save (R158, R249). (log
120: DEDUCED, unsafe) -/
def keptArrivals (home : Team) (i : Nat) (b : Barrier) : Barrier :=
  { b with arrived := if home.away then min b.arrived (barAt home true i).arrived else b.arrived }

/-- The team of an image. -/
def loadTeam (s : State) (c t : Nat) (bs : List Byte) : Team :=
  let home := teamHome s c bs
  let shared := fieldAt bs 4 4
  { home with
    away := false, vcred := [], num := t, shared := shared, bytes := writeBytes [] 0 ((bs.drop 0x400).take shared),
    bars := (List.range 16).map fun i => loadBarrier false (fieldAt bs (0x20 + 4 * i) 4),
    cbars := if Nat.testBit (fieldAt bs 0x1B 1) 0 then
        (List.range 8).map fun i => keptArrivals home i (loadBarrier true (fieldAt bs (0x60 + 8 * i) 8))
      else home.cbars,
    wins := (List.range 4).map fun i => loadWindow bs (0xA0 + 32 * i),
    fails := (List.range 32).map fun i => imgBits (fieldAt bs (0x120 + 8 * i) 8) 64 }

/-- The credits of an image, with what peers have withdrawn, granted or returned since its save (R239, R268). (log 56:
DEDUCED, unsafe) -/
def loadCredits (bs : List Byte) (saved : List Nat) (n : Nat) (now : List Nat) : List Nat :=
  mapFrom (fun i v => min n ((fieldAt bs (0x220 + 2 * i) 2 + v) - saved.getD i v)) 0 now

/-- The team of an image stands again with its credits, and those that its core withdrew return; a team that had
retired meanwhile may free its cluster (R246). (log 56: DEDUCED, unsafe) -/
def placeTeam (s : State) (c t : Nat) (bs : List Byte) : State :=
  let tm := loadTeam s c t bs
  let saved := (teamHome s c bs).vcred
  let s1 := modCore s c fun x =>
    { x with teams := x.teams ++ [tm], away := x.away.filter fun y => !(y.grid = tm.grid && y.num = fieldAt bs 0x19 1) }
  let n := startCredits tm.place.length
  let s2 := if !Nat.testBit (fieldAt bs 0x1B 1) 1 then s1
    else modVoyage (setCredits s1 tm n) c fun v =>
      if v.grid = tm.grid then { v with team := t, credits := loadCredits bs saved n v.credits } else v
  let s3 := recountBars s2 c tm
  if tm.retired then freeCluster s3 tm else s3

/-- CTXL.T's answer with the state it leaves, or the state in which it waits for bytes of the image. A bad image address holds no
FORMAT. (log 56: DEDUCED, unsafe) -/
def loadImageT (s : State) (c t img : Nat) : (State × Nat) ⊕ State :=
  if !imageOk img 0x400 then .inl (s, 5 * 2 ^ 24)
  else match imageRead s img 0x400 with
    | none => .inr ((askOnce s img 0x400 512).getD s)
    | some hd =>
      match teamRefusal s c t hd with
      | some n => .inl (s, n * 2 ^ 24)
      | none =>
        let size := 0x400 + fieldAt hd 4 4
        match imageRead s img size with
        | none => .inr ((askOnce s img size 512).getD s)
        | some bs => .inl (placeTeam s c t bs, 0)

/-- CTXL.T. A misaligned image address, or one outside global memory, gives 5. (log 56: DEDUCED, unsafe) -/
def execCtxlT (g : Guard) (d a b : SReg) (s : State) : Out :=
  svWord (.ctxlT g d a b) s fun gr gm =>
    let t := getS gr a.val 1
    let img := getS gr b.val 2
    ctxlGo gm d (loadImageT s s.cur.core t img) (.ctxlT t img d.val)

/-- A CTXL.T that waits goes on. -/
def tryCtxlT (s : State) (c t img d : Nat) : State :=
  ctxlOn c (fun w => match w with
    | .ctxlT t' i d' lead => if t' = t ∧ i = img ∧ d' = d then some (d', lead) else none
    | _ => none) (loadImageT s c t img)

end Sys2Proof.Machine
end

