-- ==== Sys2Proof/Machine/Firmware.lean ====
section
/-! DEFINITION. What Philoth's firmware does with the records of a core's mailbox (18 R339, R340; 10 R231, R232; 19 R358
to R360): replies, served and refused faults, invalidations, launch requests, management messages and system calls; and
the loss of a holder core (12 R267). Each event answers none where the record at the mailbox's head is not its own. -/

namespace Sys2Proof.Machine

/-! ## The head of a mailbox -/

/-- Whether a core's supervisor group runs. -/
def firmwareRuns (s : State) (c : Nat) : Bool :=
  match grpAt s c 0 with
  | some g => g.supervisor && g.stop.isNone
  | none => false

/-- The oldest record leaves the mailbox. -/
def popHead (s : State) (c : Nat) : State := modCore s c fun x => { x with mailbox := x.mailbox.drop 1 }

/-- Whether a record's KIND is listed (R227, R340). (log 61: DEDUCED, unsafe) -/
def listedKind (r : List Byte) : Bool := 1 ≤ recKind r && recKind r ≤ 4

/-- A record of a listed KIND that asks for nothing: an OP or a MSG with no meaning. (log 61: DEDUCED, unsafe) -/
def emptyRecord (r : List Byte) : Bool :=
  (recKind r = 2 && 3 < fieldAt r 4 4) || (recKind r = 4 && !(fieldAt r 2 2 = 1 || fieldAt r 2 2 = 2))

/-- The frame of the firmware's events: it takes the record at the head of the mailbox where it is of the event's
kind. A record of an unlisted KIND is discarded and counted (R340). (log 61: DEDUCED, unsafe) -/
def firmware (c : Nat) (mine : List Byte → Bool) (act : List Byte → State → Option State) (s : State) : Option State :=
  if !firmwareRuns s c then none
  else match (coreAt s c).mailbox with
    | [] => none
    | r :: _ =>
      if !listedKind r then some (addCount (popHead s c) 0x9000 1)
      else if emptyRecord r then some (popHead s c)
      else if mine r then act r s else none

/-! ## KIND 2 (R338, R339) -/

/-- The slot that a record names. -/
def recSlot (r : List Byte) : Nat := 8 * fieldAt r 2 1 + fieldAt r 3 1 % 8
def recGrid (r : List Byte) : Dword := BitVec.ofNat 64 (fieldAt r 8 8)

/-- The user group that a record names, if it still stands there. (log 61: DEDUCED, unsafe) -/
def namedGroup (s : State) (c : Nat) (r : List Byte) : Option (Nat × Grp) :=
  match grpAt s c (recSlot r) with
  | some g => if g.grid = recGrid r && !g.supervisor && !g.dropped then some (recSlot r, g) else none
  | none => none

def isReply (op : Nat) (r : List Byte) : Bool := recKind r = 2 && fieldAt r 4 4 = op

/-- CALL_REPLY: SRET.REPLY with the record's value. -/
def evCallReply (c : Nat) : State → Option State :=
  firmware c (isReply 0) fun r s =>
    some (popHead (match namedGroup s c r with
      | some (k, _) => modGrp s c k (replyGrp (fieldAt r 16 8))
      | none => s) c)

/-- FAULT_SERVED: SRET.RESUME without SKIP, once the core holds no record of the group any more (R221). (log 47:
DEDUCED, unsafe; 63: DEDUCED, unsafe) -/
def evFaultServed (c : Nat) : State → Option State :=
  firmware c (isReply 1) fun r s =>
    match namedGroup s c r with
    | some (k, g) =>
      if g.stop.isNone then some (popHead s c)
      else if recordHeld (coreAt s c) k then none
      else some (popHead (resume s c k false) c)
    | none => some (popHead s c)

/-- FAULT_REFUSED: the task ends, and its grid completes with status 4. -/
def evFaultRefused (c : Nat) : State → Option State :=
  firmware c (isReply 2) fun r s => some (popHead (endGrid s (recGrid r) 4) c)

/-- The page that an invalidation names; none for all. -/
def invPage (r : List Byte) : Option Nat := if fieldAt r 16 8 = 2 ^ 64 - 1 then none else some (fieldAt r 16 8)

/-- Whether some access of a core used an entry that an invalidation removes. -/
def invHeld (s : State) (c : Nat) (page : Option Nat) : Bool :=
  let x := coreAt s c
  let gone := x.tlb.filter (tinvHits page)
  (x.pend ++ x.outb).any fun a => scrCore a.place = none && a.grid ≠ 0 && usedEntry s gone a

/-- INVALIDATE: TINV, then 1 is added to the completion counter. It ends when no access that used an entry is left. -/
def evInvalidate (c : Nat) : State → Option State :=
  firmware c (isReply 3) fun r s =>
    let page := invPage r
    if invHeld s c page then none
    else
      let s1 := modCore s c fun x => { x with tlb := x.tlb.filter fun e => !tinvHits page e }
      let cd := fieldAt r 24 8
      match agentAtomic s1 (.turn (.invalidate c) 0) cd 4 fun old => some (old + 1) with
      | .going s2 => s2
      | .done _ s2 => some (popHead s2 c)

/-! ## KIND 3 and KIND 4 (R340) -/

/-- A precise trap of the supervisor group in a word that its firmware issues. (log 62: DEDUCED, unsafe) -/
def firmwareTrap (s : State) (c : Nat) (cause addr : Nat) : State :=
  match grpAt s c 0 with
  | some g => takeTrap s c 0 (mkRec g 0 (nextSet g) (nextPc g) addr 0 cause 0)
  | none => s

/-- LAUNCH_REQUEST: the supervisor issues LNCH, then stores the grid identifier. (log 62: DEDUCED, unsafe) (log 128:
DEDUCED, unsafe) -/
def evLaunchRequest (c : Nat) : State → Option State :=
  firmware c (fun r => recKind r = 3) fun r s =>
    match grpAt s c 0 with
    | none => none
    | some g =>
      let rec_ := fieldAt r 8 8
      match checkAddr s c g rec_ 64 .load with
      | .bad f => some (firmwareTrap (popHead s c) c f.cause rec_)
      | .ok _ =>
        match engRead s (.turn (.launchRequest c) 0) c g rec_ 512 with
        | .wait b => unblock s b
        | .fault f va => some (firmwareTrap (popHead s c) c f.cause va)
        | .ok q =>
          let bs := q.bytes
          let s0 := match q.bad with
            | some pa => consumePoison q.state c 0 0 pa rec_ s.nextId
            | none => q.state
          if !recordOk bs then some (firmwareTrap (popHead s0 c) c 0x14 rec_)
          else
            let p := recPrio bs
            if 64 ≤ (queueAt s p).length then none
            else
              let id := BitVec.ofNat 64 s.nextGrid
              let s1 := { s0 with queues := s.queues.set p (queueAt s p ++ [(id, bs)]), nextGrid := s.nextGrid + 1 }
              let out := fieldAt r 16 8
              if out = 0 then some (popHead s1 c)
              else match directWrite s1 (.turn (.launchRequest c) 1) out (leBytes 8 id.toNat) with
                | .error b => unblock s b
                | .ok s2 => some (popHead s2 c)

def isMessage (n : Nat) (r : List Byte) : Bool := recKind r = 4 && fieldAt r 2 2 = n

/-- STORAGE_FAILURE: the failed FREAD lands no further byte, and the grid's task ends. -/
def evStorageFailure (c : Nat) : State → Option State :=
  firmware c (isMessage 1) fun r s =>
    let s1 := dropLandings s fun l => l.grid = recGrid r && l.handle = fieldAt r 16 8
    some (popHead (endGrid s1 (recGrid r) 4) c)

/-- END_THE_GRID. -/
def evEndTheGrid (c : Nat) : State → Option State :=
  firmware c (isMessage 2) fun r s => some (popHead (endGrid s (recGrid r) 4) c)

/-! ## System calls (R231, R232) -/

def callNum (r : List Byte) : Nat := fieldAt r 4 4
def callArg (r : List Byte) (i : Nat) : Nat := fieldAt r (16 + 4 * i) 4
def callArg64 (r : List Byte) (i : Nat) : Nat := fieldAt r (16 + 4 * i) 8

/-- An error as a 64-bit reply. -/
def errVal (n : Nat) : Nat := 2 ^ 64 - n

/-- The supervisor answers a call itself. -/
def answer (s : State) (c k v : Nat) : State := popHead (modGrp s c k (replyGrp v)) c

/-- A helm kernel's reply (R339). -/
def replyRecord (r : List Byte) (v : Nat) : List Byte :=
  leBytes 2 2 ++ leBytes 1 (fieldAt r 2 1) ++ leBytes 1 (fieldAt r 3 1) ++ leBytes 4 0 ++ leBytes 8 (fieldAt r 8 8)
    ++ leBytes 8 v ++ leBytes 40 0

/-- The helm kernel answers a call that the supervisor forwarded. (log 11: DESIGN CHOICE, unsafe) -/
def forwardReply (s : State) (c : Nat) (r : List Byte) (v : Nat) : State := postTo (popHead s c) c (replyRecord r v)

/-- The frame of a call: it serves the group that made it, if that still stands. -/
def callEvent (c : Nat) (mine : Nat → Bool) (act : List Byte → Nat → Grp → State → Option State) : State → Option State :=
  firmware c (fun r => recKind r = 1 && mine (callNum r)) fun r s =>
    match namedGroup s c r with
    | some (k, g) => act r k g s
    | none => some (popHead s c)

/-- NULL replies 0; an unassigned number replies ERR_NOSYS. -/
def evNull (c : Nat) : State → Option State :=
  callEvent c (fun n => n = 0 || 6 < n) fun r k _ s => some (answer s c k (if callNum r = 0 then 0 else errVal 1))

/-! ### Address arguments -/

inductive ArgAcc (α : Type) where
  | ok (a : α)
  | err (n : Nat)
  | wait (b : Blocked)

/-- An argument's bytes; from a scratchpad aperture they go through the staging buffer. Poison that it meets is consumed. -/
def readArg (s : State) (src : Source) (c : Nat) (g : Grp) (va n : Nat) : ArgAcc (List Byte × State) :=
  if ownAperture ≤ va && 65536 < n then .err 4
  else match engRead s src c g va n with
    | .fault _ _ => .err 3
    | .wait b => .wait b
    | .ok r =>
      let s0 := match r.bad with
        | some pa => faultQueue r.state pa 3 (faultSource pa)
        | none => r.state
      if va < ownAperture then .ok (r.bytes, s0)
      else
        match directWrite s0 src (coreAt s c).stage.toNat r.bytes with
        | .error b => .wait b
        | .ok s1 => .ok (r.bytes, s1)

/-- A result written to an argument's address. -/
def writeArg (s : State) (src : Source) (c : Nat) (g : Grp) (va : Nat) (bs : List Byte) : ArgAcc State :=
  match (if va < ownAperture then .ok s else directWrite s src (coreAt s c).stage.toNat bs) with
  | .error b => .wait b
  | .ok s1 =>
    match engWrite s1 src c g va bs with
    | .fault _ _ => .err 3
    | .wait b => .wait b
    | .ok s2 => .ok s2

/-! ### The file service (R358, R360; log 11) -/

def handleAt (s : State) (n : Nat) : Option Handle := s.handles.find? fun h => h.num = n

/-- The lowest free handle. (log 11: DESIGN CHOICE, unsafe) -/
def freeHandle (s : State) : Nat :=
  ((List.range (s.handles.length + 1)).find? fun n => (handleAt s n).isNone).getD 0

/-- The number of the file with a path. -/
def fileOf (s : State) (path : List Byte) : Option Nat :=
  (List.range s.files.length).find? fun i => (s.files[i]?).map (·.path) = some path

def fileData (s : State) (h : Handle) : List Byte := ((s.files[h.file]?).map (·.data)).getD []

/-- Open a file: a handle. -/
def openFile (s : State) (i flags : Nat) : State × Nat :=
  let n := freeHandle s
  ({ s with handles := { num := n, file := i, flags := flags } :: s.handles }, n)

/-- FOPEN. Which of the errors a path that names no file replies is not stated: it is free among the six (log 11:
DESIGN CHOICE, unsafe). -/
def evFopen (c : Nat) : State → Option State :=
  callEvent c (· = 1) fun r k g s =>
    match readArg s (.turn (.fopen c) 0) c g (callArg64 r 0) (callArg r 2) with
    | .err e => some (answer s c k (errVal e))
    | .wait b => unblock s b
    | .ok (path, s1) =>
      let flags := callArg r 3
      match fileOf s1 path with
      | some i => let o := openFile s1 i flags; some (forwardReply o.1 c r o.2)
      | none =>
        if Nat.testBit flags 2 then
          let o := openFile { s1 with files := s1.files ++ [{ path := path, data := [] }] } s1.files.length flags
          some (forwardReply o.1 c r o.2)
        else
          some (forwardReply { s1 with freeCount := s1.freeCount + 1 } c r
            (errVal (1 + (Config.freeDword s1.freeCount).toNat % 6)))

/-- FCLOSE. -/
def evFclose (c : Nat) : State → Option State :=
  callEvent c (· = 2) fun r _ _ s =>
    some (match handleAt s (callArg r 0) with
      | some h => forwardReply { s with handles := s.handles.filter (·.num ≠ h.num) } c r 0
      | none => forwardReply s c r (errVal 2))

/-- Where an FREAD lands, and its barrier: the supervisor resolves both first. -/
inductive Resolved where
  | err
  /-- a page of the destination is absent -/
  | wait
  | ok (d : Option Dest) (bar : Place)
  deriving DecidableEq, Repr

/-- The lowest free landing tag of 256. -/
def freeTag (s : State) : Option Nat :=
  (List.range 256).find? fun n => !s.landings.any fun l => match l.dest with
    | .tag t .. => t = n
    | .virt _ => false

/-- A destination of `n` bytes and a barrier; `.ok none` while no landing tag is free. (log 63: DEDUCED, unsafe) -/
def resolveDest (s : State) (c : Nat) (g : Grp) (va n bar : Nat) : Resolved :=
  match checkAddr s c g bar 8 .store with
  | .bad _ => .err
  | .ok b =>
    if scrCore b.place = none then .err
    else match engTargets s c g .store n va with
      | .inr (f, _) => if f.cause = 0x0D then .wait else .err
      | .inl ts =>
        match ts.head?.map Target.place with
        | some (Place.scr tc t off) => .ok ((freeTag s).map fun n => .tag n tc t off) b.place
        | _ => .ok (some (.virt va)) b.place

/-- The leaves of a destination's pages, which an FREAD pins (R358). (log 63: DEDUCED, unsafe) -/
def destPins (s : State) (c : Nat) (grid : Dword) (va n : Nat) : List Leaf :=
  ((List.range ((va + n + 4095) / 4096 - va / 4096)).filterMap fun i =>
    match findLeaf s c grid (4096 * (va / 4096 + i)) with
    | .leaf lf _ => some lf
    | _ => none).dedup

/-- FREAD: the handle and the range are checked; every page of the destination is present before the transfer is
queued, and is pinned until it has ended (R358). (log 63: DEDUCED, unsafe; 116: DEDUCED, unsafe) -/
def evFread (c : Nat) : State → Option State :=
  callEvent c (· = 3) fun r k g s =>
    let len := callArg r 3
    let va := callArg64 r 4
    match resolveDest s c g va len (callArg64 r 6) with
    | .err => some (answer s c k (errVal 3))
    | res =>
      match handleAt s (callArg r 0) with
      | none => some (forwardReply s c r (errVal 2))
      | some h =>
        if !Nat.testBit h.flags 0 then some (forwardReply s c r (errVal 2))
        else if (fileData s h).length < callArg64 r 1 + len then some (forwardReply s c r (errVal 6))
        else if len = 0 then some (forwardReply s c r 0)
        else match res with
          | .ok (some d) bar =>
            let l : Landing :=
              { id := s.nextId, grid := g.grid, dest := d, len := len, landed := 0, bar := bar, handle := h.num,
                data := ((fileData s h).drop (callArg64 r 1)).take len
                pins := (match d with | .virt _ => destPins s c g.grid va len | .tag .. => [])
                got := [] }
            some (forwardReply { s with landings := s.landings ++ [l], nextId := s.nextId + 1 } c r len)
          | _ => none

/-- Data with `bs` at an offset. (log 11: DESIGN CHOICE, unsafe) -/
def spliceAt (data : List Byte) (off : Nat) (bs : List Byte) : List Byte :=
  data.take off ++ zeros (off - data.length) ++ bs ++ data.drop (off + bs.length)

/-- FWRITE: the data is durable at the reply. -/
def evFwrite (c : Nat) : State → Option State :=
  callEvent c (· = 4) fun r k g s =>
    match readArg s (.turn (.fwrite c) 0) c g (callArg64 r 4) (callArg r 3) with
    | .err e => some (answer s c k (errVal e))
    | .wait b => unblock s b
    | .ok (bs, s1) =>
      some (match handleAt s1 (callArg r 0) with
        | none => forwardReply s1 c r (errVal 2)
        | some h =>
          if !Nat.testBit h.flags 1 then forwardReply s1 c r (errVal 2)
          else
            let put (f : File) : File := { f with data := spliceAt f.data (callArg64 r 1) bs }
            forwardReply { s1 with files := modAt put h.file s1.files } c r bs.length)

/-- FSTAT: the layout of its 64 bytes is not stated, so they are free (log 11: DESIGN CHOICE, unsafe). -/
def evFstat (c : Nat) : State → Option State :=
  callEvent c (· = 5) fun r k g s =>
    match handleAt s (callArg r 0) with
    | none => some (forwardReply s c r (errVal 2))
    | some _ =>
      let f := freeBytes s 64
      match writeArg f.2 (.turn (.fstat c) 0) c g (callArg64 r 1) f.1 with
      | .err e => some (answer s c k (errVal e))
      | .wait b => unblock s b
      | .ok s1 => some (forwardReply s1 c r 0)

/-- PRINT. -/
def evPrint (c : Nat) : State → Option State :=
  callEvent c (· = 6) fun r k g s =>
    match readArg s (.turn (.print c) 0) c g (callArg64 r 0) (callArg r 2) with
    | .err e => some (answer s c k (errVal e))
    | .wait b => unblock s b
    | .ok (bs, s1) => some (forwardReply { s1 with console := s1.console ++ bs } c r 0)

/-! ## HOLDER_LOSS (R267) -/

/-- A chart without cluster core `cc` among its holders, of the next generation. (log 64: DEDUCED, unsafe) -/
def chartWithout (cc : Nat) (ch : Chart) : Chart :=
  let out (sg : Segment) : Segment :=
    if sg.holders.contains cc then
      { sg with holders := sg.holders.filter (· ≠ cc), nfixed := min sg.nfixed (sg.holders.length - 1) }
    else sg
  { ch with gen := (ch.gen + 1) % 2 ^ 16, segs := ch.segs.map out }

/-- The holder that a berth's voyager goes to under a chart, if its segment has one. -/
def newHolder (c : Nat) (tm : Team) (ch : Chart) (b : Berthed) : Option Nat :=
  (segmentOf ch b.v.pc.toNat).bind fun sg => if sg.holders.isEmpty then none else some (chooseHolder c tm.place sg b.v.fibre)

/-- A berth's voyager goes to its harbour slot, and to the list of the holder chosen for it, if there is one. (log 64:
DEDUCED, unsafe) -/
def reharbour (c : Nat) (v : Voyage) (tm : Team) (ch : Chart) (s : State) (b : Berthed) : State :=
  match newHolder c tm ch b with
  | none => gridWrite s c v.grid (harbourSlot v.chart tm.cluster b.v.fibre.toNat) (voyagerBytes s tm b.v)
  | some h => toHarbour s c v tm h b.v

/-- The machine check of a cluster whose segment has lost its last holder: a record at its cluster core 0, also while
CTXS.T has saved that one's team. (log 64: DEDUCED, unsafe) -/
def vlost (s : State) (tm : Team) (fibre : Nat) : State :=
  let p := tm.place.headD 0
  match ((coreAt s p).teams ++ (coreAt s p).away).find? fun t => sameCluster t tm && t.ccore = 0 with
  | none => s
  | some t =>
    let r : TrapRec :=
      { mask := 0, pc := 0, addr := 0, info := fibre, cause := 0x1B, kind := 2, slot := 0, team := t.num, grid := tm.grid,
        wid := 0 }
    modCore s p fun x => { x with records := x.records ++ [r] }

/-- A fibre bound for a segment that has lost its last holder: one of the berth, in flight, held at its core, or of
the holder's harbour list, looked for in that order (none while the list cannot be read). (log 64: DEDUCED, unsafe) -/
def lostFibre (s : State) (c : Nat) (v : Voyage) (tm : Team) (ch : Chart) (bs : List Berthed) : Option Nat :=
  let bound (w : Voyager) : Bool := match segmentOf ch w.pc.toNat with
    | some sg => sg.holders.isEmpty
    | none => false
  let held := tm.place.flatMap fun p => match (coreAt s p).voyage with
    | some w => if w.grid = v.grid then (w.held.filter fun h => h.dest = tm.ccore).map (·.v) else []
    | none => []
  match (bs.map (·.v) ++ v.flight.map (·.v) ++ held).find? bound with
  | some w => some w.fibre.toNat
  | none =>
    let l := harbourList v.chart tm.cluster tm.ccore
    match gridRead s c v.grid l 16 with
    | none => none
    | some hd =>
      let head := fieldAt hd 8 8
      if fieldAt hd 0 8 ≤ head then some 0
      else (gridRead s c v.grid (l + 64 + 4 * (head % max 1 v.chart.fpc)) 4).map leNat

/-- HOLDER_LOSS: the management core takes a holder out of service. (log 64: DEDUCED, unsafe) -/
def evHolderLoss (c : Nat) (s : State) : Option State :=
  match (coreAt s c).voyage with
  | none => none
  | some v =>
    match voyageTeam s c v, gridOf s v.grid with
    | some tm, some gr =>
      if (heldSeg v.chart tm.ccore).isNone || v.next.isSome then none
      else
        let ch := chartWithout tm.ccore v.chart
        let bs := v.berth ++ v.due.flatten
        let s0 := modVoyage s c fun v => { v with berth := [], due := [] }
        let list := gridRanges s c v.grid (harbourList v.chart tm.cluster tm.ccore) (64 + 4 * v.chart.fpc)
        let ranges := list ++ gridRanges s c v.grid (recChart gr.record) 448
          ++ bs.flatMap fun b => harbourRanges s c v tm ((newHolder c tm ch b).getD tm.ccore) b.v
        match withTurn s0 (.turn (.holderLoss c) 0) ranges with
        | .error _ => (rangeGrains s ranges).findSome? fun g => askGrain s (homeOf s g.1 g.2)
        | .ok s1 =>
          let s2 := gridWrite (bs.foldl (reharbour c v tm ch) s1) c v.grid (recChart gr.record) (encodeChart ch)
          let s3 := returnCredits s2 tm bs
          let s4 := tm.place.foldl (fun s p => modVoyage s p fun w =>
            if w.grid = v.grid then { w with next := some ch } else w) s3
          some (if ch.segs.any fun sg => sg.holders.isEmpty then
              vlost (endGrid s4 v.grid 5) tm ((lostFibre s2 c v tm ch bs).getD 0)
            else s4)
    | _, _ => none

/-- CALL_REPLY. -/
def execCallReply (c : Nat) (s : State) : Out := stepOr s (evCallReply c s)
/-- FAULT_SERVED. -/
def execFaultServed (c : Nat) (s : State) : Out := stepOr s (evFaultServed c s)
/-- FAULT_REFUSED. -/
def execFaultRefused (c : Nat) (s : State) : Out := stepOr s (evFaultRefused c s)
/-- INVALIDATE. -/
def execInvalidate (c : Nat) (s : State) : Out := stepOr s (evInvalidate c s)
/-- LAUNCH_REQUEST. -/
def execLaunchRequest (c : Nat) (s : State) : Out := stepOr s (evLaunchRequest c s)
/-- STORAGE_FAILURE. -/
def execStorageFailure (c : Nat) (s : State) : Out := stepOr s (evStorageFailure c s)
/-- END_THE_GRID. -/
def execEndTheGrid (c : Nat) (s : State) : Out := stepOr s (evEndTheGrid c s)
/-- NULL. -/
def execNull (c : Nat) (s : State) : Out := stepOr s (evNull c s)
/-- FOPEN. -/
def execFopen (c : Nat) (s : State) : Out := stepOr s (evFopen c s)
/-- FCLOSE. -/
def execFclose (c : Nat) (s : State) : Out := stepOr s (evFclose c s)
/-- FREAD. -/
def execFread (c : Nat) (s : State) : Out := stepOr s (evFread c s)
/-- FWRITE. -/
def execFwrite (c : Nat) (s : State) : Out := stepOr s (evFwrite c s)
/-- FSTAT. -/
def execFstat (c : Nat) (s : State) : Out := stepOr s (evFstat c s)
/-- PRINT. -/
def execPrint (c : Nat) (s : State) : Out := stepOr s (evPrint c s)
/-- HOLDER_LOSS. -/
def execHolderLoss (c : Nat) (s : State) : Out := stepOr s (evHolderLoss c s)

end Sys2Proof.Machine
end

