-- ==== Sys2Proof/Machine/Io.lean ====
section
/-! DEFINITION. The host-side ports (19 R343 to R346, R349 to R356): inbound writes and reads with their ordering,
acknowledgements, mailbox posts, host coherence, requests to host windows, and the links; and the helm interrupt windows
(R348). -/

namespace Sys2Proof.Machine

/-! ## Link state (R343, R345, R356) -/

def bit (b : Bool) (n : Nat) : Nat := if b then 2 ^ n else 0

/-- A register with bits [hi:lo] replaced. -/
def putBits (w : Dword) (hi lo v : Nat) : Dword :=
  BitVec.ofNat 64 (w.toNat - keepBits w.toNat hi lo + v % 2 ^ (hi + 1 - lo) * 2 ^ lo)

def portReg (s : State) (p : Nat) : Dword := s.ports.getD p 0
def setPort (s : State) (p : Nat) (w : Dword) : State := { s with ports := s.ports.set p w }

/-- A host line that is lost while the host held it for writing is poisoned (R356). -/
def poisonLine (s : State) (line : Nat) : State :=
  faultQueue { s with poison := line :: s.poison.filter (· ≠ line) } line 2 (faultSource line)

/-- A slice drops a line of host memory: its watchers poll, and the host, whose writes are not seen, may clear the reservations on it
(R176, R295, R355). (log 79: DEDUCED, safe) -/
def dropCached (s : State) (line : Nat) : State :=
  let s1 := pollWatchers { s with hostCache := s.hostCache.filter (· ≠ line), freeCount := s.freeCount + 1 } line 64
  if Config.freeBool s.freeCount then clearGranules s1 (.glob line) 64 else s1

/-- A port leaves STATE 2: its requests fail, the lines of its host's memory go from the slices, shared host lines go, and
exclusive ones are poisoned. -/
def leaveUp (s : State) (p : Nat) : State :=
  if portState s p ≠ 2 then s
  else
    let mine := s.hostLines.filter fun l => l.port = p
    let s1 := failWhere s (fun o => o.port = some p) 1
    let s2 := (s1.hostCache.filter fun l => portOf l = some p).foldl dropCached s1
    let s3 := { s2 with hostLines := s2.hostLines.filter fun l => l.port ≠ p }
    (mine.filter fun l => l.hold = .exclusive).foldl (fun s l => poisonLine s l.line) s3

/-- The fields of a link that fails: STATE 3, and the retrain that runs ends. -/
def failedLink (w : Dword) : Dword := putBits (putBits w 11 8 3) 1 1 0

/-- LINK_DOWN: a link that was up, or one whose training fails. (log 68: DEDUCED, unsafe) -/
def evLinkDown (p : Fin 4) (s : State) : Option State :=
  if portState s p.val = 2 || portState s p.val = 1 then
    let s1 := leaveUp s p.val
    some (setPort s1 p.val (failedLink (portReg s1 p.val)))
  else none

/-- The role of a port's ROLE field takes effect at a link reset. (log 68: DEDUCED, unsafe) -/
def takeRole (s : State) (p : Nat) : State :=
  { s with roles := s.roles.set p (bitsOf (portReg s p).toNat 3 2) }

/-- A link that is down trains, where EN and its role allow it; one that trains without them stops (R345). (log 68:
DEDUCED, unsafe) -/
def trainPort (s : State) (p : Nat) : State :=
  let w := portReg s p
  if portState s p = 0 && w.getLsbD 0 && bitsOf w.toNat 3 2 ≠ 3 then setPort (takeRole s p) p (putBits w 11 8 1)
  else if portState s p = 1 && !w.getLsbD 0 then setPort s p (putBits (putBits w 11 8 0) 1 1 0)
  else s

/-- RETRAIN: the link is reset, in the role of its ROLE field, and trains where EN and that role allow it; RETRAIN
reads 1 while it does. (log 68: DEDUCED, unsafe) -/
def retrainPort (s : State) (p : Nat) : State :=
  let s1 := takeRole (leaveUp s p) p
  let s2 := trainPort (setPort s1 p (putBits (putBits (portReg s1 p) 11 8 0) 23 16 0)) p
  setPort s2 p (putBits (portReg s2 p) 1 1 (portState s2 p))

/-- PORT_RETRAIN: RETRAIN is written with 1. -/
def evPortRetrain (p : Fin 4) (s : State) : Option State := some (retrainPort s p.val)

/-- PORT_LINK_UP: training ends. -/
def evPortLinkUp (p : Fin 4) (width : Fin 6) (rate : Fin 8) (s : State) : Option State :=
  if portState s p.val ≠ 1 || width = 0 || rate = 0 || (portRole s p.val = 2 && rate.val > 6) then none
  else some (setPort s p.val
    (putBits (putBits (putBits (putBits (portReg s p.val) 11 8 2) 23 20 width.val) 19 16 rate.val) 1 1 0))

/-! ## Translation of inbound requests (R349) -/

/-- The bus address of the landing range of tag 0 (log 11: DESIGN CHOICE, unsafe). -/
def landingBase : Nat := 0x8000000000000000

/-- The landing tag of a bus address. -/
def landingTag (a : Nat) : Option Nat :=
  if landingBase ≤ a ∧ a < landingBase + 256 * 2 ^ 24 then some ((a - landingBase) / 2 ^ 24) else none

/-- The leaf that translates an I/O virtual address of a port's requester, by its context; none without one. (log 26:
DESIGN CHOICE, safe) -/
def ioLeaf (s : State) (p rid a : Nat) (write : Bool) : Option Leaf :=
  match s.contexts.find? fun x => x.port = p && x.rid = rid with
  | none => none
  | some x =>
    match walkFrom s a 5 (rootTable x.root.toNat) with
    | .leaf lf _ => if (if write then lf.w else lf.r) then some lf else none
    | _ => none

/-- What an inbound request without a leaf leaves: its walk may have read a listed page (R323). -/
def noteIo (s : State) (p rid a : Nat) : State :=
  match s.contexts.find? fun x => x.port = p && x.rid = rid with
  | some x => noteWalk s x.root.toNat a
  | none => s

/-- The landing of a tag. -/
def tagLanding (s : State) (t : Nat) : Option Landing :=
  s.landings.find? fun l => match l.dest with | .tag n .. => n = t | .virt _ => false

/-- Where in a landing's destination a physical address lies, by its pinned pages. -/
def virtOffset (l : Landing) (pa : Nat) : Option Nat :=
  match l.dest with
  | .tag .. => none
  | .virt va => (l.pins.find? fun lf => lf.pa ≤ pa && pa < lf.pa + lf.size).bind fun lf =>
      let a := lf.va + (pa - lf.pa)
      if va ≤ a then some (a - va) else none

/-- Whether bytes at an offset are a piece of a landing that has not arrived yet. -/
def freshPiece (l : Landing) (o n : Nat) : Bool :=
  o + n ≤ l.len && !(l.got.any fun g => g.1 < o + n && o < g.1 + g.2)

/-- Whether they are that part of the file. -/
def pieceData (l : Landing) (o : Nat) (bs : List Byte) : Bool := (l.data.drop o).take bs.length = bs

/-- The landing whose global destination takes some bytes: a piece of the file that has not arrived yet (R359). (log
116: DEDUCED, unsafe) -/
def virtLanding (s : State) (pa : Nat) (bs : List Byte) : Option (Nat × Nat) :=
  s.landings.findSome? fun l => (virtOffset l pa).bind fun o =>
    if freshPiece l o bs.length && pieceData l o bs then some (l.id, o) else none

/-- Where an inbound write goes: to places with their grain size, as a piece of a landing; or it is discarded under a count. A
storage device never sends other bytes than the file's. -/
inductive InTarget where
  | to_ (p : Place) (gr : Nat) (land : Option (Nat × Nat))
  | drop (count : Option Nat) (land : Option (Nat × Nat))
  /-- nothing backs the address (R319, R323) -/
  | unbacked (pa : Nat) (land : Option (Nat × Nat))
  | never
  deriving DecidableEq, Repr

/-- A landing write names a team that is still resident, with the same grid (R360); bytes that are no fresh piece of
the landing are discarded as well. (log 116: DEDUCED, unsafe) -/
def landingTarget (s : State) (a : Nat) (l : Landing) (bs : List Byte) : InTarget :=
  match l.dest with
  | .virt _ => .never
  | .tag _ c t off =>
    let o := (a - landingBase) % 2 ^ 24
    if !freshPiece l o bs.length then .drop (some 0x9002) none
    else if !pieceData l o bs then .never
    else match teamAt s c t with
      | some tm =>
        if tm.grid = l.grid then .to_ (.scr c t (off + o)) 512 (some (l.id, o)) else .drop (some 0x9002) (some (l.id, o))
      | none => .drop (some 0x9002) (some (l.id, o))

/-- The target of an inbound write at an address. Storage stands behind root ports (R358). -/
def inTarget (s : State) (p rid a : Nat) (bs : List Byte) (mem : Bool) : InTarget :=
  if mem then .to_ (.glob a) 512 none
  else match landingTag a with
    | some t =>
      (match tagLanding s t with
        | some l => landingTarget s a l bs
        | none => .drop (some 0x9002) none)
    | none =>
      match ioLeaf s p rid a true with
      | none => .drop (some 0x9001) none
      | some lf =>
        let pa := lf.pa + (a - lf.va)
        let land := if portRole s p = 1 then virtLanding s pa bs else none
        if backed s pa then .to_ (.glob pa) lf.gr land else .unbacked pa land

/-! ## Routing (R350, R351) -/

def routeOf (s : State) : Place → Nat
  | .glob pa => sliceDie (homeNow s pa)
  | .scr c _ _ => coreDie c

/-- Whether a held write may be sent: with RO = 0, every earlier write of its port on the other route has been
acknowledged, and those on its own route have been sent. (log 65: DEDUCED, unsafe) -/
def maySend (s : State) (w : Inbound) : Bool :=
  w.ro || s.inbound.all fun v => !(v.port = w.port && v.id < w.id && (v.route ≠ w.route || v.state = .held))

def landingById (s : State) (id : Nat) : Option Landing := s.landings.find? (·.id = id)

/-- A piece of a landing arrives. -/
def gotPiece (s : State) (land : Option (Nat × Nat)) (n : Nat) : State :=
  match land with
  | none => s
  | some (id, o) => { s with landings := s.landings.map fun l => if l.id = id then { l with got := (o, n) :: l.got } else l }

/-- Bytes of a landing have been counted, or discarded; a command whose bytes have all come ends (R360). -/
def landBytes (s : State) (id n : Nat) : State :=
  let took := s.landings.map fun l => if l.id = id then { l with landed := l.landed + n } else l
  { s with landings := took.filter fun l => l.landed < l.len }

/-- A write that is discarded on its way (R360): it counts for its command, and as a landing write that was discarded. -/
def discardInbound (s : State) (w : Inbound) : State :=
  let s1 := match w.land with
    | some id => landBytes s id w.bytes.length
    | none => s
  addCount { s1 with inbound := s1.inbound.map fun v => if v.id = w.id then { v with state := .performed, land := none } else v }
    0x9002 1

/-- Whether a write is a landing's that a storage failure has ended: no further byte arrives (R360). -/
def landingGone (s : State) (w : Inbound) : Bool :=
  match w.land with
  | some id => (landingById s id).isNone
  | none => false

/-- Whether a landing write's team stands, with the landing's grid. -/
def landingStands (s : State) (w : Inbound) (c t : Nat) : Bool :=
  match teamAt s c t, w.land.bind (landingById s) with
  | some tm, some l => tm.grid = l.grid
  | _, _ => false

/-- A write is sent: it enters its home's queue, or is written at the scratchpad; none while something holds it back.
(log 65: DEDUCED, unsafe) -/
def sendInbound (s : State) (w : Inbound) : Option State :=
  let mark (st : InState) (s : State) : State :=
    { s with inbound := s.inbound.map fun v => if v.id = w.id then { v with state := st, order := s.nextId } else v
             nextId := s.nextId + 1 }
  if !maySend s w then none
  else if landingGone s w then some (mark .performed s)
  else match w.place with
    | .glob pa =>
      if !backed s pa then some (mark .performed (noteBadPage s pa))
      else if !readableNow s none none pa 1 w.gr then askOnce s pa 1 w.gr
      else some (putHome (mark .queued s) (enqueue { src := .inbound w.id, pa := pa, bytes := w.bytes } (homeOf s pa w.gr)))
    | .scr c t off =>
      if !inboundTurn s (.inbound w.id) then none
      else if !landingStands s w c t then some (discardInbound s w)
      else match directPut s (.inbound w.id) (.scr c t off) w.bytes with
        | .ok s1 => some (mark .performed s1)
        | .error b => unblock s b

/-- Split `n` bytes at a place into pieces that lie in one grain: (first byte, bytes). (log 65: DEDUCED, unsafe) -/
def pieces (gr : Nat) : Nat → Nat → Nat → List (Nat × Nat)
  | 0, _, _ => []
  | f + 1, a, n =>
    if n = 0 then []
    else let k := min n (gr - a % gr); (a, k) :: pieces gr f (a + k) (n - k)

/-- The pieces of a write arrive at the ordering point; those that can be sent at once are. (log 65: DEDUCED, unsafe)
-/
def arriveInbound (s : State) (p : Nat) (ro : Bool) (pl : Place) (gr : Nat) (land : Option Nat) (bs : List Byte) : State :=
  let a := match pl with | .glob pa => pa | .scr _ _ o => o
  (pieces gr (bs.length + 1) a bs.length).foldl (fun s k =>
    let q := placeAdd pl (k.1 - a)
    let w : Inbound := { id := s.nextId, port := p, ro := ro, place := q, bytes := (bs.drop (k.1 - a)).take k.2, gr := gr,
                         route := routeOf s q, state := .held, land := land }
    let s1 := { s with inbound := s.inbound ++ [w], nextId := s.nextId + 1 }
    (sendInbound s1 w).getD s1) s

/-- Whether an HDM decoder of a port covers an address (R354). (log 26: DESIGN CHOICE, safe) -/
def hdmCovers (s : State) (p a : Nat) : Bool :=
  [0, 1].any fun i => let d := s.hdms.getD (2 * p + i) (0, 0); d.1 * 2 ^ 30 ≤ a && a < (d.1 + d.2) * 2 ^ 30

/-- Whether a CXL.mem request is one: a line of memory that a decoder of a CXL device port covers (R354). (log 66:
DEDUCED, unsafe) -/
def memRequest (s : State) (p a n : Nat) : Bool :=
  portRole s p = 2 && a % 64 = 0 && n = 64 && hdmCovers s p a

/-- Whether an address is one of a port's bus: BAR2 of an endpoint or a CXL device is 1 TiB (R353). -/
def busAddress (s : State) (p a : Nat) : Bool := portRole s p = 1 || a < 2 ^ 40

/-- A host's own line is Invalid. (log 66: DEDUCED, unsafe) -/
def dropHostLine (s : State) (p line : Nat) : State :=
  { s with hostLines := s.hostLines.filter fun l => !(l.port = p && l.line = line) }

/-- The bytes of a landing that come to nothing. -/
def goneBytes (s : State) (land : Option (Nat × Nat)) (n : Nat) : State :=
  match land with
  | some l => landBytes (gotPiece s land n) l.1 n
  | none => s

/-- INBOUND_WRITE: a posted write of up to 512 bytes within a page arrives at a port that is up. -/
def evInboundWrite (q : Requester) (addr : Dword) (bytes : List Byte) (ro mem : Bool) (s : State) : Option State :=
  let p := q.port
  let rid := q.rid
  let a := addr.toNat
  let n := bytes.length
  if portState s p.val ≠ 2 || n = 0 || 512 < n || 4096 < a % 4096 + n
      || !(if mem then memRequest s p.val a n else busAddress s p.val a) then none
  else match inTarget s p.val rid.toNat a bytes mem with
    | .never => none
    | .drop k land =>
      let s1 := goneBytes s land n
      some (match k with
        | some i => addCount (if i = 0x9001 then noteIo s1 p.val rid.toNat a else s1) i 1
        | none => s1)
    | .unbacked pa land => some (noteBadPage (goneBytes s land n) pa)
    | .to_ pl gr land =>
      some (arriveInbound (gotPiece (if mem then dropHostLine s p.val a else s) land n) p.val (ro || mem) pl gr
        (land.map (·.1)) bytes)

/-- WRITE_ACK: a performed write is acknowledged, and its bytes arrive at its barrier (R359); or a held one is sent. -/
def evWriteAck (id : Nat) (s : State) : Option State :=
  match s.inbound.find? (·.id = id) with
  | none => none
  | some w =>
    match w.state with
    | .held => sendInbound s w
    | .queued => none
    | .performed =>
      let done (s : State) : State := { s with inbound := s.inbound.filter (·.id ≠ id) }
      match w.land.bind (landingById s) with
      | none => some (done s)
      | some l =>
        if !(touchFor s l.bar).2 then waitOn s l.bar 8
        else some (landBytes (barStep (arriveBar w.bytes.length) (done s) l.bar) l.id w.bytes.length)

/-! ### Reads (R349, R350, R354) -/

/-- The state without a host's own lines. -/
def withoutHost (s : State) (p : Nat) : State := { s with hostLines := s.hostLines.filter fun l => l.port ≠ p }

/-- The line of a home that a host asks to hold: Shared while the grain is Open, Exclusive when nobody else holds it
(R354). (log 66: DEDUCED, unsafe) -/
def grantHost (s : State) (p line : Nat) (h : HostHold) : Option State :=
  let hm := homeOf s line 512
  let put (s : State) : State :=
    { dropHostLine s p line with hostLines := { line := line, port := p, hold := h, asked := false } ::
        (dropHostLine s p line).hostLines }
  match h with
  | .invalid => some s
  | .shared =>
    if !readableNow (withoutHost s p) none none line 64 512 then askOnce s line 64 512
    else if hm.isOpen && !hostOwns (dropHostLine s p line) hm then some (put s) else some s
  | .exclusive =>
    if writableNow (withoutHost s p) none none none line 64 512 then some (put s) else askOnce s line 64 512

/-- INBOUND_READ: a read of up to 4,096 bytes, once every earlier posted write of its port has been acknowledged. (log
66: DEDUCED, unsafe) -/
def evInboundRead (q : Requester) (addr : Dword) (len : Nat) (mem : Option HostHold) (s : State) : Option State :=
  let p := q.port
  let rid := q.rid
  let a := addr.toNat
  if portState s p.val ≠ 2 || len = 0 || 4096 < len || 4096 < a % 4096 + len then none
  else match mem with
    | some h =>
      if !memRequest s p.val a len then none
      else if !backed s a then some (faultQueue s a 3 (faultSource a))
      else if !readableNow (withoutHost s p.val) none none a 64 512 then askOnce s a 64 512
      else (grantHost s p.val a h).map fun s1 => outsideRead s1 a 64
    | none =>
      if !busAddress s p.val a || (landingTag a).isSome || s.inbound.any (fun w => w.port = p.val) then none
      else match ioLeaf s p.val rid.toNat a false with
        | none => some (addCount (noteIo s p.val rid.toNat a) 0x9001 1)
        | some lf =>
          let pa := lf.pa + (a - lf.va)
          if !backed s pa then some (faultQueue s pa 3 (faultSource pa))
          else if !readableNow s none none pa len lf.gr then askOnce s pa len lf.gr
          else some (outsideRead s pa len)

/-! ### BAR0 (R353) -/

/-- MAILBOX_POST_SLOT: 64 bytes written to slot `c` post a record, in the order of the port's writes (R350, R351).
(log 67: DEDUCED, safe) -/
def evMailboxPostSlot (p : Fin 4) (c : Nat) (bytes : List Byte) (s : State) : Option State :=
  let role := portRole s p.val
  if portState s p.val ≠ 2 || !(role = 0 || role = 2) || bytes.length ≠ 64 || Config.cores ≤ c then none
  else if s.inbound.any fun w => w.port = p.val && (w.route ≠ coreDie c || w.state ≠ .performed) then none
  else if !mailRoom (coreAt s c) (recKind bytes) || !(coreAt s c).posts.isEmpty then none
  else some (modCore s c fun x => { x with mailbox := x.mailbox ++ [bytes] })

/-! ## Helm interrupt windows (R348) -/

/-- HELM_INTERRUPT_WINDOW: a store of a helm core to interrupt window `h`. (log 92: DESIGN CHOICE, safe) -/
def evHelmInterruptWindow (h off width : Nat) (val : Word) (s : State) : Option State :=
  if h < Config.helms then some (raiseIrq s h off width val.toNat) else none

/-! ## Host coherence (R354, R355) -/

/-- BIRSP: a host answers a back-invalidate, with the line's bytes where it had modified it. -/
def evBirsp (p : Fin 4) (line : Nat) (data : List Byte) (s : State) : Option State :=
  match s.hostLines.find? fun l => l.port = p.val && l.line = line with
  | none => none
  | some l =>
    if !l.asked then none
    else
      let s1 := dropHostLine s p.val line
      some (if l.hold = .exclusive && data.length = 64 then performBytes s1 none line data else s1)

/-- HOST_SNOOP: a snoop of a host line that a slice caches is answered after the horizon, and the copy goes; a core that holds the line
in a window block gives it up first, and an atomic that has acted on it has its GO first. -/
def evHostSnoop (line : Nat) (s : State) : Option State :=
  let l := line / 64 * 64
  if !s.hostCache.contains l || lineActing s l
      || s.homes.any (fun h => h.grain < l + 64 && l < h.grain + h.size && meridian s < h.horizon) then none
  else if !readableNow s none none l 64 512 then askOnce s l 64 512
  else some (dropCached s l)

/-- CXL_GO: the host's GO for a written-through store, or for the write-back of an atomic, arrives; it is performed. A store's GO to a
line on which an atomic has acted comes after the atomic's. -/
def evCxlGo (id : Nat) (s : State) : Option State :=
  match s.outstanding.find? fun o => o.id = id && o.port.isSome && !o.failed && !o.complete with
  | none => none
  | some o =>
    let s1 := endRequest s o
    if !o.data.isEmpty then (if lineActing s o.pa then none else some (storeEnds (performAway s1 o.pa o.data) o none))
    else match o.acted with
      | none => none
      | some (old, ret, new) =>
        match o.src with
        | .acc c aid =>
          ((coreAt s c).pend.find? (·.id = aid)).map fun a =>
            retireDone c (finishAtomic (performAway s1 o.pa (leBytes a.n new)) c a old ret)
        | src =>
          -- of an agent beside the lanes, the second number is the size
          let s2 := performAway s1 o.pa (leBytes ret new)
          some (if wants s src then { s2 with outstanding := s2.outstanding ++ [{ o with complete := true }] } else s2)

/-- The completion timeout of a port, in core clocks. -/
def portCto (s : State) (p : Nat) : Nat := max (bitsOf (portReg s p).toNat 47 32) 1 * Config.clocksPerMicro

/-- Whether a back-invalidate has been without its answer for CTO: the port fails (R356). -/
def birspLate (s : State) (l : HostLine) : Bool := l.asked && portState s l.port = 2 && l.since + portCto s l.port ≤ s.clock

/-- A completion timeout, in core clocks. -/
def timeoutOf (s : State) (o : Outstanding) : Nat :=
  match o.port with
  | some p => portCto s p
  | none => max (bitsOf s.fab.toNat 47 32) 1 * Config.clocksPerMicro

/-- COMPLETION_TIMEOUT: a request has been outstanding for CTO. -/
def evCompletionTimeout (id : Nat) (s : State) : Option State :=
  match s.outstanding.find? (·.id = id) with
  | none => none
  | some o =>
    if o.failed || o.complete || s.clock < o.since + timeoutOf s o then none
    else some (failRequest (endRequest s o) o (if o.port.isSome then 3 else 1))

/-- INBOUND_WRITE. -/
def execInboundWrite (p : Requester) (addr : Dword) (bytes : List Byte) (ro mem : Bool) (s : State) : Out :=
  stepOr s (evInboundWrite p addr bytes ro mem s)
/-- INBOUND_READ. -/
def execInboundRead (p : Requester) (addr : Dword) (len : Nat) (mem : Option HostHold) (s : State) : Out :=
  stepOr s (evInboundRead p addr len mem s)
/-- WRITE_ACK. -/
def execWriteAck (id : Nat) (s : State) : Out := stepOr s (evWriteAck id s)
/-- MAILBOX_POST_SLOT. -/
def execMailboxPostSlot (p : Fin 4) (c : Nat) (bytes : List Byte) (s : State) : Out :=
  stepOr s (evMailboxPostSlot p c bytes s)
/-- HELM_INTERRUPT_WINDOW. -/
def execHelmInterruptWindow (h off width : Nat) (val : Word) (s : State) : Out :=
  stepOr s (evHelmInterruptWindow h off width val s)
/-- BIRSP. -/
def execBirsp (p : Fin 4) (line : Nat) (data : List Byte) (s : State) : Out := stepOr s (evBirsp p line data s)
/-- HOST_SNOOP. -/
def execHostSnoop (line : Nat) (s : State) : Out := stepOr s (evHostSnoop line s)
/-- CXL_GO. -/
def execCxlGo (id : Nat) (s : State) : Out := stepOr s (evCxlGo id s)
/-- COMPLETION_TIMEOUT. -/
def execCompletionTimeout (id : Nat) (s : State) : Out := stepOr s (evCompletionTimeout id s)
/-- LINK_DOWN. -/
def execLinkDown (p : Fin 4) (s : State) : Out := stepOr s (evLinkDown p s)
/-- PORT_LINK_UP. -/
def execPortLinkUp (p : Fin 4) (width : Fin 6) (rate : Fin 8) (s : State) : Out := stepOr s (evPortLinkUp p width rate s)
/-- PORT_RETRAIN. -/
def execPortRetrain (p : Fin 4) (s : State) : Out := stepOr s (evPortRetrain p s)

end Sys2Proof.Machine
end

