-- ==== Sys2Proof/Machine/Fabric.lean ====
section
/-! DEFINITION. The fabric (20 R361 to R371): its ports and endpoint number, requests of remote endpoints at their home,
fabric copies, the loss of a die or of an endpoint, and the orphan area. -/

namespace Sys2Proof.Machine

/-! ## The loss of a home (R369, R370) -/

/-- What is lost: the blocks of a cache die, or a fabric window. -/
inductive Loss where
  | die (d : Nat)
  | package (e : Nat)
  deriving DecidableEq, Repr

/-- Whether an address lies in a lost range. -/
def inLoss (l : Loss) (pa : Nat) : Bool :=
  match l, regionOf pa with
  | .die d, .hbm => hbmStack pa / 4 = d || sliceDie (homeSlice pa) = d
  | .die d, .host _ => sliceDie (homeSlice pa) = d
  | .package e, .fabric f => e = f
  | _, _ => false

/-- Whether a block's home stood on a lost die: requests on their way to it fail, though LPDDR6 is homed again. -/
def lostHome (l : Loss) (pa : Nat) : Bool :=
  inLoss l pa || match l, regionOf pa with
    | .die d, .lpddr => sliceDie (homeSlice pa) = d
    | _, _ => false

def accIn (l : Loss) (a : Acc) : Bool :=
  match a.place with
  | .glob pa => lostHome l pa
  | .scr .. => false

/-- The LOST field of an orphan record. -/
def lossCode : Loss → Nat
  | .die d => d
  | .package e => 2 ^ 15 + e

/-- Bytes laid over a block: (offset in the block, bytes), later ones on top. -/
def overlay (ps : List (Nat × List Byte)) : List (Option Byte) :=
  (List.range 512).map fun i =>
    (ps.reverse.findSome? fun p => if p.1 ≤ i ∧ i < p.1 + p.2.length then p.2[i - p.1]? else none)

/-- An orphan record, without its MTIME (R371). -/
def orphanRecord (block kind source : Nat) (l : Loss) (grid : Dword) (ps : List (Nat × List Byte)) : List Byte :=
  let bs := overlay ps
  let mask := ((mapFrom (fun i (b : Option Byte) => if b.isSome then 2 ^ i else 0) 0 bs).sum)
  leBytes 8 block ++ leBytes 1 kind ++ leBytes 1 source ++ leBytes 2 (lossCode l) ++ leBytes 4 0 ++ leBytes 8 grid.toNat
    ++ leBytes 8 0 ++ leBytes 32 0 ++ leBytes 64 mask ++ bs.map (·.getD 0)

/-- An access among others, in the order in which they were issued. -/
def insertAcc (a : Acc) : List Acc → List Acc
  | [] => [a]
  | b :: r => if a.id < b.id then a :: b :: r else b :: insertAcc a r

/-- The stores of a core that a registered release holds, and it, in the order of their issue: those that its
surrender has drained, too, which their homes have not acknowledged (R370). (log 69: DEDUCED, unsafe) -/
def releaseHeld (x : Core) : List Acc :=
  (x.outb.filter fun a => x.outb.any fun r => r.registered && sameLane r a && a.id ≤ r.id).foldr
    insertAcc []

/-- A store's bytes by blocks: (block, offset, bytes). -/
def blockParts (pa : Nat) (bs : List Byte) : List (Nat × Nat × List Byte) :=
  (pieces 512 (bs.length + 1) pa bs.length).map fun k => (k.1 / 512 * 512, k.1 % 512, (bs.drop (k.1 - pa)).take k.2)

/-- The held stores of a core to a lost range: a record for each store and block, in the order of issue. (log 69:
DEDUCED, unsafe) -/
def storeOrphans (l : Loss) (c : Nat) (x : Core) : List (List Byte) :=
  ((releaseHeld x).filter (accIn l)).flatMap fun a =>
    match a.place with
    | .glob pa => (blockParts pa (leBytes a.n a.val)).map fun b => orphanRecord b.1 1 c l a.grid [(b.2.1, b.2.2)]
    | .scr .. => []

/-- The dirty sectors of a team's window blocks in a lost range. -/
def windowOrphans (l : Loss) (c : Nat) (tm : Team) : List (List Byte) :=
  tm.wins.flatMap fun ow => match ow with
    | none => []
    | some wn => (mapFrom (fun i b => (i, b)) 0 wn.blocks).filterMap fun ib =>
      match ib.2 with
      | .valid pa d =>
        if lostHome l pa && d ≠ 0 then
          some (orphanRecord pa 2 c l tm.grid (((List.range 16).filter fun k => d.getLsbD k).map fun k =>
            (32 * k, readBytes tm.bytes (wn.off + 512 * ib.1 + 32 * k) 32)))
        else none
      | .invalid => none

/-- The modified lines of a helm core in a lost range, by blocks: its stores that the home has not performed (R370).
(log 69: DEDUCED, unsafe) -/
def helmOrphans (l : Loss) (h : Nat) (x : Helm) : List (List Byte) :=
  let parts := x.outb.flatMap fun a => if lostHome l a.pa then blockParts a.pa a.bytes else []
  (parts.map (·.1)).dedup.map fun b => orphanRecord b 3 (176 + h) l 0 ((parts.filter fun p => p.1 = b).map (·.2))

/-- The orphan records of every survivor. -/
def lossOrphans (s : State) (l : Loss) : List (List Byte) :=
  (mapFrom (fun c (x : Core) => storeOrphans l c x ++ x.teams.flatMap (windowOrphans l c)) 0 s.cores).flatten
    ++ (mapFrom (helmOrphans l) 0 s.helms).flatten

/-- Window blocks of a lost range become invalid. -/
def dropLostBlocks (l : Loss) (tm : Team) : Team :=
  let out : Block → Block
    | .valid pa d => if lostHome l pa then .invalid else .valid pa d
    | .invalid => .invalid
  { tm with wins := tm.wins.map fun ow => ow.map fun wn => { wn with blocks := wn.blocks.map out } }

/-- Whether an open transaction touches a lost range. -/
def txnIn (l : Loss) (t : Txn) : Bool :=
  (t.reads.any fun r => lostHome l r.pa) || t.masked.any fun m => lostHome l m.1

/-- Abort a lane's transaction for a loss; one with its ticket ends its commit with it and stays parked until its word's last
commit has ended (R316, R369). -/
def abortLostLane (s : State) (c k i : Nat) (wait : Wait) : State :=
  let s1 := abortLane s c k i 0x06 false none
  match wait with
  | .tend t =>
    if s.tickets.any fun x => x.num = t then
      endTicket (modGrp s1 c k fun g => modLane g i fun ln => { ln with wait := .tend t }) t
    else s1
  | _ => s1

/-- Abort the lane transactions that touch a lost range. -/
def abortLost (l : Loss) (s : State) (c k : Nat) : State :=
  match grpAt s c k with
  | none => s
  | some g => (List.range 64).foldl (fun s i =>
      match (laneAt g i).txn with
      | some t => if txnIn l t then abortLostLane s c k i (laneAt g i).wait else s
      | none => s) s

/-- The stores of a core that a loss fails: the drained ones and the held ones. -/
def lostStores (l : Loss) (x : Core) : List Acc :=
  let held := (releaseHeld x).map (·.id)
  x.outb.filter fun a => accIn l a && (a.drained || held.contains a.id)

/-- A loss at one core: its held data is in records, its stores fail, its window blocks and its watches end. (log 69:
DEDUCED, unsafe) -/
def loseAt (l : Loss) (s : State) (c : Nat) : State :=
  let s1 := (lostStores l (coreAt s c)).foldl (fun s a => dropBuffered (recordFailure s c a 1) c a.id) s
  let s2 := modCore s1 c fun x =>
    { x with
      teams := x.teams.map (dropLostBlocks l)
      pend := x.pend.map fun a => if accIn l a then { a with watch := .no } else a }
  (List.range 96).foldl (fun s k => abortLost l s c k) s2

/-- A helm core at a loss: its transaction aborts where it touched the range, and its stores there are in records. -/
def loseHelm (l : Loss) (h : Helm) : Helm :=
  let h1 := { h with outb := h.outb.filter fun a => !lostHome l a.pa }
  if (h.rsig ++ h.wsig).any (lostHome l) then helmAbort 0x06 h1 else h1

/-- What a loss does (R369, R370), from its declaration on. -/
def declareLoss (s : State) (l : Loss) (pkg : Bool) (n : Nat) : State :=
  let recs := lossOrphans s l
  let s1 := failWhere s (fun o => inLoss l (512 * o.block)) 1
  let s2 := overCores s1 (loseAt l)
  { s2 with
    helms := s2.helms.map (loseHelm l)
    homes := s2.homes.filter fun h => !lostHome l h.grain
    watches := s2.watches.filter fun w => !lostHome l w.grain
    hostLines := s2.hostLines.filter fun x => !lostHome l x.line
    hostCache := s2.hostCache.filter fun x => !inLoss l x
    inbound := s2.inbound.map fun w => match w.place with
      | .glob pa => if lostHome l pa then { w with state := .performed } else w
      | .scr .. => w
    orphans := s2.orphans ++ recs
    losses := s2.losses ++ [(pkg, n)] }

/-- The orphan area of a ring register. (log 70: DEDUCED, unsafe) -/
def orphanArea (s : State) : Nat × Nat :=
  (bitsOf s.orph.toNat 56 12 * 4096, if s.orph.toNat % 16 < 4 ∨ 12 < s.orph.toNat % 16 then 0 else 640 * 2 ^ (s.orph.toNat % 16))

/-- A die is declared lost: its fabric copies are gone, and its LPDDR6 blocks, homed again, are poisoned but for the
orphan area (R370, R376); the watchers of a fabric copy at its slices poll (R295). -/
def loseDie (s : State) (d : Nat) : State :=
  if s.lostDies.contains d then s
  else
    let s1 := declareLoss (addCount s 0x9005 1) (.die d) false d
    let area := orphanArea s
    let gone := s1.copies.filter fun k => sliceDie (homeSlice k.grain) = d
    let s2 := gone.foldl (fun s k => pollWatchers s k.grain 512) s1
    { s2 with
      lostDies := d :: s1.lostDies
      copies := s1.copies.filter fun k => sliceDie (homeSlice k.grain) ≠ d
      lostBlocks := { die := d, keep := area.1, keepLen := area.2 } :: s1.lostBlocks }

/-- An endpoint is declared lost: the switch acknowledges its invalidations, and its copies are gone. -/
def loseEnd (s : State) (e : Nat) : State :=
  if s.lostEnds.contains e then s
  else
    let s1 := declareLoss s (.package e) true e
    { s1 with
      lostEnds := e :: s1.lostEnds
      copies := s1.copies.filter fun k => regionOf k.grain ≠ .fabric e
      directory := s1.directory.map fun k => { k with ends := k.ends.filter (· ≠ e) } }

/-- DIE_LOSS. -/
def evDieLoss (d : Fin 2) (s : State) : Option State := if s.lostDies.contains d.val then none else some (loseDie s d.val)

/-- Whether an endpoint is this package's own (R363): VALID says that its number has been assigned. -/
def ownEnd (s : State) (e : Nat) : Bool := s.fab.getLsbD 31 && s.fab.toNat % 1024 = e

/-- PACKAGE_LOSS. -/
def evPackageLoss (e : Fin 1024) (s : State) : Option State :=
  if s.lostEnds.contains e.val || ownEnd s e.val then none else some (loseEnd s e.val)

/-! ## ORPHAN_COMPLETE (R370, R371, R374) -/

/-- One record goes to the orphan area, straight to the LPDDR6 controllers; a full ring drops it. (log 69: DEDUCED,
unsafe) -/
def writeOrphan (s : State) (r : List Byte) : State :=
  match ringSlot s.orph s.orphTail s.orphHead with
  | none => { s with orph := s.orph ||| BitVec.ofNat 64 (2 ^ 11) }
  | some k =>
    let bs := r.take 24 ++ leBytes 8 (meridian s) ++ r.drop 32
    { setBytes s (bitsOf s.orph.toNat 56 12 * 4096 + 640 * k) bs with orphTail := (s.orphTail + 1) % 2 ^ 32 }

/-- ORPHAN_COMPLETE: every record has been written; the loss machine check is raised. (log 69: DEDUCED, unsafe) -/
def evOrphanComplete (s : State) : Option State :=
  match s.losses with
  | [] => none
  | (pkg, n) :: rest =>
    let s1 := s.orphans.foldl writeOrphan s
    some { s1 with orphans := [], losses := rest, mchk := BitVec.ofNat 64 (2 ^ 63 + bit pkg 10 + n % 2 ^ 10) }

/-! ## Ports and the endpoint number (R361, R363) -/

def fportReg (s : State) (i : Nat) : Dword := s.fports.getD i 0

/-- A port's register; when the set of ports that are up changes, the requests under way are of the old set (R361). -/
def setFport (s : State) (i : Nat) (w : Dword) : State :=
  let s1 := { s with fports := s.fports.set i w }
  if fabricUp s1 = fabricUp s then s1
  else { s1 with outstanding := s1.outstanding.map fun o => if o.port.isNone then { o with stale := true } else o }

/-- With no port up, every other endpoint is lost (R369). (log 71: DEDUCED, unsafe) -/
def noPort (s0 s : State) : State :=
  if (fabricUp s).isEmpty && !(fabricUp s0).isEmpty then
    ((List.range 1024).filter fun e => !ownEnd s e).foldl loseEnd s
  else s

/-- FABRIC_PORT_UP: a port's training ends, or an up port or a training fails. (log 71: DEDUCED, unsafe) -/
def evFabricPortUp (i : Fin 12) (up : Bool) (s : State) : Option State :=
  let w := fportReg s i.val
  let st := bitsOf w.toNat 11 8
  if up then
    (if st = 1 then some (setFport s i.val (putBits (putBits w 11 8 2) 1 1 0)) else none)
  else if st = 2 || st = 1 then some (noPort s (setFport s i.val (failedLink w)))
  else none

/-- A port that is down trains where EN allows it; one that trains without it stops (R363). -/
def trainFport (s : State) (i : Nat) : State :=
  let w := fportReg s i
  let st := bitsOf w.toNat 11 8
  if st = 0 && w.getLsbD 0 then setFport s i (putBits w 11 8 1)
  else if st = 1 && !w.getLsbD 0 then setFport s i (putBits (putBits w 11 8 0) 1 1 0)
  else s

/-- RETRAIN: the port is reset, and trains where EN allows it. (log 68: DEDUCED, unsafe; 71: DEDUCED, unsafe) -/
def retrainFport (s : State) (i : Nat) : State :=
  let en := (fportReg s i).getLsbD 0
  noPort s (setFport s i (putBits (putBits (fportReg s i) 11 8 en.toNat) 1 1 en.toNat))

/-- FABRIC_RETRAIN: RETRAIN is written with 1. -/
def evFabricRetrain (i : Fin 12) (s : State) : Option State := some (retrainFport s i.val)

/-- EPID_ASSIGN: the switch assigns the endpoint number. -/
def evEpidAssign (n : Fin 1024) (s : State) : Option State :=
  if s.fab.getLsbD 31 || (fabricUp s).isEmpty then none
  else some { s with fab := putBits (putBits s.fab 31 31 1) 9 0 n.val }

/-! ## Requests of remote endpoints (R362, R365 to R367) -/

/-- The 512 B block's entry of the switch directory. -/
def listEnd (s : State) (b e : Nat) : State :=
  let old := ((s.directory.find? fun d => d.grain = b).map (·.ends)).getD []
  { s with directory := { grain := b, ends := e :: old.filter (· ≠ e) } :: s.directory.filter fun d => d.grain ≠ b }

/-- A fabric copy goes: an acknowledged invalidation. -/
def unlistEnd (s : State) (b e : Nat) : State :=
  let out (d : FabricCopy) : FabricCopy := if d.grain = b then { d with ends := d.ends.filter (· ≠ e) } else d
  { s with directory := (s.directory.map out).filter fun d => !d.ends.isEmpty }

/-- Whether some bytes have been exported to an endpoint (R364). -/
def exportedTo (s : State) (e pa n : Nat) : Bool :=
  s.exports.any fun x => x.1 = e && x.2.1 ≤ pa && pa + n ≤ x.2.1 + x.2.2

/-- A remote atomic: it acts at once, or takes its turn in the queue. -/
def remoteAtom (s : State) (src : Source) (pa : Nat) (k : InKind) : Option State :=
  let n := inSize k
  if pa % n ≠ 0 then none
  else if writableNow s none none none pa n 512 then some (actRemote s pa k)
  else queueFor s none none src pa n 512

/-- A remote write: each piece enters its home's queue. -/
def remoteWrite (s : State) (e pa : Nat) (bs : List Byte) : Option State :=
  if !readableNow s none none pa bs.length 512 then askOnce s pa bs.length 512
  else some ((pieces 32 (bs.length + 1) pa bs.length).foldl (fun s k =>
    putHome s (enqueue { src := .remote e, pa := k.1, bytes := (bs.drop (k.1 - pa)).take k.2 } (homeOf s k.1 512))) s)

/-- Whether a request of endpoint `e` reaches its home: it is of the supported size within a block (R362), and the package backs
the address and has exported it to the endpoint (R364); else it is refused. -/
def remoteServed (s : State) (e addr n : Nat) : Bool :=
  fabricValid s e && !(fabricUp s).isEmpty && !s.lostEnds.contains e && n ≠ 0 && n ≤ 256 && addr % 512 + n ≤ 512
    && exportedTo s e addr n

/-- REMOTE_REQUEST: a request of endpoint `e` arrives at its home. A `hold` asks for a fabric copy, or gives one back. The
ordering code and the scope that it carries order the accesses of the lane that issued it, which its own package does (R365). -/
def evRemoteRequest (e : Fin 1024) (addr : Nat) (_m : MemMod) (k : InKind) (s : State) : Option State :=
  if !remoteServed s e.val addr (inSize k) then none
  else if !backed s addr then some (noteBadPage s addr)
  else match k with
    | .write bs => remoteWrite s e.val addr bs
    | .read n => if !readableNow s none none addr n 512 then askOnce s addr n 512 else some (outsideRead s addr n)
    | .atom .. | .acas .. | .sc .. | .partn _ => remoteAtom s (.remoteAtom e.val addr k) addr k
    | .hold h =>
      let hm := homeOf s addr 512
      match h with
      | .invalid => some (unlistEnd s (addr / 512 * 512) e.val)
      | .shared =>
        if !inSharedRange s addr || !hm.isOpen || hostOwns s hm then none
        else some (listEnd (outsideRead s addr 1) (addr / 512 * 512) e.val)
      | .exclusive => none

/-- FABRIC_INVALIDATION: a fabric copy of this package goes once every L1 lease granted from it has expired; its watchers poll
(R295, R367). -/
def evFabricInvalidation (n : Nat) (s : State) : Option State :=
  let b := n / 512 * 512
  let mine (h : Home) : Bool := h.grain < b + 512 && b < h.grain + h.size
  if !(s.copies.any fun k => k.grain = b) then none
  else if s.homes.any fun h => mine h && meridian s < h.horizon then none
  else some (pollWatchers { s with copies := s.copies.filter fun k => k.grain ≠ b, homes := s.homes.filter fun h => !mine h } b 512)

/-- FABRIC_PORT_UP. -/
def execFabricPortUp (i : Fin 12) (up : Bool) (s : State) : Out := stepOr s (evFabricPortUp i up s)
/-- FABRIC_RETRAIN. -/
def execFabricRetrain (i : Fin 12) (s : State) : Out := stepOr s (evFabricRetrain i s)
/-- EPID_ASSIGN. -/
def execEpidAssign (n : Fin 1024) (s : State) : Out := stepOr s (evEpidAssign n s)
/-- REMOTE_REQUEST. -/
def execRemoteRequest (e : Fin 1024) (addr : Nat) (m : MemMod) (k : InKind) (s : State) : Out :=
  stepOr s (evRemoteRequest e addr m k s)
/-- FABRIC_INVALIDATION. -/
def execFabricInvalidation (n : Nat) (s : State) : Out := stepOr s (evFabricInvalidation n s)
/-- DIE_LOSS. -/
def execDieLoss (d : Fin 2) (s : State) : Out := stepOr s (evDieLoss d s)
/-- PACKAGE_LOSS. -/
def execPackageLoss (e : Fin 1024) (s : State) : Out := stepOr s (evPackageLoss e s)
/-- ORPHAN_COMPLETE. -/
def execOrphanComplete (s : State) : Out := stepOr s (evOrphanComplete s)

end Sys2Proof.Machine
end

