-- ==== Sys2Proof/Machine/Errors.lean ====
section
/-! DEFINITION. Error logs with the fate of each error (21 R372 to R374), injection (R375), lifetime counts (R376), writes
to the registers of the I/O die (1 R25), and package reset (18 R341). -/

namespace Sys2Proof.Machine

/-! ## Units and arrays (R372) -/

/-- Whether unit `u` has a log for array kind `k`: vector cores, helm cores, L2 slices, the I/O die. -/
def logExists (u k : Nat) : Bool :=
  if u < 176 then (1 ≤ k && k ≤ 6) || k = 0xB || k = 0xC
  else if u < 240 then k = 0xA || k = 0xB
  else if 256 ≤ u && u < 640 then (7 ≤ k && k ≤ 9) || k = 0xB
  else u = 768 && k = 0xB

/-- The die of a unit. (log 74: DEDUCED, unsafe) -/
def unitDie (u idx : Nat) : Nat :=
  if u < 176 then coreDie u
  else if u < 240 then (u - 176) / 32
  else if u < 640 then sliceDie (u - 256)
  else idx % 2

/-! ### Injected errors (R375) -/

/-- The SRAM offset at which a team's allotment starts: the allotments stand in the order of the teams. (log 72: DEDUCED,
unsafe) -/
def sramBase (x : Core) (t : Nat) : Nat := ((x.teams.filter fun tm => tm.num < t).map (·.shared)).sum

/-- The first entry in which two contents differ. -/
def changedAt {w : Nat} (a b : Sparse w) : Option Nat := ((a ++ b).map (·.1)).find? fun i => sget a i ≠ sget b i

/-- The first write of a step into an array: the slot or the team of its code word, and the address that the log gives
it (R372, R373). (log 72: DEDUCED, unsafe) -/
def firstWrite (s t : State) (u k : Nat) : Option (Nat × Nat) :=
  let x := coreAt s u
  let y := coreAt t u
  let slice := u - 256
  match k with
  | 1 => (List.range 96).findSome? fun j =>
      match grpIn x j, grpIn y j with
      | some g, some h => (List.range 64).findSome? fun l =>
          (changedAt (laneAt g l).regs (laneAt h l).regs).map fun r => (j, 64 * r + l)
      | _, _ => none
  | 2 => y.teams.findSome? fun tm => (teamIn x tm.num).bind fun old =>
      (changedAt old.bytes tm.bytes).map fun o => (tm.num, sramBase y tm.num + o / 8 * 8)
  | 3 => (changedAt x.tiles y.tiles).map fun i => (0, i)
  | 7 => (((s.mem ++ t.mem).map (·.1)).find? fun a => homeNow t a = slice && sget s.mem a ≠ sget t.mem a).map fun a => (0, a / 8 * 8)
  | 8 => (t.homes.find? fun h => homeNow t h.grain = slice && !s.homes.contains h).map fun h => (0, h.grain)
  | 9 =>
    let mine (s : State) : List WatchEntry := s.watches.filter fun w => w.slice = slice
    let lines (s : State) : List Nat := (s.helms.flatMap fun h => h.rsig ++ h.wsig).filter fun l => homeNow t l = slice
    if mine t ≠ mine s then some (0, 0) else if lines t ≠ lines s then some (0, 64) else none
  | _ => none

/-- The content of the code word at which an error stands. -/
def codeWord (s : State) (p : Planted) : Nat :=
  match p.kind with
  | 1 => match grpAt s p.unit p.owner with
    | some g => (sget (laneAt g (p.addr % 64)).regs (p.addr / 64)).toNat
    | none => 0
  | 2 => match teamAt s p.unit p.owner with
    | some tm => readLe tm.bytes (p.addr - sramBase (coreAt s p.unit) p.owner) 8
    | none => 0
  | 3 => (sget (coreAt s p.unit).tiles p.addr).toNat
  | 7 => readLe s.mem p.addr 8
  | _ => 0

/-- A code word of an array: its unit and kind, the slot or the team that owns it, its address (R373). -/
structure CodeWord where
  unit : Nat
  kind : Nat
  owner : Nat
  addr : Nat
  deriving DecidableEq, Repr

/-- The code word at which an error stands. -/
def wordOf (p : Planted) : CodeWord := { unit := p.unit, kind := p.kind, owner := p.owner, addr := p.addr }

/-- What a step leaves of injected errors, given code words that it wrote: the next write into the named array takes
the armed one; a later write of its code word replaces a flipped one. (log 72: DEDUCED, unsafe) -/
def placeArmed (s t : State) (ws : List CodeWord) : State :=
  let t1 := { t with planted := t.planted.filter fun p =>
    !s.planted.contains p || (codeWord s p = codeWord t p && !ws.contains (wordOf p)) }
  if s.einj ≠ t.einj then t1
  else
    let e := t.einj.toNat
    let u := bitsOf e 9 0
    let k := bitsOf e 31 24
    if !armedFor t u k then t1
    else
      let known := (ws.find? fun w => w.unit = u && w.kind = k).map fun w => (w.owner, w.addr)
      match known <|> firstWrite s t u k with
      | none => t1
      | some w => disarm { t1 with planted :=
          { unit := u, kind := k, owner := w.1, addr := w.2, flips := bitsOf e 41 40, bit := bitsOf e 39 32 } :: t1.planted }

/-- The injected error that an array finds at an address, among those of so many flips. (log 72: DEDUCED, unsafe) -/
def foundPlanted (s : State) (u k addr : Nat) (ctx : BitVec 16) (flips : Nat) : Option Planted :=
  s.planted.find? fun p => p.unit = u && p.kind = k && p.addr = addr && p.flips = flips
    && (k ≠ 1 || p.owner = 8 * (ctx.toNat % 16) + ctx.toNat % 128 / 16)

/-- An array finds an error: the injected one that stands there, or one armed for an array whose writes the model does
not hold, which is placed and found at once; the state without it, and the position of its first flip. (log 72:
DEDUCED, unsafe) -/
def takeInjected (s : State) (u k addr : Nat) (ctx : BitVec 16) (flips : Nat) : State × Option Nat :=
  match foundPlanted s u k addr ctx flips with
  | some p => ({ s with planted := s.planted.erase p }, some p.bit)
  | none =>
    if (k = 4 || k = 5 || k = 0xA || k = 0xB) && armedFor s u k && bitsOf s.einj.toNat 41 40 = flips then
      (disarm s, some (bitsOf s.einj.toNat 39 32))
    else (s, none)

/-- The slot that a log's context names. -/
def ctxSlot (ctx : BitVec 16) : Nat := 8 * (ctx.toNat % 16) + ctx.toNat % 128 / 16

/-- MEMERR for a group, with the array's address (R372). -/
def arrayErr (s : State) (c k addr : Nat) : State :=
  match grpAt s c k with
  | some g => holdCause s c k (mkRec g k 0 0 addr 0 0x16 1)
  | none => s

/-! ## CORRECTED_ERROR, UNCORRECTED_ERROR, LINK_REPLAY (R372, R374, R375) -/

/-- The context that a log takes: bit 7 is 0 (R373). -/
def maskCtx (ctx : BitVec 16) : Nat := if ctx = 0xFFFF then 0xFFFF else (ctx &&& 0xFF7F).toNat

/-- Whether `u` names the memory controller of an address: 1024 + the HBM4 stack, or 1032 for LPDDR6. (log 115: DESIGN
CHOICE, safe) -/
def memController (u addr : Nat) : Bool :=
  match regionOf addr with
  | .hbm => u = 1024 + hbmStack addr
  | .lpddr => u = 1032
  | _ => false

/-- An entry of the fault-address queue for an error of an L2 slice (R322): of its data, the line; of its tags or
tables, a line that the spec does not name. (log 115: DESIGN CHOICE, safe) -/
def sliceEntry (s : State) (k addr kind : Nat) : State :=
  if k = 7 then faultQueue s addr kind 9
  else faultQueue { s with freeCount := s.freeCount + 1 } ((Config.freeDword s.freeCount).toNat % 2 ^ 56) kind 9

/-- CORRECTED_ERROR: an array corrects an error and logs it; a step of the matrix array whose residue fails runs once
more; a memory controller corrects one, which has no log. (log 73: DESIGN CHOICE, safe; 115: DESIGN CHOICE, safe) -/
def evCorrectedError (u k addr syn : Nat) (ctx : BitVec 16) (s : State) : Option State :=
  if k = 0 && memController u addr then some (faultQueue s addr 1 (u - 1024))
  else if !logExists u k || k = 4 || k = 6 || k = 9 || k = 0xB || k = 0xC then none
  else
    let f := takeInjected s u k addr ctx 1
    let s1 := logError f.1 u k false f.2.isSome (match f.2 with | some b => b + 1 | none => syn) (maskCtx ctx) addr
    some (if k = 7 || k = 8 then sliceEntry s1 k addr 1 else s1)

/-- A watch table loses an entry: its watchers poll (R295). -/
def dropWatch (s : State) (w : WatchEntry) : State :=
  let at_ := s.clock + 32
  let poll (a : Acc) : Acc :=
    if a.watch = .entry && overlap (.glob w.grain) w.size a.place a.n then { a with watch := .poll at_ 32 } else a
  modCore { s with watches := s.watches.erase w } w.core fun x => { x with pend := x.pend.map poll }

/-- A parity error of a slice's watch table or signatures: entry `i` below 64 is a watch. (log 73: DESIGN CHOICE,
safe) -/
def watchOrSignature (s : State) (slice i : Nat) : State :=
  if i < 64 then
    match (s.watches.filter fun w => w.slice = slice)[i]? with
    | some w => dropWatch s w
    | none => s
  else
    { s with helms := s.helms.map fun h =>
        if (h.rsig ++ h.wsig).any fun l => homeNow s l = slice then helmAbort 0x01 h else h }

/-- What an uncorrectable error does beside its log (R372). (log 73: DESIGN CHOICE, safe) -/
def errorFate (s : State) (u k addr : Nat) (ctx : BitVec 16) : State :=
  match k with
  | 1 => arrayErr s u (ctxSlot ctx) addr
  | 2 =>
    let sup := ctxSlot ctx = 0
    (List.range 96).foldl (fun s j =>
      match grpAt s u j with
      | some g => if g.supervisor = sup && (sup || g.team = ctx.toNat / 256) then arrayErr s u j addr else s
      | none => s) s
  | 3 | 5 =>
    (match (coreAt s u).owner with
      | some j => arrayErr s u j addr
      | none => s)
  | 6 =>
    (match grpAt s u (ctxSlot ctx) with
      | some g =>
        if running g then takeTrap s u (ctxSlot ctx) (mkRec g (ctxSlot ctx) (nextSet g) (nextPc g) 0 0 0x17 2) else s
      | none => s)
  | 7 => sliceEntry { s with poison := addr / 64 * 64 :: s.poison.filter (· ≠ addr / 64 * 64) } 7 addr 2
  | 8 => loseDie (sliceEntry s 8 addr 2) (unitDie u addr)
  | 9 => watchOrSignature (sliceEntry s 9 addr 2) (u - 256) addr
  | 0xA => modHelm s (u - 176) (helmException 5 addr)
  | _ => s

/-- Whether an error that its array cannot correct is refetched and logged as corrected: an L1 block, which no group owns,
and an instruction word. -/
def refetched (k : Nat) (ctx : BitVec 16) : Bool := k = 4 || (k = 2 && ctx = 0xFFFF)

/-- Whether an array is protected by parity, which finds one flip and corrects none. -/
def byParity (k : Nat) : Bool := k = 4 || k = 9

/-- UNCORRECTED_ERROR: an array or a memory controller finds an error that it cannot correct. (log 73: DESIGN CHOICE,
safe; 115: DESIGN CHOICE, safe) -/
def evUncorrectedError (u k addr syn : Nat) (ctx : BitVec 16) (s : State) : Option State :=
  if k = 0 && memController u addr then
    some (faultQueue { s with poison := addr / 64 * 64 :: s.poison.filter (· ≠ addr / 64 * 64) } addr 2 (u - 1024))
  else if !logExists u k || k = 0xB || k = 0xC then none
  else
    let f := takeInjected s u k addr ctx (if byParity k then 1 else 2)
    if refetched k ctx then some (logError f.1 u k false f.2.isSome syn (maskCtx ctx) addr)
    else some (errorFate (logError f.1 u k (k ≠ 6) f.2.isSome syn (maskCtx ctx) addr) u k addr ctx)

/-- The failed replays after which a link has failed (R372). -/
def failedLinkAfter : Nat := 16

/-- LINK_REPLAY: a flit is replayed, and the replay is logged; a replay that fails counts on its link, and after 16 of
them the link has failed, which carries nothing more, and its die is declared lost (R372). (log 74: DEDUCED, unsafe)
-/
def evLinkReplay (u idx : Nat) (failed : Bool) (s : State) : Option State :=
  let key := u + 1024 * idx
  let n := (sget s.replays key).toNat
  if !logExists u 0xB || failedLinkAfter ≤ n then none
  else
    let last := failed && n + 1 = failedLinkAfter
    let f1 := takeInjected s u 0xB idx 0xFFFF 1
    let f := if f1.2.isSome then f1 else takeInjected s u 0xB idx 0xFFFF 2
    let s1 := { f.1 with replays := sset f.1.replays key (BitVec.ofNat 8 (if failed then n + 1 else 0)) }
    let s2 := logError s1 u 0xB last f.2.isSome (match f.2 with | some b => b + 1 | none => 0) 0xFFFF idx
    some (if last then loseDie s2 (unitDie u idx) else s2)

/-! ## SUPERVISOR_STOP (R374) -/

/-- The grids with a team on a core. -/
def gridsOn (s : State) (c : Nat) : List Dword :=
  (s.grids.filter fun g => (coreAt s c).teams.any fun t => t.grid = g.id && t.num < 128).map (·.id)

/-- The supervisor group starts afresh; what its words had under way is gone. (log 75: DEDUCED, unsafe) -/
def restartSupervisor (s : State) (c : Nat) : State :=
  let s1 := modCore s c fun x => dropWork 0 s.clock { x with pend := x.pend.filter fun a => a.slot ≠ 0 }
  setGrp (releaseEngine s1 c 0) c 0 (some Grp.supervisorReset)

/-- SUPERVISOR_STOP: the grids of a core whose supervisor has trapped end with status 5, and the supervisor restarts.
(log 75: DEDUCED, unsafe) -/
def evSupervisorStop (c : Nat) (s : State) : Option State :=
  match grpAt s c 0 with
  | some g =>
    if g.supervisor && g.stop.isSome then
      some (restartSupervisor ((gridsOn s c).foldl (fun s id => endGrid s id 5) s) c)
    else none
  | none => none

/-! ## LOG_CLEAR, ERROR_INJECT (R373 to R375) -/

/-- LOG_CLEAR: VALID is written with 1; every field of both registers clears. -/
def evLogClear (u k : Nat) (s : State) : Option State :=
  if logExists u k then some (clearLog s u k) else none

/-- ERROR_INJECT: a write of pk.einj, ignored while it is armed. -/
def evErrorInject (v : Dword) (s : State) : Option State :=
  let n := v.toNat
  if s.einj.getLsbD 63 then none
  else
    let w := keepBits n 63 63 + keepBits n 41 40 + keepBits n 39 32 + keepBits n 31 24 + keepBits n 9 0
    some { s with einj := BitVec.ofNat 64 w }

/-! ## Lifetime counts (R376) -/

/-- LIFETIME_SELECT. -/
def evLifetimeSelect (v : Dword) (s : State) : Option State := some { s with lsel := BitVec.ofNat 64 (keepBits v.toNat 15 0) }

/-- Whether an index is listed. (log 81: DEDUCED, safe) -/
def countListed (i : Nat) : Bool :=
  i ≤ 1 || (0x100 ≤ i && i < 0x4100 && logExists ((i - 0x100) / 16) ((i - 0x100) % 16))
    || (0x4100 ≤ i && i < 0x8000 && logExists ((i - 0x4100) / 16) ((i - 0x4100) % 16))
    || (0x8000 ≤ i && i < 0x8000 + 24) || (0x8100 ≤ i && i < 0x8100 + 25) || (0x9000 ≤ i && i ≤ 0x9005)

/-- pk.lval: the selected count as of the last update. (log 81: DEDUCED, safe) -/
def lifetimeValue (s : State) : Dword :=
  let i := s.lsel.toNat
  if countListed i then sget s.shown i else 0xFFFF_FFFF_FFFF_FFFF

/-- Core clocks of one second (R2). -/
def clocksPerSecond : Nat := Config.clocksPerMicro * 1000000

/-- LIFETIME_UPDATE: once a second; the temperature and the power of that second are not the part's state. (log 12:
DESIGN CHOICE, safe; 81: DEDUCED, safe) -/
def evLifetimeUpdate (s : State) : Option State :=
  if s.clock < s.updated + clocksPerSecond then none
  else
    let t := (Config.freeWord s.freeCount).toNat % 24
    let w := (Config.freeWord (s.freeCount + 1)).toNat % 25
    let s1 := addCount (addCount (addCount { s with freeCount := s.freeCount + 2 } 0 1) (0x8000 + t) 1) (0x8100 + w) 1
    some { s1 with shown := s1.counts, updated := s.clock }

/-- ORDERLY_SHUTDOWN: the counts are updated. -/
def evOrderlyShutdown (s : State) : Option State := some { s with shown := s.counts }

/-! ## PACKAGE_RESET (R341) -/

/-- PACKAGE_RESET: every agent stands at its reset state. What is not volatile stays: the bad-page list, the lifetime
counts, the storage; and memory keeps its bytes (log 13: DESIGN CHOICE, unsafe). (log 91: DEDUCED, safe) -/
def evPackageReset (s : State) : Option State :=
  some (addCount { State.reset with
    tape := s.tape, focus := s.focus, freeCount := s.freeCount, nextId := s.nextId, mem := s.mem, badPages := s.badPages,
    files := s.files, console := s.console, poison := s.poison, lostBlocks := s.lostBlocks, cleared := s.cleared,
    counts := s.counts, shown := s.shown } 1 1)

/-! ## REGISTER_WRITE (R25, R322, R345, R363, R371, R374) -/

/-- A ring register's write: BASE and SIZE are RW, OVF is W1C. -/
def writeRing (old : Dword) (v : Nat) : Dword :=
  BitVec.ofNat 64 (keepBits v 56 12 + keepBits v 3 0 + (if Nat.testBit v 11 then 0 else keepBits old.toNat 11 11))

/-- pk.port(p): CTO, ROLE, EN, by which the link may train; a 1 in RETRAIN retrains. -/
def writePort (s : State) (p v : Nat) : State :=
  let w := putBits (putBits (putBits (portReg s p) 47 32 (bitsOf v 47 32)) 3 2 (bitsOf v 3 2)) 0 0 v
  let s1 := setPort s p w
  if Nat.testBit v 1 then retrainPort s1 p else trainPort s1 p

/-- pk.fport(i): EN, by which the port may train; a 1 in RETRAIN retrains. -/
def writeFport (s : State) (i v : Nat) : State :=
  let s1 := setFport s i (putBits (fportReg s i) 0 0 v)
  if Nat.testBit v 1 then retrainFport s1 i else trainFport s1 i

/-- The root of a requester's context (R349). (log 114: DESIGN CHOICE, safe) -/
def writeContext (s : State) (p rid : Nat) (root : Dword) : State :=
  { s with contexts := { port := p, rid := rid, root := root } :: s.contexts.filter fun x => !(x.port = p && x.rid = rid) }

/-- An HDM decoder, whose range lies whole in HBM4 or in LPDDR6 (R354); another range is not taken. (log 114: DESIGN
CHOICE, safe) -/
def writeHdm (s : State) (p i v : Nat) : State :=
  let base := v % 2 ^ 32
  let size := v / 2 ^ 32
  if base + size ≤ 384 || (512 ≤ base && base + size ≤ 1024) then { s with hdms := s.hdms.set (2 * p + i) (base, size) } else s

/-- A shared range of whole pages of 2 MiB, homed in one package (R366); none of them ends it. (log 114: DESIGN
CHOICE, safe) -/
def writeShared (s : State) (base pages : Nat) : State :=
  let rest := s.shared.filter fun r => r.1 ≠ base
  let last := base + pages * 2 ^ 21 - 1
  let one := match regionOf base, regionOf last with
    | .hbm, .hbm | .lpddr, .lpddr => true
    | .fabric e, .fabric f => e = f
    | _, _ => false
  if base % 2 ^ 21 ≠ 0 then s
  else if pages = 0 then { s with shared := rest }
  else if one then { s with shared := (base, pages * 2 ^ 21) :: rest } else s

/-- What is exported to an endpoint (R364). (log 114: DESIGN CHOICE, safe) -/
def writeExported (s : State) (e base pages : Nat) : State :=
  let rest := s.exports.filter fun x => !(x.1 = e && x.2.1 = base)
  { s with exports := if pages = 0 then rest else (e, base, pages * 2 ^ 21) :: rest }

/-- REGISTER_WRITE: the RW fields of a register take the value, or a table of the I/O die takes an entry. (log 114:
DESIGN CHOICE, safe) -/
def evRegisterWrite (r : PkReg) (v : Dword) (s : State) : Option State :=
  let n := v.toNat
  some (match r with
    | .fltq => { s with fltq := writeRing s.fltq n }
    | .fltp => { s with fltHead := newHead s.fltTail s.fltHead n }
    | .port p => writePort s p.val n
    | .hwin p => { s with hwins := s.hwins.set p.val (BitVec.ofNat 64 (keepBits n 51 40)) }
    | .fab => { s with fab := putBits s.fab 47 32 (bitsOf n 47 32) }
    | .fport i => writeFport s i.val n
    | .orph => { s with orph := writeRing s.orph n }
    | .orpp => { s with orphHead := newHead s.orphTail s.orphHead n }
    | .mchk => { s with mchk := if Nat.testBit n 63 then putBits s.mchk 63 63 0 else s.mchk }
    | .ioRoot p rid => writeContext s p.val rid.toNat v
    | .hdm p i => writeHdm s p.val i.val n
    | .shared pages => writeShared s n pages
    | .exported e pages => writeExported s e.val n pages)

/-- CORRECTED_ERROR. -/
def execCorrectedError (u k addr syn : Nat) (ctx : BitVec 16) (s : State) : Out :=
  stepOr s (evCorrectedError u k addr syn ctx s)
/-- UNCORRECTED_ERROR. -/
def execUncorrectedError (u k addr syn : Nat) (ctx : BitVec 16) (s : State) : Out :=
  stepOr s (evUncorrectedError u k addr syn ctx s)
/-- LINK_REPLAY. -/
def execLinkReplay (u idx : Nat) (failed : Bool) (s : State) : Out := stepOr s (evLinkReplay u idx failed s)
/-- SUPERVISOR_STOP. -/
def execSupervisorStop (c : Nat) (s : State) : Out := stepOr s (evSupervisorStop c s)
/-- LOG_CLEAR. -/
def execLogClear (u k : Nat) (s : State) : Out := stepOr s (evLogClear u k s)
/-- ERROR_INJECT. -/
def execErrorInject (v : Dword) (s : State) : Out := stepOr s (evErrorInject v s)
/-- LIFETIME_SELECT. -/
def execLifetimeSelect (v : Dword) (s : State) : Out := stepOr s (evLifetimeSelect v s)
/-- LIFETIME_UPDATE. -/
def execLifetimeUpdate (s : State) : Out := stepOr s (evLifetimeUpdate s)
/-- ORDERLY_SHUTDOWN. -/
def execOrderlyShutdown (s : State) : Out := stepOr s (evOrderlyShutdown s)
/-- PACKAGE_RESET. -/
def execPackageReset (s : State) : Out := stepOr s (evPackageReset s)
/-- REGISTER_WRITE. -/
def execRegisterWrite (r : PkReg) (v : Dword) (s : State) : Out := stepOr s (evRegisterWrite r v s)

end Sys2Proof.Machine
end

