-- ==== Sys2Proof/Machine/Predicate.lean ====
section
/-! DEFINITION. Compares, predicate operations and pair words (04 R101 to R105; 02 R41; 05 R130). -/

namespace Sys2Proof.Machine

/-- ICMP (R101). -/
def execIcmp (g : Guard) (t : IntTy) (cc : Icc) (p : PReg) (a b : Operand) (s : State) : Out :=
  aluWord (.icmp g t cc p a b) none (fun e => .ofPred p (icmpCond t cc (opI e (regs12 t.w64) a) (opI e (regs12 t.w64) b), 0)) s

/-- FCMP (R102). -/
def execFcmp (g : Guard) (cc : Fcc) (p : PReg) (a b : Operand) (s : State) : Out :=
  aluWord (.fcmp g cc p a b) none (fun e => .ofPred p (fpCond fmt32 (fz32 e.grp) cc (opF e fmt32 a) (opF e fmt32 b))) s

/-- DCMP (R102). -/
def execDcmp (g : Guard) (cc : Fcc) (p : PReg) (a b : Operand) (s : State) : Out :=
  aluWord (.dcmp g cc p a b) none (fun e => .ofPred p (fpCond fmt64 (fz64 e.grp) cc (opF e fmt64 a) (opF e fmt64 b))) s

/-- PLOP (R103). -/
def execPlop (g : Guard) (t : Fin 16) (d a b : PReg) (s : State) : Out :=
  aluWord (.plop g t d a b) none (fun e => .ofPred d (Nat.testBit t.val (2 * (getP e.lane a).toNat + (getP e.lane b).toNat), 0)) s

/-- PMOV d, PW (R104). -/
def execPmov (g : Guard) (d : Reg) (s : State) : Out :=
  aluWord (.pmov g d) (some (d, 1)) (fun e => .ofNat (e.lane.preds.toNat % 128 + 128)) s

/-- The predicate word with P0 to P6 taken from bits 6:0 of a value (R104). -/
def withPw (v : Nat) (ln : Lane) : Lane := { ln with preds := BitVec.ofNat 8 (v % 128 + 128) }

/-- PMOV PW, a (R104). -/
def execPmovPw (g : Guard) (a : Operand) (s : State) : Out :=
  withWord (.pmovPw g a) s fun gr gm =>
    if mirrorFails s gr gm then mirrorCheck s gr gm gm s.cur.pipe
    else setCurGrp s (finishGrp s.cur.mask
      (mirrorCount gm (mapLanes gm (fun l ln => withPw (opI (envOf s gr l) 1 a) ln) gr)))

/-- PMOV.NZ (R104). -/
def execPmovNz (g : Guard) (p : PReg) (a : Operand) (s : State) : Out :=
  aluWord (.pmovNz g p a) none (fun e => .ofPred p (opI e 1 a ≠ 0, 0)) s

/-- PMOV.BIT (R104). -/
def execPmovBit (g : Guard) (p : PReg) (a b : Operand) (s : State) : Out :=
  aluWord (.pmovBit g p a b) none (fun e => .ofPred p (Nat.testBit (opI e 1 a) (opI e 1 b % 32), 0)) s

/-! ## Pair words (R41, R130) -/

/-- What a half computes from the old values of D and A, as its full form. -/
def halfRes (e : Env) (op : HalfOp) (h : HalfArgs) : Nat × Flags :=
  let d := getV e.lane (e.lane.base + h.d.val) 1
  let a := opI e 1 h.a
  let fa := opF e fmt32 h.a
  let ty (t : Ty32) : IntTy := match t with | .i32 => .i32 | .n32 => .n32
  match op with
  | .iadd2 => aluAdd .i32 false d a
  | .isub2 => aluSub .i32 false d a
  | .imin2 t => (aluMin (ty t) d a, 0)
  | .imax2 t => (aluMax (ty t) d a, 0)
  | .and2 => (aluAnd 32 d a, 0)
  | .or2 => (aluOr 32 d a, 0)
  | .xor2 => (aluXor 32 d a, 0)
  | .shl2 => (aluShl 32 d a, 0)
  | .shr2 => (aluShr 32 d a, 0)
  | .sar2 => (aluSar 32 d a, 0)
  | .mov2 => (a, 0)
  | .fadd2 rm => fpAdd fmt32 rm (fz32 e.grp) d fa
  | .fmul2 rm => fpMul fmt32 rm (fz32 e.grp) d fa
  | .fmin2 => fpMin fmt32 (fz32 e.grp) d fa
  | .fmax2 => fpMax fmt32 (fz32 e.grp) d fa
  | .padd2h sat => aluPadd2 .i16 sat d a

/-- The guard of a half. -/
def halfGuard (h : HalfArgs) : Guard := { neg := false, p := h.g }

/-- The effect of one half on a lane, computed from the environment before either half (R41). -/
def putHalf (e : Env) (h : HalfWord) (ln : Lane) : Lane :=
  if guardTrue (halfGuard h.args) e.lane then
    let r := halfRes e h.op h.args
    addFlags (wrV ln h.args.d.val 1 r.1) r.2
  else ln

/-- A pair word: WINDOW on each half's own fields, VFALL, mirror mode over both pipes, one half in each (R133), then
both halves (R41, R78). (log 95: DEDUCED, unsafe) -/
def pairWord (i : Instr) (h1 h2 : HalfWord) (s : State) : Out :=
  match curGrp s with
  | none => .fault .noGroup
  | some g =>
    let m := s.cur.mask
    let gm1 := guarded (halfGuard h1.args) g m
    let gm2 := guarded (halfGuard h2.args) g m
    let wm := windowLanes h1.args.uses g gm1 ||| windowLanes h2.args.uses g gm2
    let fm := fallLanes (coreAt s s.cur.core) g m 0 (leavesPc i)
    if wm ≠ 0 then .next (trap s 0x02 wm 0 0)
    else if fm ≠ 0 then .next (trap s 0x1A fm 0 0)
    else if mirrorFails s g gm1 then .next (mirrorCheck s g gm1 (gm1 ||| gm2) 0)
    else if mirrorFails s g gm2 then .next (mirrorCheck s g gm2 (gm1 ||| gm2) 1)
    else .next (setCurGrp s (finishGrp m (mirrorCount gm2 (mirrorCount gm1
      (mapLanes m (fun l ln => putHalf (envOf s g l) h2 (putHalf (envOf s g l) h1 ln)) g)))))

/-- IADD2 as the first half of a pair word (R130). -/
def execIadd2 (h : HalfArgs) (o : HalfWord) (s : State) : Out :=
  pairWord (.iadd2 h o) { op := .iadd2, args := h } o s

/-- ISUB2 as the first half of a pair word (R130). -/
def execIsub2 (h : HalfArgs) (o : HalfWord) (s : State) : Out :=
  pairWord (.isub2 h o) { op := .isub2, args := h } o s

/-- IMIN2 as the first half of a pair word (R130). -/
def execImin2 (t : Ty32) (h : HalfArgs) (o : HalfWord) (s : State) : Out :=
  pairWord (.imin2 t h o) { op := .imin2 t, args := h } o s

/-- IMAX2 as the first half of a pair word (R130). -/
def execImax2 (t : Ty32) (h : HalfArgs) (o : HalfWord) (s : State) : Out :=
  pairWord (.imax2 t h o) { op := .imax2 t, args := h } o s

/-- AND2 as the first half of a pair word (R130). -/
def execAnd2 (h : HalfArgs) (o : HalfWord) (s : State) : Out :=
  pairWord (.and2 h o) { op := .and2, args := h } o s

/-- OR2 as the first half of a pair word (R130). -/
def execOr2 (h : HalfArgs) (o : HalfWord) (s : State) : Out :=
  pairWord (.or2 h o) { op := .or2, args := h } o s

/-- XOR2 as the first half of a pair word (R130). -/
def execXor2 (h : HalfArgs) (o : HalfWord) (s : State) : Out :=
  pairWord (.xor2 h o) { op := .xor2, args := h } o s

/-- SHL2 as the first half of a pair word (R130). -/
def execShl2 (h : HalfArgs) (o : HalfWord) (s : State) : Out :=
  pairWord (.shl2 h o) { op := .shl2, args := h } o s

/-- SHR2 as the first half of a pair word (R130). -/
def execShr2 (h : HalfArgs) (o : HalfWord) (s : State) : Out :=
  pairWord (.shr2 h o) { op := .shr2, args := h } o s

/-- SAR2 as the first half of a pair word (R130). -/
def execSar2 (h : HalfArgs) (o : HalfWord) (s : State) : Out :=
  pairWord (.sar2 h o) { op := .sar2, args := h } o s

/-- MOV2 as the first half of a pair word (R130). -/
def execMov2 (h : HalfArgs) (o : HalfWord) (s : State) : Out :=
  pairWord (.mov2 h o) { op := .mov2, args := h } o s

/-- FADD2 as the first half of a pair word (R130). -/
def execFadd2 (rm : Rm) (h : HalfArgs) (o : HalfWord) (s : State) : Out :=
  pairWord (.fadd2 rm h o) { op := .fadd2 rm, args := h } o s

/-- FMUL2 as the first half of a pair word (R130). -/
def execFmul2 (rm : Rm) (h : HalfArgs) (o : HalfWord) (s : State) : Out :=
  pairWord (.fmul2 rm h o) { op := .fmul2 rm, args := h } o s

/-- FMIN2 as the first half of a pair word (R130). -/
def execFmin2 (h : HalfArgs) (o : HalfWord) (s : State) : Out :=
  pairWord (.fmin2 h o) { op := .fmin2, args := h } o s

/-- FMAX2 as the first half of a pair word (R130). -/
def execFmax2 (h : HalfArgs) (o : HalfWord) (s : State) : Out :=
  pairWord (.fmax2 h o) { op := .fmax2, args := h } o s

/-- PADD2H as the first half of a pair word (R130). -/
def execPadd2h (sat : Bool) (h : HalfArgs) (o : HalfWord) (s : State) : Out :=
  pairWord (.padd2h sat h o) { op := .padd2h sat, args := h } o s

end Sys2Proof.Machine
end

