-- ==== Sys2Proof/Machine/Issue.lean ====
section
/-! DEFINITION. An issue opportunity of a group (1 R4, R5; 04 R77, R80 to R85, R96; 06 R134; 10 R220): the lanes that
become ready, the issue set, the tack, the word at its PC, the unit it needs, the words that are not yet candidates, and
the choice of a partition among its groups. -/

namespace Sys2Proof.Machine

/-! ## Lanes that become ready at an issue opportunity (R77) -/

/-- Whether what a parked lane waits for has come, for the waits that nothing else releases. -/
def waitOver (s : State) (c : Nat) (g : Grp) (ln : Lane) : Bool :=
  match ln.wait with
  | .mailbox => g.sysc.isNone && mailRoom (coreAt s c) 1
  | .macqFull => (coreAt s c).waiters.length < 16
  | .behind => g.rdv.isNone
  | .launch p => (queueAt s p).length < 64
  | _ => false

/-- A lane whose HWAIT has not been fetched since its group was loaded: it waits on once the word is known (R240). -/
def wakeRefetch (s : State) (c : Nat) (g : Grp) (ln : Lane) : Lane :=
  if ln.wait ≠ .refetch then ln
  else match wordAt s c g ln.pc with
    | none => ln
    | some (.hwait _ d h) =>
      let lead := (lowest (lanesWhere g fun m => m.wait = .refetch && m.pc = ln.pc)).all fun l => laneAt g l = ln
      { ln with wait := if handleState (getHandle g h) = 1 then .hwait h d lead else .ready }
    | some _ => { ln with wait := .ready }

/-- Lanes whose wait is over. -/
def wakeLanes (s : State) (c : Nat) (g : Grp) : Grp :=
  let x := coreAt s c
  let wake (ln : Lane) : Lane :=
    if waitOver s c g ln then { ln with wait := .ready } else wakeTend s (wakeTinv x (wakeRefetch s c g ln))
  wakeMbox x { g with lanes := g.lanes.map wake }

/-- YIELD's hold ends where no other lane of the group is ready (R96). -/
def wakeYield (g : Grp) : Grp :=
  if readyMask g ≠ 0 then g
  else
    let wake (ln : Lane) : Lane := if ln.wait = .yield then { ln with wait := .ready } else ln
    { g with lanes := g.lanes.map wake }

/-- The lanes that a test finds parked. -/
def waitMask (g : Grp) (f : Wait → Bool) : Mask := lanesWhere g fun ln => ln.status = .live && f ln.wait

/-- A CTXS or a CTXL under way goes on, for its lead lane. -/
def goOnCtxs (c : Nat) (s : State) (l : Nat) : State :=
  match (grpAt s c 0).map fun g => (laneAt g l).wait with
  | some (.ctxsG k img d true) => tryCtxsG s c k img d
  | some (.ctxsT t img d true) => tryCtxsT s c t img d
  | some (.ctxlG p img d true) => tryCtxlG s c p img d
  | some (.ctxlT t img d true) => tryCtxlT s c t img d
  | _ => s

/-- Whether a wait is TBEGIN's. -/
def isTbegin : Wait → Bool
  | .tbegin .. => true
  | _ => false

/-- Whether a wait is a CTXS's or a CTXL's, of the lead lane. -/
def isCtxs : Wait → Bool
  | .ctxsG _ _ _ lead | .ctxsT _ _ _ lead | .ctxlG _ _ _ lead | .ctxlT _ _ _ lead => lead
  | _ => false

/-- The lanes whose transactions have expired. -/
def expiredMask (s : State) (g : Grp) : Mask := lanesWhere g (txnExpired s g)

/-- What an issue opportunity does before its word is chosen: transactions expire, waits end. -/
def wakeGroup (s : State) (c k : Nat) : State :=
  match grpAt s c k with
  | none => s
  | some g =>
    let s1 := (lanesOf (expiredMask s g)).foldl (expireLane c k) s
    let s2 := (lanesOf (waitMask g isTbegin)).foldl (wakeTbegin c k) s1
    let s3 := if g.supervisor then (lanesOf (waitMask g isCtxs)).foldl (goOnCtxs c) s2 else s2
    modGrp s3 c k fun g => wakeYield (wakeLanes s3 c g)

/-! ## The issue set (R4, R82, R83) -/

/-- The tack threshold (R82). -/
def tackLimit (g : Grp) : Nat := max (g.fair.toNat % 2 ^ 16) 16

/-- Whether some ready set of a group has not issued for the threshold. -/
def starving (g : Grp) : Bool := (lanesOf (readyMask g)).any fun l => tackLimit g ≤ (laneAt g l).starve

/-- A tack begins with the ready set whose bearing follows all others: that of its first lane (R81, R83). (log 87:
DEDUCED, safe) -/
def beginTack (g : Grp) : Grp :=
  let leads := (lanesOf (readyMask g)).filterMap fun l => leadOf g (samePc g (readyMask g) l)
  match lastOf g (maskOf leads.contains) with
  | none => g
  | some l => { g with tack := some { set := samePc g (readyMask g) l, words := 0, last := false } }

/-- The group, in a tack where one is due, and its issue set: a tack's set is taken at its first issue (R83). (log 87:
DEDUCED, safe) -/
def chooseSet (g : Grp) : Grp × Mask :=
  let g1 := match g.tack with
    | none => if starving g then beginTack g else g
    | some t => if t.words = 0 then beginTack g else g
  (g1, nextSet g1)

/-- Whether a word is a transfer or a wait: executed for one lane or more, it ends a tack (R83). -/
def isTransfer : Instr → Bool
  | .bra .. | .call .. | .trav .. | .brx .. | .callx .. | .travx .. | .ret .. | .waitv .. | .hwait .. | .barw ..
  | .tbar .. | .cbar .. | .yield .. | .mboxWait .. | .tinvAll .. | .tinvPage .. | .ctxsG .. | .ctxsT .. | .ctxlG .. | .ctxlT .. => true
  | _ => false

/-! ## Units (R131 to R134) -/

/-- The unit that a word needs, with the clocks for which it holds it (R133): both pipes for a pair word. -/
inductive UnitNeed where
  | none
  | pipe (n : Nat)
  | pipes (n : Nat)
  | scalar
  | port (n : Nat)
  | branch
  | queue
  deriving DecidableEq, Repr

def cvtWide (t : CvtTy) : Bool := t = .f64 || t = .i64 || t = .n64

/-- The clocks for which a word of majors 0x00 to 0x57 holds a vector pipe in each pass (R133). -/
def passCost (w : Nat) (i : Instr) : Nat :=
  if fPair w then 1
  else if 0x30 ≤ fMajor w && fMajor w ≤ 0x36 then 4
  else if fMajor w = 0x3A then 2
  else match i with
    | .dcmp .. => 4
    | .cvt _ dst src _ _ _ _ => if cvtWide dst || cvtWide src then 4 else 1
    | .imul _ t _ _ _ _ | .imulh _ t _ _ _ | .imad _ t _ _ _ _ _ => if t.w64 then 2 else 1
    | _ => 1

/-- The quads of pass `p` that are active, and whether the partner check leaves one of them out. -/
def passUncovered (m : Mask) (p : Nat) : Bool :=
  (quadActive m (4 * p) && quadActive m (4 * p + 1)) || (quadActive m (4 * p + 2) && quadActive m (4 * p + 3))

/-- The passes of a word: those with an active lane, each twice where mirror mode is full and the partner check does not
cover it (R132, R138). -/
def passesOf (g : Grp) (m : Mask) : Nat :=
  ((List.range 4).map fun p =>
    if m.toNat / 2 ^ (16 * p) % 2 ^ 16 = 0 then 0
    else if 2 ≤ g.dmr.toNat % 4 && passUncovered m p then 2 else 1).sum

/-- The lanes of an issue set in which a word has an effect: of a pair word, those of either half. -/
def activeLanes (w : Nat) (i : Instr) (g : Grp) (set : Mask) : Mask :=
  if fPair w then match i.firstHalf with
    | some (h, o) => guarded (halfGuard h.args) g set ||| guarded (halfGuard o.args) g set
    | none => 0
  else guarded (i.guard.getD Guard.always) g set

/-- The unit that a word needs (R133); a word of the pipes without an active lane uses no pass (R132). -/
def unitNeed (s : State) (c : Nat) (g : Grp) (set : Mask) (w : Nat) (i : Instr) : UnitNeed :=
  let gm := activeLanes w i g set
  let m := fMajor w
  if fPair w then (if gm = 0 then .none else .pipes (passesOf g gm))
  else if m ≤ 0x57 then
    if gm = 0 then .none else if scalarUnit i.uses then .scalar else .pipe (passCost w i * passesOf g gm)
  else if m ≤ 0x5F then .none
  else if m ≤ 0x67 then .branch
  else if m ≤ 0x77 then .port (portClocks s c g gm i)
  else if m ≤ 0x7B then .queue
  else .branch

/-- The units of a partition. -/
def unitsAt (x : Core) (p : Nat) : Units := x.units.getD p Units.free

/-- Whether the unit is free at a clock. -/
def unitFree (u : Units) (now : Nat) : UnitNeed → Bool
  | .none => true
  | .pipe _ => u.pipe0 ≤ now || u.pipe1 ≤ now
  | .pipes _ => u.pipe0 ≤ now && u.pipe1 ≤ now
  | .scalar => u.scalar ≤ now
  | .port _ => u.port ≤ now
  | .branch => u.branch ≤ now
  | .queue => u.queue ≤ now

/-- The vector pipe that a word takes: the lower-numbered free one. (log 95: DEDUCED, unsafe) -/
def pipeOf (u : Units) (now : Nat) : Nat := if u.pipe0 ≤ now then 0 else 1

/-- The issue slots of its clock that a word takes (R134). -/
def slotsTaken : UnitNeed → Nat
  | .pipes _ => 2
  | _ => 1

/-- Whether a partition has issue slots left at a clock for group `k`: two words a clock, one of each group (R134). -/
def slotsFree (u : Units) (now k : Nat) (n : UnitNeed) : Bool :=
  u.last ≠ now || (!u.issued.contains k && u.words + slotsTaken n ≤ 2)

/-- Group `k` issues at a clock a word that takes a unit. -/
def takeUnit (now k : Nat) (n : UnitNeed) (u : Units) : Units :=
  let u1 : Units :=
    if u.last = now ∧ !u.issued.isEmpty then { u with issued := k :: u.issued, words := u.words + slotsTaken n }
    else { u with last := now, issued := [k], words := slotsTaken n }
  match n with
  | .none => u1
  | .pipe d => if pipeOf u now = 0 then { u1 with pipe0 := now + d } else { u1 with pipe1 := now + d }
  | .pipes d => { u1 with pipe0 := now + d, pipe1 := now + d }
  | .scalar => { u1 with scalar := now + 1 }
  | .port d => { u1 with port := now + d }
  | .branch => { u1 with branch := now + 1 }
  | .queue => { u1 with queue := now + 1 }

/-! ## The issue of a word (R80, R82, R83, R96) -/

/-- The bookkeeping of an issue (R82, R83, R96): starvation counts, the tack's words, the holds of YIELD. -/
def enterGrp (set ready : Mask) (taken : Bool) (g : Grp) : Grp :=
  let lane (l : Nat) (ln : Lane) : Lane :=
    if set.getLsbD l then { ln with starve := 0 }
    else if ready.getLsbD l then { ln with starve := min 65535 (ln.starve + 1) }
    else if ln.wait = .yield then { ln with wait := .ready }
    else ln
  { g with
    lanes := mapFrom lane 0 g.lanes
    tack := g.tack.map fun t => { t with words := t.words + 1, last := t.last || taken || 64 ≤ t.words + 1 }
    draining := 0, fence := none }

/-- A set of a group issues a word, which takes its unit. -/
def enter (s : State) (c k : Nat) (set : Mask) (taken : Bool) (n : UnitNeed) : State :=
  let s1 := modGrp s c k fun g => enterGrp set (readyMask g) taken g
  let u := unitsAt (coreAt s c) (k / 8)
  let s2 := modCore s1 c fun x => { x with units := x.units.set (k / 8) (takeUnit s.clock k n u) }
  { s2 with cur := { core := c, slot := k, mask := set, first := s2.nextId, pipe := pipeOf u s.clock }, nextId := s2.nextId + 1 }

/-- After a word: a tack ends with its last word, or where a lane of its set has parked; dead lanes leave its set
(R83). -/
def settleTack (g : Grp) : Grp :=
  match g.tack with
  | none => g
  | some t =>
    let set := t.set &&& liveMask g
    if (t.last && g.rep.isNone) || set = 0 || set &&& ~~~readyMask g ≠ 0 then endTack g
    else { g with tack := some { t with set := set } }

/-- The bookkeeping of an issue is taken back: the group as it was before a word that waits. -/
def unissueGrp (back g : Grp) : Grp :=
  let lane (l : Nat) (ln : Lane) : Lane :=
    let b := laneAt back l
    { ln with starve := b.starve, wait := if b.wait = .yield ∧ ln.wait = .ready then .yield else ln.wait }
  { g with lanes := mapFrom lane 0 g.lanes, tack := back.tack }

/-- A word that waits has not issued: no opportunity, no word of a tack, no unit (R80, R134). -/
def unissue (back : State) (c k : Nat) (s : State) : State :=
  let s1 := match grpAt back c k with
    | some b => modGrp s c k (unissueGrp b)
    | none => s
  let s2 := modCore s1 c fun x => { x with units := (coreAt back c).units }
  { s2 with cur := { s2.cur with waits := false } }

/-- The requests that a word made for loads at its own issue are over with it. -/
def endWordLoads (s : State) (c k : Nat) : State :=
  { s with outstanding := s.outstanding.filter fun o => o.src ≠ .word c k }

/-- A word that has stopped its group for an unmapped address: a walk for it may have read a listed page (R323). -/
def noteStop (back : State) (c k : Nat) (s : State) : State :=
  match (grpAt back c k).bind (·.stop), grpAt s c k with
  | none, some g => (match g.stop with
      | some r => if r.cause = 0x0A || r.cause = 0x05 then noteFailed s c g r.addr else s
      | none => s)
  | _, _ => s

/-- After the word of a turn, which began in state `back`. -/
def afterIssue (back : State) (c k : Nat) (o : Out) : Out :=
  match o with
  | .next s => .next (if s.cur.waits then unissue back c k s else noteStop back c k (modGrp (endWordLoads s c k) c k settleTack))
  | .fault f => .fault f
  | .refused r => .refused r

/-! ## Words that are not candidates yet (R134) -/

/-- Whether some pending access of a group's lanes satisfies a test. -/
def pendOf (x : Core) (k : Nat) (m : Mask) (f : Acc → Bool) : Bool :=
  x.pend.any fun a => a.slot = k && m.getLsbD a.lane && f a

/-- Whether a register that a word reads or writes has an outstanding write from an earlier word. (log 77: DEDUCED,
safe) -/
def regBusy (x : Core) (k : Nat) (g : Grp) (m : Mask) (u : Use) : Bool :=
  match u.op with
  | .v n => pendOf x k m fun a =>
      match a.dst with
      | .v p w => let b := (laneAt g a.lane).base + n.val; b < p + w && p < b + u.n
      | _ => false
  | .s n => (x.pend.any fun a => a.slot = k &&
      match a.dst with
      | .s p w => n.val < p + w && p < n.val + u.n
      | _ => false) || g.outs.any fun o => match o.dest with
      | some (.s p, w) => n.val < p.val + w && p.val < n.val + u.n
      | _ => false
  | _ => false

/-- The mask registers that a word names. -/
def maskRegs : Instr → List MReg
  | .shfl _ m .. | .slide _ m .. | .vote _ m .. | .ballotR _ m .. | .gred _ m .. | .gscan _ m .. | .tbar _ m .. | .cbar _ m ..
  | .rolesw m .. => [m]
  | .ballot _ m d _ | .mskopLd _ m d _ | .mskopSt _ m _ d | .mskopLive _ m d | .mskopArrv _ m d => [m, d]
  | .mskopNot _ m d a => [m, d, a]
  | .mskopAnd _ m d a b | .mskopOr _ m d a b | .mskopXor _ m d a b | .mskopAndn _ m d a b => [m, d, a, b]
  | _ => []

/-- Whether a mask register that a word names has an outstanding write (R134, R145). -/
def maskBusy (g : Grp) (i : Instr) : Bool :=
  (maskRegs i).any fun m => g.outs.any fun o => o.mask.any fun p => p.1 = m

def copiesOf (x : Core) : Nat := (x.jobs.filter fun j => match j.kind with | .cpy .. => true | .sweep .. => false).length

/-- Whether a lane's pending access makes its barrier word wait: to scratchpad, or an acquire (R189, R282). -/
def barrierWaits (a : Acc) : Bool := scrCore a.place ≠ none || isAcquire a

/-- Why a word is not a candidate yet, beside its registers: the lanes whose buffered stores the core drains meanwhile
(none where it is a candidate). (log 24: DEDUCED, unsafe) -/
def wordHold (x : Core) (k : Nat) (g : Grp) (set : Mask) (i : Instr) (room : Bool) : Option Mask :=
  let gm := guarded (i.guard.getD Guard.always) g set
  let hold (b : Bool) (m : Mask) : Option Mask := if b then some m else none
  let pending := pendOf x k gm fun _ => true
  if gm = 0 then none
  else match i with
    | .fence _ o sc _ => hold (!lanesDone x k gm (o = .acq) (wide sc)) gm
    | .sysc .. => hold (!g.supervisor && g.sysc.isNone && room && !lanesDone x k set false true) set
    | .lnch .. => hold (!lanesDone x k set false true) set
    | .bari .. | .barx .. | .barw .. | .bart .. => hold (pendOf x k gm barrierWaits) 0
    | .cpy .. | .cpyg .. => hold (pending || 32 ≤ copiesOf x) 0
    | .tldi .. | .wmap .. | .wflush .. | .wdrop .. => hold pending 0
    | .mma .. | .mmag .. | .mzero .. | .mldz .. | .mstz .. => hold (8 ≤ x.mops.length) 0
    | .ret .. =>
      let refill := maskOf fun l => gm.getLsbD l && needsRefill (laneAt g l)
      hold (pendOf x k refill (fun _ => true) || ((voyageOf x g).isSome && pendOf x k gm isLoadLike)) 0
    | .bra .. | .call .. | .trav .. | .brx .. | .callx .. | .travx .. =>
      hold ((voyageOf x g).isSome && pendOf x k gm isLoadLike) 0
    | .spawn .. => hold (pendOf x k (~~~liveMask g) fun _ => true) 0
    | _ => none

/-- Whether an XFENCE waits: for the accesses of its group on the lane path, and at a wide scope for the stores of its
team that were buffered when it became the next word, whose effect a lane may have observed (R292). (log 100: DEDUCED,
unsafe) -/
def xfenceWaits (x : Core) (k : Nat) (g : Grp) (set : Mask) (gd : Guard) (sc : Scope) (p : Path) (bound : Nat) : Bool :=
  p = .lane && guarded gd g set ≠ 0
    && (!lanesDone x k full false (wide sc)
      || (wide sc && x.outb.any fun a => a.team = g.team && a.grid = g.grid && a.id < bound))

/-! ## The plan of an issue -/

/-- What an issue opportunity comes to: nothing yet (the core drains the stores of some lanes, or those that an XFENCE
follows); a state without a word; a
word that traps before its execution; or a word. -/
inductive IssuePlan where
  | hold (drain : Mask) (fence : Option Nat := none)
  | pass (s : State)
  | done (s : State)
  | run (i : Instr) (s : State)
  deriving DecidableEq, Repr

/-- A set's decoded word, unless its registers, its unit, an issue slot or its own conditions make it wait: no candidate
yet (R134, R167). (log 77: DEDUCED, safe) -/
def planDecoded (s s1 : State) (c k : Nat) (g : Grp) (set : Mask) (w : Nat) (i : Instr) (taken : Bool) : IssuePlan :=
  let x := coreAt s c
  let u := unitsAt x (k / 8)
  let n := unitNeed s c g set w i
  if i.uses.any (regBusy x k g set) || maskBusy g i then .hold 0
  else if !unitFree u s.clock n || !slotsFree u s.clock k n then .hold g.draining g.fence
  else if entriesShort s c g (activeLanes w i g set) i then .hold 0
  else
    let bound := g.fence.getD s.nextId
    let fenced := match i with
      | .xfence gd sc p _ => xfenceWaits x k g set gd sc p bound
      | _ => false
    if fenced then .hold full (some bound)
    else match wordHold x k g set i (mailRoom x 1) with
      | some m => .hold m
      | none => .run i (enter s1 c k set taken n)

/-- The word at the issue set's PC, in a state whose group is in its tack. (log 40: DEDUCED, unsafe) (log 77: DEDUCED,
safe) -/
def planWord (s : State) (c k : Nat) (g : Grp) (set : Mask) (pc : Dword) : IssuePlan :=
  if !slotsFree (unitsAt (coreAt s c) (k / 8)) s.clock k .none then .hold g.draining g.fence
  else match fetchAt s c g pc.toNat with
    | .fault => .done (fetchFault (enter s c k set false .none) pc.toNat)
    | .poison pa => .done (fetchPoison (enter s c k set false .none) pa)
    | .word w free =>
      let s1 := { s with freeCount := s.freeCount + free }
      match decode w with
      | none => .done (trap (enter s1 c k set false .none) 0x01 set 0 0)
      | some i =>
        if !i.inScal g.scal then .done (trap (enter s1 c k set false .none) 0x01 set 0 0)
        else planDecoded s s1 c k g set w i (isTransfer i && activeLanes w i g set ≠ 0)

/-- A repeat state ends, and its lanes go on at the word where they stand. -/
def leaveRep (s : State) (c k : Nat) : State := modGrp s c k fun g => { g with rep := none }

/-- The word of a repeat state that an image held is fetched; one that may not be repeated any more is an ordinary
word, so that no repeated issue raises ILLEGAL (R45, R99). (log 39: DEDUCED, unsafe) -/
def refetchRep (s : State) (c k : Nat) (g : Grp) (r : RepState) : IssuePlan :=
  let pc := ((lowest r.set).map fun l => (laneAt g l).pc).getD 0
  match fetchAt s c g pc.toNat with
  | .fault => .done (fetchFault (enter s c k r.set false .none) pc.toNat)
  | .poison pa => .done (fetchPoison (enter s c k r.set false .none) pa)
  | .word w free =>
    let s1 := { s with freeCount := s.freeCount + free }
    .pass (if repOk g w r.count r.d r.a r.b r.c then modGrp s1 c k fun g => { g with rep := some { r with word := some w } }
      else leaveRep s1 c k)

/-- Issue `r.next` of a repeated word: the word that REP examined, stepped (R44, R99). (log 39: DEDUCED, unsafe) -/
def planRep (s : State) (c k : Nat) (g : Grp) (r : RepState) : IssuePlan :=
  match r.word with
  | none => refetchRep s c k g r
  | some v =>
    let w := stepWord v (stepVal r.d) (stepVal r.a) (stepVal r.b) (stepVal r.c) r.next
    match decode w with
    | none => .pass (leaveRep s c k)
    | some i => planDecoded s s c k g r.set w i false

/-- An issue opportunity of the group in slot `k` of core `c`, for which no other group's claim stands. (log 87: DEDUCED,
safe) -/
def planGroup (s : State) (c k : Nat) : IssuePlan :=
  match grpAt s c k with
  | none => .hold 0
  | some g0 =>
    if !running g0 then .hold g0.draining g0.fence
    else
      let s1 := wakeGroup s c k
      match grpAt s1 c k with
      | none => .pass s1
      | some g =>
        if !running g then .pass s1
        else if !g.causes.isEmpty then .pass (takeHeld s1 c k g)
        else match g.rep with
          | some r =>
            match planRep s1 c k g r with
            | .run _ _ => .run (.repIssue c k) s1
            | p => p
          | none =>
            let ch := chooseSet g
            match lowest ch.2 with
            | none => if waitMask g isCtxs ≠ 0 then .pass s1 else .hold g.draining g.fence
            | some l => planWord (setGrp s1 c k (some ch.1)) c k ch.1 ch.2 (laneAt ch.1 l).pc

/-- A core's slots in the order of R134: the supervisor, then by class, then by age. (log 5: DESIGN CHOICE, unsafe;
87: DEDUCED, safe) -/
def issueOrder (x : Core) : List Nat :=
  0 :: [7, 6, 5, 4, 3, 2, 1, 0].flatMap fun p =>
    x.ages.filter fun k => k ≠ 0 && (match grpIn x k with | some g => g.prio = p | none => false)

/-- Whether a word's meaning answers that it waits. -/
def waitsOf (o : Out) : Bool :=
  match o with
  | .next t => t.cur.waits
  | _ => false

/-- Whether a word would wait at its issue, for a refill, for bytes that it takes at once, or for a window block: no candidate yet
(R134). -/
def wouldWait (i : Instr) (s : State) : Bool :=
  match i with
  | .ret g l => waitsOf (execRet g l s)
  | .lnch g d a => waitsOf (execLnch g d a s)
  | .cpy g a => waitsOf (execCpy g a s)
  | .cpyg g a b => waitsOf (execCpyg g a b s)
  | .tldi g j a => waitsOf (execTldi g j a s)
  | .bari g a => waitsOf (execBari g a s)
  | .barx g a b => waitsOf (execBarx g a b s)
  | .barw g a b => waitsOf (execBarw g a b s)
  | .bart g p a b => waitsOf (execBart g p a b s)
  | .mboxPop g d a => waitsOf (execMboxPop g d a s)
  | _ => false

/-- Whether a plan is a candidate's: a word that issues. -/
def IssuePlan.issues : IssuePlan → Bool
  | .hold .. | .pass _ => false
  | .done _ => true
  | .run i t => !wouldWait i t

/-- The groups of a partition that come before group `k` in the order of R134. -/
def groupsBefore (x : Core) (k : Nat) : List Nat :=
  ((issueOrder x).takeWhile (· ≠ k)).filter fun j => j / 8 = k / 8

/-- Whether a candidate of its partition comes before group `k` (R134). -/
def outranked (s : State) (c k : Nat) : Bool := (groupsBefore (coreAt s c) k).any fun j => (planGroup s c j).issues

/-- An issue opportunity of the group in slot `k` of core `c`: its word issues unless a candidate of its partition
comes before it (R134). (log 87: DEDUCED, safe) -/
def planIssue (s : State) (c k : Nat) : IssuePlan :=
  let p := planGroup s c k
  if p.issues && outranked s c k then
    .hold (((grpAt s c k).map (·.draining)).getD 0) (((grpAt s c k).map (·.fence)).getD none)
  else p

/-- Nothing issues yet: the core drains the stores of some lanes, or those that an XFENCE follows. -/
def holdGroup (s : State) (c k : Nat) (m : Mask) (f : Option Nat) : State := modGrp s c k fun g => { g with draining := m, fence := f }

/-- TACK: a tack begins (R5, R83). -/
def evTack (c k : Nat) (s : State) : Option State :=
  match grpAt s c k with
  | none => none
  | some g =>
    if !running g || g.rep.isSome || g.tack.isSome || !starving g then none
    else some (setGrp s c k (some (beginTack g)))

/-- TACK. -/
def execTack (c k : Nat) (s : State) : Out := stepOr s (evTack c k s)

end Sys2Proof.Machine
end

