-- ==== Sys2Proof/Machine/Packed.lean ====
section
/-! DEFINITION. Packed integers, hash and string forms of a lane (05 R123 to R129). -/

namespace Sys2Proof.Machine

/-- DP2 (R123, R71). -/
def execDp2 (g : Guard) (t : Ty16) (sat : Bool) (d : Reg) (a b c : Operand) (s : State) : Out :=
  aluWord (.dp2 g t sat d a b c) (some (d, 1)) (fun e => .ofPair (aluDp2 t sat (opI e 1 a) (opI e 1 b) (opI e 1 c))) s

/-- DP4 (R123, R71). -/
def execDp4 (g : Guard) (t : Ty8) (sat : Bool) (d : Reg) (a b c : Operand) (s : State) : Out :=
  aluWord (.dp4 g t sat d a b c) (some (d, 1)) (fun e => .ofPair (aluDp4 t sat (opI e 1 a) (opI e 1 b) (opI e 1 c))) s

/-- PADD2 (R123, R124). -/
def execPadd2 (g : Guard) (t : Ty16) (sat : Bool) (d : Reg) (a b : Operand) (s : State) : Out :=
  aluWord (.padd2 g t sat d a b) (some (d, 1)) (fun e => .ofPair (aluPadd2 t sat (opI e 1 a) (opI e 1 b))) s

/-- PSUB2 (R123, R124). -/
def execPsub2 (g : Guard) (t : Ty16) (sat : Bool) (d : Reg) (a b : Operand) (s : State) : Out :=
  aluWord (.psub2 g t sat d a b) (some (d, 1)) (fun e => .ofPair (aluPsub2 t sat (opI e 1 a) (opI e 1 b))) s

/-- PMAX2 (R123). -/
def execPmax2 (g : Guard) (t : Ty16) (d : Reg) (a b : Operand) (s : State) : Out :=
  aluWord (.pmax2 g t d a b) (some (d, 1)) (fun e => .ofNat (aluPmax2 t (opI e 1 a) (opI e 1 b))) s

/-- PMIN2 (R123). -/
def execPmin2 (g : Guard) (t : Ty16) (d : Reg) (a b : Operand) (s : State) : Out :=
  aluWord (.pmin2 g t d a b) (some (d, 1)) (fun e => .ofNat (aluPmin2 t (opI e 1 a) (opI e 1 b))) s

/-- SHRND (R125). -/
def execShrnd (g : Guard) (t : NarrowTy) (src64 : Bool) (sat : Bool) (d : Reg) (a b : Operand) (s : State) : Out :=
  aluWord (.shrnd g t src64 sat d a b) (some (d, 1)) (fun e => .ofPair (aluShrnd t src64 sat (opI e (regs12 src64) a) (opI e 1 b))) s

/-- PACK (R126). -/
def execPack (g : Guard) (t : Ty16) (sat : Bool) (d : Reg) (a b : Operand) (s : State) : Out :=
  aluWord (.pack g t sat d a b) (some (d, 1)) (fun e => .ofPair (aluPack t sat (opI e 1 a) (opI e 1 b))) s

/-- SAD4 (R123). -/
def execSad4 (g : Guard) (d : Reg) (a b c : Operand) (s : State) : Out :=
  aluWord (.sad4 g d a b c) (some (d, 1)) (fun e => .ofNat (aluSad4 (opI e 1 a) (opI e 1 b) (opI e 1 c))) s

/-- HASH (R74, R127). -/
def execHash (g : Guard) (d : Reg) (a : Operand) (s : State) : Out :=
  aluWord (.hash g d a) (some (d, 1)) (fun e => .ofNat (hash32 (opI e 1 a))) s

/-- CRC (R74, R127). -/
def execCrc (g : Guard) (d : Reg) (a b : Operand) (s : State) : Out :=
  aluWord (.crc g d a b) (some (d, 1)) (fun e => .ofNat (crcStep (opI e 1 a) (opI e 1 b))) s

/-- SCMP (R129). -/
def execScmp (g : Guard) (d : Reg) (a b c : Operand) (k : PReg) (s : State) : Out :=
  aluWord (.scmp g d a b c k) (some (d, 1)) (fun e => let r := aluScmp (opI e 1 a) (opI e 1 b) (opI e 1 c)
    .withPred k r.1 r.2) s

/-- SEQM (R128). -/
def execSeqm (g : Guard) (d : Reg) (a b : Operand) (s : State) : Out :=
  aluWord (.seqm g d a b) (some (d, 1)) (fun e => .ofNat (aluSeqm (opI e 1 a) (opI e 1 b))) s

/-- SFOLD (R128). -/
def execSfold (g : Guard) (up : Bool) (d : Reg) (a : Operand) (s : State) : Out :=
  aluWord (.sfold g up d a) (some (d, 1)) (fun e => .ofNat (aluSfold up (opI e 1 a))) s

end Sys2Proof.Machine
end

