-- ==== Sys2Proof/Machine/Repeat.lean ====
section
/-! DEFINITION. The repeated word of REP (02 R43 to R45; 04 R98, R99). -/

namespace Sys2Proof.Machine

/-- One issue of a repeated word (R98: only these may be repeated). (log 39: DEDUCED, unsafe) -/
def runRepeated (i : Instr) (s : State) : Out :=
  match i with
  | .iadd g t sat d a b => execIadd g t sat d a b s
  | .isub g t sat d a b => execIsub g t sat d a b s
  | .iaddc g t d a b c k => execIaddc g t d a b c k s
  | .imul g t sat d a b => execImul g t sat d a b s
  | .imulh g t d a b => execImulh g t d a b s
  | .imad g t sat d a b c => execImad g t sat d a b c s
  | .imadw g t d a b c => execImadw g t d a b c s
  | .ineg g t sat d a => execIneg g t sat d a s
  | .iabs g t sat d a => execIabs g t sat d a s
  | .imin g t d a b => execImin g t d a b s
  | .imax g t d a b => execImax g t d a b s
  | .iclamp g t d a b c => execIclamp g t d a b c s
  | .lea g t d a b sh => execLea g t d a b sh s
  | .and g t d a b => execAnd g t d a b s
  | .or g t d a b => execOr g t d a b s
  | .xor g t d a b => execXor g t d a b s
  | .andn g t d a b => execAndn g t d a b s
  | .shl g t d a b => execShl g t d a b s
  | .shr g t d a b => execShr g t d a b s
  | .sar g t d a b => execSar g t d a b s
  | .rol g t d a b => execRol g t d a b s
  | .funnel g t d a b c => execFunnel g t d a b c s
  | .popc g t d a => execPopc g t d a s
  | .clz g t d a => execClz g t d a s
  | .ctz g t d a => execCtz g t d a s
  | .brev g t d a => execBrev g t d a s
  | .bfx g t d a b c => execBfx g t d a b c s
  | .bfi g t d a b c => execBfi g t d a b c s
  | .bperm g t d a b c => execBperm g t d a b c s
  | .sel g t d a b neg k => execSel g t d a b neg k s
  | .mov g t d a => execMov g t d a s
  | .movi g ext d imm => execMovi g ext d imm s
  | .fadd g t rm d a b => execFadd g t rm d a b s
  | .fsub g t rm d a b => execFsub g t rm d a b s
  | .fmul g t rm d a b => execFmul g t rm d a b s
  | .ffma g t rm d a b c => execFfma g t rm d a b c s
  | .fmin g t d a b => execFmin g t d a b s
  | .fmax g t d a b => execFmax g t d a b s
  | .frnd g t rm d a => execFrnd g t rm d a s
  | .ffrac g t d a => execFfrac g t d a s
  | .dadd g rm d a b => execDadd g rm d a b s
  | .dsub g rm d a b => execDsub g rm d a b s
  | .dmul g rm d a b => execDmul g rm d a b s
  | .dfma g rm d a b c => execDfma g rm d a b c s
  | .dmin g d a b => execDmin g d a b s
  | .dmax g d a b => execDmax g d a b s
  | .drnd g rm d a => execDrnd g rm d a s
  | .cvt g dst src sat rm d a => execCvt g dst src sat rm d a s
  | .cvtp g p sat rm d a b => execCvtp g p sat rm d a b s
  | .cvtpUnpk g p rm d a => execCvtpUnpk g p rm d a s
  | .frcp g rm d a => execFrcp g rm d a s
  | .frsq g rm d a => execFrsq g rm d a s
  | .fsqrt g rm d a => execFsqrt g rm d a s
  | .fexp2 g rm d a => execFexp2 g rm d a s
  | .flog2 g rm d a => execFlog2 g rm d a s
  | .fsin g rm d a => execFsin g rm d a s
  | .fcos g rm d a => execFcos g rm d a s
  | .ftanh g rm d a => execFtanh g rm d a s
  | .fsgm g rm d a => execFsgm g rm d a s
  | .ferf g rm d a => execFerf g rm d a s
  | .dp2 g t sat d a b c => execDp2 g t sat d a b c s
  | .dp4 g t sat d a b c => execDp4 g t sat d a b c s
  | .padd2 g t sat d a b => execPadd2 g t sat d a b s
  | .psub2 g t sat d a b => execPsub2 g t sat d a b s
  | .pmax2 g t d a b => execPmax2 g t d a b s
  | .pmin2 g t d a b => execPmin2 g t d a b s
  | .shrnd g t src64 sat d a b => execShrnd g t src64 sat d a b s
  | .pack g t sat d a b => execPack g t sat d a b s
  | .sad4 g d a b c => execSad4 g d a b c s
  | .hash g d a => execHash g d a s
  | .crc g d a b => execCrc g d a b s
  | .scmp g d a b c k => execScmp g d a b c k s
  | .seqm g d a b => execSeqm g d a b s
  | .sfold g up d a => execSfold g up d a s
  | .icmp g t cc p a b => execIcmp g t cc p a b s
  | .fcmp g cc p a b => execFcmp g cc p a b s
  | .dcmp g cc p a b => execDcmp g cc p a b s
  | .plop g t d a b => execPlop g t d a b s
  | .pmov g d => execPmov g d s
  | .pmovPw g a => execPmovPw g a s
  | .pmovNz g p a => execPmovNz g p a s
  | .pmovBit g p a b => execPmovBit g p a b s
  | .iadd2 h o => execIadd2 h o s
  | .isub2 h o => execIsub2 h o s
  | .imin2 t h o => execImin2 t h o s
  | .imax2 t h o => execImax2 t h o s
  | .and2 h o => execAnd2 h o s
  | .or2 h o => execOr2 h o s
  | .xor2 h o => execXor2 h o s
  | .shl2 h o => execShl2 h o s
  | .shr2 h o => execShr2 h o s
  | .sar2 h o => execSar2 h o s
  | .mov2 h o => execMov2 h o s
  | .fadd2 rm h o => execFadd2 rm h o s
  | .fmul2 rm h o => execFmul2 rm h o s
  | .fmin2 h o => execFmin2 h o s
  | .fmax2 h o => execFmax2 h o s
  | .padd2h sat h o => execPadd2h sat h o s
  | .nop g => execNop g s
  | .ld g w m d a b off => execLd g w m d a b off s
  | .st g w m d a b off => execSt g w m d a b off s
  | .sld g w m d a b off => execSld g w m d a b off s
  | .atom g op m d a b off => execAtom g op m d a b off s
  | .atomW64 g op m d a b off => execAtomW64 g op m d a b off s
  | .acas g w m d a b off => execAcas g w m d a b off s
  | .lr g w m d a off => execLr g w m d a off s
  | .sc g w m d a b off => execSc g w m d a b off s
  | .pref g scope evict a off => execPref g scope evict a off s
  | .partn g w m d a b => execPartn g w m d a b s
  | _ => .next s

/-- REP_ISSUE: the group in slot `k` of core `c` issues its repeated word once more, unless that word must wait (R99) or another
group comes before it (R134). (log
39: DEDUCED, unsafe) -/
def execRepIssue (c k : Nat) (s : State) : Out :=
  match grpAt s c k with
  | none => .next s
  | some g =>
    match g.rep with
    | none => .next s
    | some r =>
      if !running g || !g.causes.isEmpty || outranked s c k then .next s
      else match planRep s c k g r with
        | .hold .. => .next s
        | .pass t | .done t => .next t
        | .run i t => afterIssue s c k (runRepeated i t)

end Sys2Proof.Machine
end

