-- ==== Sys2Proof/Machine/Schedule.lean ====
section
/-! DEFINITION. Turns: what moves next when the tape is empty (log 1: DESIGN CHOICE, safe), how a fetched helm word runs, and where a word is
placed so that the next step runs it (log 13: DESIGN CHOICE, unsafe). -/

namespace Sys2Proof.Machine

/-! ## The model's own order of turns (log 1: DESIGN CHOICE, safe) -/

/-- An event, where it is allowed. -/
def ifAllowed (i : Instr) (o : Option State) : List Instr := if o.isSome then [i] else []

/-- The allowed events of a core's lane path. -/
def laneEvents (s : State) (c : Nat) : List Instr :=
  let x := coreAt s c
  x.pend.flatMap (fun a => ifAllowed (.satisfy c a.id) (evSatisfy c a.id s) ++ ifAllowed (.buffer c a.id) (evBuffer c a.id s))
  ++ x.outb.flatMap (fun a => ifAllowed (.drain c a.id) (evDrain c a.id s))
  ++ s.homes.flatMap (fun h => ifAllowed (.perform h.grain) (evPerform h.grain s)
      ++ ifAllowed (.ownerSurrender h.grain) (evOwnerSurrender h.grain s))
  ++ (s.outstanding.filter fun o => o.port.isNone && !o.data.isEmpty).flatMap (fun o => ifAllowed (.perform o.pa) (evPerform o.pa s))
  ++ x.wakes.flatMap (fun w => ifAllowed (.watchWake c w.grain) (evWatchWake c w.grain s))
  ++ x.pend.flatMap fun a => match a.place with
      | .glob pa => let n := (homeOf s pa a.gr).grain
                    ifAllowed (.watchPoll c n) (evWatchPoll c n s)
      | .scr .. => []

/-- The allowed events of a team's windows. -/
def windowEvents (s : State) (c t : Nat) : List Instr :=
  [(0 : Fin 4), 1, 2, 3].flatMap fun w =>
    match windowOf s c t w.val with
    | none => []
    | some wn => (List.range wn.blocks.length).flatMap fun b =>
        ifAllowed (.windowFill c t w b) (evWindowFill c t w b s)
        ++ ifAllowed (.windowSurrender c t w b) (evWindowSurrender c t w b s)

/-- The allowed events of a core's engines. -/
def engineEvents (s : State) (c : Nat) : List Instr :=
  let x := coreAt s c
  x.jobs.flatMap (fun j => ifAllowed (.copyWrite c j.id j.next) (evCopyWrite c j.id j.next s)
      ++ ifAllowed (.sweepElement c j.id) (evSweepElement c j.id s))
  ++ ifAllowed (.gather c) (evGather c s) ++ ifAllowed (.matrixStep c) (evMatrixStep c s)
  ++ ifAllowed (.engineGrant c) (evEngineGrant c s) ++ ifAllowed (.tileClear c) (evTileClear c s)

/-- The allowed events of a core's groups and of its supervisor's records. -/
def groupEvents (s : State) (c : Nat) : List Instr :=
  (coreAt s c).ages.flatMap (fun k => ifAllowed (.rendezvousComplete c k) (evRendezvousComplete c k s)
      ++ ifAllowed (.rendezvousTimeout c k) (evRendezvousTimeout c k s)
      ++ ifAllowed (.growingAllotment c k) (evGrowingAllotment c k s))
  ++ ifAllowed (.trapRecordWrite c) (evTrapRecordWrite c s) ++ ifAllowed (.mailboxPost c) (evMailboxPost c s)

/-- The allowed events of commits, anchors and voyages. -/
def commitEvents (s : State) (c : Nat) : List Instr :=
  s.tickets.flatMap (fun t => ifAllowed (.commit t.num) (evCommit t.num s) ++ ifAllowed (.helmCommit t.num) (evHelmCommit t.num s))
  ++ s.anchors.flatMap (fun a => ifAllowed (.anchorGrant a.k) (evAnchorGrant a.k s))
  ++ (match (coreAt s c).voyage with
      | none => []
      | some v =>
        (List.range v.held.length).flatMap (fun i => ifAllowed (.voyagerSend c i) (evVoyagerSend c i s))
        ++ (List.range v.flight.length).flatMap (fun i => ifAllowed (.voyagerDelivery c i) (evVoyagerDelivery c i s)))
  ++ ifAllowed (.harbourDrain c) (evHarbourDrain c s) ++ ifAllowed (.muster c) (evMuster c s)

/-- The first allowed event at a core. -/
def firstEvent (s : State) (c : Nat) : Option Instr :=
  (laneEvents s c ++ (coreAt s c).teams.flatMap (fun t => windowEvents s c t.num) ++ engineEvents s c ++ groupEvents s c
    ++ commitEvents s c).head?

/-- Whether a group's turn would change anything. -/
def wouldIssue (s : State) (c k : Nat) : Bool :=
  match planIssue s c k, grpAt s c k with
  | .hold m f, some g => g.draining ≠ m || g.fence ≠ f
  | .hold .., none => false
  | _, _ => true

/-! ## What happens at its own clock -/

/-- The first voyager of a berth that has waited MUSTER ticks (R262). -/
def waitedVoyager (s : State) (x : Core) : Option Berthed :=
  x.voyage.bind fun v => v.berth.find? fun b => b.since + v.chart.muster ≤ meridian s

/-- A due event of a core: a rendezvous that completes or reaches its limit (R145, R147), a store 2,048 clocks after its issue (R284,
R318), a voyager that has waited MUSTER ticks, a batch that can be mustered (R262). -/
def dueAt (s : State) (c : Nat) : Option Instr :=
  let x := coreAt s c
  (x.ages.findSome? fun k =>
    if (evRendezvousComplete c k s).isSome then some (.rendezvousComplete c k)
    else if (evRendezvousTimeout c k s).isSome then some (.rendezvousTimeout c k)
    else none) <|>
  ((x.pend.find? fun a => !isLoadLike a && a.since + 2048 ≤ s.clock && (evBuffer c a.id s).isSome).map fun a => .buffer c a.id) <|>
  ((x.outb.find? fun a => a.since + 2048 ≤ s.clock && (evDrain c a.id s).isSome).map fun a => .drain c a.id) <|>
  ((waitedVoyager s x).map fun b => .musterTimeout c b.v.pc) <|>
  (if (evMuster c s).isSome then some (.muster c) else none)

/-- A port by its number. -/
def portNum (p : Nat) : Fin 4 := ⟨p % 4, Nat.mod_lt _ (by decide)⟩

/-- A due event of the I/O die: a back-invalidate or a request that has been without its answer for CTO (R356, R365); the update
of the lifetime counts, once a second (R376). -/
def dueOutside (s : State) : Option Instr :=
  ((s.hostLines.find? (birspLate s)).map fun l => Instr.linkDown (portNum l.port)) <|>
  ((s.outstanding.find? fun o => (evCompletionTimeout o.id s).isSome).map fun o => Instr.completionTimeout o.id) <|>
  (if (evLifetimeUpdate s).isSome then some .lifetimeUpdate else none)

/-- A helm core's store that is to drain: the bound of a lane's store holds for it (R284, R347). (log 117: DESIGN CHOICE,
unsafe) -/
def dueHelm (s : State) (h : Nat) : Option Instr :=
  match s.helms[h]? with
  | none => none
  | some x => (x.outb.find? fun a => a.since + 2048 ≤ s.clock && (evHelmDrain h a.id s).isSome).map fun a => .drain (Config.cores + h) a.id

/-- The first event that is due now: a write at the head of its home's queue performs before a read is served (R317). -/
def dueNow (s : State) : Option Instr :=
  ((s.homes.find? fun h => !h.queue.isEmpty && (evPerform h.grain s).isSome).map fun h => Instr.perform h.grain) <|>
  (List.range s.cores.length).findSome? (dueAt s) <|> (List.range s.helms.length).findSome? (dueHelm s) <|> dueOutside s

/-- The clocks at which an event of a core comes due. -/
def coreDeadlines (now : Nat) (x : Core) : List Nat :=
  (x.ages.flatMap fun k => match grpIn x k with
    | none => []
    | some g => ((g.rdv.toList ++ g.bars).map fun r => now + (g.rdvz.toNat - r.count now)) ++ g.outs.map (·.writeAt))
  ++ (x.pend.filter fun a => !isLoadLike a).map (·.since + 2048)
  ++ x.outb.map (·.since + 2048)
  ++ match x.voyage with
    | none => []
    | some v => v.berth.map fun b => Config.clocksPerTick * (b.since + v.chart.muster)

/-- The clocks at which an event of the I/O die comes due. -/
def outsideDeadlines (s : State) : List Nat :=
  (s.hostLines.filter (·.asked)).map (fun l => l.since + portCto s l.port)
    ++ s.outstanding.map (fun o => o.since + timeoutOf s o) ++ [s.updated + clocksPerSecond]

/-- The first clock after the present one, and no later than `dt` clocks from it, at which an event comes due. -/
def nextDue (s : State) (dt : Nat) : Option Nat :=
  let ds := s.cores.flatMap (coreDeadlines s.clock) ++ (s.helms.flatMap fun x => x.outb.map fun a => a.since + 2048) ++ outsideDeadlines s
    ++ s.homes.flatMap fun h => if h.queue.isEmpty then [] else [performAt h]
  ((ds.filter fun d => s.clock < d && d ≤ s.clock + dt).min?)

/-- The clock moves on to `d`; the next turn of the tape keeps the rest of its time. -/
def passTo (s : State) (d : Nat) : State :=
  { s with clock := d
           tape := match s.tape with
             | [] => []
             | t :: r => { t with dt := s.clock + t.dt - d } :: r }

/-- The turn that the model takes when the tape is empty. (log 1: DESIGN CHOICE, safe) -/
def ownTurn (s : State) : Turn :=
  match firstEvent s s.focus with
  | some i => { dt := 1, act := .event i }
  | none =>
    match (issueOrder (coreAt s s.focus)).find? (wouldIssue s s.focus) with
    | some k => { dt := 1, act := .issue s.focus k }
    | none => { dt := 1, act := .idle }

/-- The next turn. (log 1: DESIGN CHOICE, safe) (log 118: DESIGN CHOICE, safe) -/
def turnOf (s : State) : Turn := s.tape.headD (ownTurn s)

/-- The clock at a turn, which leaves the tape. -/
def enterTurn (s : State) (t : Turn) : State := { s with tape := s.tape.tail, clock := s.clock + t.dt }

/-! ## Injected errors that a step meets (R375) -/

/-- The code words of 64 bits that some bytes of a place touch: of SRAM, or of the data of an L2 slice. -/
def wordsAt (s : State) (p : Place) (n : Nat) : List CodeWord :=
  match p with
  | .scr c t o => [o / 8 * 8, (o + n - 1) / 8 * 8].map fun a => { unit := c, kind := 2, owner := t, addr := sramBase (coreAt s c) t + a }
  | .glob pa => [pa / 8 * 8, (pa + n - 1) / 8 * 8].map fun a => { unit := 256 + homeNow s a, kind := 7, owner := 0, addr := a }

/-- The code words of the vector registers that an operand denotes in some lanes. -/
def wordsOfUse (c k : Nat) (g : Grp) (m : Mask) (u : Use) : List CodeWord :=
  match u.op with
  | .v n => (lanesOf m).flatMap fun l => (List.range u.n).map fun i =>
      { unit := c, kind := 1, owner := k, addr := 64 * ((laneAt g l).base + n.val + i) + l }
  | _ => []

/-- The word that a group issues at its turn, with the state in which it does. -/
def issuedWord (s : State) (c k : Nat) : Option (Instr × State) :=
  match planIssue s c k with
  | .run (.repIssue _ _) t =>
    (match (grpAt t c k).bind fun g => g.rep.map fun r => planRep t c k g r with
      | some (.run i t1) => some (i, t1)
      | _ => none)
  | .run i t => some (i, t)
  | _ => none

/-- The code words that the operands of a group's word denote, those read or those written. -/
def operandWords (s : State) (c k : Nat) (wr : Bool) : List CodeWord :=
  match issuedWord s c k with
  | none => []
  | some (i, t) =>
    match grpAt t c k with
    | none => []
    | some g => (i.uses.filter fun u => u.wr = wr).flatMap (wordsOfUse c k g (guarded (i.guard.getD Guard.always) g t.cur.mask))

/-- A pending access of a core that its event satisfies. -/
def satisfied (s : State) (c id : Nat) : Option Acc := if (evSatisfy c id s).isSome then (coreAt s c).pend.find? (·.id = id) else none

/-- The code words that a turn or an event reads: the registers of a word's operands, the word of a load; with the
group's context. (log 72: DEDUCED, unsafe) -/
def readsOf (s : State) (a : Act) : List CodeWord × Nat :=
  let ctx (c k : Nat) : Nat := ((grpAt s c k).map fun g => logCtx g k).getD 0xFFFF
  match a with
  | .issue c k | .event (.repIssue c k) => (operandWords s c k false, ctx c k)
  | .event (.satisfy c id) =>
    (match satisfied s c id with
      | some a => (wordsAt s (servedAt c (coreAt s c) a.place) a.n, ctx c a.slot)
      | none => ([], 0xFFFF))
  | _ => ([], 0xFFFF)

/-- The code words that a turn or an event wrote, whether their bits changed or not: the registers of a word without a
pending result, of a load that it satisfied; the bytes of a store. (log 72: DEDUCED, unsafe) -/
def writesOf (s : State) (a : Act) (t : State) : List CodeWord :=
  match a with
  | .issue c k | .event (.repIssue c k) =>
    (match issuedWord s c k, grpAt t c k with
      | some (i, _), some g =>
        if g.stop.isSome || t.cur.waits || (i.uses.any fun u => u.wr && regBusy (coreAt t c) k g t.cur.mask u) then []
        else operandWords s c k true
      | _, _ => [])
  | .event (.satisfy c id) =>
    (match satisfied s c id with
      | some a =>
        (match a.dst with
          | .v p w => (List.range w).map fun i => { unit := c, kind := 1, owner := a.slot, addr := 64 * (p + i) + a.lane }
          | _ => [])
        ++ (if isAtomic a then wordsAt s (servedAt c (coreAt s c) a.place) a.n else [])
      | none => [])
  | .event (.buffer c id) =>
    (match (coreAt s c).pend.find? (·.id = id) with
      | some a => (match servedAt c (coreAt s c) a.place with
          | .scr d u o => if (evBuffer c id s).isSome then wordsAt s (.scr d u o) a.n else []
          | .glob _ => [])
      | none => [])
  | .event (.perform n) =>
    (match (s.homes.find? (·.grain = n)).bind (·.queue.head?) with
      | some w => if !w.rmw && !t.homes.any (fun h => h.grain = n && h.queue.head? = some w) then wordsAt s (.glob w.pa) w.bytes.length else []
      | none => [])
  | _ => []

/-- An injected error stands in a code word that a turn or an event reads: it is found as a natural one. (log 72:
DEDUCED, unsafe) -/
def findInjected (s : State) (a : Act) : State :=
  if s.planted.isEmpty then s
  else
    let r := readsOf s a
    match s.planted.find? fun p => r.1.contains (wordOf p) with
    | none => s
    | some p =>
      let ctx := BitVec.ofNat 16 r.2
      let o := if p.flips = 1 then evCorrectedError p.unit p.kind p.addr 0 ctx s
        else evUncorrectedError p.unit p.kind p.addr (Config.freeWord s.freeCount).toNat ctx { s with freeCount := s.freeCount + 1 }
      o.getD s

/-- What a step runs, and the state in which it does. -/
def ranAct (s : State) : State × Act :=
  match dueNow s with
  | some i => (s, .event i)
  | none => if (nextDue s (turnOf s).dt).isSome then (s, .idle) else (enterTurn s (turnOf s), (turnOf s).act)

/-- What a step leaves of injected errors (R375). -/
def injected (s t : State) : State :=
  if t.planted.isEmpty && !t.einj.getLsbD 63 then t
  else
    let r := ranAct s
    placeArmed s t (writesOf r.1 r.2 t)

/-! ## A helm core's turn (R312, R313) -/

/-- The word of the helm extension that a helm core fetches. -/
def helmInstr (s : State) (h : Nat) : Option Instr :=
  match s.helms[h]? with
  | none => none
  | some x =>
    match helmFetch s h x with
    | .word w => decodeHelm w
    | _ => none

/-- A helm core's turn without such a word. -/
def helmTurn (s : State) (h : Nat) : Out :=
  match s.helms[h]? with
  | none => .next s
  | some x => helmOther s h x (helmFetch s h x)

/-- The helm core of a turn is current, and its fetch is noted. -/
def enterHelm (s : State) (h : Nat) : State :=
  let s1 := match s.helms[h]? with
    | some x => noteFetch s x
    | none => s
  { s1 with cur := { s1.cur with core := h } }

/-! ## Placing a word (log 13: DESIGN CHOICE, unsafe) -/

/-- Where a group fetches its next word. -/
def fetchPlace (s : State) (c k : Nat) : Option Nat :=
  match grpAt s c k with
  | none => none
  | some g =>
    match translate s c g (nextPc g).toNat .fetch with
    | .ok t => match t.place with
      | .glob pa => some pa
      | .scr .. => none
    | .bad _ => none

/-- The vector word `w` where the focus core's next group fetches, and that group's turn. (log 13: DESIGN CHOICE,
unsafe) -/
def placeWord (s : State) (w : Nat) : State :=
  match (issueOrder (coreAt s s.focus)).find? fun k => (fetchPlace s s.focus k).isSome with
  | none => s
  | some k =>
    match fetchPlace s s.focus k with
    | none => s
    | some pa => { s with mem := writeBytes s.mem pa (leBytes 8 w), tape := [{ dt := 0, act := .issue s.focus k }] }

/-- The helm word `w` where helm core 0 fetches, and its turn. (log 13: DESIGN CHOICE, unsafe) -/
def placeHelmWord (s : State) (w : Nat) : State :=
  match s.helms with
  | [] => s
  | x :: _ => { s with mem := writeBytes s.mem x.regs.pc.toNat (leBytes 4 w), tape := [{ dt := 0, act := .helm 0 }] }

end Sys2Proof.Machine
end

