-- ==== Sys2Proof/Machine/Dispatch.lean ====
section
/-! DEFINITION. The meaning of every instruction: one arm per row of the opcode table. -/

namespace Sys2Proof.Machine

def exec (i : Instr) (s : State) : Host.Outcome State Fault Refusal :=
  match i with
  | .iadd g t sat d a b => Sys2Proof.Machine.execIadd g t sat d a b s
  | .isub g t sat d a b => Sys2Proof.Machine.execIsub g t sat d a b s
  | .iaddc g t d a b c k => Sys2Proof.Machine.execIaddc g t d a b c k s
  | .imul g t sat d a b => Sys2Proof.Machine.execImul g t sat d a b s
  | .imulh g t d a b => Sys2Proof.Machine.execImulh g t d a b s
  | .imad g t sat d a b c => Sys2Proof.Machine.execImad g t sat d a b c s
  | .imadw g t d a b c => Sys2Proof.Machine.execImadw g t d a b c s
  | .ineg g t sat d a => Sys2Proof.Machine.execIneg g t sat d a s
  | .iabs g t sat d a => Sys2Proof.Machine.execIabs g t sat d a s
  | .imin g t d a b => Sys2Proof.Machine.execImin g t d a b s
  | .imax g t d a b => Sys2Proof.Machine.execImax g t d a b s
  | .iclamp g t d a b c => Sys2Proof.Machine.execIclamp g t d a b c s
  | .lea g t d a b sh => Sys2Proof.Machine.execLea g t d a b sh s
  | .and g t d a b => Sys2Proof.Machine.execAnd g t d a b s
  | .or g t d a b => Sys2Proof.Machine.execOr g t d a b s
  | .xor g t d a b => Sys2Proof.Machine.execXor g t d a b s
  | .andn g t d a b => Sys2Proof.Machine.execAndn g t d a b s
  | .shl g t d a b => Sys2Proof.Machine.execShl g t d a b s
  | .shr g t d a b => Sys2Proof.Machine.execShr g t d a b s
  | .sar g t d a b => Sys2Proof.Machine.execSar g t d a b s
  | .rol g t d a b => Sys2Proof.Machine.execRol g t d a b s
  | .funnel g t d a b c => Sys2Proof.Machine.execFunnel g t d a b c s
  | .popc g t d a => Sys2Proof.Machine.execPopc g t d a s
  | .clz g t d a => Sys2Proof.Machine.execClz g t d a s
  | .ctz g t d a => Sys2Proof.Machine.execCtz g t d a s
  | .brev g t d a => Sys2Proof.Machine.execBrev g t d a s
  | .bfx g t d a b c => Sys2Proof.Machine.execBfx g t d a b c s
  | .bfi g t d a b c => Sys2Proof.Machine.execBfi g t d a b c s
  | .bperm g t d a b c => Sys2Proof.Machine.execBperm g t d a b c s
  | .sel g t d a b neg k => Sys2Proof.Machine.execSel g t d a b neg k s
  | .mov g t d a => Sys2Proof.Machine.execMov g t d a s
  | .movi g ext d imm => Sys2Proof.Machine.execMovi g ext d imm s
  | .fadd g t rm d a b => Sys2Proof.Machine.execFadd g t rm d a b s
  | .fsub g t rm d a b => Sys2Proof.Machine.execFsub g t rm d a b s
  | .fmul g t rm d a b => Sys2Proof.Machine.execFmul g t rm d a b s
  | .ffma g t rm d a b c => Sys2Proof.Machine.execFfma g t rm d a b c s
  | .fmin g t d a b => Sys2Proof.Machine.execFmin g t d a b s
  | .fmax g t d a b => Sys2Proof.Machine.execFmax g t d a b s
  | .frnd g t rm d a => Sys2Proof.Machine.execFrnd g t rm d a s
  | .ffrac g t d a => Sys2Proof.Machine.execFfrac g t d a s
  | .dadd g rm d a b => Sys2Proof.Machine.execDadd g rm d a b s
  | .dsub g rm d a b => Sys2Proof.Machine.execDsub g rm d a b s
  | .dmul g rm d a b => Sys2Proof.Machine.execDmul g rm d a b s
  | .dfma g rm d a b c => Sys2Proof.Machine.execDfma g rm d a b c s
  | .dmin g d a b => Sys2Proof.Machine.execDmin g d a b s
  | .dmax g d a b => Sys2Proof.Machine.execDmax g d a b s
  | .drnd g rm d a => Sys2Proof.Machine.execDrnd g rm d a s
  | .cvt g dst src sat rm d a => Sys2Proof.Machine.execCvt g dst src sat rm d a s
  | .cvtp g p sat rm d a b => Sys2Proof.Machine.execCvtp g p sat rm d a b s
  | .cvtpUnpk g p rm d a => Sys2Proof.Machine.execCvtpUnpk g p rm d a s
  | .frcp g rm d a => Sys2Proof.Machine.execFrcp g rm d a s
  | .frsq g rm d a => Sys2Proof.Machine.execFrsq g rm d a s
  | .fsqrt g rm d a => Sys2Proof.Machine.execFsqrt g rm d a s
  | .fexp2 g rm d a => Sys2Proof.Machine.execFexp2 g rm d a s
  | .flog2 g rm d a => Sys2Proof.Machine.execFlog2 g rm d a s
  | .fsin g rm d a => Sys2Proof.Machine.execFsin g rm d a s
  | .fcos g rm d a => Sys2Proof.Machine.execFcos g rm d a s
  | .ftanh g rm d a => Sys2Proof.Machine.execFtanh g rm d a s
  | .fsgm g rm d a => Sys2Proof.Machine.execFsgm g rm d a s
  | .ferf g rm d a => Sys2Proof.Machine.execFerf g rm d a s
  | .dp2 g t sat d a b c => Sys2Proof.Machine.execDp2 g t sat d a b c s
  | .dp4 g t sat d a b c => Sys2Proof.Machine.execDp4 g t sat d a b c s
  | .padd2 g t sat d a b => Sys2Proof.Machine.execPadd2 g t sat d a b s
  | .psub2 g t sat d a b => Sys2Proof.Machine.execPsub2 g t sat d a b s
  | .pmax2 g t d a b => Sys2Proof.Machine.execPmax2 g t d a b s
  | .pmin2 g t d a b => Sys2Proof.Machine.execPmin2 g t d a b s
  | .shrnd g t src64 sat d a b => Sys2Proof.Machine.execShrnd g t src64 sat d a b s
  | .pack g t sat d a b => Sys2Proof.Machine.execPack g t sat d a b s
  | .sad4 g d a b c => Sys2Proof.Machine.execSad4 g d a b c s
  | .hash g d a => Sys2Proof.Machine.execHash g d a s
  | .crc g d a b => Sys2Proof.Machine.execCrc g d a b s
  | .scmp g d a b c k => Sys2Proof.Machine.execScmp g d a b c k s
  | .seqm g d a b => Sys2Proof.Machine.execSeqm g d a b s
  | .sfold g up d a => Sys2Proof.Machine.execSfold g up d a s
  | .icmp g t cc p a b => Sys2Proof.Machine.execIcmp g t cc p a b s
  | .fcmp g cc p a b => Sys2Proof.Machine.execFcmp g cc p a b s
  | .dcmp g cc p a b => Sys2Proof.Machine.execDcmp g cc p a b s
  | .plop g t d a b => Sys2Proof.Machine.execPlop g t d a b s
  | .pmov g d => Sys2Proof.Machine.execPmov g d s
  | .pmovPw g a => Sys2Proof.Machine.execPmovPw g a s
  | .pmovNz g p a => Sys2Proof.Machine.execPmovNz g p a s
  | .pmovBit g p a b => Sys2Proof.Machine.execPmovBit g p a b s
  | .iadd2 h o => Sys2Proof.Machine.execIadd2 h o s
  | .isub2 h o => Sys2Proof.Machine.execIsub2 h o s
  | .imin2 t h o => Sys2Proof.Machine.execImin2 t h o s
  | .imax2 t h o => Sys2Proof.Machine.execImax2 t h o s
  | .and2 h o => Sys2Proof.Machine.execAnd2 h o s
  | .or2 h o => Sys2Proof.Machine.execOr2 h o s
  | .xor2 h o => Sys2Proof.Machine.execXor2 h o s
  | .shl2 h o => Sys2Proof.Machine.execShl2 h o s
  | .shr2 h o => Sys2Proof.Machine.execShr2 h o s
  | .sar2 h o => Sys2Proof.Machine.execSar2 h o s
  | .mov2 h o => Sys2Proof.Machine.execMov2 h o s
  | .fadd2 rm h o => Sys2Proof.Machine.execFadd2 rm h o s
  | .fmul2 rm h o => Sys2Proof.Machine.execFmul2 rm h o s
  | .fmin2 h o => Sys2Proof.Machine.execFmin2 h o s
  | .fmax2 h o => Sys2Proof.Machine.execFmax2 h o s
  | .padd2h sat h o => Sys2Proof.Machine.execPadd2h sat h o s
  | .shfl g m seg mode k d a b => Sys2Proof.Machine.execShfl g m seg mode k d a b s
  | .slide g m up w d a b c => Sys2Proof.Machine.execSlide g m up w d a b c s
  | .vote g m mode d a => Sys2Proof.Machine.execVote g m mode d a s
  | .ballot g m d a => Sys2Proof.Machine.execBallot g m d a s
  | .ballotR g m d a => Sys2Proof.Machine.execBallotR g m d a s
  | .gred g m t op rm sat d a => Sys2Proof.Machine.execGred g m t op rm sat d a s
  | .gscan g m t op ex rm sat d a => Sys2Proof.Machine.execGscan g m t op ex rm sat d a s
  | .mskopAnd g m d a b => Sys2Proof.Machine.execMskopAnd g m d a b s
  | .mskopOr g m d a b => Sys2Proof.Machine.execMskopOr g m d a b s
  | .mskopXor g m d a b => Sys2Proof.Machine.execMskopXor g m d a b s
  | .mskopAndn g m d a b => Sys2Proof.Machine.execMskopAndn g m d a b s
  | .mskopNot g m d a => Sys2Proof.Machine.execMskopNot g m d a s
  | .mskopLd g m d a => Sys2Proof.Machine.execMskopLd g m d a s
  | .mskopSt g m d a => Sys2Proof.Machine.execMskopSt g m d a s
  | .mskopLive g m d => Sys2Proof.Machine.execMskopLive g m d s
  | .mskopArrv g m d => Sys2Proof.Machine.execMskopArrv g m d s
  | .tbar g m id b => Sys2Proof.Machine.execTbar g m id b s
  | .cbar g m id b => Sys2Proof.Machine.execCbar g m id b s
  | .rolesw m a b => Sys2Proof.Machine.execRolesw m a b s
  | .bra g live off => Sys2Proof.Machine.execBra g live off s
  | .call g live frame off => Sys2Proof.Machine.execCall g live frame off s
  | .trav g live sel off => Sys2Proof.Machine.execTrav g live sel off s
  | .brx g live a => Sys2Proof.Machine.execBrx g live a s
  | .callx g live a frame => Sys2Proof.Machine.execCallx g live a frame s
  | .travx g live a sel => Sys2Proof.Machine.execTravx g live a sel s
  | .ret g live => Sys2Proof.Machine.execRet g live s
  | .exit g => Sys2Proof.Machine.execExit g s
  | .yield g => Sys2Proof.Machine.execYield g s
  | .bkpt g n => Sys2Proof.Machine.execBkpt g n s
  | .spawn g d a b => Sys2Proof.Machine.execSpawn g d a b s
  | .rep count d a b c => Sys2Proof.Machine.execRep count d a b c s
  | .nop g => Sys2Proof.Machine.execNop g s
  | .ld g w m d a b off => Sys2Proof.Machine.execLd g w m d a b off s
  | .st g w m d a b off => Sys2Proof.Machine.execSt g w m d a b off s
  | .sld g w m d a b off => Sys2Proof.Machine.execSld g w m d a b off s
  | .atom g op m d a b off => Sys2Proof.Machine.execAtom g op m d a b off s
  | .atomW64 g op m d a b off => Sys2Proof.Machine.execAtomW64 g op m d a b off s
  | .acas g w m d a b off => Sys2Proof.Machine.execAcas g w m d a b off s
  | .lr g w m d a off => Sys2Proof.Machine.execLr g w m d a off s
  | .sc g w m d a b off => Sys2Proof.Machine.execSc g w m d a b off s
  | .pref g scope evict a off => Sys2Proof.Machine.execPref g scope evict a off s
  | .partn g w m d a b => Sys2Proof.Machine.execPartn g w m d a b s
  | .waitv g cc w acq scope d a b off => Sys2Proof.Machine.execWaitv g cc w acq scope d a b off s
  | .fence g ord scope d => Sys2Proof.Machine.execFence g ord scope d s
  | .xfence g scope p q => Sys2Proof.Machine.execXfence g scope p q s
  | .wmap g w a b c => Sys2Proof.Machine.execWmap g w a b c s
  | .wflush g un w => Sys2Proof.Machine.execWflush g un w s
  | .wdrop g w => Sys2Proof.Machine.execWdrop g w s
  | .cpy g a => Sys2Proof.Machine.execCpy g a s
  | .cpyg g a b => Sys2Proof.Machine.execCpyg g a b s
  | .bari g a => Sys2Proof.Machine.execBari g a s
  | .barx g a b => Sys2Proof.Machine.execBarx g a b s
  | .barw g a b => Sys2Proof.Machine.execBarw g a b s
  | .bart g d a b => Sys2Proof.Machine.execBart g d a b s
  | .hwait g d h => Sys2Proof.Machine.execHwait g d h s
  | .htest g d h => Sys2Proof.Machine.execHtest g d h s
  | .hcan g h => Sys2Proof.Machine.execHcan g h s
  | .tswp g op h k b => Sys2Proof.Machine.execTswp g op h k b s
  | .tldi g k a => Sys2Proof.Machine.execTldi g k a s
  | .macq g => Sys2Proof.Machine.execMacq g s
  | .mrel g => Sys2Proof.Machine.execMrel g s
  | .mma g h t ka kb ga gb ovw a b c => Sys2Proof.Machine.execMma g h t ka kb ga gb ovw a b c s
  | .mmag g h t ka kb ga gb ovw a b c => Sys2Proof.Machine.execMmag g h t ka kb ga gb ovw a b c s
  | .mzero g h t b => Sys2Proof.Machine.execMzero g h t b s
  | .mldz g h f t a b => Sys2Proof.Machine.execMldz g h f t a b s
  | .mstz g h f rm sat t a b => Sys2Proof.Machine.execMstz g h f rm sat t a b s
  | .tbegin d n off => Sys2Proof.Machine.execTbegin d n off s
  | .tend => Sys2Proof.Machine.execTend s
  | .tabort g retry u => Sys2Proof.Machine.execTabort g retry u s
  | .tstat g d k => Sys2Proof.Machine.execTstat g d k s
  | .sysc g n d a => Sys2Proof.Machine.execSysc g n d a s
  | .crd g d r => Sys2Proof.Machine.execCrd g d r s
  | .cwr g r a => Sys2Proof.Machine.execCwr g r a s
  | .lnch g d a => Sys2Proof.Machine.execLnch g d a s
  | .sretReply g d a b => Sys2Proof.Machine.execSretReply g d a b s
  | .sretResume g skip d a => Sys2Proof.Machine.execSretResume g skip d a s
  | .sretDrop g d a => Sys2Proof.Machine.execSretDrop g d a s
  | .mboxWait g d => Sys2Proof.Machine.execMboxWait g d s
  | .mboxPop g d a => Sys2Proof.Machine.execMboxPop g d a s
  | .mboxStat g d => Sys2Proof.Machine.execMboxStat g d s
  | .ctxsG g d a b => Sys2Proof.Machine.execCtxsG g d a b s
  | .ctxsT g d a b => Sys2Proof.Machine.execCtxsT g d a b s
  | .ctxlG g d a b => Sys2Proof.Machine.execCtxlG g d a b s
  | .ctxlT g d a b => Sys2Proof.Machine.execCtxlT g d a b s
  | .tinvAll g => Sys2Proof.Machine.execTinvAll g s
  | .tinvPage g a => Sys2Proof.Machine.execTinvPage g a s
  | .htbegin rd => Sys2Proof.Machine.execHtbegin rd s
  | .htend => Sys2Proof.Machine.execHtend s
  | .htabort u => Sys2Proof.Machine.execHtabort u s
  | .htstat rd => Sys2Proof.Machine.execHtstat rd s
  | .repIssue c k => Sys2Proof.Machine.execRepIssue c k s
  | .tack c k => Sys2Proof.Machine.execTack c k s
  | .asyncTrap c k => Sys2Proof.Machine.execAsyncTrap c k s
  | .trapRecordWrite c => Sys2Proof.Machine.execTrapRecordWrite c s
  | .rendezvousComplete c k => Sys2Proof.Machine.execRendezvousComplete c k s
  | .rendezvousTimeout c k => Sys2Proof.Machine.execRendezvousTimeout c k s
  | .growingAllotment c k => Sys2Proof.Machine.execGrowingAllotment c k s
  | .satisfy c id => Sys2Proof.Machine.execSatisfy c id s
  | .buffer c id => Sys2Proof.Machine.execBuffer c id s
  | .drain c id => Sys2Proof.Machine.execDrain c id s
  | .perform n => Sys2Proof.Machine.execPerform n s
  | .expire n => Sys2Proof.Machine.execExpire n s
  | .ownerSurrender n => Sys2Proof.Machine.execOwnerSurrender n s
  | .watchWake c n => Sys2Proof.Machine.execWatchWake c n s
  | .watchPoll c n => Sys2Proof.Machine.execWatchPoll c n s
  | .windowFill c t w blk => Sys2Proof.Machine.execWindowFill c t w blk s
  | .windowSurrender c t w blk => Sys2Proof.Machine.execWindowSurrender c t w blk s
  | .translationWalk c k va => Sys2Proof.Machine.execTranslationWalk c k va s
  | .copyWrite c id e => Sys2Proof.Machine.execCopyWrite c id e s
  | .sweepElement c id => Sys2Proof.Machine.execSweepElement c id s
  | .matrixStep c => Sys2Proof.Machine.execMatrixStep c s
  | .gather c => Sys2Proof.Machine.execGather c s
  | .engineGrant c => Sys2Proof.Machine.execEngineGrant c s
  | .tileClear c => Sys2Proof.Machine.execTileClear c s
  | .commit t => Sys2Proof.Machine.execCommit t s
  | .anchorGrant k => Sys2Proof.Machine.execAnchorGrant k s
  | .expired c k l => Sys2Proof.Machine.execExpired c k l s
  | .helmConflict h line wr => Sys2Proof.Machine.execHelmConflict h line wr s
  | .helmCommit t => Sys2Proof.Machine.execHelmCommit t s
  | .interrupt h => Sys2Proof.Machine.execInterrupt h s
  | .voyagerSend c k => Sys2Proof.Machine.execVoyagerSend c k s
  | .voyagerDelivery c k => Sys2Proof.Machine.execVoyagerDelivery c k s
  | .harbourDrain c => Sys2Proof.Machine.execHarbourDrain c s
  | .musterTimeout c pc => Sys2Proof.Machine.execMusterTimeout c pc s
  | .muster c => Sys2Proof.Machine.execMuster c s
  | .chartAdopt c => Sys2Proof.Machine.execChartAdopt c s
  | .holderLoss c => Sys2Proof.Machine.execHolderLoss c s
  | .mailboxPost c => Sys2Proof.Machine.execMailboxPost c s
  | .callReply c => Sys2Proof.Machine.execCallReply c s
  | .faultServed c => Sys2Proof.Machine.execFaultServed c s
  | .faultRefused c => Sys2Proof.Machine.execFaultRefused c s
  | .invalidate c => Sys2Proof.Machine.execInvalidate c s
  | .launchRequest c => Sys2Proof.Machine.execLaunchRequest c s
  | .storageFailure c => Sys2Proof.Machine.execStorageFailure c s
  | .endTheGrid c => Sys2Proof.Machine.execEndTheGrid c s
  | .null c => Sys2Proof.Machine.execNull c s
  | .fopen c => Sys2Proof.Machine.execFopen c s
  | .fclose c => Sys2Proof.Machine.execFclose c s
  | .fread c => Sys2Proof.Machine.execFread c s
  | .fwrite c => Sys2Proof.Machine.execFwrite c s
  | .fstat c => Sys2Proof.Machine.execFstat c s
  | .print c => Sys2Proof.Machine.execPrint c s
  | .dependenceSatisfied gid k => Sys2Proof.Machine.execDependenceSatisfied gid k s
  | .teamStart die gid q core => Sys2Proof.Machine.execTeamStart die gid q core s
  | .stealRequest die r => Sys2Proof.Machine.execStealRequest die r s
  | .gridComplete gid => Sys2Proof.Machine.execGridComplete gid s
  | .badPageAppend page => Sys2Proof.Machine.execBadPageAppend page s
  | .inboundWrite p addr bytes ro mem => Sys2Proof.Machine.execInboundWrite p addr bytes ro mem s
  | .inboundRead p addr len mem => Sys2Proof.Machine.execInboundRead p addr len mem s
  | .writeAck id => Sys2Proof.Machine.execWriteAck id s
  | .mailboxPostSlot p c bytes => Sys2Proof.Machine.execMailboxPostSlot p c bytes s
  | .helmInterruptWindow h off width val => Sys2Proof.Machine.execHelmInterruptWindow h off width val s
  | .birsp p line data => Sys2Proof.Machine.execBirsp p line data s
  | .hostSnoop line => Sys2Proof.Machine.execHostSnoop line s
  | .cxlGo id => Sys2Proof.Machine.execCxlGo id s
  | .completionTimeout id => Sys2Proof.Machine.execCompletionTimeout id s
  | .linkDown p => Sys2Proof.Machine.execLinkDown p s
  | .portLinkUp p width rate => Sys2Proof.Machine.execPortLinkUp p width rate s
  | .portRetrain p => Sys2Proof.Machine.execPortRetrain p s
  | .fabricPortUp k up => Sys2Proof.Machine.execFabricPortUp k up s
  | .fabricRetrain k => Sys2Proof.Machine.execFabricRetrain k s
  | .epidAssign n => Sys2Proof.Machine.execEpidAssign n s
  | .remoteRequest e addr m k => Sys2Proof.Machine.execRemoteRequest e addr m k s
  | .fabricInvalidation n => Sys2Proof.Machine.execFabricInvalidation n s
  | .dieLoss d => Sys2Proof.Machine.execDieLoss d s
  | .packageLoss e => Sys2Proof.Machine.execPackageLoss e s
  | .orphanComplete => Sys2Proof.Machine.execOrphanComplete s
  | .correctedError u k addr syn ctx => Sys2Proof.Machine.execCorrectedError u k addr syn ctx s
  | .uncorrectedError u k addr syn ctx => Sys2Proof.Machine.execUncorrectedError u k addr syn ctx s
  | .linkReplay u idx failed => Sys2Proof.Machine.execLinkReplay u idx failed s
  | .supervisorStop c => Sys2Proof.Machine.execSupervisorStop c s
  | .logClear u k => Sys2Proof.Machine.execLogClear u k s
  | .errorInject v => Sys2Proof.Machine.execErrorInject v s
  | .lifetimeSelect v => Sys2Proof.Machine.execLifetimeSelect v s
  | .lifetimeUpdate => Sys2Proof.Machine.execLifetimeUpdate s
  | .packageReset => Sys2Proof.Machine.execPackageReset s
  | .registerWrite r v => Sys2Proof.Machine.execRegisterWrite r v s
  | .launchRecordTaken places => Sys2Proof.Machine.execLaunchRecordTaken places s
  | .orderlyShutdown => Sys2Proof.Machine.execOrderlyShutdown s

end Sys2Proof.Machine
end

