-- ==== Sys2Proof/Machine/Step.lean ====
section
/-! DEFINITION. One step of the machine: the next turn of the tape, or the model's own (log 1: DESIGN CHOICE, safe). -/

namespace Sys2Proof.Machine

/-- What a turn does. (log 1: DESIGN CHOICE, safe) -/
def act (s : State) : Act → Host.Outcome State Fault Refusal
  | .idle => .next s
  | .event i => exec i s
  | .issue c k =>
    match planIssue s c k with
    | .hold m f => .next (holdGroup s c k m f)
    | .pass t | .done t => .next (noteStop s c k t)
    | .run i t => afterIssue s c k (exec i t)
  | .helm h =>
    match helmInstr s h with
    | some i => exec i (enterHelm s h)
    | none => helmTurn s h

/-- A turn or an event and what it leaves of an injected error (R375). -/
def afterAct (s : State) (o : Host.Outcome State Fault Refusal) : Host.Outcome State Fault Refusal :=
  match o with
  | .next t => .next (injected s t)
  | o => o

/-- What a step does: the event that is due at the present clock; else the clock passes to the next one at which an event comes
due, if that is no later than the next turn; else the turn. (log 1: DESIGN CHOICE, safe) -/
def plainStep (s : State) : Host.Outcome State Fault Refusal :=
  match dueNow s with
  | some i => exec i (findInjected s (.event i))
  | none =>
    match nextDue s (turnOf s).dt with
    | some d => .next (passTo s d)
    | none => let a := (turnOf s).act; act (findInjected (enterTurn s (turnOf s)) a) a

/-- A step (log 1: DESIGN CHOICE, safe). -/
def step (s : State) : Host.Outcome State Fault Refusal := afterAct s (plainStep s)

/-- The state with a word where `step` fetches its next instruction (log 13: DESIGN CHOICE, unsafe). -/
def State.withFetchWord (s : State) (nbits w : Nat) : State :=
  if nbits = 0 then s
  else if nbits ≤ 32 then placeHelmWord s (w % 2 ^ nbits)
  else placeWord s (w % 2 ^ nbits)

end Sys2Proof.Machine
end

