-- ==== Sys2Proof/Safety.lean ====
section
/-! DEFINITION. A safe run: what claims about runs are stated in. -/

namespace Sys2Proof.Machine

/-- A step that answers a next state. -/
def Goes (s t : State) : Prop := step s = .next t

/-- The states that steps reach from `s`. -/
inductive Reaches (s : State) : State → Prop where
  | here : Reaches s s
  | on (t u : State) : Reaches s t → Goes t u → Reaches s u

/-- No run from `s` raises a fault: `noGroup` marks a turn that no machine takes. -/
def Safe (s : State) : Prop := ∀ t, Reaches s t → ∀ f, step t ≠ .fault f

end Sys2Proof.Machine
end

