-- ==== Sys2Proof/Certificates/Slice0/Obligations.lean ====
section
/-! DEFINITION. The statements for the provers, and the few words that they are stated in. A statement of an
instruction's effect says, for every state and operands that meet its hypotheses, that `exec` answers a next state, and
which one. -/

namespace Sys2Proof.Claims

open Sys2Proof.Machine

/-! ## Vector words -/

/-- The lanes of the issue set whose guard is true. -/
def active (i : Instr) (s : State) (g : Grp) : Mask := guarded (i.guard.getD Guard.always) g s.cur.mask

/-- `g` is the current group; no lane of the word raises WINDOW (R78), and none falls off its segment (R253). -/
def Runs (i : Instr) (s : State) (g : Grp) : Prop :=
  curGrp s = some g ∧ windowLanes i.uses g (active i s g) = 0
    ∧ fallLanes (coreAt s s.cur.core) g s.cur.mask (active i s g) (leavesPc i) = 0

/-- The word runs, and no comparison of mirror mode differs (R141); the group has its 64 lanes. -/
def RunsAlu (i : Instr) (s : State) (g : Grp) : Prop :=
  Runs i s g ∧ mirrorFails s g (active i s g) = false ∧ g.lanes.length = 64

/-- A lane after a word has written `k` registers from its name `d` on, and has set flags. -/
def written (ln : Lane) (d k v : Nat) (fl : Flags) : Lane :=
  { ln with regs := putV ln.regs (ln.base + d) v k, lsw := ln.lsw ||| fl }

/-- The word runs in the lanes of its set whose guard is true, each of which changes as `f` says; no other lane changes,
and nothing else does but the mirror counters and what finishing a word does (R80). -/
def LaneEffect (i : Instr) (f : State → Grp → Nat → Lane) : Prop :=
  ∀ s g, RunsAlu i s g → ∃ g', exec i s = .next (setCurGrp s (finishGrp s.cur.mask g'))
    ∧ g' = { g with lanes := g'.lanes, dmrc := g'.dmrc, dmra := g'.dmra }
    ∧ ∀ l, laneAt g' l = if (active i s g).getLsbD l then f s g l else laneAt g l

/-- The word writes `v` to the `k` registers from `d` on, sets the flags `fl`, and gives `b` to predicate `p`, unless that
is 7 (R37, R107, R103). A vector destination is written in every lane whose guard is true. A scalar destination is written
once, by the lowest of them, which alone sets flags; the predicate is each lane's own. -/
def Writes (i : Instr) (d : Reg) (k : Nat) (v : Env → Nat) (fl : Env → Flags) (p : PReg := 7)
    (b : Env → Bool := fun _ => true) : Prop :=
  match d with
  | .v n => LaneEffect i fun s g l =>
      let e := envOf s g l
      setP (written (laneAt g l) n.val k (v e) (fl e)) p (b e)
  | .s n => ∀ s g, RunsAlu i s g → ∃ g', exec i s = .next (setCurGrp s (finishGrp s.cur.mask g'))
      ∧ g' = { g with lanes := g'.lanes, sregs := g'.sregs, dmrc := g'.dmrc, dmra := g'.dmra }
      ∧ g'.sregs = (match lowest (active i s g) with
        | some l => (putS g n.val k (v (envOf s g l))).sregs
        | none => g.sregs)
      ∧ ∀ l, laneAt g' l =
        if (active i s g).getLsbD l then
          let e := envOf s g l
          let ln := laneAt g l
          setP (if lowest (active i s g) = some l then { ln with lsw := ln.lsw ||| fl e } else ln) p (b e)
        else laneAt g l

/-- The word writes predicate `p` alone. -/
def WritesP (i : Instr) (p : PReg) (b : Env → Bool) : Prop :=
  LaneEffect i fun s g l => setP (laneAt g l) p (b (envOf s g l))

/-- The word sets flags and writes predicate `p`. -/
def WritesPF (i : Instr) (p : PReg) (b : Env → Bool) (fl : Env → Flags) : Prop :=
  LaneEffect i fun s g l =>
    let e := envOf s g l
    setP { laneAt g l with lsw := (laneAt g l).lsw ||| fl e } p (b e)

/-- An operand of an integer form, at the width of its type. -/
def opB (t : IntTy) (e : Env) (o : Operand) : BitVec (IntTy.width t) := BitVec.ofNat _ (opI e (regs12 t.w64) o)

/-- A 32-bit operand. -/
def op32 (e : Env) (o : Operand) : BitVec 32 := BitVec.ofNat 32 (opI e 1 o)

/-- The value that a bit pattern has under an integer type. -/
def valOf (t : IntTy) (x : BitVec (IntTy.width t)) : Int := if IntTy.signed t then x.toInt else x.toNat

/-- The least and the greatest value of an integer type. -/
def leastOf (t : IntTy) : Int := if IntTy.signed t then -2 ^ (IntTy.width t - 1) else 0
def mostOf (t : IntTy) : Int := if IntTy.signed t then 2 ^ (IntTy.width t - 1) - 1 else 2 ^ IntTy.width t - 1

/-- The types of INEG and IABS among those of the integer forms. -/
def signTy : SignTy → IntTy
  | .i32 => .i32
  | .i64 => .i64

/-- The nearest value of a type to an exact result. -/
def clampTo (t : IntTy) (x : Int) : Int := max (leastOf t) (min x (mostOf t))

/-- The flag of a saturation that clamps. -/
def satFlag (t : IntTy) (x : Int) : Flags := if leastOf t ≤ x ∧ x ≤ mostOf t then 0 else flSAT

/-- The pattern of an integer in a type. -/
def patOf (t : IntTy) (x : Int) : Nat := (BitVec.ofInt (IntTy.width t) x).toNat

/-- A value of `w` bits from its integer. -/
def pat (w : Nat) (x : Int) : Nat := (BitVec.ofInt w x).toNat

/-- The 16-bit and the 8-bit elements of a word (R123), and a word from four bytes. -/
def elem16 (x : BitVec 32) (i : Nat) : BitVec 16 := x.extractLsb' (16 * i) 16
def elem8 (x : BitVec 32) (i : Nat) : BitVec 8 := x.extractLsb' (8 * i) 8
def ofElems8 (f : Nat → BitVec 8) : Nat := (f 3 ++ f 2 ++ f 1 ++ f 0).toNat
def ofElems16 (f : Nat → BitVec 16) : Nat := (f 1 ++ f 0).toNat

/-- An element as a value, under a signedness. -/
def elemVal {w : Nat} (signed : Bool) (x : BitVec w) : Int := if signed then x.toInt else x.toNat

/-- Narrowing to `w` bits (R52): wrapped, or clamped with LSW.SAT where it clamps. -/
def lowOf (signed : Bool) (w : Nat) : Int := if signed then -2 ^ (w - 1) else 0
def highOf (signed : Bool) (w : Nat) : Int := if signed then 2 ^ (w - 1) - 1 else 2 ^ w - 1
def narrowed (sat signed : Bool) (w : Nat) (x : Int) : BitVec w :=
  BitVec.ofInt w (if sat then max (lowOf signed w) (min x (highOf signed w)) else x)
def narrowFlag (sat signed : Bool) (w : Nat) (x : Int) : Flags :=
  if sat ∧ ¬(lowOf signed w ≤ x ∧ x ≤ highOf signed w) then flSAT else 0

/-- The bits [p + n - 1 : p] of a word, where they exist. -/
def fieldMask (p n : Nat) : BitVec 32 := BitVec.ofNat 32 ((2 ^ n - 1) * 2 ^ p)

/-- SCMP's loop (R129): the bytes below `m` in order. -/
def stringOrder (a b : BitVec 32) (m : Nat) : Int × Bool :=
  match (List.range m).find? fun i => elem8 a i ≠ elem8 b i with
  | some i => (if (elem8 a i).toNat < (elem8 b i).toNat then -1 else 1, true)
  | none => (0, false)

/-- The hash of R74, and its CRC after `n` bits. -/
def hashOf (x : BitVec 32) : BitVec 32 :=
  let p := x * 0x9E3779B1#32
  let q := (p ^^^ (p >>> 15)) * 0x85EBCA77#32
  q ^^^ (q >>> 13)
def crcOf (x : BitVec 32) (n : Nat) : BitVec 32 :=
  (List.range n).foldl (fun c _ => if c.getLsbD 0 then (c >>> 1) ^^^ 0x82F63B78#32 else c >>> 1) x

/-- The condition of an integer compare. -/
def icmpHolds (cc : Icc) (x y : Int) : Bool :=
  match cc with
  | .eq => x = y
  | .ne => x ≠ y
  | .lt => x < y
  | .le => x ≤ y
  | .gt => x > y
  | .ge => x ≥ y

/-! ## Pair words (R41, R130) -/

/-- The two halves of a pair word. -/
def halvesOf : Instr → Option (HalfWord × HalfWord)
  | .iadd2 h o => some ({ op := .iadd2, args := h }, o)
  | .isub2 h o => some ({ op := .isub2, args := h }, o)
  | .imin2 t h o => some ({ op := .imin2 t, args := h }, o)
  | .imax2 t h o => some ({ op := .imax2 t, args := h }, o)
  | .and2 h o => some ({ op := .and2, args := h }, o)
  | .or2 h o => some ({ op := .or2, args := h }, o)
  | .xor2 h o => some ({ op := .xor2, args := h }, o)
  | .shl2 h o => some ({ op := .shl2, args := h }, o)
  | .shr2 h o => some ({ op := .shr2, args := h }, o)
  | .sar2 h o => some ({ op := .sar2, args := h }, o)
  | .mov2 h o => some ({ op := .mov2, args := h }, o)
  | .fadd2 rm h o => some ({ op := .fadd2 rm, args := h }, o)
  | .fmul2 rm h o => some ({ op := .fmul2 rm, args := h }, o)
  | .fmin2 h o => some ({ op := .fmin2, args := h }, o)
  | .fmax2 h o => some ({ op := .fmax2, args := h }, o)
  | .padd2h sat h o => some ({ op := .padd2h sat, args := h }, o)
  | _ => none

/-- The old value of a half's D in a lane. -/
def oldD (e : Env) (h : HalfWord) : BitVec 32 := BitVec.ofNat 32 (getV e.lane (e.lane.base + h.args.d.val) 1)

/-- What a half computes from the old values of D and A (R130). -/
def halfValue (e : Env) (h : HalfWord) : Nat × Flags :=
  let d := oldD e h
  let a := op32 e h.args.a
  let fa := opF e fmt32 h.args.a
  let z := fz32 e.grp
  let v (t : Ty32) (x : BitVec 32) : Int := elemVal (Ty32.signed t) x
  let s16 (i : Nat) : Int := (elem16 d i).toInt + (elem16 a i).toInt
  match h.op with
  | .iadd2 => ((d + a).toNat, 0)
  | .isub2 => ((d - a).toNat, 0)
  | .imin2 t => (pat 32 (min (v t d) (v t a)), 0)
  | .imax2 t => (pat 32 (max (v t d) (v t a)), 0)
  | .and2 => ((d &&& a).toNat, 0)
  | .or2 => ((d ||| a).toNat, 0)
  | .xor2 => ((d ^^^ a).toNat, 0)
  | .shl2 => ((d <<< (a.toNat % 32)).toNat, 0)
  | .shr2 => ((d >>> (a.toNat % 32)).toNat, 0)
  | .sar2 => ((d.sshiftRight (a.toNat % 32)).toNat, 0)
  | .mov2 => (a.toNat, 0)
  | .fadd2 rm => fpAdd fmt32 rm z d.toNat fa
  | .fmul2 rm => fpMul fmt32 rm z d.toNat fa
  | .fmin2 => fpMin fmt32 z d.toNat fa
  | .fmax2 => fpMax fmt32 z d.toNat fa
  | .padd2h sat => (ofElems16 fun i => narrowed sat true 16 (s16 i),
      narrowFlag sat true 16 (s16 0) ||| narrowFlag sat true 16 (s16 1))

/-- A lane after a half whose values were read from `e`. -/
def afterHalf (e : Env) (h : HalfWord) (ln : Lane) : Lane :=
  if getP e.lane h.args.g then written ln h.args.d.val 1 (halfValue e h).1 (halfValue e h).2 else ln

/-- The lanes in which a half's guard is true, and those that a half of which leaves its allotment there. -/
def halfLanes (g : Grp) (m : Mask) (h : HalfWord) : Mask := guarded { neg := false, p := h.args.g } g m
def halfWindow (g : Grp) (m : Mask) (h : HalfWord) : Mask := windowLanes h.args.uses g (halfLanes g m h)

/-! ## The frame of arithmetic words -/

/-- The arithmetic words: every lane computes by itself (R106). -/
def laneWise : Instr → Bool
  | .iadd .. | .isub .. | .iaddc .. | .imul .. | .imulh .. | .imad .. | .imadw .. | .ineg .. | .iabs .. | .imin ..
  | .imax .. | .iclamp .. | .lea .. | .and .. | .or .. | .xor .. | .andn .. | .shl .. | .shr .. | .sar .. | .rol ..
  | .funnel .. | .popc .. | .clz .. | .ctz .. | .brev .. | .bfx .. | .bfi .. | .bperm .. | .sel .. | .mov .. | .movi ..
  | .fadd .. | .fsub .. | .fmul .. | .ffma .. | .fmin .. | .fmax .. | .frnd .. | .ffrac .. | .dadd .. | .dsub ..
  | .dmul .. | .dfma .. | .dmin .. | .dmax .. | .drnd .. | .cvt .. | .cvtp .. | .cvtpUnpk .. | .frcp .. | .frsq ..
  | .fsqrt .. | .fexp2 .. | .flog2 .. | .fsin .. | .fcos .. | .ftanh .. | .fsgm .. | .ferf .. | .dp2 .. | .dp4 ..
  | .padd2 .. | .psub2 .. | .pmax2 .. | .pmin2 .. | .shrnd .. | .pack .. | .sad4 .. | .hash .. | .crc .. | .scmp ..
  | .seqm .. | .sfold .. | .icmp .. | .fcmp .. | .dcmp .. | .plop .. | .pmov .. | .pmovPw .. | .pmovNz ..
  | .pmovBit .. => true
  | _ => false

/-- Whether a word writes vector register `n`, or scalar register `n`, by name. -/
def writesVReg (i : Instr) (n : Nat) : Bool :=
  i.uses.any fun u => u.wr && match u.op with | .v r => decide (r.val ≤ n ∧ n < r.val + u.n) | _ => false
def writesSReg (i : Instr) (n : Nat) : Bool :=
  i.uses.any fun u => u.wr && match u.op with | .s r => decide (r.val ≤ n ∧ n < r.val + u.n) | _ => false

/-- The predicates that an arithmetic word writes. -/
def writesPred (i : Instr) (q : PReg) : Bool :=
  match i with
  | .iaddc _ _ _ _ _ _ k | .scmp _ _ _ _ _ k => q = k
  | .icmp _ _ _ p _ _ | .fcmp _ _ p _ _ | .dcmp _ _ p _ _ | .plop _ _ p _ _ | .pmovNz _ p _ | .pmovBit _ p _ _ => q = p
  | .pmovPw .. => true
  | _ => false

/-- Registers in their canonical form. -/
def RegsOk (g : Grp) : Prop := Sparse.wfFrom 0 g.sregs = true ∧ ∀ l, Sparse.wfFrom 0 (laneAt g l).regs = true

/-! ## Floats -/

/-- A code's value as a rational number; none for an infinity or a NaN (R53). -/
def codeVal (f : Fmt) (code : Nat) : Option ℚ :=
  match fpRead f code with
  | .fin neg m e => some ((if neg then -1 else 1) * (m : ℚ) * (2 : ℚ) ^ e)
  | _ => none

/-- Code `r` is the exact value `x` rounded in a mode (R63): no finite code of the format lies closer, or on the mode's
side closer; a tie takes the even code, or the one away from zero. -/
def RoundsTo (f : Fmt) (rm : Rm) (x : ℚ) (r : Nat) : Prop :=
  ∃ v, codeVal f r = some v ∧ ∀ c y, codeVal f c = some y → y ≠ v →
    match rm with
    | .rdn => v ≤ x ∧ (y ≤ x → y < v)
    | .rup => x ≤ v ∧ (x ≤ y → v < y)
    | .rtz => |v| ≤ |x| ∧ 0 ≤ v * x ∧ (|y| ≤ |x| → 0 ≤ y * x → |y| < |v|)
    | .rne => |v - x| < |y - x| ∨ (|v - x| = |y - x| ∧ r % 2 = 0)
    | .rna => |v - x| < |y - x| ∨ (|v - x| = |y - x| ∧ |x| < |v|)

/-- The largest finite value of a format (R53): of E4M3, whose top exponent has finite values, 448. -/
def largest (f : Fmt) : ℚ :=
  if f.top = .e4m3 then 448 else (2 - (2 : ℚ) ^ (-(f.mb : Int))) * (2 : ℚ) ^ ((2 ^ f.eb - 2 : Int) - f.bias)

/-- An exact result is delivered rounded, where it is no larger than the largest finite value and not zero. -/
def Rounded (f : Fmt) (rm : Rm) (x : ℚ) (r : Nat) : Prop := |x| ≤ largest f → x ≠ 0 → RoundsTo f rm x r

/-- The sign bit of a code, the default NaN (R54), and the infinity of a sign. -/
def signOf (f : Fmt) (c : Nat) : Nat := c / 2 ^ (f.eb + f.mb) % 2
def defaultNaN (f : Fmt) : Nat :=
  if f.top = .e4m3 then 0x7F else (2 ^ f.eb - 1) * 2 ^ f.mb + 2 ^ (f.mb - 1)
def infinity (f : Fmt) (sign : Nat) : Nat := sign * 2 ^ (f.eb + f.mb) + (2 ^ f.eb - 1) * 2 ^ f.mb

/-- A value rounded to an integer in a mode (R73). -/
def toInteger (rm : Rm) (x : ℚ) : Int :=
  match rm with
  | .rdn => ⌊x⌋
  | .rup => ⌈x⌉
  | .rtz => if x < 0 then ⌈x⌉ else ⌊x⌋
  | .rna => if x < 0 then -⌊1 / 2 - x⌋ else ⌊x + 1 / 2⌋
  | .rne => if x - ⌊x⌋ < 1 / 2 ∨ (x - ⌊x⌋ = 1 / 2 ∧ ⌊x⌋ % 2 = 0) then ⌊x⌋ else ⌊x⌋ + 1

/-- Code `r` is what a conversion between float formats delivers of code `c`, without flushing (R67). -/
def Converts (fs fd : Fmt) (rm : Rm) (sat : Bool) (c r : Nat) : Prop :=
  match fpRead fs c with
  | .nan _ => r = defaultNaN fd
  | .inf n => r = if fd.top = .e4m3 then (if sat then n.toNat * 128 + 0x7E else 0x7F) else infinity fd n.toNat
  | .fin .. => ∀ x, codeVal fs c = some x → (x = 0 → r = signOf fs c * 2 ^ (fd.eb + fd.mb)) ∧ Rounded fd rm x r

/-- The order of two operands that are no NaNs, −0 equal to +0, and the condition of a float compare (R102). -/
def magnitude (f : Fmt) (c : Nat) : Int :=
  let mag : Nat := c % 2 ^ (f.eb + f.mb)
  if signOf f c = 1 then -(mag : Int) else mag

/-- A code read under a flush bit: a subnormal reads as a zero of its sign (R66). -/
def flushedCode (f : Fmt) (fz : Bool) (c : Nat) : Nat :=
  if fz ∧ c / 2 ^ f.mb % 2 ^ f.eb = 0 then c / 2 ^ (f.eb + f.mb) % 2 * 2 ^ (f.eb + f.mb) else c % 2 ^ (1 + f.eb + f.mb)

/-- The order of the codes that are no NaNs, −0 before +0. -/
def codeOrder (f : Fmt) (c : Nat) : Int :=
  let mag : Nat := c % 2 ^ (f.eb + f.mb)
  if c / 2 ^ (f.eb + f.mb) % 2 = 1 then -(mag : Int) - 1 else mag

def isNaNCode (f : Fmt) (c : Nat) : Bool := c / 2 ^ f.mb % 2 ^ f.eb = 2 ^ f.eb - 1 && c % 2 ^ f.mb ≠ 0
def isSNaNCode (f : Fmt) (c : Nat) : Bool := isNaNCode f c && c % 2 ^ f.mb < 2 ^ (f.mb - 1)

/-- R116: the smaller or the larger operand. -/
def extreme (f : Fmt) (fz larger : Bool) (a b : Nat) : Nat :=
  let x := flushedCode f fz a
  let y := flushedCode f fz b
  if isNaNCode f a && isNaNCode f b then (2 ^ f.eb - 1) * 2 ^ f.mb + 2 ^ (f.mb - 1)
  else if isNaNCode f a then y
  else if isNaNCode f b then x
  else if larger then (if codeOrder f y ≤ codeOrder f x then x else y)
  else (if codeOrder f x ≤ codeOrder f y then x else y)

/-- Its flag: NV for a signalling NaN. -/
def extremeFlag (f : Fmt) (a b : Nat) : Flags := if isSNaNCode f a || isSNaNCode f b then flNV else 0

/-- The condition of a float compare (R102), and its flag. -/
def fcmpHolds (f : Fmt) (fz : Bool) (cc : Fcc) (a b : Nat) : Bool :=
  let x := magnitude f (flushedCode f fz a)
  let y := magnitude f (flushedCode f fz b)
  let un : Bool := isNaNCode f a || isNaNCode f b
  match cc with
  | .eq => !un && decide (x = y)
  | .ne => un || decide (x ≠ y)
  | .lt => !un && decide (x < y)
  | .le => !un && decide (x ≤ y)
  | .gt => !un && decide (y < x)
  | .ge => !un && decide (y ≤ x)
  | .un => un
  | .ord => !un
  | .ult => un || decide (x < y)
  | .ule => un || decide (x ≤ y)
  | .ugt => un || decide (y < x)
  | .uge => un || decide (y ≤ x)
  | .ueq => un || decide (x = y)
  | .one => !un && decide (x ≠ y)
def fcmpFlag (f : Fmt) (cc : Fcc) (a b : Nat) : Flags :=
  if isSNaNCode f a || isSNaNCode f b
    || ((isNaNCode f a || isNaNCode f b) && decide (cc ∈ [Fcc.lt, .le, .gt, .ge])) then flNV else 0

/-- A 16-bit element of a packed operand (R115). -/
def packedElem (e : Env) (t : FTy) (o : Operand) (i : Nat) : Nat := opT e t o / 2 ^ (16 * i) % 2 ^ 16

/-! ## Control -/

/-- The effect of a control word on its group: every lane changes as `f` says, and nothing else does. -/
def GroupLanes (s : State) (g : Grp) (f : Nat → Lane) (t : State) : Prop :=
  ∃ g', t = setCurGrp s g' ∧ g' = { g with lanes := g'.lanes } ∧ ∀ l, laneAt g' l = f l

/-- The targets of the lanes of a mask are good (R90). -/
def GoodTargets (m : Mask) (t : Nat → Dword) : Prop :=
  ∀ l, m.getLsbD l = true → (t l).toNat % 8 = 0 ∧ (t l).extractLsb' 57 7 = ((t l).extractLsb' 56 1).signExtend 7

/-- A lane of the set beside those of `m`: it goes on behind the word. -/
def passed (s : State) (ln : Lane) (l : Nat) : Lane := if s.cur.mask.getLsbD l then { ln with pc := ln.pc + 8 } else ln

/-- A target is good (R90): aligned, and canonical. -/
def GoodTarget (t : Dword) : Prop := t.toNat % 8 = 0 ∧ t.extractLsb' 57 7 = (t.extractLsb' 56 1).signExtend 7

/-- The word stops its group with a cause, raised by the lanes of a mask, at an address. -/
def Stops (i : Instr) (s : State) (g : Grp) (m : Mask) (cause : Nat) (addr : Nat := 0) : Prop :=
  exec i s = .next (takeTrap s s.cur.core s.cur.slot (mkRec g s.cur.slot m (curPc s) addr 0 cause 0))

/-- Slot `k` of a lane's spill area (R87, R88), its stride, and whether the area is short for one CALL. -/
def strideBits (g : Grp) : Nat := g.spill.toNat % 32
def spillSlot (g : Grp) (ln : Lane) (k : Nat) : Nat :=
  g.spill.toNat / 2 ^ 12 % 2 ^ 45 * 2 ^ 12 + ln.fibre.toNat * 2 ^ strideBits g + 16 * k
def spillShort (g : Grp) (ln : Lane) : Prop :=
  strideBits g < 8 ∨ 20 < strideBits g ∨ 2 ^ (strideBits g - 4) ≤ ln.spill + 1

/-- The access that stores a lane's return record in a spill slot, as the `j`th of its word. -/
def spillStore (s : State) (g : Grp) (l j : Nat) (t : Target) (r : Ret) : Acc :=
  let va := spillSlot g (laneAt g l) ((laneAt g l).spill + j)
  { newAcc s g l { ord := .rlx, scope := .lane, evict := 4 } { va := va, al := 16, n := 16, ty := .store } t with
    id := s.nextId + j, val := r.pc.toNat + 2 ^ 64 * (r.base % 256), entry := false }

/-- The bytes of memory that stand in a spill slot as a return record (R87). -/
def recordIn (m : Memory) (pa : Nat) : Ret :=
  { pc := BitVec.ofNat 64 (readLe m pa 8), base := readLe m (pa + 8) 1 / 4 * 4 }

/-- The target of BRA and CALL (R91). -/
def relative (ln : Lane) (off : Word) : Dword := ln.pc + 8 * off.signExtend 64

/-- R76 for a lane: the depth is the cabinet count plus the spill count, now and in the snapshot of its transaction. -/
def DepthOk (ln : Lane) : Prop :=
  ln.status = .live → ln.depth = ln.cab.length + ln.spill ∧ ln.cab.length ≤ 4
    ∧ ∀ t, ln.txn = some t → t.depth = t.cab.length + t.spill ∧ t.cab.length ≤ 4

/-- R76 for every lane of the package. -/
def DepthsOk (s : State) : Prop := ∀ c k g l, grpAt s c k = some g → DepthOk (laneAt g l)

/-- The control words of the lane chapter. -/
def controlWord : Instr → Bool
  | .bra .. | .call .. | .brx .. | .callx .. | .ret .. | .exit .. | .yield .. | .bkpt .. | .spawn .. | .rep ..
  | .nop .. => true
  | _ => false

/-! ## Group operations (R142 to R161) -/

/-- The member mask of a group operation, and the operands that a lane supplies. -/
def groupWord : Instr → Option (MReg × (Env → Nat × Nat × Nat))
  | .shfl _ m _ _ _ _ a b => some (m, fun e => (opI e 1 a, opI e 1 b, 0))
  | .slide _ m _ _ _ a b c => some (m, fun e => (opI e 1 a, opI e 1 b, opI e 1 c))
  | .vote _ m _ _ a | .ballot _ m _ a | .ballotR _ m _ a => some (m, fun e => ((getP e.lane a).toNat, 0, 0))
  | .gred _ m t _ _ _ _ a | .gscan _ m t _ _ _ _ _ a => some (m, fun e =>
      (match t with | .f32 => opF e fmt32 a | .f64 => opF e fmt64 a | _ => opI e (regs12 t.w64) a, 0, 0))
  | .mskopAnd _ m _ _ _ | .mskopOr _ m _ _ _ | .mskopXor _ m _ _ _ | .mskopAndn _ m _ _ _ | .mskopNot _ m _ _
  | .mskopSt _ m _ _ | .mskopLive _ m _ | .mskopArrv _ m _ => some (m, fun _ => (0, 0, 0))
  | .mskopLd _ m _ a => some (m, fun e => (opI e 2 a, 0, 0))
  | .tbar _ m _ b | .cbar _ m _ b => some (m, fun e => (opI e 1 b, 0, 0))
  | .rolesw m a b => some (m, fun e => (opI e 1 (.s a), opI e 2 (.s b), 0))
  | _ => none

/-- The lanes of a mask in order, each with what it supplies. -/
def supplies (s : State) (g : Grp) (m : Mask) (f : Env → Nat × Nat × Nat) : List (Nat × Nat × Nat × Nat) :=
  ((List.range 64).filter fun l => m.getLsbD l).map fun l => (l, f (envOf s g l))

/-- A rendezvous at its opening by the current set, and one that the set joins (R142, R146). -/
def opened (s : State) (i : Instr) (set cap gm : Mask) (ops : List (Nat × Nat × Nat × Nat)) : Rdv :=
  { pc := curPc s, word := some i, captured := cap, arrived := set &&& cap, guards := gm, excused := 0, ops := ops,
    base := 0, since := s.clock }
def joined (r : Rdv) (i : Instr) (set gm : Mask) (ops : List (Nat × Nat × Nat × Nat)) : Rdv :=
  { r with word := r.word.or (some i), arrived := r.arrived ||| (set &&& r.captured), guards := r.guards ||| gm, ops := r.ops ++ ops }

/-- The lanes of the issue set outside transactions. -/
def plainLanes (s : State) (g : Grp) : Mask := maskOf fun l => s.cur.mask.getLsbD l && !inTxn (laneAt g l)

/-- The first operand that a lane supplied at its arrival, and the second. -/
def gave (r : Rdv) (l : Nat) : Nat := ((r.ops.find? fun o => o.1 = l).map fun o => o.2.1).getD 0
def gave2 (r : Rdv) (l : Nat) : Nat := ((r.ops.find? fun o => o.1 = l).map fun o => o.2.2.1).getD 0

/-- Whether a lane is a participant: it arrived, and its guard was true (R144). -/
def takesPart (r : Rdv) (l : Nat) : Bool := r.arrived.getLsbD l && r.guards.getLsbD l

/-- The rendezvous of the group in slot `k` of core `c` is `r`, and it is complete (R145); the group is not stopped, and no
earlier result is due. -/
def Complete (s : State) (c k : Nat) (g : Grp) (r : Rdv) : Prop :=
  grpAt s c k = some g ∧ g.rdv = some r ∧ g.lanes.length = 64 ∧ g.stop = none ∧ g.frozen = false ∧ g.dropped = false
    ∧ (∀ o ∈ g.outs, s.clock < o.writeAt)
    ∧ ∀ l, l < 64 → r.captured.getLsbD l = true →
        r.arrived.getLsbD l = true ∨ r.excused.getLsbD l = true ∨ (laneAt g l).status ≠ .live

/-- A lane after the rendezvous: ready at PC + 8 where it arrived. -/
def released (r : Rdv) (ln : Lane) (l : Nat) : Lane :=
  if r.arrived.getLsbD l then { ln with wait := .ready, pc := r.pc + 8 } else ln

/-- The clock at which the exchange network of the group's partition, taken now, is free again: 4 clocks on (R133, R145); and
the state in which it has been taken. -/
def exchangeEnd (s : State) (c k : Nat) : Nat := max s.clock (unitsAt (coreAt s c) (k / 8)).exch + 4
def exchangeTaken (s : State) (c k : Nat) : State :=
  modCore s c fun x =>
    { x with units := x.units.set (k / 8) { unitsAt x (k / 8) with exch := exchangeEnd s c k } }

/-- A complete group operation takes the exchange network, and writes its result when that has held it: the arrived lanes wait
for the write. At the write, `lane` befalls each participant, and `rest` the rest of the group, whatever the group's other
lanes have done since. -/
def Completes (s : State) (c k : Nat) (g : Grp) (r : Rdv) (lane : Nat → Lane → Lane) (rest : Grp → Grp) : Prop :=
  ∃ o, o.writeAt = exchangeEnd s c k
    ∧ exec (.rendezvousComplete c k) s
      = .next (setGrp (exchangeTaken s c k) c k (some { g with rdv := none, outs := g.outs ++ [o] }))
    ∧ ∀ u h, grpAt u c k = some h → h.lanes.length = 64 → h.outs.find? (fun p => decide (p.writeAt ≤ u.clock)) = some o →
      ∃ h', exec (.rendezvousComplete c k) u = .next (setGrp u c k (some (rest { h' with outs := h.outs.erase o })))
        ∧ h' = { h with lanes := h'.lanes }
        ∧ ∀ l, l < 64 → laneAt h' l = released r (if takesPart r l then lane l (laneAt h l) else laneAt h l) l

/-- Some lane takes part. -/
def Joined (r : Rdv) : Prop := ∃ l, l < 64 ∧ takesPart r l = true

/-- The third operand that a lane supplied. -/
def gave3 (r : Rdv) (l : Nat) : Nat := ((r.ops.find? fun o => o.1 = l).map fun o => o.2.2.2).getD 0

/-- The bits of SLIDE's elements, and the element that moves to `idx`, if it lies in the vector (R150). -/
def slideWidth : SlideWidth → Nat
  | .e8 => 8
  | .e16 => 16
  | .e32 => 32
def slideFrom (up : Bool) (size n idx : Nat) : Option Nat :=
  if up then (if n ≤ idx then some (idx - n) else none) else if idx + n < size then some (idx + n) else none

/-- The lane that a participant's SHFL names, if it lies in the segment (R149). -/
def shuffleSource (r : Rdv) (sz : Nat) (mode : ShflMode) (l : Nat) : Option Nat :=
  let base := l / sz * sz
  let j := gave2 r l % 2 ^ 32
  match mode with
  | .idx => some (base + j % sz)
  | .up => if j < sz ∧ base + j ≤ l then some (l - j) else none
  | .dn => if j < sz ∧ l + j < base + sz then some (l + j) else none
  | .xor => some (base + ((BitVec.ofNat 6 (l - base)) ^^^ (BitVec.ofNat 6 (j % sz))).toNat)

/-! ## Memory words (R169 to R177) -/

/-- What a memory word asks in a lane: the address, the bytes, the permission, what the access does, where its value
goes, and its data. -/
structure AccForm where
  mod : MemMod
  va : Env → Nat
  bytes : Nat
  ty : AccessType
  kind : Env → AccKind
  dst : Env → Dst
  val : Env → Nat

/-- The address of a word that takes [base+offset], and of one that takes an index of `w` bytes as well (R169). -/
def based (e : Env) (a : Reg) (off : BitVec 13) : Nat := (BitVec.ofNat 64 (opI e 2 a.op) + off.signExtend 64).toNat
def indexed (e : Env) (a : Reg) (b : Operand) (w : Nat) (off : BitVec 13) : Nat :=
  (BitVec.ofNat 64 (opI e 2 a.op) + BitVec.ofInt 64 ((op32 e b).toInt * w) + off.signExtend 64).toNat

/-- The registers of a lane from V`d` on. -/
def laneDst (e : Env) (d : VReg) (n : Nat) : Dst := .v (e.lane.base + d.val) n

/-- The memory words that make one access in each lane. -/
def accForm : Instr → Option AccForm
  | .ld _ w m d a b off => some
    { mod := m, va := fun e => indexed e a b w.bytes off, bytes := w.bytes, ty := .load
      kind := fun _ => .load (w = .x8 || w = .x16), dst := fun e => laneDst e d (max 1 (w.bytes / 4)), val := fun _ => 0 }
  | .st _ w m d a b off => some
    { mod := m, va := fun e => indexed e a b w.bytes off, bytes := w.bytes, ty := .store, kind := fun _ => .store
      dst := fun _ => .none, val := fun e => opI e (max 1 (w.bytes / 4)) d % 2 ^ (8 * w.bytes) }
  | .atom _ op m d a b off => some
    { mod := m, va := fun e => based e a off, bytes := 4, ty := .atomic, kind := fun _ => .atom op
      dst := fun e => laneDst e d 1, val := fun e => if op = .fadd then opF e fmt32 b else opI e 1 b }
  | .atomW64 _ op m d a b off => some
    { mod := m, va := fun e => based e a off, bytes := 8, ty := .atomic, kind := fun _ => .atom op
      dst := fun e => laneDst e d 2, val := fun e => if op = .fadd then opF e fmt64 b else opI e 2 b }
  | .acas _ w m d a b off => some
    { mod := m, va := fun e => based e a off, bytes := w.bytes, ty := .atomic
      kind := fun e => .acas (opI e (w.bytes / 4) (.v d)), dst := fun e => laneDst e d (w.bytes / 4)
      val := fun e => opI e (w.bytes / 4) b }
  | .lr _ w m d a off => some
    { mod := m, va := fun e => based e a off, bytes := w.bytes, ty := .atomic, kind := fun _ => .lr
      dst := fun e => laneDst e d (w.bytes / 4), val := fun _ => 0 }
  | .sc _ w m d a b off => some
    { mod := m, va := fun e => based e a off, bytes := w.bytes, ty := .atomic, kind := fun _ => .sc
      dst := fun e => laneDst e d 1, val := fun e => opI e (w.bytes / 4) b }
  | .partn _ w m d a b => some
    { mod := m, va := fun e => (opI e 2 a.op + 16 * opI e 1 (.v d)) % 2 ^ 64, bytes := 16, ty := .atomic
      kind := fun _ => .partn w.bytes, dst := fun e => laneDst e d 1, val := fun e => opI e (w.bytes / 4) b }
  | _ => none

/-- The address of a lane of the current group, and the checks of R169 on it. -/
def vaOf (s : State) (g : Grp) (f : AccForm) (l : Nat) : Nat := f.va (envOf s g l)
def checkOf (s : State) (g : Grp) (f : AccForm) (l : Nat) : Checked :=
  checkAddr s s.cur.core g (vaOf s g f l) f.bytes f.ty

/-- The translation of an address stands: no global address lies behind it, or the core's TLB holds its leaf, whose D bit
is set where the access may write. -/
def Settled (s : State) (g : Grp) (va : Nat) (ty : AccessType) : Prop :=
  g.supervisor = true ∨ ∀ v, windowVa s s.cur.core g va = some v →
    ∃ e, (coreAt s s.cur.core).tlb.find? (fun e => e.asid = rootAsid (gridRoot s g.grid) && leafCovers e.leaf v) = some e
      ∧ (e.leaf.dirty = true ∨ ty = .load ∨ ty = .fetch)

/-- The access that lane `l` issues as the `j`th of its word. -/
def accOf (s : State) (g : Grp) (f : AccForm) (j l : Nat) (t : Target) : Acc :=
  let e := envOf s g l
  let a := newAcc s g l f.mod { va := f.va e, al := f.bytes, n := f.bytes, ty := f.ty } t
  { a with id := s.nextId + j, kind := f.kind e, dst := f.dst e, val := f.val e }

/-- Accesses that enter the pending queue of the current core, in order. -/
def issueAll (s : State) (as : List Acc) : State :=
  let t := modCore s s.cur.core fun x => { x with pend := x.pend ++ as }
  { t with nextId := s.nextId + as.length }

/-- The lanes of a mask in order. -/
def inOrder (m : Mask) : List Nat := (List.range 64).filter fun l => m.getLsbD l

/-- No lane of a mask is inside a transaction. -/
def NoTxn (g : Grp) (m : Mask) : Prop := ∀ l, m.getLsbD l = true → inTxn (laneAt g l) = false

/-- The accesses of a word over the lanes of a mask. -/
def accsOf (s : State) (g : Grp) (f : AccForm) (m : Mask) (tg : Nat → Target) : List Acc :=
  mapFrom (fun j l => accOf s g f j l (tg l)) 0 (inOrder m)

/-- The cause of each check of R169. -/
def causeOfCheck (order : Nat) : Nat :=
  match order with
  | 2 => 0x0B
  | 3 => 0x0C
  | 5 => 0x0D
  | _ => 0x0A

/-- A word over memory whose issue can set A and D bits. -/
def memoryWord : Instr → Bool
  | .ld .. | .st .. | .sld .. | .atom .. | .atomW64 .. | .acas .. | .lr .. | .sc .. | .partn .. | .pref .. | .waitv ..
  | .fence .. | .xfence .. => true
  | _ => false

/-- WAITV as such a form: its reads, and the destination of each lane. -/
def waitForm (cc : WCond) (w : AWidth) (acq : Bool) (scope : Scope) (d : Reg) (a : Reg) (b : Operand) (off : BitVec 13)
    (lead : Option Nat) : AccForm :=
  { mod := { ord := if acq then .acq else .rlx, scope := scope, evict := 0 }
    va := fun e => based e a off, bytes := w.bytes, ty := .load
    kind := fun e => .waitv cc (opI e (w.bytes / 4) b)
    dst := fun e => match d with
      | .v n => laneDst e n (w.bytes / 4)
      | .s n => if lead = some e.l then .s n.val (w.bytes / 4) else .none
    val := fun _ => 0 }

/-- SLD as such a form. -/
def sldForm (w : LdWidth) (m : MemMod) (d a : SReg) (b : Operand) (off : BitVec 13) : AccForm :=
  { mod := m, va := fun e => indexed e (.s a) b w.bytes off, bytes := w.bytes, ty := .load
    kind := fun _ => .load (w = .x8 || w = .x16), dst := fun _ => .s d.val (max 1 (w.bytes / 4)), val := fun _ => 0 }

/-! ## The ordering machine (R273 to R295) -/

/-- A group after a value has landed in a destination of lane `l`. -/
def landed (g : Grp) (l : Nat) (d : Dst) (v : Nat) : Grp :=
  match d with
  | .none => g
  | .v p n => modLane g l fun ln => { ln with regs := putV ln.regs p v n }
  | .s num n => putS g num n v

/-- Whether a buffered store covers a byte of memory, and that byte of its data. -/
def covers (st : Acc) (p : Nat) : Prop := ∃ q, st.place = .glob q ∧ q ≤ p ∧ p < q + st.n
def byteOf (v i : Nat) : Byte := BitVec.ofNat 8 (v / 256 ^ i)

/-- What a load sees at a byte (R279, R285): the newest buffered store there, which must be visible to it, else what
memory holds. -/
def Sees (x : Core) (m : Memory) (ld : Acc) (p : Nat) (b : Byte) : Prop :=
  (b = sget m p ∧ ∀ st ∈ x.outb, ¬covers st p)
    ∨ ∃ u st v q, x.outb = u ++ st :: v ∧ st.place = .glob q ∧ covers st p ∧ visibleTo ld st = true
        ∧ (∀ r ∈ v, ¬covers r p) ∧ b = byteOf st.val (p - q)

/-- A pending load-like access that may execute at its home (R279, R282): nothing before it holds it back, no walk for its
address waits for its updates, its bytes lie in HBM4 or LPDDR6, in no valid window block, and are not poisoned. -/
def AtHome (s : State) (c : Nat) (a : Acc) (pa : Nat) : Prop :=
  (coreAt s c).pend.find? (fun b => b.id = a.id) = some a ∧ isLoadLike a = true ∧ a.watch = .no
    ∧ issuable c (coreAt s c) a = true ∧ releaseReady (coreAt s c) a = true ∧ a.place = .glob pa
    ∧ coveredBy (coreAt s c) pa = none ∧ (regionOf pa = .hbm ∨ regionOf pa = .lpddr) ∧ backed s pa = true
    ∧ (linesOf pa a.n).any (linePoisoned s) = false ∧ walking s c a = false

/-- Bytes at physical address `pa` that a word of core `c` can read at once: HBM4 or LPDDR6 backs them, no valid window block
holds them, nothing poisoned, nothing buffered over them, and their grains let the core read. -/
structure Readable (s : State) (c pa n gr : Nat) : Prop where
  plain : coveredBy (coreAt s c) pa = none
  region : regionOf pa = .hbm ∨ regionOf pa = .lpddr
  backed : backed s pa = true
  sound : (linesOf pa n).any (linePoisoned s) = false
  now : readableNow s (some (.release c)) none pa n gr = true
  still : ∀ a ∈ (coreAt s c).outb, overlap (.glob pa) n a.place a.n = false

/-- The pending queue without an access. -/
def without (x : Core) (id : Nat) : List Acc := x.pend.filter fun a => a.id ≠ id

/-- Memory after `n` bytes from `pa` on hold `v`. -/
def Stored (m m' : Memory) (pa n v : Nat) : Prop :=
  ∀ q, sget m' q = if pa ≤ q ∧ q < pa + n then byteOf v (q - pa) else sget m q

/-- The new value of an integer ATOM. -/
def atomNew (op : AtomOp) (w old b : Nat) : Nat :=
  let x := BitVec.ofNat w old
  let y := BitVec.ofNat w b
  match op with
  | .add => (x + y).toNat
  | .and => (x &&& y).toNat
  | .or => (x ||| y).toNat
  | .xor => (x ^^^ y).toNat
  | .xchg => y.toNat
  | .min => if x.toInt ≤ y.toInt then x.toNat else y.toNat
  | .max => if y.toInt ≤ x.toInt then x.toNat else y.toNat
  | .minu => min x.toNat y.toNat
  | .maxu => max x.toNat y.toNat
  | .fadd => (fpAdd (if w = 64 then fmt64 else fmt32) .rne false old b).1

/-- What an atomic stores on the old value, if it does. -/
def stores (a : Acc) (resv : Option Place) (old : Nat) : Option Nat :=
  match a.kind with
  | .atom op => some (atomNew op (8 * a.n) old a.val)
  | .acas cmp => if BitVec.ofNat (8 * a.n) old = BitVec.ofNat (8 * a.n) cmp then some (a.val % 2 ^ (8 * a.n)) else none
  | .sc => if resv = some (granule a.place) then some (a.val % 2 ^ (8 * a.n)) else none
  | _ => none

/-- The condition of WAITV, on unsigned values. -/
def waitHolds (cc : WCond) (x y : Nat) : Bool :=
  match cc with
  | .eq => x = y
  | .ne => x ≠ y
  | .lt => x < y
  | .ge => y ≤ x

/-- The bytes of a place in a wake. -/
def wakeBytes (w : Wake) (a : Acc) (v : Nat) : Prop :=
  ∃ pa, a.place = .glob pa ∧ w.grain ≤ pa ∧ pa + a.n ≤ w.grain + w.size
    ∧ v = leNat ((w.bytes.drop (pa - w.grain)).take a.n)

/-! ## Windows, barriers, handles (R181 to R198) -/

/-- A group-once word that runs: some lane's guard is true, and no lane is inside a transaction (R180, R301). -/
def RunsOnce (i : Instr) (s : State) (g : Grp) : Prop := Runs i s g ∧ NoTxn g (active i s g) ∧ active i s g ≠ 0

/-- A precise trap of the current word, raised by its lanes. -/
def traps (i : Instr) (s : State) (g : Grp) (cause addr : Nat) : Prop :=
  exec i s = .next (takeTrap s s.cur.core s.cur.slot
    (mkRec g s.cur.slot (active i s g) (curPc s) addr 0 cause 0))

/-- The limits of WMAP (R182). -/
def MapOk (tm : Team) (w va off len : Nat) : Prop :=
  va % 512 = 0 ∧ off % 512 = 0 ∧ len % 512 = 0 ∧ len ≠ 0 ∧ off + len ≤ tm.shared ∧ canonical (va + len - 1) = true
    ∧ ∀ v wn, v < 4 → v ≠ w → tm.wins.getD v none = some wn → off + len ≤ wn.off ∨ wn.off + wn.len ≤ off

/-- Block `b` of a window, where it is valid: its address and its dirty sectors. -/
def validBlock (wn : Window) (b pa : Nat) (d : BitVec 16) : Prop := wn.blocks[b]? = some (.valid pa d)

/-- The valid blocks of a window lie at multiples of 512, and no byte of physical memory belongs to two of them. -/
def BlocksApart (wn : Window) : Prop :=
  (∀ b pa d, validBlock wn b pa d → pa % 512 = 0)
  ∧ ∀ b b' pa pa' d d', b ≠ b' → validBlock wn b pa d → validBlock wn b' pa' d' → pa + 512 ≤ pa' ∨ pa' + 512 ≤ pa

/-- The scratchpad offset whose byte a window's dirty sectors give to address `q`. -/
def dirtyAt (wn : Window) (q o : Nat) : Prop :=
  ∃ b pa d, validBlock wn b pa d ∧ pa ≤ q ∧ q < pa + 512 ∧ d.getLsbD ((q - pa) / 32) = true
    ∧ o = wn.off + 512 * b + (q - pa)

/-- Memory after a window's dirty sectors have gone back: each byte of theirs that is backed and that no window of a host or of
another package holds, and beside dirty sectors no byte. -/
def WrittenBack (s : State) (m' : Memory) (tm : Team) (wn : Window) : Prop :=
  (∀ q o, dirtyAt wn q o → viaWindow s q = false → backed s q = true → sget m' q = sget tm.bytes o)
    ∧ (∀ q, (∀ o, ¬dirtyAt wn q o) → sget m' q = sget s.mem q)

/-- A barrier record as its four fields (R186): COUNT, PHASE, OVER, ARMED. -/
def barCount (v : BitVec 64) : Int := (v.extractLsb' 0 32).toInt
def barPhase (v : BitVec 64) : Bool := v.getLsbD 32
def barRecord (count : Int) (phase over_ armed : Bool) : BitVec 64 :=
  ((BitVec.ofBool armed ++ BitVec.ofBool over_ ++ BitVec.ofBool phase ++ BitVec.ofInt 32 count).setWidth 64)

/-- post n on a record (R187): the new record, and whether it flipped. -/
def posted (v : BitVec 64) (n : Nat) : BitVec 64 × Bool :=
  let c : Int := min (2 ^ 31 - 1) (barCount v + n)
  let over_ : Bool := v.getLsbD 33 || decide (2 ^ 31 ≤ barCount v + n)
  if 0 < c then (barRecord c (barPhase v) over_ true, false)
  else (barRecord c (!barPhase v) (over_ || decide (c < 0)) false, true)

/-- arrive b on a record (R187). -/
def arrivedAt (v : BitVec 64) (b : Nat) : BitVec 64 × Bool :=
  let c : Int := max (-2 ^ 31) (barCount v - b)
  let over_ : Bool := v.getLsbD 33 || decide (barCount v - b < -2 ^ 31)
  if v.getLsbD 34 && decide (c ≤ 0) then (barRecord c (!barPhase v) (over_ || decide (c < 0)) false, true)
  else (barRecord c (barPhase v) over_ (v.getLsbD 34), false)

/-- The word of a barrier form reaches one record: that of its one lane `l`, or of its lowest lane under an S code. It
lies in a team's scratchpad, in no invalid window block. -/
structure OneBar (i : Instr) (a : Reg) (ty : AccessType) (s : State) (g : Grp) (l tc tn off : Nat) (tm : Team) : Prop where
  once : RunsOnce i s g
  lead : lowest (active i s g) = some l
  one : active i s g = oneLane l ∨ ∃ r, a = .s r
  good : barCheck s g (opI (envOf s g l) 2 a.op) ty =
    .ok { place := .scr tc tn off, gr := 512, shr := false, nc := false, norepl := false }
  core : tc < s.cores.length
  team : teamAt s tc tn = some tm
  wf : Memory.wf tm.bytes = true
  backed : ∀ w b, backingOf tm off ≠ .invalid w b

/-- The word of a barrier form with a V code reaches one record for each of its lanes, `off` of a team's scratchpad. -/
structure LaneBars (i : Instr) (a : Reg) (ty : AccessType) (s : State) (g : Grp) (tc tn : Nat) (off : Nat → Nat) (tm : Team) :
    Prop where
  once : RunsOnce i s g
  vector : ∃ r, a = .v r
  good : ∀ l, (active i s g).getLsbD l = true → off l % 8 = 0 ∧ (∀ w b, backingOf tm (off l) ≠ .invalid w b)
    ∧ barCheck s g (opI (envOf s g l) 2 a.op) ty =
      .ok { place := .scr tc tn (off l), gr := 512, shr := false, nc := false, norepl := false }
  core : tc < s.cores.length
  team : teamAt s tc tn = some tm
  wf : Memory.wf tm.bytes = true

/-- The record. -/
def recordAt (tm : Team) (off : Nat) : BitVec 64 := BitVec.ofNat 64 (readLe tm.bytes off 8)

/-- Every lane of the package after a barrier at a place has flipped, or not; a reservation there may have gone. -/
def Released (s t : State) (p : Place) (flipped : Bool) : Prop :=
  ∀ c k g, grpAt s c k = some g → ∃ g', grpAt t c k = some g' ∧ ∀ l,
    let ln := laneAt g l
    laneAt g' l = { if flipped = true ∧ ln.wait = .barw p then { ln with wait := .ready, pc := ln.pc + 8 } else ln with
      resv := (laneAt g' l).resv }

/-- The value of an element after a sweep's operation on integers (R198). -/
def sweptInt (op : SweepOp) (sat : Bool) (x y : BitVec 32) : Nat :=
  match op with
  | .add => (narrowed sat true 32 (x.toInt + y.toInt)).toNat
  | .mul => (narrowed sat true 32 (x.toInt * y.toInt)).toNat
  | .max => (if y.toInt ≤ x.toInt then x else y).toNat
  | .min => (if x.toInt ≤ y.toInt then x else y).toNat
  | .set => y.toNat

/-- An element's address (R197): the base plus the strided indices, the first index fastest. -/
def elementAddr (it : Iter) (n : Nat) : Dword :=
  let e (d : Nat) : Nat := it.extent.getD d 1
  let st (d : Nat) : Int := it.stride.getD d 0
  let i0 : Int := n % e 0
  let i1 : Int := n / e 0 % e 1
  let i2 : Int := n / e 0 / e 1 % e 2
  let i3 : Int := n / e 0 / e 1 / e 2 % e 3
  BitVec.ofNat 64 it.addr + BitVec.ofInt 64 (i0 * st 0 + i1 * st 1 + i2 * st 2 + i3 * st 3)

/-- A place of a team's scratchpad that accesses may use, and its bytes. -/
structure Pad (s : State) (c t off : Nat) (tm : Team) : Prop where
  core : c < s.cores.length
  team : teamAt s c t = some tm
  wf : Memory.wf tm.bytes = true
  backed : ∀ w b, backingOf tm off ≠ .invalid w b

/-- The new job of the copy engine that a word starts. -/
def newJob (s : State) (g : Grp) (i : Instr) (k : JobKind) : Job :=
  { id := s.nextId, slot := s.cur.slot, team := g.team, grid := g.grid, word := i.encode.getD 0, kind := k, next := 0,
    extra := [], paused := false, cancelled := false }
def withJob (s : State) (j : Job) : State :=
  let t := modCore s s.cur.core fun x => { x with jobs := x.jobs ++ [j] }
  { t with nextId := s.nextId + 1 }

/-! ## The matrix engine (R199 to R213) -/

/-- Bits of an element of a kind, and the group size. -/
def bitsOfKind : Kind → Nat
  | .int4g => 4
  | .int8g | .e4m3 | .e5m2 => 8
  | .fp16 | .bf16 => 16
def grouped (k : Kind) : Bool := k = .int8g || k = .int4g
def groupSize : GSize → Nat
  | .g32 => 32
  | .g64 => 64
  | .g128 => 128

/-- The groups of a vector of NB slabs; the last may be cut short (a reading of the model: log 105). -/
def groupsOf (gs : GSize) (nb : Nat) : Nat := (32 * nb + groupSize gs - 1) / groupSize gs

/-- Bytes of a panel of NB slabs with its sidecar (R204, R205), and of a table row (R210). -/
def panelLen (k : Kind) (gs : GSize) (nb : Nat) : Nat :=
  nb * 256 * bitsOfKind k + if grouped k then 256 * groupsOf gs nb else 0
def rowLen (k : Kind) (gs : GSize) (nb : Nat) : Nat :=
  4 * nb * bitsOfKind k + if grouped k then 4 * groupsOf gs nb else 0

/-- A matrix word as the engine accepts it: its handle, tile and kind, its snapshot, and the limits of its form. -/
structure MatrixForm where
  h : HReg
  tile : Nat
  kind : Nat
  what : MKind
  limits : Prop

/-- The limits of a tile move (R212). -/
def moveLimits (es o st shared : Nat) : Prop :=
  let st' := if st = 0 then 64 * es else st
  64 * es ≤ st' ∧ st' % 16 = 0 ∧ o % 16 = 0 ∧ o + 63 * st' + 64 * es ≤ shared

/-- The bytes of an element of MLDZ and of MSTZ. -/
def ldBytes (f : LdFmt) : Nat := if f = .f32 then 4 else 2
def stBytes (f : StFmt) : Nat := match f with | .f32 => 4 | .f16 | .bf16 => 2 | .e4m3 | .e5m2 => 1

def matrixForm (s : State) (g : Grp) (l : Nat) (shared : Nat) : Instr → Option MatrixForm
  | .mma _ h t ka kb ga gb ovw a b c =>
    let nb := opI (envOf s g l) 1 c
    let pa := getS g a.val 1
    let pb := getS g b.val 1
    some
      { h := h, tile := t.val, kind := 1, what := .mma ka kb ga gb ovw pa pb nb
        limits := 1 ≤ nb ∧ nb ≤ 1024 ∧ pa % 128 = 0 ∧ pb % 128 = 0 ∧ pa + panelLen ka ga nb ≤ shared
          ∧ pb + panelLen kb gb nb ≤ shared }
  | .mmag gd h t ka kb ga gb ovw a b c =>
    let d (i : Nat) : Nat := getS g (c.val + i) 1
    let nb := d 1 % 2 ^ 16
    let rs := d 1 / 2 ^ 16 * 16
    let pb := getS g b.val 1
    let row (l : Nat) : Option Nat :=
      if (guarded gd g s.cur.mask).getLsbD l then
        (let u := getV (laneAt g l) ((laneAt g l).base + a.val) 1
         if u = 0xFFFFFFFF then none else some u)
      else none
    some
      { h := h, tile := t.val, kind := 2
        what := .mmag ka kb ga gb ovw pb (d 0) rs nb (d 2) ((List.range 64).map row)
        limits := 1 ≤ nb ∧ nb ≤ 1024 ∧ rs ≠ 0 ∧ rowLen ka ga nb ≤ rs ∧ d 3 = 0 ∧ pb % 128 = 0 ∧ d 0 % 16 = 0
          ∧ (d 2 = 0xFFFFFFFF ∨ d 2 % 8 = 0 ∧ d 2 + 8 ≤ shared) ∧ pb + panelLen kb gb nb ≤ shared
          ∧ ∀ l u, l < 64 → row l = some u → d 0 + u * rs + rowLen ka ga nb ≤ shared }
  | .mzero _ h t b =>
    let c := opI (envOf s g l) 1 b
    some { h := h, tile := t.val, kind := 3, what := .mzero c, limits := c ≠ 0 ∧ t.val + c ≤ 128 }
  | .mldz _ h f t a b =>
    let o := getS g a.val 1
    let st := opI (envOf s g l) 1 b
    some { h := h, tile := t.val, kind := 4, what := .mldz f o st, limits := moveLimits (ldBytes f) o st shared }
  | .mstz _ h f rm sat t a b =>
    let o := getS g a.val 1
    let st := opI (envOf s g l) 1 b
    some { h := h, tile := t.val, kind := 5, what := .mstz f rm sat o st, limits := moveLimits (stBytes f) o st shared }
  | _ => none

/-- Element `k` of vector `v` of a panel at `p`: its stored byte is the logical one with its 16 B chunk exchanged
(R204). -/
def panelElem (m : Memory) (p bits v k : Nat) : Nat :=
  let u := k / 32 * (64 * 4 * bits) + v * (4 * bits) + k % 32 * bits / 8
  let at_ := p + (u ^^^ ((u >>> 7 &&& 7) <<< 4))
  readLe m at_ (if bits = 16 then 2 else 1) / (if bits = 4 then 2 ^ (4 * (k % 2)) else 1) % 2 ^ bits

/-- The group record of vector `v` for element `k` (R205). -/
def panelRecord (m : Memory) (p bits nb gs v k : Nat) : Nat := readLe m (p + nb * 256 * bits + 4 * (64 * (k / gs) + v)) 4

/-- The exact value of an element of a float kind, and of a grouped one: its code minus the zero point, times the
scale (R59, R69, R70). -/
def elemQ (m : Memory) (p nb : Nat) (kd : Kind) (gs : GSize) (v k : Nat) : Option ℚ :=
  let bits := bitsOfKind kd
  let c := panelElem m p bits v k
  match kd with
  | .e4m3 => codeVal fmtE4m3 c
  | .e5m2 => codeVal fmtE5m2 c
  | .fp16 => codeVal fmt16 c
  | .bf16 => codeVal fmtB16 c
  | .int8g | .int4g =>
    let r := panelRecord m p bits nb (groupSize gs) v k
    (codeVal fmt16 (r % 2 ^ 16)).map fun sc => ((c : Int) - ((r / 2 ^ 16 % 2 ^ bits : Nat) : Int) : ℚ) * sc

/-- The exact sum of a step's products (R209). -/
def stepSum (a b : Nat → ℚ) : ℚ := ((List.range 32).map fun k => a k * b k).sum

/-- The head operation of a core's matrix engine, which may take its next step: its group is not frozen, its team has no
mapped window, and no error is armed against the engine. -/
structure HeadOp (s : State) (c : Nat) (m : MOp) (ms : List MOp) (g : Grp) (tm : Team) : Prop where
  core : c < s.cores.length
  head : (coreAt s c).mops = m :: ms
  grp : grpAt s c m.slot = some g
  going : g.frozen = false
  team : teamAt s c m.team = some tm
  plain : ∀ w, tm.wins.getD w none = none
  wf : Memory.wf tm.bytes = true
  tiles : Sparse.wfFrom 0 (coreAt s c).tiles = true
  handle : m.h.val < g.handles.length
  calm : armedFor s c 5 = false

/-- The handle of an operation after one more step (R195). -/
def steppedHandle (w : Nat) (last : Bool) : Word :=
  BitVec.ofNat 32 (min (w / 256 + 1) (2 ^ 24 - 1) * 256 + w / 16 % 16 * 16 + if last then 2 else w % 4)

/-- The engine after a step: the rest of the operations, and the handle. -/
def Stepped (u : State) (c : Nat) (m : MOp) (ms : List MOp) (g : Grp) (latch : List (List Byte)) (last : Bool) : Prop :=
  (coreAt u c).mops = (if last then ms else { m with steps := m.steps + 1, latch := latch } :: ms)
    ∧ ∃ g', grpAt u c m.slot = some g'
      ∧ g'.handles.getD m.h.val 0 = steppedHandle (g.handles.getD m.h.val 0).toNat last

/-- Word (i, j) of a tile. -/
def tileWord (s : State) (c t i j : Nat) : Word := sget (coreAt s c).tiles (4096 * t + 64 * i + j)

/-! ## Transactions (R296 to R316) -/

/-- A lane after its transaction `t` has aborted (R306): the snapshot is back, it is ready at `pc`, and LSW holds TRY and
CAUSE. -/
def AbortedTo (ln : Lane) (t : Txn) (pc : Dword) (tr cause : Nat) (new : Lane) : Prop :=
  new = { ln with
    preds := t.preds, depth := t.depth, base := t.base, cab := t.cab, spill := t.spill, txn := none, wait := .ready
    pc := pc, lsw := new.lsw, regs := new.regs, conflict := new.conflict, starve := new.starve }
  ∧ new.lsw.getLsbD 31 = false ∧ (new.lsw.extractLsb' 27 4).toNat = tr ∧ (new.lsw.extractLsb' 22 5).toNat = cause
  ∧ new.lsw.setWidth 22 = ln.lsw.setWidth 22
  ∧ (∀ i, i < t.regs.length → sget new.regs (t.base + t.d + i) = t.regs.getD i 0)
  ∧ ∀ p, p < t.base + t.d ∨ t.base + t.d + t.regs.length ≤ p → sget new.regs p = sget ln.regs p

/-- The fields TRY and CAUSE of a lane's status word. -/
def tryOf (ln : Lane) : Nat := (ln.lsw.extractLsb' 27 4).toNat
def causeOf (ln : Lane) : Nat := (ln.lsw.extractLsb' 22 5).toNat

/-- A lane inside the transaction `t`. -/
def Inside (ln : Lane) (t : Txn) : Prop := ln.txn = some t ∧ ln.lsw.getLsbD 31 = true ∧ Sparse.wfFrom 0 ln.regs = true

/-- The word runs in one lane, which is inside the transaction `t`. -/
structure OneInside (i : Instr) (s : State) (g : Grp) (l : Nat) (t : Txn) : Prop where
  runs : Runs i s g
  set : s.cur.mask = oneLane l
  act : active i s g = oneLane l
  lane : l < 64
  lanes : g.lanes.length = 64
  core : s.cur.core < s.cores.length
  inside : Inside (laneAt g l) t

/-- The word aborts the transaction `t` of its one lane: no other lane of the group changes but in a count of R82, and no byte
of memory. -/
def Aborts (i : Instr) (s : State) (g : Grp) (l : Nat) (t : Txn) (pc : Dword) (tr cause : Nat) : Prop :=
  ∃ u g', exec i s = .next u ∧ u.mem = s.mem ∧ curGrp u = some g' ∧ AbortedTo (laneAt g l) t pc tr cause (laneAt g' l)
    ∧ ∀ j, j ≠ l → laneAt g' j = { laneAt g j with starve := (laneAt g' j).starve }

/-- The bytes of an access that the stores of a transaction hold (R302). -/
def ownOf (t : Txn) (pa n : Nat) : List (Nat × Byte) :=
  (List.range n).filterMap fun i =>
    if t.masked.any (fun m => m.1 ≤ pa + i && pa + i < m.1 + m.2.1) then some (pa + i, sget t.writes (pa + i)) else none

/-- The words that no transaction may run (R301): atomics, waits, fences, group operations, windows, copies, barriers,
handles, sweeps, calls, launches, and TBEGIN; then those of the matrix engine. -/
def unsupported : Instr → Bool
  | .atom .. | .atomW64 .. | .acas .. | .lr .. | .sc .. | .partn .. | .waitv .. | .fence .. | .xfence ..
  | .shfl .. | .slide .. | .vote .. | .ballot .. | .ballotR .. | .gred .. | .gscan .. | .mskopAnd .. | .mskopOr ..
  | .mskopXor .. | .mskopAndn .. | .mskopNot .. | .mskopLd .. | .mskopSt .. | .mskopLive .. | .mskopArrv .. | .tbar ..
  | .cbar .. | .rolesw .. | .wmap .. | .wflush .. | .wdrop .. | .cpy .. | .cpyg .. | .bari .. | .barx .. | .barw ..
  | .bart .. | .hwait .. | .htest .. | .hcan .. | .tswp .. | .tldi .. | .sysc .. | .lnch .. | .tbegin .. => true
  | _ => false
def matrixWords : Instr → Bool
  | .macq .. | .mrel .. | .mma .. | .mmag .. | .mzero .. | .mldz .. | .mstz .. => true
  | _ => false

/-- A lane after TBEGIN has opened its transaction (R300). -/
def opensTxn (now : Nat) (ln : Lane) (d n : Nat) (handler : Dword) : Lane :=
  let t : Txn :=
    { restart := ln.pc, handler := handler, d := d
      regs := (List.range n).map fun i => sget ln.regs (ln.base + d + i)
      preds := ln.preds, depth := ln.depth, base := ln.base, cab := ln.cab, spill := ln.spill
      reads := [], writes := [], masked := [], anchor := none }
  { ln with
    lsw := ln.lsw ||| 0x80000000, resv := none, txn := some t, txnStart := BitVec.ofNat 64 now, wait := .ready
    pc := ln.pc + 8 }

/-- Whether an address lies in a transaction's stores. -/
def inStores (t : Txn) (q : Nat) : Prop := ∃ m ∈ t.masked, m.1 ≤ q ∧ q < m.1 + m.2.1

/-- No grain is owned, has a write queued, a lease that has not passed, or a read of the present clock (R317). -/
def HomesFree (s : State) : Prop := ∀ h ∈ s.homes, h.owner = none ∧ h.queue = [] ∧ performAt h ≤ s.clock

/-- A ticket of a lane whose commit may take its locks at once (R303, R304, R314): the lane has no access left, no lower
ticket stands before it, no grain holds it back, and its stores can be made (R287). -/
structure MayCommit (s : State) (n c k l : Nat) (g : Grp) (t : Txn) : Prop where
  core : c < s.cores.length
  grp : grpAt s c k = some g
  lane : l < g.lanes.length
  kept : g.dropped = false
  inside : Inside (laneAt g l) t
  quiet : ∀ a ∈ (coreAt s c).pend ++ (coreAt s c).outb, ¬(a.slot = k ∧ a.lane = l)
  ticket : ∃ last, s.tickets = [{ num := n, who := .lane c k l, last := last, ended := false }]
  helms : ∀ h ∈ s.helms, h.ticket = none
  hosts : s.hostLines = []
  copies : s.directory = []
  free : HomesFree s
  able : ∀ m ∈ t.masked, storeFails s m.1 = none

/-- What a record of the read set holds, memory holds still. -/
def Holds (m : Memory) (r : ReadRec) : Prop := ∀ b ∈ r.bytes, sget m b.1 = b.2

/-! ## Helm transactions (R312 to R314) -/

/-- A helm core after its transaction has aborted: the checkpoint is back, rd takes the cause, and it stands behind its
HTBEGIN. -/
def helmAborted (x : Helm) (r : HelmRegs) (cause : Nat) : Helm :=
  { x with
    regs := { pc := r.pc + 4, x := if x.rd = 0 then r.x else r.x.set x.rd (BitVec.ofNat 64 cause), f := r.f }
    checkpoint := none, depth := 0, cause := cause, rsig := [], wsig := [], writes := [], ticket := none }

/-- A helm core with an integer register written, at its next instruction. -/
def helmWrites (x : Helm) (rd : Nat) (v : Dword) : Helm :=
  let xs : List Dword := if rd = 0 then x.regs.x else x.regs.x.set rd v
  { x with regs := { x.regs with pc := x.regs.pc + 4, x := xs } }

/-- One helm core changed. -/
def putHelm (s : State) (h : Nat) (x : Helm) : State := { s with helms := s.helms.set h x }

/-! ## Traps, the supervisor, barriers (R134 to R161, R220 to R240) -/

/-- The words of the supervisor group (R223). -/
def supervisorWord : Instr → Bool
  | .sretReply .. | .sretResume .. | .sretDrop .. | .mboxWait .. | .mboxPop .. | .mboxStat .. | .ctxsG .. | .ctxsT ..
  | .ctxlG .. | .ctxlT .. | .tinvAll .. | .tinvPage .. => true
  | _ => false

/-- A supervisor word that runs in the supervisor group, for at least one lane. -/
def RunsSv (i : Instr) (s : State) (g : Grp) : Prop :=
  Runs i s g ∧ g.supervisor = true ∧ active i s g ≠ 0 ∧ s.cur.core < s.cores.length

/-- The word writes a status to S`d`, and goes on, in the state `t`. -/
def answers (i : Instr) (s t : State) (d : SReg) (v : Nat) : Prop :=
  ∃ g, curGrp t = some g ∧ exec i s = .next (finishWord (setCurGrp t (putS g d.val 1 v)))

/-- The user group that a slot word in S`a` names (R225): its slot is 8 × partition + number. -/
def Names (s : State) (g : Grp) (a : SReg) (k : Nat) (t : Grp) : Prop :=
  let w := getS g a.val 1
  w < 128 ∧ w % 16 < 12 ∧ k = 8 * (w % 16) + w / 16 ∧ k ≠ 0 ∧ grpAt s s.cur.core k = some t
def NamesNone (s : State) (g : Grp) (a : SReg) : Prop := ∀ k t, ¬Names s g a k t

/-- The value of a register of the user view (R224, R226). -/
def readsUser (s : State) (g : Grp) (ln : Lane) : UReg → Nat
  | .lsw => ln.lsw.toNat
  | .ftz => g.ftz.toNat
  | .fair => g.fair.toNat
  | .rdvz => g.rdvz.toNat
  | .dmr => g.dmr.toNat
  | .dmrc => g.dmrc.toNat
  | .dmra => g.dmra.toNat
  | .hint => g.hint.toNat
  | .spill => g.spill.toNat
  | .tretry => g.tretry.toNat
  | .mer => s.clock / 16
  | .grid => g.grid.toNat
  | .place => s.cur.core * 2 ^ 24 + g.team % 256 * 2 ^ 16 + (s.cur.slot % 8 * 16 + s.cur.slot / 8)
  | .vdep => (coreAt s s.cur.core).vdep.toNat
  | .varr => (coreAt s s.cur.core).varr.toNat
  | .vhar => (coreAt s s.cur.core).vhar.toNat
  | .vmus => (coreAt s s.cur.core).vmus.toNat
  | .vber => (coreAt s s.cur.core).vber.toNat / 2 ^ 16 * 2 ^ 16 + berthCount (coreAt s s.cur.core)
  | .vgen => (coreAt s s.cur.core).vgen.toNat

/-- A group after a write of one of its own registers: the RW fields alone take the value. -/
def writesUser (g : Grp) (v : Nat) : UReg → Grp
  | .ftz => { g with ftz := BitVec.ofNat 32 v &&& 0x7 }
  | .fair => { g with fair := BitVec.ofNat 32 v &&& 0xFFFF }
  | .rdvz => { g with rdvz := BitVec.ofNat 32 v }
  | .dmr => { g with dmr := BitVec.ofNat 32 v &&& 0x3 }
  | .dmrc => { g with dmrc := BitVec.ofNat 64 v }
  | .dmra => { g with dmra := BitVec.ofNat 64 v }
  | .hint => { g with hint := BitVec.ofNat 64 v }
  | .tretry => { g with tretry := BitVec.ofNat 32 v &&& 0xFFFF000F }
  | _ => g

/-- A core after a write of one of its registers through the supervisor view (R269, R270). -/
def writesVoy (x : Core) (v : Nat) : UReg → Core
  | .vdep => { x with vdep := BitVec.ofNat 64 v }
  | .varr => { x with varr := BitVec.ofNat 64 v }
  | .vhar => { x with vhar := BitVec.ofNat 64 v }
  | .vmus => { x with vmus := BitVec.ofNat 64 v }
  | .vber => { x with vber := BitVec.ofNat 32 v &&& 0x01FF0000 }
  | _ => x

/-- The HEAD of a ring after a write: past TAIL it becomes TAIL (R222, R322, R371). -/
def headWritten (tail head : Nat) (v : Dword) : Nat :=
  let n : BitVec 32 := v.setWidth 32 - BitVec.ofNat 32 head
  if (BitVec.ofNat 32 tail - BitVec.ofNat 32 head).toNat < n.toNat then tail else (v.setWidth 32).toNat

/-- A trap record's fields in memory (R221). -/
def RecordAt (m : Memory) (pa now : Nat) (r : TrapRec) : Prop :=
  readLe m pa 8 = r.mask.toNat ∧ readLe m (pa + 8) 8 = r.pc.toNat ∧ readLe m (pa + 16) 8 = r.addr % 2 ^ 64
    ∧ readLe m (pa + 24) 8 = r.info % 2 ^ 64 ∧ readLe m (pa + 32) 1 = r.cause % 256 ∧ readLe m (pa + 33) 1 = r.kind % 256
    ∧ readLe m (pa + 34) 1 = r.slot / 8 % 256 ∧ readLe m (pa + 35) 1 = r.slot % 8 ∧ readLe m (pa + 36) 1 = r.team % 256
    ∧ readLe m (pa + 37) 3 = 0 ∧ readLe m (pa + 40) 8 = now % 2 ^ 64 ∧ readLe m (pa + 48) 8 = r.grid.toNat
    ∧ readLe m (pa + 56) 8 = 0

/-- Lanes that leave a parked word: ready behind it. -/
def wokenFrom (w : Wait) (ln : Lane) : Lane := if ln.wait = w then { ln with wait := .ready, pc := ln.pc + 8 } else ln

/-- The barrier of a team after an arrival. -/
def setTeamBar (tm : Team) (id : Nat) (b : Barrier) : Team := { tm with bars := tm.bars.set id b }

/-- A lane that ROLESW starts anew (R161). -/
def freshRole (ln : Lane) (entry keep : Nat) : Lane :=
  { ln with
    pc := BitVec.ofNat 64 entry, depth := 0, base := 0, cab := [], spill := 0, preds := 0x80, starve := 0, wait := .ready
    regs := ln.regs.filter fun r => decide (r.1 < keep), resv := none }

/-! ## Voyages (R254 to R271) -/

/-- Core `c` stands in a voyage grid: its part, its team and its grid. -/
structure AtVoyage (s : State) (c : Nat) (v : Voyage) (tm : Team) (gr : Grid) : Prop where
  core : c < s.cores.length
  part : (coreAt s c).voyage = some v
  team : teamAt s c v.team = some tm
  own : tm.grid = v.grid
  grid : gridOf s v.grid = some gr

/-- A PC lies in a segment. -/
def inSegment (sg : Segment) (pc : Nat) : Prop := sg.start ≤ pc ∧ pc < sg.start + sg.len

/-- Voyagers have entered the berth of core `c`, which held `b`, and no batch of them is due yet (R259, R262): MUSTER is
not 0, and no PC has 64 voyagers. -/
def Berths (s t : State) (c : Nat) (v : Voyage) (new : List Berthed) : Prop :=
  (coreAt t c).varr.toNat = min (2 ^ 64 - 1) ((coreAt s c).varr.toNat + new.length)
    ∧ (v.chart.muster ≠ 0 → (∀ pc, ((v.berth ++ new).filter fun b => b.v.pc = pc).length < 64) →
      (coreAt t c).voyage = some { v with berth := v.berth ++ new })

/-- A lane that has taken a voyager at muster (R263). -/
def Mustered (ln : Lane) (v : Voyager) : Prop :=
  ln = { Lane.empty with
    status := .live, pc := v.pc, preds := v.preds ||| 0x80, base := v.base, depth := v.depth, cab := v.cab
    spill := v.spill, fibre := v.fibre, resv := v.resv, regs := ln.regs }
  ∧ ∀ n, sget ln.regs n = if v.base ≤ n ∧ n < v.base + v.regs.length then v.regs.getD (n - v.base) 0 else 0

/-- A chart without cluster core `cc` among its holders, of the next generation. -/
def WithoutHolder (ch ch' : Chart) (cc : Nat) : Prop :=
  ch'.gen = (ch.gen + 1) % 2 ^ 16 ∧ ch'.segs.map (·.holders) = ch.segs.map fun sg => sg.holders.filter (· ≠ cc)

/-! ## The mailbox and its firmware (R227, R231, R338 to R340, R358) -/

/-- The supervisor of core `c` runs, and `r` is the oldest record of its mailbox. -/
structure Heads (s : State) (c : Nat) (r : List Byte) (rs : List (List Byte)) : Prop where
  core : c < s.cores.length
  runs : ∃ g, grpAt s c 0 = some g ∧ g.supervisor = true ∧ g.stop = none
  box : (coreAt s c).mailbox = r :: rs

/-- The user group that a record names: PART, SLOT and GRID (R227, R339). -/
structure ForGroup (s : State) (c : Nat) (r : List Byte) (k : Nat) (g : Grp) : Prop where
  slot : k = 8 * fieldAt r 2 1 + fieldAt r 3 1 % 8
  grp : grpAt s c k = some g
  grid : g.grid = BitVec.ofNat 64 (fieldAt r 8 8)
  user : g.supervisor = false
  kept : g.dropped = false

/-- The group after its SYSC to S`d` has its reply. -/
def Answered (g : Grp) (d v : Nat) : Grp := { putS g d 2 v with sysc := none, lanes := g.lanes.map (wokenFrom .sysc) }

/-- The task of a grid has ended with a status: the grid completes with it, and no cluster of it starts any more. -/
def Ended (t : State) (id : Dword) (status : Nat) : Prop :=
  (∃ gr, gridOf t id = some gr ∧ gr.stage = .ending status) ∧ (∀ bs ∈ t.binds, ∀ b ∈ bs, b.grid ≠ id)
    ∧ ∀ fs ∈ t.regions, ∀ f ∈ fs, f.grid ≠ id

/-- The record has left the mailbox, and a helm kernel's reply to it is on its way (R339). -/
def Replies (s t : State) (c : Nat) (r : List Byte) (rs : List (List Byte)) (v : Nat) : Prop :=
  (coreAt t c).mailbox = rs ∧ ∃ p, (coreAt t c).posts = (coreAt s c).posts ++ [p] ∧ p.length = 64 ∧ fieldAt p 0 2 = 2
    ∧ fieldAt p 2 1 = fieldAt r 2 1 ∧ fieldAt p 3 1 = fieldAt r 3 1 ∧ fieldAt p 4 4 = 0 ∧ fieldAt p 8 8 = fieldAt r 8 8
    ∧ fieldAt p 16 8 = v % 2 ^ 64

/-- File data after `bs` has been written at an offset. -/
def Spliced (old new : List Byte) (off : Nat) (bs : List Byte) : Prop :=
  new.length = max old.length (off + bs.length)
    ∧ ∀ i, new.getD i 0 = if off ≤ i ∧ i < off + bs.length then bs.getD (i - off) 0 else old.getD i 0

/-! ## Launching (R233, R328 to R337) -/

/-- A held grid of identifier `id` whose dependences are met in `s` has been admitted, refused or left waiting (R331,
R332): it runs under its residency lease, or is to complete with a status. -/
def Admitted (s t : State) (id : Dword) (r : List Byte) : Prop :=
  match admission s r with
  | .granted pins ch => ∃ g, gridOf t id = some g ∧ g.stage = .running ∧ g.pins = pins ∧ g.chart = ch
      ∧ g.pinnedBytes = (pins.map (·.size)).sum
  | .refuse st => ∃ g, gridOf t id = some g ∧ g.stage = .ending st
  | .wait => t = if recVoyage r then askLines s (recRoot r) (recChart r) 7 else s

/-- A team has started on a core (R246, R336): it has a free number and its zeroed allotment, and its groups stand in slots
that were free, with every lane live at the entry and the fibre numbers of its place in the grid. -/
def Started (r : List Byte) (id : Dword) (q : Nat) (cores : List Nat) (c : Nat) (x y : Core) : Prop :=
  ∃ n, n < 128 ∧ (∀ t ∈ x.teams, t.num ≠ n)
    ∧ y.teams = x.teams ++ [{ Team.fresh with
        num := n, grid := id, cluster := q, ccore := c, place := cores, shared := recShared r }]
    ∧ ((x.teams.filter fun t => t.num < 128).map (·.shared)).sum + recShared r ≤ 1310720
    ∧ ∀ i, i < recGpt r → ∃ k h, grpIn x k = none ∧ grpIn y k = some h ∧ h.grid = id ∧ h.team = n ∧ h.index = i
      ∧ h.alloc = recRegs r ∧ h.scal = recScal r ∧ h.prio = recPrio r
      ∧ (∀ j, j < 256 → (sget h.sregs j).toNat = if j < recArgc r ∧ j < recScal r then recArg r j else 0)
      ∧ ∀ l, l < 64 → laneAt h l = { Lane.empty with
        status := .live, pc := BitVec.ofNat 64 (recEntry r)
        fibre := BitVec.ofNat 32 (((q * recCores r + c) * recGpt r + i) * 64 + l) }

/-! ## Ports (R343 to R356) -/

/-- A bus address of port `p`: BAR2 of an endpoint or a device is 1 TiB (R353). -/
def onBus (s : State) (p : Fin 4) (addr : Dword) : Prop := portRole s p.val = 1 ∨ addr.toNat < 2 ^ 40

/-- An inbound request of a requester translates, through its context's table, to memory that is backed (R349). -/
structure Arrives (s : State) (q : Requester) (addr : Dword) (n : Nat) (wr : Bool) (lf : Leaf) (pa : Nat) : Prop where
  up : portState s q.port.val = 2
  bus : onBus s q.port addr
  some_ : 0 < n
  page : addr.toNat % 4096 + n ≤ 4096
  plain : landingTag addr.toNat = none
  leaf : ioLeaf s q.port.val q.rid.toNat addr.toNat wr = some lf
  at_ : pa = lf.pa + (addr.toNat - lf.va)
  backed : backed s pa = true

/-- A field of a port's register (R345). -/
def portField (s : State) (p : Fin 4) (lo n : Nat) : Nat := ((s.ports.getD p.val 0).extractLsb' lo n).toNat

/-- An inbound write as it arrives at the ordering point. -/
def inboundAs (s : State) (p : Fin 4) (ro : Bool) (pa gr : Nat) (bs : List Byte) : Inbound :=
  { id := s.nextId, port := p.val, ro := ro, place := .glob pa, bytes := bs, gr := gr
    route := sliceDie (homeNow s pa), state := .held, land := none }

/-- A write has entered its home's queue. -/
def queuedAt (s : State) (w : Inbound) (pa : Nat) : State :=
  let h := homeOf s pa w.gr
  putHome
    { s with
      inbound := s.inbound.map fun v => if v.id = w.id then { v with state := .queued, order := s.nextId } else v
      nextId := s.nextId + 1 }
    { h with queue := h.queue ++ [{ src := .inbound w.id, pa := pa, bytes := w.bytes }], len := 2, wrote := true }

/-! ## The fabric and errors (R361 to R376) -/

/-- A field of a fabric port's register, and of pk.fab (R363). -/
def fportField (s : State) (i : Fin 12) (lo n : Nat) : Nat := ((s.fports.getD i.val 0).extractLsb' lo n).toNat
def fabField (s : State) (lo n : Nat) : Nat := (s.fab.extractLsb' lo n).toNat

/-- A request of endpoint `e` for `n` bytes reaches its home here (R365): the fabric works, the endpoint is another one and
not lost, and the bytes are backed and lie in one block. -/
structure Remote (s : State) (e : Fin 1024) (pa n : Nat) : Prop where
  named : fabField s 31 1 = 1
  other : fabField s 0 10 ≠ e.val
  up : ∃ i : Fin 12, fportField s i 8 4 = 2
  there : e.val ∉ s.lostEnds
  some_ : 0 < n
  most : n ≤ 256
  block : pa % 512 + n ≤ 512
  given : ∃ x ∈ s.exports, x.1 = e.val ∧ x.2.1 ≤ pa ∧ pa + n ≤ x.2.1 + x.2.2
  backed : backed s pa = true

/-- The endpoints that hold a copy of a block, as the switch directory lists them. -/
def copyHolders (s : State) (g : Nat) : List Nat := ((s.directory.find? fun d => d.grain = g).map (·.ends)).getD []

/-- The two registers of an error log, from their fields (R373). -/
def elsWord (uc more inj : Bool) (syn : Nat) (ctx : BitVec 16) (count : Nat) : BitVec 64 :=
  BitVec.ofBool true ++ BitVec.ofBool uc ++ BitVec.ofBool more ++ BitVec.ofBool inj ++ (0 : BitVec 12) ++ BitVec.ofNat 16 syn
    ++ ctx ++ BitVec.ofNat 16 count

/-- The context that a log takes: bit 7 of it is 0 (R373). -/
def ctxField (ctx : BitVec 16) : BitVec 16 := if ctx = 0xFFFF then ctx else ctx &&& 0xFF7F

/-- No error has reached log (u, k) in the present clock. -/
def Quiet (s : State) (u k : Nat) : Prop :=
  let e := logOf s u k
  e.last ≠ s.clock ∨ (e.recent = [] ∧ e.els0 = e.els ∧ e.ela0 = e.ela)

/-- An error has reached log (u, k) (R374): it fills an empty log; an uncorrected one replaces a corrected one, and sets OVER; any
other leaves the entry, and sets OVER. COUNT rises. -/
def LogTakes (s t : State) (u k : Nat) (uc inj : Bool) (syn : Nat) (ctx : BitVec 16) (addr : Nat) : Prop :=
  let e := logOf s u k
  let e' := logOf t u k
  let count := min 65535 (e.els.toNat % 2 ^ 16 + 1)
  if e.els.getLsbD 63 = false then e'.els = elsWord uc false inj syn (ctxField ctx) count ∧ e'.ela = BitVec.ofNat 64 (addr % 2 ^ 56)
  else if uc = true ∧ e.els.getLsbD 62 = false then
    e'.els = elsWord uc true inj syn (ctxField ctx) count ∧ e'.ela = BitVec.ofNat 64 (addr % 2 ^ 56)
  else e'.ela = e.ela ∧ e'.els = (e.els.extractLsb' 16 48 ++ BitVec.ofNat 16 count) ||| BitVec.ofNat 64 (2 ^ 61)

/-- A lifetime count has risen by 1, unless it is full (R376). -/
def Counted (s t : State) (i : Nat) : Prop :=
  (sget t.counts i).toNat = min (2 ^ 64 - 1) ((sget s.counts i).toNat + 1)

/-- The units that hold an array of a kind (R372). -/
def holdsArray (u k : Nat) : Prop :=
  (u < 176 ∧ k ∈ [1, 2, 3, 4, 5, 6, 11, 12]) ∨ (176 ≤ u ∧ u < 240 ∧ k ∈ [10, 11])
    ∨ (256 ≤ u ∧ u < 640 ∧ k ∈ [7, 8, 9, 11]) ∨ (u = 768 ∧ k = 11)

/-- A ring register after a write (R322, R371): BASE and SIZE take the value, a 1 clears OVF. -/
def ringWritten (old v : Dword) : Dword :=
  (v &&& 0x01FFFFFFFFFFF00F) ||| (old &&& ~~~v &&& 0x800)

/-! ## Encodings, steps, reset (R14 to R49, R313, R341) -/

/-- A group that issues its next word at this turn: it is not stopped, every lane of it is ready or dead, none is inside a
transaction, and nothing else of it comes first. -/
structure Issues (s : State) (c k : Nat) (g : Grp) (l : Nat) : Prop where
  grp : grpAt s c k = some g
  core : c < s.cores.length
  going : running g = true
  calm : g.causes = []
  one : g.rep = none
  fair : g.tack = none ∧ starving g = false
  ready : ∀ ln ∈ g.lanes, ln.wait = .ready ∧ ln.txn = none
  lead : lowest (nextSet g) = some l

/-- The 8 bytes at a group's PC are the word `w`: mapped for a fetch, backed, not poisoned. -/
def FetchesAt (s : State) (c : Nat) (g : Grp) (pc : Dword) (w : Nat) : Prop :=
  pc.toNat < ownAperture ∧ pc.toNat % 8 = 0 ∧ ∃ t pa, translate s c g pc.toNat .fetch = .ok t ∧ t.place = .glob pa ∧ windowUp s pa = false
    ∧ backed s pa = true ∧ (linesOf pa 8).any (linePoisoned s) = false ∧ readLe s.mem pa 8 = w

end Sys2Proof.Claims

open Sys2Proof Sys2Proof.Machine Sys2Proof.Claims

/-! ## Integer arithmetic (R52, R110) -/

/-- R52: an integer form without SAT delivers its exact result modulo 2^w and sets no flag: IADD, ISUB, IMUL, IMAD, INEG,
IABS. With SAT, they deliver the nearest value of the type, and set LSW.SAT exactly where that is not the exact result. The
forms of R110 that neither wrap nor saturate a sum: the high half of a product, the wide product-sum, the least
and the greatest, the clamp, and the scaled address. R111: IADDC adds the unsigned readings and bit 0 of c, writes the sum
modulo 2^w, and gives the carry to predicate `k`, unless that is 7. -/
def Obligations.IntegerForms : Prop :=
  (∀ (gd : Guard) (t : IntTy) (u : SignTy) (n : Reg) (a b c : Operand),
    Writes (.iadd gd t false n a b) n (regs12 t.w64) (fun e => (opB t e a + opB t e b).toNat) (fun _ => 0)
    ∧ Writes (.isub gd t false n a b) n (regs12 t.w64) (fun e => (opB t e a - opB t e b).toNat) (fun _ => 0)
    ∧ Writes (.imul gd t false n a b) n (regs12 t.w64) (fun e => (opB t e a * opB t e b).toNat) (fun _ => 0)
    ∧ Writes (.imad gd t false n a b c) n (regs12 t.w64) (fun e => (opB t e a * opB t e b + opB t e c).toNat)
        (fun _ => 0)
    ∧ Writes (.ineg gd u false n a) n (regs12 u.w64)
        (fun e => (-BitVec.ofNat (SignTy.width u) (opI e (regs12 u.w64) a)).toNat) (fun _ => 0)
    ∧ Writes (.iabs gd u false n a) n (regs12 u.w64)
        (fun e => (BitVec.ofNat (SignTy.width u) (opI e (regs12 u.w64) a)).abs.toNat) (fun _ => 0))
  ∧ (∀ (gd : Guard) (t : IntTy) (n : Reg) (a b c : Operand),
    let x (e : Env) (o : Operand) : Int := valOf t (opB t e o)
    Writes (.iadd gd t true n a b) n (regs12 t.w64) (fun e => patOf t (clampTo t (x e a + x e b)))
      (fun e => satFlag t (x e a + x e b))
    ∧ Writes (.isub gd t true n a b) n (regs12 t.w64) (fun e => patOf t (clampTo t (x e a - x e b)))
      (fun e => satFlag t (x e a - x e b))
    ∧ Writes (.imul gd t true n a b) n (regs12 t.w64) (fun e => patOf t (clampTo t (x e a * x e b)))
      (fun e => satFlag t (x e a * x e b))
    ∧ Writes (.imad gd t true n a b c) n (regs12 t.w64) (fun e => patOf t (clampTo t (x e a * x e b + x e c)))
      (fun e => satFlag t (x e a * x e b + x e c)))
  ∧ (∀ (gd : Guard) (u : SignTy) (n : Reg) (a : Operand),
    let x (e : Env) : Int := (BitVec.ofNat (SignTy.width u) (opI e (regs12 u.w64) a)).toInt
    Writes (.ineg gd u true n a) n (regs12 u.w64) (fun e => patOf (signTy u) (clampTo (signTy u) (-x e)))
      (fun e => satFlag (signTy u) (-x e))
    ∧ Writes (.iabs gd u true n a) n (regs12 u.w64) (fun e => patOf (signTy u) (clampTo (signTy u) |x e|))
      (fun e => satFlag (signTy u) |x e|))
  ∧ (∀ (gd : Guard) (t : IntTy) (u : Ty32) (n : Reg) (a b c : Operand) (sh : Fin 16),
    let x (e : Env) (o : Operand) : Int := valOf t (opB t e o)
    let y (e : Env) (o : Operand) : Int := elemVal (Ty32.signed u) (op32 e o)
    Writes (.imulh gd t n a b) n (regs12 t.w64)
      (fun e => pat (IntTy.width t) (Int.fdiv (x e a * x e b) (2 ^ IntTy.width t))) (fun _ => 0)
    ∧ Writes (.imadw gd u n a b c) n 2
        (fun e => (BitVec.ofInt 64 (y e a * y e b) + BitVec.ofNat 64 (opI e 2 c)).toNat) (fun _ => 0)
    ∧ Writes (.imin gd t n a b) n (regs12 t.w64) (fun e => patOf t (min (x e a) (x e b))) (fun _ => 0)
    ∧ Writes (.imax gd t n a b) n (regs12 t.w64) (fun e => patOf t (max (x e a) (x e b))) (fun _ => 0)
    ∧ Writes (.iclamp gd t n a b c) n (regs12 t.w64) (fun e => patOf t (min (max (x e a) (x e b)) (x e c)))
        (fun _ => 0)
    ∧ Writes (.lea gd u n a b sh) n 2
        (fun e => (BitVec.ofNat 64 (opI e 2 a) + BitVec.ofInt 64 (y e b * 2 ^ sh.val)).toNat) (fun _ => 0))
  ∧ (∀ (gd : Guard) (t : IntTy) (n : Reg) (a b c : Operand) (k : PReg),
    let u (e : Env) : Nat := (opB t e a).toNat + (opB t e b).toNat + (op32 e c).toNat % 2
    Writes (.iaddc gd t n a b c k) n (regs12 t.w64) (fun e => u e % 2 ^ IntTy.width t) (fun _ => 0) k
      (fun e => decide (2 ^ IntTy.width t ≤ u e)))

/-! ## Logic, bits and moves (R112 to R114, R30) -/

/-- The forms of R112: logic, shifts and rotations by a count modulo the width; the counting, reversing, selecting and
moving forms, and MOVI of R30. R113: BFX extracts the bits [p + n - 1 : p], clipped at bit 31; BFI replaces them. R114: each
byte of BPERM's result is the source byte that its nibble of c names, or that byte's sign in all bits. -/
def Obligations.LogicBitAndMoveForms : Prop :=
  (∀ (gd : Guard) (t : IntTy) (u : Ty32) (n : Reg) (a b c : Operand),
    let w := IntTy.width t
    let k := regs12 t.w64
    let count (e : Env) : Nat := (op32 e b).toNat % w
    Writes (.and gd t n a b) n k (fun e => (opB t e a &&& opB t e b).toNat) (fun _ => 0)
    ∧ Writes (.or gd t n a b) n k (fun e => (opB t e a ||| opB t e b).toNat) (fun _ => 0)
    ∧ Writes (.xor gd t n a b) n k (fun e => (opB t e a ^^^ opB t e b).toNat) (fun _ => 0)
    ∧ Writes (.andn gd t n a b) n k (fun e => (opB t e a &&& ~~~opB t e b).toNat) (fun _ => 0)
    ∧ Writes (.shl gd t n a b) n k (fun e => (opB t e a <<< count e).toNat) (fun _ => 0)
    ∧ Writes (.shr gd t n a b) n k (fun e => (opB t e a >>> count e).toNat) (fun _ => 0)
    ∧ Writes (.sar gd t n a b) n k (fun e => ((opB t e a).sshiftRight (count e)).toNat) (fun _ => 0)
    ∧ Writes (.rol gd t n a b) n k (fun e => ((opB t e a).rotateLeft (count e)).toNat) (fun _ => 0)
    ∧ Writes (.funnel gd u n a b c) n 1
        (fun e => (((op32 e a ++ op32 e b) >>> ((op32 e c).toNat % 32)).setWidth 32).toNat) (fun _ => 0))
  ∧ (∀ (gd : Guard) (t : IntTy) (n : Reg) (a b : Operand) (neg : Bool) (k : PReg) (imm : Word),
    let w := IntTy.width t
    let r := regs12 t.w64
    Writes (.popc gd t n a) n 1 (fun e => (List.range w).countP fun i => (opB t e a).getLsbD i) (fun _ => 0)
    ∧ Writes (.clz gd t n a) n 1
        (fun e => ((List.range w).takeWhile fun i => !(opB t e a).getMsbD i).length) (fun _ => 0)
    ∧ Writes (.ctz gd t n a) n 1
        (fun e => ((List.range w).takeWhile fun i => !(opB t e a).getLsbD i).length) (fun _ => 0)
    ∧ Writes (.brev gd t n a) n r (fun e => (opB t e a).reverse.toNat) (fun _ => 0)
    ∧ Writes (.sel gd t n a b neg k) n r
        (fun e => if getP e.lane k != neg then opI e r a else opI e r b) (fun _ => 0)
    ∧ Writes (.mov gd t n a) n r (fun e => opI e r a) (fun _ => 0)
    ∧ Writes (.movi gd .none n imm) n 1 (fun _ => imm.toNat) (fun _ => 0)
    ∧ Writes (.movi gd .n64 n imm) n 2 (fun _ => imm.toNat) (fun _ => 0)
    ∧ Writes (.movi gd .i64 n imm) n 2 (fun _ => (imm.signExtend 64).toNat) (fun _ => 0))
  ∧ (∀ (gd : Guard) (t : Ty32) (d : Reg) (a b c : Operand),
    Writes (.bfx gd t d a b c) d 1 (fun e =>
      let p := (op32 e b).toNat % 256
      let n := min ((op32 e c).toNat % 256) (32 - p)
      if 32 ≤ p ∨ n = 0 then 0
      else if Ty32.signed t then (((op32 e a).extractLsb' p n).signExtend 32).toNat
      else ((op32 e a).extractLsb' p n).toNat) (fun _ => 0)
    ∧ Writes (.bfi gd t d a b c) d 1 (fun e =>
      let p := (op32 e c).toNat % 256
      let n := min ((op32 e c).toNat / 256 % 256) (32 - p)
      if 32 ≤ p ∨ n = 0 then (op32 e b).toNat
      else ((op32 e b &&& ~~~fieldMask p n) ||| (op32 e a <<< p &&& fieldMask p n)).toNat) (fun _ => 0))
  ∧ (∀ (gd : Guard) (t : Ty32) (d : Reg) (a b c : Operand),
    Writes (.bperm gd t d a b c) d 1 (fun e =>
      ofElems8 fun i =>
        let sel := (op32 e c).extractLsb' (4 * i) 4
        let y := elem8 (if sel.getLsbD 2 then op32 e b else op32 e a) (sel.toNat % 4)
        if sel.getLsbD 3 then (if y.getLsbD 7 then 0xFF else 0x00) else y) (fun _ => 0))

/-! ## Packed integers, hash and strings (R123 to R129) -/

/-- The packed sums of R123 and R124. R125 and R126: SHRND narrows a rounded right shift, PACK narrows two words. R74: HASH
and CRC compute the hash and the CRC step. R128: SEQM compares bytes and finds the zero ones; SFOLD folds letters. R129:
SCMP writes the order of the first different byte below min(c, 4), and gives whether the string is decided to predicate `k`,
unless that is 7; its word decodes. -/
def Obligations.PackedNarrowingAndStringForms : Prop :=
  (∀ (gd : Guard) (t : Ty16) (u : Ty8) (sat : Bool) (d : Reg) (a b c : Operand),
    let x (e : Env) (o : Operand) (i : Nat) : Int := elemVal (Ty16.signed t) (elem16 (op32 e o) i)
    let y (e : Env) (o : Operand) (i : Nat) : Int := elemVal (Ty8.signed u) (elem8 (op32 e o) i)
    let s2 (e : Env) : Int := (op32 e c).toInt + x e a 0 * x e b 0 + x e a 1 * x e b 1
    let s4 (e : Env) : Int :=
      (op32 e c).toInt + y e a 0 * y e b 0 + y e a 1 * y e b 1 + y e a 2 * y e b 2 + y e a 3 * y e b 3
    let n16 (z : Int) : BitVec 16 := narrowed sat (Ty16.signed t) 16 z
    let f16 (z : Int) : Flags := narrowFlag sat (Ty16.signed t) 16 z
    Writes (.dp2 gd t sat d a b c) d 1 (fun e => (narrowed sat true 32 (s2 e)).toNat)
      (fun e => narrowFlag sat true 32 (s2 e))
    ∧ Writes (.dp4 gd u sat d a b c) d 1 (fun e => (narrowed sat true 32 (s4 e)).toNat)
      (fun e => narrowFlag sat true 32 (s4 e))
    ∧ Writes (.padd2 gd t sat d a b) d 1 (fun e => ofElems16 fun i => n16 (x e a i + x e b i))
      (fun e => f16 (x e a 0 + x e b 0) ||| f16 (x e a 1 + x e b 1))
    ∧ Writes (.psub2 gd t sat d a b) d 1 (fun e => ofElems16 fun i => n16 (x e a i - x e b i))
      (fun e => f16 (x e a 0 - x e b 0) ||| f16 (x e a 1 - x e b 1))
    ∧ Writes (.pmax2 gd t d a b) d 1 (fun e => ofElems16 fun i => BitVec.ofInt 16 (max (x e a i) (x e b i)))
      (fun _ => 0)
    ∧ Writes (.pmin2 gd t d a b) d 1 (fun e => ofElems16 fun i => BitVec.ofInt 16 (min (x e a i) (x e b i)))
      (fun _ => 0)
    ∧ Writes (.sad4 gd d a b c) d 1 (fun e =>
        ((op32 e c).toNat + ((List.range 4).map fun i =>
          (((elem8 (op32 e a) i).toNat : Int) - (elem8 (op32 e b) i).toNat).natAbs).sum) % 2 ^ 32) (fun _ => 0))
  ∧ (∀ (gd : Guard) (t : NarrowTy) (u : Ty16) (src64 sat : Bool) (d : Reg) (a b : Operand),
    let w := NarrowTy.width t
    let sg := NarrowTy.signed t
    let av (e : Env) : Int :=
      if src64 then (BitVec.ofNat 64 (opI e 2 a)).toInt else (op32 e a).toInt
    let y (e : Env) : Int :=
      let n := (op32 e b).toNat % 64
      if n = 0 then av e else Int.fdiv (av e + 2 ^ (n - 1)) (2 ^ n)
    Writes (.shrnd gd t src64 sat d a b) d 1
      (fun e => pat 32 (elemVal sg (narrowed sat sg w (y e)))) (fun e => narrowFlag sat sg w (y e))
    ∧ Writes (.pack gd u sat d a b) d 1
      (fun e => ofElems16 fun i => narrowed sat (Ty16.signed u) 16 (op32 e (if i = 0 then a else b)).toInt)
      (fun e => narrowFlag sat (Ty16.signed u) 16 (op32 e a).toInt ||| narrowFlag sat (Ty16.signed u) 16 (op32 e b).toInt))
  ∧ (∀ (gd : Guard) (up : Bool) (d : Reg) (a b : Operand),
    Writes (.seqm gd d a b) d 1 (fun e =>
      ((List.range 4).map fun i => (if elem8 (op32 e a) i = elem8 (op32 e b) i then 2 ^ i else 0)
        + (if elem8 (op32 e a) i = 0 then 2 ^ (4 + i) else 0)).sum) (fun _ => 0)
    ∧ Writes (.sfold gd up d a) d 1 (fun e =>
      ofElems8 fun i =>
        let x := elem8 (op32 e a) i
        if up then (if 0x61 ≤ x.toNat ∧ x.toNat ≤ 0x7A then x - 0x20 else x)
        else (if 0x41 ≤ x.toNat ∧ x.toNat ≤ 0x5A then x + 0x20 else x)) (fun _ => 0)
    ∧ Writes (.hash gd d a) d 1 (fun e => (hashOf (op32 e a)).toNat) (fun _ => 0)
    ∧ Writes (.crc gd d a b) d 1 (fun e => (crcOf (op32 e a ^^^ op32 e b) 32).toNat) (fun _ => 0))
  ∧ (∀ (gd : Guard) (d : Reg) (a b c : Operand) (k : PReg),
    let r (e : Env) : Int × Bool := stringOrder (op32 e a) (op32 e b) (min (op32 e c).toNat 4)
    Writes (.scmp gd d a b c k) d 1 (fun e => pat 32 (r e).1) (fun _ => 0) k
      (fun e => decide ((op32 e c).toNat ≤ 4) || (r e).2))
  ∧ decode 0x4A70180404040050 = some (.scmp { neg := false, p := 7 } (.v 3) (.v 1) (.v 2) (.v 4) 5)

/-! ## Compares and predicates (R101, R103, R104) -/

/-- ICMP under the type's signedness; R102: FCMP and DCMP by their condition on the ordered values, −0 equal to +0, or on
an unordered pair, with NV for a signalling NaN, and under LT, LE, GT, GE for a quiet one; PLOP by its truth table, and the
four modes of PMOV. -/
def Obligations.PredicateForms : Prop :=
  ∀ (gd : Guard) (t : IntTy) (cc : Icc) (fc : Fcc) (tt : Fin 16) (p q r : PReg) (n : Reg) (a b : Operand),
    WritesPF (.fcmp gd fc p a b) p
        (fun e => fcmpHolds fmt32 (fz32 e.grp) fc (opF e fmt32 a) (opF e fmt32 b))
        (fun e => fcmpFlag fmt32 fc (opF e fmt32 a) (opF e fmt32 b))
    ∧ WritesPF (.dcmp gd fc p a b) p
        (fun e => fcmpHolds fmt64 (fz64 e.grp) fc (opF e fmt64 a) (opF e fmt64 b))
        (fun e => fcmpFlag fmt64 fc (opF e fmt64 a) (opF e fmt64 b))
    ∧ WritesP (.icmp gd t cc p a b) p (fun e => icmpHolds cc (valOf t (opB t e a)) (valOf t (opB t e b)))
    ∧ WritesP (.plop gd tt p q r) p
        (fun e => (BitVec.ofNat 4 tt.val).getLsbD (2 * (getP e.lane q).toNat + (getP e.lane r).toNat))
    ∧ Writes (.pmov gd n) n 1
        (fun e => ((e.lane.preds &&& 0x7F) ||| 0x80).toNat) (fun _ => 0)
    ∧ LaneEffect (.pmovPw gd a) (fun s g l =>
        { laneAt g l with preds := ((op32 (envOf s g l) a).setWidth 8 &&& 0x7F) ||| 0x80 })
    ∧ WritesP (.pmovNz gd p a) p (fun e => opI e 1 a ≠ 0)
    ∧ WritesP (.pmovBit gd p a b) p (fun e => (op32 e a).getLsbD ((op32 e b).toNat % 32))

/-! ## Pair words (R41) -/

/-- R41: both halves read their operands before either writes; a half whose guard is false for a lane leaves it alone
there; the flags of the two are combined by OR. Every half is the full form of R130 on D and A. -/
def Obligations.PairWordHalvesReadBeforeWriting : Prop :=
  ∀ (i : Instr) (h1 h2 : HalfWord) (s : State) (g : Grp), halvesOf i = some (h1, h2) →
    let m := s.cur.mask
    curGrp s = some g → g.lanes.length = 64 →
    halfWindow g m h1 = 0 → halfWindow g m h2 = 0 → fallLanes (coreAt s s.cur.core) g m 0 false = 0 →
    mirrorFails s g (halfLanes g m h1) = false → mirrorFails s g (halfLanes g m h2) = false →
    ∃ g', exec i s = .next (setCurGrp s (finishGrp m g'))
      ∧ g' = { g with lanes := g'.lanes, dmrc := g'.dmrc, dmra := g'.dmra }
      ∧ ∀ l, laneAt g' l =
        if m.getLsbD l then afterHalf (envOf s g l) h2 (afterHalf (envOf s g l) h1 (laneAt g l)) else laneAt g l

/-! ## Every arithmetic word (R37, R78, R106, R107, R138, R141) -/

/-- Every arithmetic word runs to its end, and changes in each lane whose guard is true only its destination, the
predicates that it names and the sticky flags, which it only sets; in the group only its destination and the mirror
counters; and nothing else of the state. -/
def Obligations.ArithmeticWordsChangeOnlyTheirDestination : Prop :=
  ∀ (i : Instr) (s : State) (g : Grp), laneWise i = true → RunsAlu i s g → RegsOk g →
    ∃ g', exec i s = .next (setCurGrp s (finishGrp s.cur.mask g'))
      ∧ g' = { g with lanes := g'.lanes, sregs := g'.sregs, dmrc := g'.dmrc, dmra := g'.dmra }
      ∧ (∀ n, writesSReg i n = false → sget g'.sregs n = sget g.sregs n)
      ∧ ∀ l, let old := laneAt g l
          let new := laneAt g' l
          new = { old with regs := new.regs, preds := new.preds, lsw := new.lsw }
          ∧ ((active i s g).getLsbD l = false → new = old)
          ∧ (∀ n, writesVReg i n = false → sget new.regs (old.base + n) = sget old.regs (old.base + n))
          ∧ (∀ p, p < old.base → sget new.regs p = sget old.regs p)
          ∧ (∀ q, writesPred i q = false → getP new q = getP old q)
          ∧ old.lsw &&& ~~~new.lsw = 0 ∧ new.lsw &&& 0xFFFFFFC0 = old.lsw &&& 0xFFFFFFC0

/-- R37: a scalar destination is written once, by the lowest lane of the set whose guard is true, which alone sets
flags: MOV and IADD. With no such lane the register is unchanged. R78: a lane of the issue set whose guard is true
raises WINDOW when a register that the word denotes for it is at the allotment or above; the group stops with cause
0x02 and those lanes, and nothing else changes. R138, R140: in mirror mode, a word of the vector pipes adds its active
quads to cr.dmra and its checked quads to cr.dmrc: every one under MODE 2 and 3, those whose partner quad is idle
under MODE 1; under MODE 0 neither moves. Readings of the model, not rules: log 22. -/
def Obligations.ScalarWritesWindowTrapsAndMirrorCounts : Prop :=
  (∀ (gd : Guard) (t : IntTy) (n : Fin 192) (a b : Operand) (s : State) (g : Grp) (x y : Instr),
    x = .mov gd t (.s n) a → y = .iadd gd t true (.s n) a b → g.dmr.toNat % 4 = 0 →
    let k := regs12 t.w64
    let sum (e : Env) : Int := valOf t (opB t e a) + valOf t (opB t e b)
    (RunsAlu x s g →
      (∀ l0, lowest (active x s g) = some l0 →
        exec x s = .next (setCurGrp s (finishGrp s.cur.mask (putS g n.val k (opI (envOf s g l0) k a)))))
      ∧ (lowest (active x s g) = none → exec x s = .next (setCurGrp s (finishGrp s.cur.mask g))))
    ∧ (RunsAlu y s g →
      (∀ l0, lowest (active y s g) = some l0 → exec y s = .next (setCurGrp s (finishGrp s.cur.mask
        (putS (modLane g l0 fun ln => { ln with lsw := ln.lsw ||| satFlag t (sum (envOf s g l0)) }) n.val k
          (patOf t (clampTo t (sum (envOf s g l0))))))))
      ∧ (lowest (active y s g) = none → exec y s = .next (setCurGrp s (finishGrp s.cur.mask g)))))
  ∧ (∀ (i : Instr) (s : State) (g : Grp), laneWise i = true → curGrp s = some g → ∀ m : Mask,
    (∀ l, l < 64 → (m.getLsbD l = true ↔ (active i s g).getLsbD l = true
      ∧ ∃ u ∈ i.uses, ∃ n : Fin 256, u.op = .v n ∧ g.alloc < (laneAt g l).base + n.val + u.n)) →
    m ≠ 0 →
    exec i s = .next (takeTrap s s.cur.core s.cur.slot (mkRec g s.cur.slot m (curPc s) 0 0 0x02 0)))
  ∧ (∀ (gd : Guard) (t : IntTy) (n : Fin 256) (a : Operand) (s : State) (g : Grp),
    let i : Instr := .mov gd t (.v n) a
    let busy (q : Nat) : Bool := (List.range 4).any fun k => (active i s g).getLsbD (4 * q + k)
    let partner (q : Nat) : Nat := if q % 2 = 0 then q + 1 else q - 1
    let act : Nat := (List.range 16).countP busy
    let lone : Nat := (List.range 16).countP fun q => busy q && !busy (partner q)
    RunsAlu i s g → ∃ g', exec i s = .next (setCurGrp s (finishGrp s.cur.mask g'))
      ∧ (g.dmr.toNat % 4 = 0 → g'.dmra = g.dmra ∧ g'.dmrc = g.dmrc)
      ∧ (g.dmr.toNat % 4 = 1 → g'.dmra = g.dmra + BitVec.ofNat 64 act ∧ g'.dmrc = g.dmrc + BitVec.ofNat 64 lone)
      ∧ (2 ≤ g.dmr.toNat % 4 → g'.dmra = g.dmra + BitVec.ofNat 64 act ∧ g'.dmrc = g.dmrc + BitVec.ofNat 64 act))

/-! ## Floating point (R54, R63, R115 to R118) -/

/-- FADD, FSUB, FMUL and FFMA of F32, of each element of F16X2 and BF16X2, and their FP64 counterparts deliver the exact
result of finite operands rounded in the word's mode, where it is no larger than the largest finite value and not zero, and
no operand or result is flushed. -/
def Obligations.FloatSumsAndProductsRoundCorrectly : Prop :=
  (∀ (gd : Guard) (rm : Rm) (t : FTy) (f : Fmt) (d : Reg) (a b c : Operand),
    t = .f16x2 ∧ f = fmt16 ∨ t = .bf16x2 ∧ f = fmtB16 →
    let each (i : Instr) (x : Env → Nat → Option ℚ) : Prop := ∃ v fl, Writes i d 1 v fl ∧ ∀ e j q, j < 2 →
      fz32 e.grp = false → x e j = some q → Rounded f rm q (v e / 2 ^ (16 * j) % 2 ^ 16)
    let at_ (e : Env) (o : Operand) (j : Nat) : Option ℚ := codeVal f (packedElem e t o j)
    each (.fadd gd t rm d a b) (fun e j => (at_ e a j).bind fun x => (at_ e b j).map fun y => x + y)
    ∧ each (.fsub gd t rm d a b) (fun e j => (at_ e a j).bind fun x => (at_ e b j).map fun y => x - y)
    ∧ each (.fmul gd t rm d a b) (fun e j => (at_ e a j).bind fun x => (at_ e b j).map fun y => x * y)
    ∧ each (.ffma gd t rm d a b c) (fun e j => (at_ e a j).bind fun x => (at_ e b j).bind fun y =>
        (at_ e c j).map fun z => x * y + z))
  ∧ ∀ (gd : Guard) (rm : Rm) (d : Reg) (a b c : Operand),
    let good (f : Fmt) (x : ℚ) (r : Nat) : Prop := Rounded f rm x r
    (∃ v fl, Writes (.fadd gd .f32 rm d a b) d 1 v fl ∧ ∀ e x y, fz32 e.grp = false →
      codeVal fmt32 (opF e fmt32 a) = some x → codeVal fmt32 (opF e fmt32 b) = some y → good fmt32 (x + y) (v e))
    ∧ (∃ v fl, Writes (.fsub gd .f32 rm d a b) d 1 v fl ∧ ∀ e x y, fz32 e.grp = false →
      codeVal fmt32 (opF e fmt32 a) = some x → codeVal fmt32 (opF e fmt32 b) = some y → good fmt32 (x - y) (v e))
    ∧ (∃ v fl, Writes (.fmul gd .f32 rm d a b) d 1 v fl ∧ ∀ e x y, fz32 e.grp = false →
      codeVal fmt32 (opF e fmt32 a) = some x → codeVal fmt32 (opF e fmt32 b) = some y → good fmt32 (x * y) (v e))
    ∧ (∃ v fl, Writes (.ffma gd .f32 rm d a b c) d 1 v fl ∧ ∀ e x y z, fz32 e.grp = false →
      codeVal fmt32 (opF e fmt32 a) = some x → codeVal fmt32 (opF e fmt32 b) = some y →
      codeVal fmt32 (opF e fmt32 c) = some z → good fmt32 (x * y + z) (v e))
    ∧ (∃ v fl, Writes (.dadd gd rm d a b) d 2 v fl ∧ ∀ e x y, fz64 e.grp = false →
      codeVal fmt64 (opF e fmt64 a) = some x → codeVal fmt64 (opF e fmt64 b) = some y → good fmt64 (x + y) (v e))
    ∧ (∃ v fl, Writes (.dsub gd rm d a b) d 2 v fl ∧ ∀ e x y, fz64 e.grp = false →
      codeVal fmt64 (opF e fmt64 a) = some x → codeVal fmt64 (opF e fmt64 b) = some y → good fmt64 (x - y) (v e))
    ∧ (∃ v fl, Writes (.dmul gd rm d a b) d 2 v fl ∧ ∀ e x y, fz64 e.grp = false →
      codeVal fmt64 (opF e fmt64 a) = some x → codeVal fmt64 (opF e fmt64 b) = some y → good fmt64 (x * y) (v e))
    ∧ (∃ v fl, Writes (.dfma gd rm d a b c) d 2 v fl ∧ ∀ e x y z, fz64 e.grp = false →
      codeVal fmt64 (opF e fmt64 a) = some x → codeVal fmt64 (opF e fmt64 b) = some y →
      codeVal fmt64 (opF e fmt64 c) = some z → good fmt64 (x * y + z) (v e))

/-- R116: FMIN and FMAX, and by R118 DMIN and DMAX, return the smaller or the larger operand, element by element. R54:
every F32 arithmetic word whose result is a NaN delivers the default NaN 0x7FC0_0000, and one with a NaN operand
delivers it: FADD, FSUB, FMUL, FFMA, FRND, FFRAC and the special functions. R122: FRCP delivers 1 ÷ x rounded; the special
functions deliver their special operands' results, and the exact results that they have: of zeros, infinities and powers of
two. Readings of the model, not rules: log 14. -/
def Obligations.FloatMinMaxAndDefaultNaNs : Prop :=
  (∀ (gd : Guard) (larger : Bool) (d : Reg) (a b : Operand) (t : FTy) (f : Fmt),
    t = .f16x2 ∧ f = fmt16 ∨ t = .bf16x2 ∧ f = fmtB16 →
    let z (e : Env) : Bool := fz32 e.grp
    Writes (if larger then .fmax gd .f32 d a b else .fmin gd .f32 d a b) d 1
      (fun e => extreme fmt32 (z e) larger (opF e fmt32 a) (opF e fmt32 b))
      (fun e => extremeFlag fmt32 (opF e fmt32 a) (opF e fmt32 b))
    ∧ Writes (if larger then .fmax gd t d a b else .fmin gd t d a b) d 1
      (fun e => ((List.range 2).map fun i =>
        extreme f (z e) larger (packedElem e t a i) (packedElem e t b i) * 2 ^ (16 * i)).sum)
      (fun e => extremeFlag f (packedElem e t a 0) (packedElem e t b 0)
        ||| extremeFlag f (packedElem e t a 1) (packedElem e t b 1))
    ∧ Writes (if larger then .dmax gd d a b else .dmin gd d a b) d 2
      (fun e => extreme fmt64 (fz64 e.grp) larger (opF e fmt64 a) (opF e fmt64 b))
      (fun e => extremeFlag fmt64 (opF e fmt64 a) (opF e fmt64 b)))
  ∧ (∀ (gd : Guard) (rm : Rm) (d : Reg) (a b c : Operand),
    let some_ (i : Instr) (os : List Operand) : Prop := ∃ v fl, Writes i d 1 v fl ∧ ∀ e,
      (isNaNCode fmt32 (v e) = true → v e = 0x7FC00000)
        ∧ ∀ o ∈ os, isNaNCode fmt32 (opF e fmt32 o) = true → v e = 0x7FC00000
    let one (i : Instr) : Prop := some_ i [a]
    some_ (.fadd gd .f32 rm d a b) [a, b] ∧ some_ (.fsub gd .f32 rm d a b) [a, b] ∧ some_ (.fmul gd .f32 rm d a b) [a, b]
    ∧ some_ (.ffma gd .f32 rm d a b c) [a, b, c] ∧ one (.frnd gd .f32 rm d a) ∧ one (.ffrac gd .f32 d a)
    ∧ one (.frcp gd rm d a) ∧ one (.frsq gd rm d a) ∧ one (.fsqrt gd rm d a)
    ∧ one (.fexp2 gd rm d a) ∧ one (.flog2 gd rm d a) ∧ one (.fsin gd rm d a)
    ∧ one (.fcos gd rm d a) ∧ one (.ftanh gd rm d a) ∧ one (.fsgm gd rm d a) ∧ one (.ferf gd rm d a))
  ∧ (∀ (gd : Guard) (rm : Rm) (d : Reg) (a : Operand),
    let of_ (i : Instr) (p : Nat → Nat → Flags → Prop) : Prop :=
      ∃ v fl, Writes i d 1 v fl ∧ ∀ e, fz32 e.grp = false → p (opF e fmt32 a) (v e) (fl e)
    let exact (i : Instr) (ps : List (Nat × Nat × Flags)) : Prop :=
      of_ i fun c r fl => ∀ p ∈ ps, c = p.1 → r = p.2.1 ∧ fl = p.2.2
    let pow (k : Int) : Nat := (127 + k).toNat * 2 ^ 23
    let below (i : Instr) : Prop := of_ i fun c r fl =>
      (c = 0xFF800000 ∨ ∃ x, codeVal fmt32 c = some x ∧ x < 0) → r = 0x7FC00000 ∧ fl = flNV
    let outer (i : Instr) : Prop := exact i [(0x7F800000, 0x7FC00000, flNV), (0xFF800000, 0x7FC00000, flNV)]
    exact (.frcp gd rm d a) [(0, 0x7F800000, flDZ), (0x80000000, 0xFF800000, flDZ), (0x7F800000, 0, 0),
        (0xFF800000, 0x80000000, 0)]
    ∧ exact (.frsq gd rm d a) [(0, 0x7F800000, flDZ), (0x80000000, 0xFF800000, flDZ), (0x7F800000, 0, 0)]
    ∧ exact (.fsqrt gd rm d a) [(0, 0, 0), (0x80000000, 0x80000000, 0), (0x7F800000, 0x7F800000, 0)]
    ∧ exact (.fexp2 gd rm d a) [(0xFF800000, 0, 0), (0x7F800000, 0x7F800000, 0), (0, 0x3F800000, 0)]
    ∧ exact (.flog2 gd rm d a) [(0, 0xFF800000, flDZ), (0x80000000, 0xFF800000, flDZ), (0x3F800000, 0, 0),
        (0x7F800000, 0x7F800000, 0)]
    ∧ exact (.fsin gd rm d a) [(0, 0, 0), (0x80000000, 0x80000000, 0)] ∧ exact (.fcos gd rm d a) [(0, 0x3F800000, 0)]
    ∧ exact (.ftanh gd rm d a) [(0, 0, 0), (0x80000000, 0x80000000, 0), (0x7F800000, 0x3F800000, 0),
        (0xFF800000, 0xBF800000, 0)]
    ∧ exact (.fsgm gd rm d a) [(0xFF800000, 0, 0), (0x7F800000, 0x3F800000, 0), (0, 0x3F000000, 0)]
    ∧ exact (.ferf gd rm d a) [(0, 0, 0), (0x80000000, 0x80000000, 0), (0x7F800000, 0x3F800000, 0),
        (0xFF800000, 0xBF800000, 0)]
    ∧ below (.frsq gd rm d a) ∧ below (.fsqrt gd rm d a) ∧ below (.flog2 gd rm d a)
    ∧ outer (.fsin gd rm d a) ∧ outer (.fcos gd rm d a)
    ∧ of_ (.frcp gd rm d a) (fun c r _ => ∀ x, codeVal fmt32 c = some x → x ≠ 0 → Rounded fmt32 rm (1 / x) r)
    ∧ (∀ k : Int, -126 ≤ k → k ≤ 126 → exact (.frcp gd rm d a) [(pow k, pow (-k), 0)])
    ∧ (∀ k : Int, -63 ≤ k → k ≤ 63 → exact (.fsqrt gd rm d a) [(pow (2 * k), pow k, 0)]
      ∧ exact (.frsq gd rm d a) [(pow (2 * k), pow (-k), 0)])
    ∧ ∀ k : Int, -126 ≤ k → k ≤ 127 →
      of_ (.fexp2 gd rm d a) (fun c r fl => codeVal fmt32 c = some (k : ℚ) → r = pow k ∧ fl = 0)
      ∧ of_ (.flog2 gd rm d a) (fun c r fl => c = pow k → codeVal fmt32 r = some (k : ℚ) ∧ fl = 0))

/-- R117: FRND delivers each element rounded to an integer in the word's mode, FFRAC its fraction; a zero result keeps the
sign of the operand, and neither sets NX. R118: DRND does so for FP64. R67: CVT between float types delivers the value
rounded to the destination's format; from a float type to an integer one the value rounded to an integer, or the nearest
value of the type with NV; from an integer type to a float one the value rounded. R121: CVTP packs converted elements, and
CVTP.UNPK unpacks them. No operand or result is flushed in these clauses. -/
def Obligations.FloatRoundingAndConversions : Prop :=
  (∀ (gd : Guard) (rm : Rm) (d : Reg) (a : Operand),
    let rnd (f : Fmt) (c r : Nat) : Prop := match fpRead f c with
      | .nan _ => r = defaultNaN f
      | .inf n => r = infinity f n.toNat
      | .fin .. => ∀ x, codeVal f c = some x → codeVal f r = some (toInteger rm x : ℚ) ∧ signOf f r = signOf f c
    let frac (f : Fmt) (c r : Nat) : Prop := match fpRead f c with
      | .nan _ | .inf _ => r = defaultNaN f
      | .fin .. => ∀ x, codeVal f c = some x → codeVal f r = some (x - toInteger .rtz x) ∧ signOf f r = signOf f c
    let rndFlag (f : Fmt) (c : Nat) : Flags := if isSNaNCode f c then flNV else 0
    let fracFlag (f : Fmt) (c : Nat) : Flags := if isSNaNCode f c ∨ ∃ n, fpRead f c = .inf n then flNV else 0
    let single (i : Instr) (p : Nat → Nat → Prop) (fl : Nat → Flags) : Prop :=
      ∃ v, Writes i d 1 v (fun e => fl (opF e fmt32 a)) ∧ ∀ e, fz32 e.grp = false → p (opF e fmt32 a) (v e)
    let packed (i : Instr) (t : FTy) (p : Nat → Nat → Prop) (fl : Nat → Flags) : Prop :=
      ∃ v, Writes i d 1 v (fun e => fl (packedElem e t a 0) ||| fl (packedElem e t a 1))
        ∧ ∀ e j, j < 2 → fz32 e.grp = false → p (packedElem e t a j) (v e / 2 ^ (16 * j) % 2 ^ 16)
    single (.frnd gd .f32 rm d a) (rnd fmt32) (rndFlag fmt32) ∧ single (.ffrac gd .f32 d a) (frac fmt32) (fracFlag fmt32)
    ∧ packed (.frnd gd .f16x2 rm d a) .f16x2 (rnd fmt16) (rndFlag fmt16)
    ∧ packed (.frnd gd .bf16x2 rm d a) .bf16x2 (rnd fmtB16) (rndFlag fmtB16)
    ∧ packed (.ffrac gd .f16x2 d a) .f16x2 (frac fmt16) (fracFlag fmt16)
    ∧ packed (.ffrac gd .bf16x2 d a) .bf16x2 (frac fmtB16) (fracFlag fmtB16)
    ∧ ∃ v, Writes (.drnd gd rm d a) d 2 v (fun e => rndFlag fmt64 (opF e fmt64 a))
      ∧ ∀ e, fz64 e.grp = false → rnd fmt64 (opF e fmt64 a) (v e))
  ∧ (∀ (gd : Guard) (rm : Rm) (dst src : CvtTy) (sat : Bool) (d : Reg) (a : Operand),
    cvtOk dst src sat rm a = true →
    let still (e : Env) : Prop := fz32 e.grp = false ∧ fz64 e.grp = false
    let lo := lowOf (cvtSigned dst) (cvtWidth dst)
    let hi := highOf (cvtSigned dst) (cvtWidth dst)
    let placed (n : Int) : Nat :=
      if cvtWidth dst < 32 then pat 32 n else pat (cvtWidth dst) n
    let gives (p : Env → Nat → Flags → Prop) : Prop :=
      ∃ v fl, Writes (.cvt gd dst src sat rm d a) d (regs12 dst.w64) v fl ∧ ∀ e, still e → p e (v e) (fl e)
    (dst.float = true → src.float = true → gives fun e r _ =>
      Converts (cvtFmt src) (cvtFmt dst) rm sat (opF e (cvtFmt src) a % 2 ^ fmtWidth (cvtFmt src)) r)
    ∧ (dst.float = false → src.float = true → gives fun e r fl =>
      match fpRead (cvtFmt src) (opF e (cvtFmt src) a) with
      | .nan _ => r = 0 ∧ fl = flNV
      | .inf n => r = placed (if n then lo else hi) ∧ fl = flNV
      | .fin .. => ∀ x, codeVal (cvtFmt src) (opF e (cvtFmt src) a) = some x →
          let n := toInteger rm x
          if n < lo then r = placed lo ∧ fl = flNV
          else if hi < n then r = placed hi ∧ fl = flNV
          else r = placed n ∧ fl = if (n : ℚ) = x then 0 else flNX)
    ∧ (dst.float = true → src.float = false → gives fun e r _ =>
      let x : Int := elemVal (cvtSigned src) (BitVec.ofNat (cvtWidth src) (opI e (regs12 src.w64) a))
      (x = 0 → r = 0) ∧ Rounded (cvtFmt dst) rm (x : ℚ) r))
  ∧ (∀ (gd : Guard) (rm : Rm) (sat : Bool) (d : Reg) (a b : Operand),
    let packs (p : PackPair) (fs fd : Fmt) (w : Nat) (elem : Env → Nat → Nat) : Prop :=
      ∃ v fl, Writes (.cvtp gd p sat rm d a b) d 1 v fl ∧ ∀ e j, j < 32 / w → fz32 e.grp = false →
        Converts fs fd rm (sat && p.fp8) (elem e j) (v e / 2 ^ (w * j) % 2 ^ w)
    let words (e : Env) (j : Nat) : Nat := opF e fmt32 (if j = 0 then a else b)
    let halves (t : FTy) (e : Env) (j : Nat) : Nat := packedElem e t (if j < 2 then a else b) (j % 2)
    let unpacks (p : UnpackPair) (fs fd : Fmt) (w : Nat) (elem : Env → Nat → Nat) : Prop :=
      ∃ v fl, Writes (.cvtpUnpk gd p rm d a) d 2 v fl ∧ ∀ e j, j < 64 / w → fz32 e.grp = false →
        Converts fs fd rm false (elem e j) (v e / 2 ^ (w * j) % 2 ^ w)
    let bytes (e : Env) (j : Nat) : Nat := opI e 1 a / 2 ^ (8 * j) % 2 ^ 8
    packs .f16FromF32 fmt32 fmt16 16 words ∧ packs .bf16FromF32 fmt32 fmtB16 16 words
    ∧ packs .e4m3FromF16 fmt16 fmtE4m3 8 (halves .f16x2) ∧ packs .e4m3FromBf16 fmtB16 fmtE4m3 8 (halves .bf16x2)
    ∧ packs .e5m2FromF16 fmt16 fmtE5m2 8 (halves .f16x2) ∧ packs .e5m2FromBf16 fmtB16 fmtE5m2 8 (halves .bf16x2)
    ∧ unpacks .f32FromF16 fmt16 fmt32 32 (packedElem · .f16x2 a) ∧ unpacks .f32FromBf16 fmtB16 fmt32 32 (packedElem · .bf16x2 a)
    ∧ unpacks .f16FromE4m3 fmtE4m3 fmt16 16 bytes ∧ unpacks .f16FromE5m2 fmtE5m2 fmt16 16 bytes
    ∧ unpacks .bf16FromE4m3 fmtE4m3 fmtB16 16 bytes ∧ unpacks .bf16FromE5m2 fmtE5m2 fmtB16 16 bytes)

/-- The integer rows of R67: CVT between integer types wraps, or with SAT clamps and sets LSW.SAT where it does; the
result stands as R119 places it. -/
def Obligations.IntegerConversionsWrapOrClamp : Prop :=
  ∀ (gd : Guard) (dst src : CvtTy) (sat : Bool) (d : Reg) (a : Operand), dst.float = false → src.float = false →
    let x (e : Env) : Int := elemVal (cvtSigned src) (BitVec.ofNat (cvtWidth src) (opI e (regs12 src.w64) a))
    let r (e : Env) : BitVec (cvtWidth dst) := narrowed sat (cvtSigned dst) (cvtWidth dst) (x e)
    Writes (.cvt gd dst src sat .rne d a) d (regs12 dst.w64)
      (fun e => if cvtWidth dst < 32 then pat 32 (elemVal (cvtSigned dst) (r e)) else (r e).toNat)
      (fun e => narrowFlag sat (cvtSigned dst) (cvtWidth dst) (x e))

/-! ## Transfers and lane life (R90, R91, R94 to R99) -/

/-- R91 outside voyage mode: BRA, BRX, TRAV and TRAVX send each lane whose guard is true to its target, and the others
to PC + 8. R90: where a target is bad, the word raises BADPC in the lanes whose target is, and no lane moves. -/
def Obligations.TransfersSendLanesToTheirTargets : Prop :=
  ∀ (i : Instr) (s : State) (g : Grp) (off : Word) (a : Reg) (gd : Guard) (lv : Fin 33) (sl : Sel) (tgt : Nat → Dword),
    ((i = .bra gd lv off ∨ i = .trav gd lv sl off) ∧ (tgt = fun l => relative (laneAt g l) off))
      ∨ ((i = .brx gd lv a ∨ i = .travx gd lv a sl) ∧ (tgt = fun l => BitVec.ofNat 64 (opI (envOf s g l) 2 a.op))) →
    Runs i s g → g.lanes.length = 64 → voyageOf (coreAt s s.cur.core) g = none →
    (GoodTargets (active i s g) tgt → ∃ t, exec i s = .next (retireDone s.cur.core t)
      ∧ GroupLanes s g (fun l => if (active i s g).getLsbD l then { laneAt g l with pc := tgt l }
          else passed s (laneAt g l) l) t)
    ∧ ∀ m : Mask, m ≠ 0 → (∀ l, l < 64 → (m.getLsbD l = true ↔ (active i s g).getLsbD l = true ∧ ¬GoodTarget (tgt l))) →
      (∀ l, m.getLsbD l = true → inTxn (laneAt g l) = false) → Stops i s g m 0x04

/-- R86, R91: CALL and CALLX with room in the cabinet push the return record, add the frame to the window base, and
raise the depth; RET takes the newest record of the cabinet back. R86 to R88: a CALL of a lane whose cabinet is full stores
its two oldest records in its spill area; a RET of a lane whose cabinet is empty refills it from there, with two records or
with the last. CALL raises WINDOW where the new base reaches the allotment; a CALL at depth 65535 or without spill slots, and a
RET at depth 0, raise STACK; a bad target or return PC raises BADPC (R90). Readings of the model, not rules: logs 41, 43. -/
def Obligations.CallPushesAndRetPopsReturnRecords : Prop :=
  ∀ (s : State) (g : Grp) (off : Word) (a : Reg) (gd : Guard) (lv : Fin 33) (fr : Fin 64),
    g.lanes.length = 64 → voyageOf (coreAt s s.cur.core) g = none →
    (∀ (i : Instr) (tgt : Nat → Dword),
      (i = .call gd lv fr off ∧ (tgt = fun l => relative (laneAt g l) off))
        ∨ (i = .callx gd lv a fr ∧ (tgt = fun l => BitVec.ofNat 64 (opI (envOf s g l) 2 a.op))) →
      Runs i s g → GoodTargets (active i s g) tgt →
      (∀ l, (active i s g).getLsbD l = true → (laneAt g l).base + 4 * fr.val < g.alloc ∧ (laneAt g l).depth ≠ 65535
        ∧ (laneAt g l).cab.length < 4) →
      ∃ t, exec i s = .next (retireDone s.cur.core t)
        ∧ GroupLanes s g (fun l => if (active i s g).getLsbD l then
            { laneAt g l with
              pc := tgt l, base := (laneAt g l).base + 4 * fr.val, depth := (laneAt g l).depth + 1
              cab := (laneAt g l).cab ++ [{ pc := (laneAt g l).pc + 8, base := (laneAt g l).base }] }
            else passed s (laneAt g l) l) t)
    ∧ (∀ r : Nat → Ret, Runs (.ret gd lv) s g → GoodTargets (active (.ret gd lv) s g) (fun l => (r l).pc) →
      (∀ l, (active (.ret gd lv) s g).getLsbD l = true → (laneAt g l).depth ≠ 0
        ∧ (laneAt g l).cab.getLast? = some (r l)) →
      ∃ t, exec (.ret gd lv) s = .next (retireDone s.cur.core t)
        ∧ GroupLanes s g (fun l => if (active (.ret gd lv) s g).getLsbD l then
            { laneAt g l with
              pc := (r l).pc, base := (r l).base, depth := (laneAt g l).depth - 1, cab := (laneAt g l).cab.dropLast }
            else passed s (laneAt g l) l) t)
    ∧ (∀ (i : Instr) (tgt : Nat → Dword) (l : Nat) (tg : Nat → Target) (r0 r1 r2 r3 : Ret),
      (i = .call gd lv fr off ∧ (tgt = fun l => relative (laneAt g l) off))
        ∨ (i = .callx gd lv a fr ∧ (tgt = fun l => BitVec.ofNat 64 (opI (envOf s g l) 2 a.op))) →
      Runs i s g → s.cur.core < s.cores.length → active i s g = oneLane l → l < 64 → GoodTargets (active i s g) tgt →
      inTxn (laneAt g l) = false → (laneAt g l).base + 4 * fr.val < g.alloc → (laneAt g l).depth ≠ 65535 →
      (laneAt g l).cab = [r0, r1, r2, r3] → ¬spillShort g (laneAt g l) →
      let va (j : Nat) : Nat := spillSlot g (laneAt g l) ((laneAt g l).spill + j)
      (∀ j, j < 2 → checkAddr s s.cur.core g (va j) 16 .store = .ok (tg j) ∧ Settled s g (va j) .store) →
      ∃ t, exec i s = .next (retireDone s.cur.core t)
        ∧ GroupLanes (issueAll s [spillStore s g l 0 (tg 0) r0, spillStore s g l 1 (tg 1) r1]) g
          (fun j => if j = l then
            { laneAt g l with
              pc := tgt l, base := (laneAt g l).base + 4 * fr.val, depth := (laneAt g l).depth + 1
              cab := [r2, r3, { pc := (laneAt g l).pc + 8, base := (laneAt g l).base }], spill := (laneAt g l).spill + 2 }
            else passed s (laneAt g j) j) t)
    ∧ (∀ (l : Nat) (pa : Nat → Nat) (tg : Nat → Target), Runs (.ret gd lv) s g → active (.ret gd lv) s g = oneLane l → l < 64 →
      (laneAt g l).depth ≠ 0 → (laneAt g l).cab = [] → (laneAt g l).spill ≠ 0 → inTxn (laneAt g l) = false →
      s.cur.core < s.cores.length →
      let ln := laneAt g l
      let ks : List Nat := if 2 ≤ ln.spill then [ln.spill - 2, ln.spill - 1] else [0]
      let recs : List Ret := ks.map fun k => recordIn s.mem (pa k)
      (∀ k ∈ ks, checkAddr s s.cur.core g (spillSlot g ln k) 16 .load = .ok (tg k) ∧ (tg k).place = .glob (pa k)
        ∧ Settled s g (spillSlot g ln k) .load ∧ Readable s s.cur.core (pa k) 16 (tg k).gr) →
      ∀ r, recs.getLast? = some r → GoodTarget r.pc →
      ∃ t g', exec (.ret gd lv) s = .next (retireDone s.cur.core t) ∧ t.mem = s.mem ∧ curGrp t = some g'
        ∧ g' = { g with lanes := g'.lanes }
        ∧ ∀ j, laneAt g' j = if j = l then
            { ln with pc := r.pc, base := r.base, depth := ln.depth - 1, cab := recs.dropLast, spill := ln.spill - ks.length }
            else passed s (laneAt g j) j)
    ∧ (∀ (i : Instr) (tgt : Nat → Dword) (m : Mask),
      (i = .call gd lv fr off ∧ (tgt = fun l => relative (laneAt g l) off))
        ∨ (i = .callx gd lv a fr ∧ (tgt = fun l => BitVec.ofNat 64 (opI (envOf s g l) 2 a.op))) →
      Runs i s g → m ≠ 0 →
      let from_ (p : Nat → Prop) : Prop := ∀ l, l < 64 → (m.getLsbD l = true ↔ (active i s g).getLsbD l = true ∧ p l)
      let high (l : Nat) : Prop := g.alloc ≤ (laneAt g l).base + 4 * fr.val
      let deep (l : Nat) : Prop :=
        (laneAt g l).depth = 65535 ∨ ((laneAt g l).cab.length = 4 ∧ spillShort g (laneAt g l))
      (from_ high → Stops i s g m 0x02)
      ∧ ((∀ l, (active i s g).getLsbD l = true → ¬high l) → from_ deep → Stops i s g m 0x03)
      ∧ ((∀ l, (active i s g).getLsbD l = true → ¬high l ∧ ¬deep l) → from_ (fun l => ¬GoodTarget (tgt l)) →
        (∀ l, m.getLsbD l = true → inTxn (laneAt g l) = false) → Stops i s g m 0x04))
    ∧ (∀ m : Mask, Runs (.ret gd lv) s g → m ≠ 0 →
      (∀ l, (active (.ret gd lv) s g).getLsbD l = true → (laneAt g l).depth = 0 ∨ (laneAt g l).cab ≠ []) →
      let from_ (p : Nat → Prop) : Prop :=
        ∀ l, l < 64 → (m.getLsbD l = true ↔ (active (.ret gd lv) s g).getLsbD l = true ∧ p l)
      (from_ (fun l => (laneAt g l).depth = 0) → Stops (.ret gd lv) s g m 0x03)
      ∧ ((∀ l, (active (.ret gd lv) s g).getLsbD l = true → (laneAt g l).depth ≠ 0) →
        from_ (fun l => ∃ r, (laneAt g l).cab.getLast? = some r ∧ ¬GoodTarget r.pc) →
        (∀ l, m.getLsbD l = true → inTxn (laneAt g l) = false) → Stops (.ret gd lv) s g m 0x04))

/-- R253 to R257: in a voyage grid, a transfer leaves its lane at its core where the holder that it names is its own, and else
the lane departs: its slot is idle at once, and the voyager that carries its state waits for the lane's accesses. The holder is
the own core inside the local segment, else the one that R252 chooses, or the one that TRAV.HOLD and TRAV.CORE name, wherever
the new PC lies. A new PC in no segment raises VNOSEG, a core that is no holder VNOHOLD, a departing window above the allotment
WINDOW, and a lane that would fall off its segment VFALL. A lane inside a transaction does not depart: it aborts with DEPART, to
its handler. Readings of the model, not rules: log 94. -/
def Obligations.TransfersDepartInVoyageMode : Prop :=
  ∀ (s : State) (g : Grp) (v : Voyage) (tm : Team) (gr : Grid) (gd : Guard) (lv : Fin 33) (off : Word) (a : Reg) (sel : Sel)
    (i : Instr) (tgt : Nat → Dword) (l : Nat),
    AtVoyage s s.cur.core v tm gr → g.grid = v.grid → g.team = v.team → g.supervisor = false → g.lanes.length = 64 →
    ((i = .bra gd lv off ∧ sel = .none ∨ i = .trav gd lv sel off) ∧ (tgt = fun l => relative (laneAt g l) off))
      ∨ ((i = .brx gd lv a ∧ sel = .none ∨ i = .travx gd lv a sel)
        ∧ (tgt = fun l => BitVec.ofNat 64 (opI (envOf s g l) 2 a.op))) →
    let x := coreAt s s.cur.core
    let ln := laneAt g l
    let pc := (tgt l).toNat
    let local_ (sg : Segment) : Prop := ∃ n, v.seg = some n ∧ v.chart.segs[n]? = some sg
    let at_ (sg : Segment) : Prop := segmentOf v.chart pc = some sg
    let goes (h : Nat) : Prop := ∃ sg, at_ sg ∧ match sel with
      | .none => (∃ mine, local_ mine ∧ inSegment mine pc ∧ h = tm.ccore)
          ∨ ((∀ mine, local_ mine → ¬inSegment mine pc) ∧ h = chooseHolder s.cur.core tm.place sg ln.fibre)
      | .hold o => sg.holders[opI (envOf s g l) 1 o]? = some h
      | .core o => h = opI (envOf s g l) 1 o ∧ h ∈ sg.holders
    (Runs i s g → active i s g = oneLane l → l < 64 → g.rep = none → g.tack = none → GoodTarget (tgt l) →
      (inTxn ln = false →
        (goes tm.ccore → ∃ t, exec i s = .next (retireDone s.cur.core t)
          ∧ GroupLanes s g (fun j => if j = l then { ln with pc := tgt l } else passed s (laneAt g j) j) t)
        ∧ (∀ h, goes h → h ≠ tm.ccore → ln.base + lv.val ≤ g.alloc → ∃ t g', exec i s = .next (retireDone s.cur.core t)
          ∧ t.mem = s.mem ∧ curGrp t = some g' ∧ g' = { g with lanes := g'.lanes }
          ∧ (∀ j, laneAt g' j = if j = l then { Lane.empty with fibre := ln.fibre } else passed s (laneAt g j) j)
          ∧ (coreAt t s.cur.core).vdep.toNat = min (2 ^ 64 - 1) (x.vdep.toNat + 1)
          ∧ (coreAt t s.cur.core).voyage = some { v with held := v.held ++ [{
              v := { pc := tgt l, depth := ln.depth, preds := ln.preds, base := ln.base, cab := ln.cab, live := lv.val
                     spill := ln.spill, fibre := ln.fibre, gen := v.chart.gen, origin := tm.ccore, resv := ln.resv
                     regs := (List.range lv.val).map fun n => sget ln.regs (ln.base + n) }
              train := s.cur.first, dest := h
              waits := ((x.pend ++ x.outb).filter fun b => b.slot = s.cur.slot && b.lane = l).map (·.id) }] })
        ∧ (∀ h, goes h → h ≠ tm.ccore → g.alloc < ln.base + lv.val → Stops i s g (oneLane l) 0x02)
        ∧ ((∀ sg ∈ v.chart.segs, ¬inSegment sg pc) → Stops i s g (oneLane l) 0x18)
        ∧ (∀ sg o, at_ sg → (sel = .hold o ∧ sg.holders.length ≤ opI (envOf s g l) 1 o)
            ∨ (sel = .core o ∧ opI (envOf s g l) 1 o ∉ sg.holders) → Stops i s g (oneLane l) 0x19))
      ∧ (∀ h tx, Inside ln tx → goes h → h ≠ tm.ccore → ln.base + lv.val ≤ g.alloc →
        ∃ t g', exec i s = .next (retireDone s.cur.core t) ∧ curGrp t = some g' ∧ t.mem = s.mem
          ∧ AbortedTo ln tx tx.handler 0 0x09 (laneAt g' l)
          ∧ ∀ j, j ≠ l → laneAt g' j = passed s (laneAt g j) j))
    ∧ (∀ (w : Instr) (mine : Segment) (m : Mask), curGrp s = some g → local_ mine → m ≠ 0 →
      laneWise w = true ∨ w = .nop gd ∨ w = .exit gd ∨ w = .bra gd lv off →
      windowLanes w.uses g (active w s g) = 0 → (w = .bra gd lv off → active w s g = 0) →
      (∀ j, j < 64 → (m.getLsbD j = true ↔ s.cur.mask.getLsbD j = true ∧ (laneAt g j).pc.toNat + 8 = mine.start + mine.len
        ∧ ¬(w = .exit gd ∧ (active w s g).getLsbD j = true))) → Stops w s g m 0x1A)

/-- R76: the depth of a live fibre is its cabinet count plus its spill count, and every control word keeps that. -/
def Obligations.DepthIsCabinetCountPlusSpillCount : Prop :=
  ∀ (i : Instr) (s t : State), controlWord i = true → DepthsOk s → exec i s = .next t → DepthsOk t

/-- R94, R76: EXIT ends the fibres whose guard is true, outside a transaction: the slot is exited, and the cabinet, the
spill count and the depth are discarded; the other lanes go on at PC + 8. R96, R97: YIELD holds the lanes whose guard is true at PC
+ 8 and makes the group the youngest; NOP goes on; BKPT takes no effect and stops the group with cause 0x06 and n, or
goes on where no guard is true. R99: REP in front of a word that it admits gives its issue set a repeat state with
index 0 and moves it to that word; in front of any other word it raises ILLEGAL, before any other trap (R50). Readings
of the model, not rules: logs 24, 39, 96. -/
def Obligations.ExitYieldNopBreakAndRep : Prop :=
  ((∀ (gd : Guard) (s : State) (g : Grp), let i : Instr := .exit gd
    Runs i s g → g.lanes.length = 64 → g.rep = none → g.tack = none →
    (∀ a ∈ (coreAt s s.cur.core).pend, a.kind ≠ .sc) →
    (∀ l, (active i s g).getLsbD l = true → inTxn (laneAt g l) = false) →
    ∃ t, exec i s = .next (retireDone s.cur.core t)
      ∧ GroupLanes s g (fun l => if (active i s g).getLsbD l then
          { laneAt g l with status := .exited, depth := 0, cab := [], spill := 0, resv := none, wait := .ready }
          else passed s (laneAt g l) l) t)
  ∧ (∀ (gd : Guard) (n : Fin 4096) (s : State) (g : Grp),
    (Runs (.nop gd) s g → exec (.nop gd) s = .next (finishWord s))
    ∧ (Runs (.yield gd) s g → g.lanes.length = 64 → active (.yield gd) s g ≠ 0 →
      ∃ t, exec (.yield gd) s = .next
          (modCore t s.cur.core fun x => { x with ages := x.ages.filter (· ≠ s.cur.slot) ++ [s.cur.slot] })
        ∧ GroupLanes s g (fun l => if (active (.yield gd) s g).getLsbD l then
            { laneAt g l with pc := (laneAt g l).pc + 8, wait := .yield } else passed s (laneAt g l) l) t)
    ∧ (Runs (.bkpt gd n) s g →
      (active (.bkpt gd n) s g ≠ 0 → exec (.bkpt gd n) s = .next (takeTrap s s.cur.core s.cur.slot
        (mkRec g s.cur.slot (active (.bkpt gd n) s g) (curPc s) 0 n.val 0x06 0)))
      ∧ (active (.bkpt gd n) s g = 0 → exec (.bkpt gd n) s = .next (finishWord s)))))
  ∧ (∀ (n : Fin 65) (d a b c : RepStep) (s : State) (g : Grp) (w : Nat), let i : Instr := .rep n d a b c
    curGrp s = some g → g.lanes.length = 64 → fetchAt s s.cur.core g ((curPc s).toNat + 8) = .word w 0 →
    (repOk g w n.val d a b c = true → Runs i s g →
      ∃ g', exec i s = .next (setCurGrp s g') ∧ g' = { g with lanes := g'.lanes, rep := g'.rep }
        ∧ g'.rep = some { word := some w, count := n.val, next := 0, d := d, a := a, b := b, c := c, set := s.cur.mask }
        ∧ ∀ l, laneAt g' l = passed s (laneAt g l) l)
    ∧ (repOk g w n.val d a b c = false → exec i s = .next (takeTrap s s.cur.core s.cur.slot
        (mkRec g s.cur.slot s.cur.mask (curPc s) 0 0 0x01 0))))

/-- R95: a SPAWN of one lane outside voyage mode gives it the lowest exited or idle slot, in which the child starts at
the target with V0 = b and every other piece of lane state at its start value, or 0xFFFF_FFFF where no slot is free.
Readings of the model, not rules: log 90. -/
def Obligations.SpawnCreatesAChildInTheLowestFreeSlot : Prop :=
  ∀ (gd : Guard) (d : VReg) (a : Reg) (b : Operand) (s : State) (g : Grp) (l : Nat),
    let i : Instr := .spawn gd d a b
    let tgt (l : Nat) : Dword := BitVec.ofNat 64 (opI (envOf s g l) 2 a.op)
    let free (k : Nat) : Prop := k < 64 ∧ (laneAt g k).status ≠ .live
    Runs i s g → s.cur.core < s.cores.length → g.lanes.length = 64 → (laneAt g l).status = .live →
    s.cur.mask.getLsbD l = true → active i s g = oneLane l → l < 64 →
    voyageOf (coreAt s s.cur.core) g = none → GoodTargets (active i s g) tgt →
    (∀ k, free k → (∀ j, free j → k ≤ j) → s.cur.mask.getLsbD k = false →
      ∃ g', exec i s = .next (setCurGrp s g') ∧ g' = { g with lanes := g'.lanes, rdv := g'.rdv }
        ∧ g'.rdv = g.rdv.map (fun r => { r with excused := r.excused ||| oneLane k })
        ∧ laneAt g' k = { Lane.empty with
            status := .live, pc := tgt l, fibre := (laneAt g k).fibre,
            regs := putV [] 0 (opI (envOf s g l) 1 b) 1 }
        ∧ laneAt g' l = { laneAt g l with
            pc := (laneAt g l).pc + 8, regs := putV (laneAt g l).regs ((laneAt g l).base + d.val) k 1 }
        ∧ ∀ j, j ≠ k → j ≠ l → laneAt g' j = passed s (laneAt g j) j)
    ∧ ((∀ k, ¬ free k) →
      ∃ t, exec i s = .next t ∧ GroupLanes s g (fun j =>
        if j = l then { laneAt g l with
          pc := (laneAt g l).pc + 8, regs := putV (laneAt g l).regs ((laneAt g l).base + d.val) 0xFFFFFFFF 1 }
        else passed s (laneAt g j) j) t)

/-! ## Group operations (R142 to R161) -/

/-- R142 to R146: an issue set that executes a group operation arrives at the group's rendezvous. The word that opens
it captures the member mask; the members park, and supply their operands where their guard is true; the other lanes of
the set go on at PC + 8, and so does a lane inside a transaction, whose guard is false (R301). A lane outside whose guard
is true and which is no member raises GMASK; a set that meets a pending rendezvous at another PC raises RENDEZVOUS in its
members there, and parks behind it where it has none. Readings of the model, not rules: log 90. -/
def Obligations.GroupOperationArrivesAtItsRendezvous : Prop :=
  (∀ (i : Instr) (m : MReg) (f : Env → Nat × Nat × Nat) (s : State) (g : Grp) (cap : Mask), groupWord i = some (m, f) →
    Runs i s g → g.lanes.length = 64 →
    (∀ l, (active i s g).getLsbD l = true → inTxn (laneAt g l) = false) →
    (g.rdv = none ∧ cap = getM g m) ∨ (∃ r, g.rdv = some r ∧ r.pc = curPc s ∧ cap = r.captured) →
    (active i s g) &&& ~~~cap = 0 →
    ∃ g' r', exec i s = .next (setCurGrp s g') ∧ g' = { g with lanes := g'.lanes, rdv := some r' }
      ∧ (∀ l, laneAt g' l = if (plainLanes s g &&& cap).getLsbD l then { laneAt g l with wait := .rendezvous }
          else passed s (laneAt g l) l)
      ∧ (g.rdv = none → r' = opened s i (plainLanes s g) cap (active i s g) (supplies s g (active i s g) f))
      ∧ (∀ r, g.rdv = some r → r' = joined r i (plainLanes s g) (active i s g) (supplies s g (active i s g) f)))
  ∧ (∀ (i : Instr) (m : MReg) (f : Env → Nat × Nat × Nat) (s : State) (g : Grp), groupWord i = some (m, f) →
    Runs i s g → g.lanes.length = 64 →
    (∀ l, (active i s g).getLsbD l = true → inTxn (laneAt g l) = false) →
    (∀ cap, (g.rdv = none ∧ cap = getM g m) ∨ (∃ r, g.rdv = some r ∧ r.pc = curPc s ∧ cap = r.captured) →
      (active i s g) &&& ~~~cap ≠ 0 → exec i s = .next (takeTrap s s.cur.core s.cur.slot
        (mkRec g s.cur.slot (active i s g &&& ~~~cap) (curPc s) 0 0 0x07 0)))
    ∧ (∀ r, g.rdv = some r → r.pc ≠ curPc s →
      (active i s g &&& r.captured ≠ 0 → exec i s = .next (takeTrap s s.cur.core s.cur.slot
        (mkRec g s.cur.slot (active i s g &&& r.captured) (curPc s) 0 r.captured.toNat 0x08 0)))
      ∧ (active i s g &&& r.captured = 0 → ∃ t, exec i s = .next t ∧ GroupLanes s g (fun l =>
          if (plainLanes s g).getLsbD l then { laneAt g l with wait := .behind } else passed s (laneAt g l) l) t)))

/-- R145, R149: a complete SHFL gives each participant the value that its source lane supplied, where that lane is a
participant, else its own, and the validity to predicate `k`. R150: SLIDE moves the elements of the 64 lanes by `n`
places, and fills the rest. R151, R152, R156: VOTE, BALLOT, BALLOT.R and MSKOP over the participants. R133: each is written
when the exchange network has held it for 4 clocks, and the lanes go on then. Readings of the model, not rules: logs 38, 112,
119. -/
def Obligations.ShufflesVotesBallotsAndMasks : Prop :=
  (∀ (s : State) (c k : Nat) (g : Grp) (r : Rdv) (gd : Guard) (m : MReg) (seg : SegSize) (mode : ShflMode) (p : PReg)
    (d : VReg) (a b : Operand), Complete s c k g r → r.word = some (.shfl gd m seg mode p d a b) →
    let sz : Nat := match seg with | .s64 => 64 | .s16 => 16 | .s4 => 4
    let src (l : Nat) : Option Nat := (shuffleSource r sz mode l).filter (takesPart r)
    Completes s c k g r
      (fun l ln => setP (written ln d.val 1 (gave r ((src l).getD l)) 0) p (src l).isSome) id)
  ∧ (∀ (s : State) (c k : Nat) (g : Grp) (r : Rdv) (gd : Guard) (m : MReg) (up : Bool) (sw : SlideWidth)
    (d : VReg) (a b o : Operand), Complete s c k g r → r.word = some (.slide gd m up sw d a b o) →
    let w := slideWidth sw
    let per := 32 / w
    let elem (l q : Nat) : Nat :=
      match (slideFrom up (64 * per) (gave2 r l % 2 ^ 32) (per * l + q)).filter (fun t => takesPart r (t / per)) with
      | some t => gave r (t / per) / 2 ^ (w * (t % per)) % 2 ^ w
      | none => gave3 r l % 2 ^ w
    Completes s c k g r
      (fun l ln => written ln d.val 1 ((List.range per).map fun q => elem l q * 2 ^ (w * q)).sum 0) id)
  ∧ (∀ (s : State) (c k : Nat) (g : Grp) (r : Rdv) (gd : Guard) (m d a b : MReg) (p q : PReg) (n : Fin 256) (sd : SReg)
    (o : Operand) (mode : VoteMode) (bal : Mask), Complete s c k g r → Joined r →
    (∀ l, l < 64 → (bal.getLsbD l = true ↔ takesPart r l = true ∧ gave r l = 1)) →
    let verdict : Bool := match mode with
      | .all => bal = r.arrived &&& r.guards
      | .any => bal ≠ 0
      | .uni => bal = 0 ∨ bal = r.arrived &&& r.guards
    let mask (i : Instr) (v : Mask) : Prop := r.word = some i → Completes s c k g r (fun _ ln => ln) (putM · d v)
    (r.word = some (.vote gd m mode p q) → Completes s c k g r (fun _ ln => setP ln p verdict) id)
    ∧ mask (.ballot gd m d q) bal
    ∧ (r.word = some (.ballotR gd m (.v n) q) → Completes s c k g r (fun _ ln => written ln n.val 2 bal.toNat 0) id)
    ∧ (r.word = some (.ballotR gd m (.s sd) q) → Completes s c k g r (fun _ ln => ln) (putS · sd.val 2 bal.toNat))
    ∧ mask (.mskopAnd gd m d a b) (getM g a &&& getM g b)
    ∧ mask (.mskopOr gd m d a b) (getM g a ||| getM g b)
    ∧ mask (.mskopXor gd m d a b) (getM g a ^^^ getM g b)
    ∧ mask (.mskopAndn gd m d a b) (getM g a &&& ~~~getM g b)
    ∧ mask (.mskopNot gd m d a) (~~~getM g a)
    ∧ mask (.mskopArrv gd m d) (r.arrived &&& r.guards)
    ∧ (r.word = some (.mskopSt gd m sd a) → Completes s c k g r (fun _ ln => ln) (putS · sd.val 2 (getM g a).toNat))
    ∧ (∀ l, lowest (r.arrived &&& r.guards) = some l → mask (.mskopLd gd m d o) (BitVec.ofNat 64 (gave r l)))
    ∧ (∀ v : Mask, (∀ l, l < 64 → (v.getLsbD l = true ↔ (laneAt g l).status = .live)) → mask (.mskopLive gd m d) v))

/-- R154: a complete integer GRED gives every participant the sum, the least, the greatest or the bitwise result of the
participants' values, or writes it once to a scalar destination, with the flags of the lowest participant (R37); a GSCAN
gives each its own over the lanes before it. R155: a float ADD forms the exact sum of the participants' values and rounds it
once in the word's mode, with its rules for NaNs, infinities and zeros; MIN and MAX take the least and the greatest as R116
does. Readings of the model, not rules: logs 111, 119. -/
def Obligations.ReductionsAndScans : Prop :=
  (∀ (s : State) (c k : Nat) (g : Grp) (r : Rdv) (gd : Guard) (m : MReg) (n : Fin 256) (a : Operand) (t : IntTy)
    (rt : RedTy) (ex sat : Bool), Complete s c k g r →
    (rt, t) ∈ [(RedTy.i32, IntTy.i32), (.n32, .n32), (.i64, .i64), (.n64, .n64)] →
    let val (l : Nat) : Int := valOf t (BitVec.ofNat _ (gave r l))
    let bits (l : Nat) : BitVec (IntTy.width t) := BitVec.ofNat _ (gave r l)
    let mem (below : Nat → Bool) : List Nat := (List.range 64).filter fun l => takesPart r l && below l
    let sum (below : Nat → Bool) : Int := ((mem below).map val).sum
    let res (op : RedOp) (below : Nat → Bool) : Nat := match op with
      | .add => patOf t (if sat then clampTo t (sum below) else sum below)
      | .min => patOf t (((mem below).map val).foldl min (mostOf t))
      | .max => patOf t (((mem below).map val).foldl max (leastOf t))
      | .and => (((mem below).map bits).foldl (· &&& ·) (BitVec.allOnes _)).toNat
      | .or => (((mem below).map bits).foldl (· ||| ·) 0).toNat
      | .xor => (((mem below).map bits).foldl (· ^^^ ·) 0).toNat
    let flag (op : RedOp) (below : Nat → Bool) : Flags :=
      if op = .add ∧ sat then satFlag t (sum below) else 0
    ∀ op : RedOp,
      (r.word = some (.gred gd m rt op .rne sat (.v n) a) → Completes s c k g r
        (fun _ ln => written ln n.val (regs12 t.w64) (res op fun _ => true) (flag op fun _ => true)) id)
      ∧ (∀ (sd : Fin 192) (l0 : Nat), r.word = some (.gred gd m rt op .rne sat (.s sd) a) →
        lowest (r.arrived &&& r.guards) = some l0 → Completes s c k g r
          (fun l ln => if l = l0 then { ln with lsw := ln.lsw ||| flag op fun _ => true } else ln)
          (putS · sd.val (regs12 t.w64) (res op fun _ => true)))
      ∧ (r.word = some (.gscan gd m rt op ex .rne sat n a) → Completes s c k g r
        (fun l ln => written ln n.val (regs12 t.w64) (res op fun j => j < l || (!ex && j = l))
          (flag op fun j => j < l || (!ex && j = l))) id))
  ∧ ∀ (s : State) (c k : Nat) (g : Grp) (r : Rdv) (gd : Guard) (m : MReg) (n : Fin 256) (a : Operand) (f : Fmt)
    (rt : RedTy) (rm : Rm) (fz ex : Bool), Complete s c k g r →
    (rt = .f32 ∧ f = fmt32 ∧ fz = fz32 g) ∨ (rt = .f64 ∧ f = fmt64 ∧ fz = fz64 g) →
    let w := regs12 rt.w64
    let mem (below : Nat → Bool) : List Nat := ((List.range 64).filter fun l => takesPart r l && below l).map (gave r)
    let all_ : Nat → Bool := fun _ => true
    let upto (l : Nat) : Nat → Bool := fun j => j < l || (!ex && j = l)
    let sum (vs : List Nat) (v : Nat) (fl : Flags) : Prop :=
      let inf (sign : Nat) : Prop := ∃ c ∈ vs, fpRead f c = .inf (sign = 1)
      let nan : Prop := ∃ c ∈ vs, isNaNCode f c = true
      ((∃ c ∈ vs, isNaNCode f c = true) ∨ (inf 0 ∧ inf 1) → v = defaultNaN f
        ∧ (fl = if (∃ c ∈ vs, isSNaNCode f c = true) ∨ (inf 0 ∧ inf 1) then flNV else 0))
      ∧ (∀ sign, sign < 2 → inf sign → ¬inf (1 - sign) → ¬nan → v = infinity f sign ∧ fl = 0)
      ∧ ∀ xs : List ℚ, fz = false → vs.map (codeVal f) = xs.map some →
        (xs.sum ≠ 0 → Rounded f rm xs.sum v)
        ∧ (xs.sum = 0 → fl = 0 ∧ v = if vs ≠ [] ∧ (rm = .rdn ∨ ∀ c ∈ vs, c % 2 ^ (1 + f.eb + f.mb) = 2 ^ (f.eb + f.mb))
          then 2 ^ (f.eb + f.mb) else 0)
    let most (larger : Bool) (vs : List Nat) : Nat := match vs with
      | [] => infinity f (if larger then 1 else 0)
      | v :: rest => rest.foldl (extreme f fz larger) (extreme f fz larger v v)
    (r.word = some (.gred gd m rt .add rm false (.v n) a) → ∃ v fl, sum (mem all_) v fl
      ∧ Completes s c k g r (fun _ ln => written ln n.val w v fl) id)
    ∧ (∀ (sd : Fin 192) (l0 : Nat), r.word = some (.gred gd m rt .add rm false (.s sd) a) →
      lowest (r.arrived &&& r.guards) = some l0 → ∃ v fl, sum (mem all_) v fl
        ∧ Completes s c k g r (fun l ln => if l = l0 then { ln with lsw := ln.lsw ||| fl } else ln) (putS · sd.val w v))
    ∧ (r.word = some (.gscan gd m rt .add ex rm false n a) → ∃ (v : Nat → Nat) (fl : Nat → Flags), (∀ l, sum (mem (upto l)) (v l) (fl l))
      ∧ Completes s c k g r (fun l ln => written ln n.val w (v l) (fl l)) id)
    ∧ ∀ larger : Bool,
      let op : RedOp := if larger then .max else .min
      (r.word = some (.gred gd m rt op .rne false (.v n) a) → ∃ fl,
        Completes s c k g r (fun _ ln => written ln n.val w (most larger (mem all_)) fl) id)
      ∧ (r.word = some (.gscan gd m rt op ex .rne false n a) → ∃ fl : Nat → Flags,
        Completes s c k g r (fun l ln => written ln n.val w (most larger (mem (upto l))) (fl l)) id)

/-! ## Memory words (R169 to R179, R289 to R294) -/

/-- R169 to R177: outside transactions, where every address is good and its translation stands, LD, ST, ATOM, ACAS,
LR, SC and PARTN make one access in each lane whose guard is true, in lane order, and go on; SLD makes one for its
lowest such lane. Nothing else changes: no byte of memory, no register. Readings of the model, not rules: logs 1, 21 (the
constant operand of ATOM.FADD), 83. -/
def Obligations.MemoryWordsIssueTheirAccesses : Prop :=
  (∀ (i : Instr) (f : AccForm) (s : State) (g : Grp) (tg : Nat → Target), accForm i = some f →
    Runs i s g → NoTxn g (active i s g) →
    (∀ l, (active i s g).getLsbD l = true → checkOf s g f l = .ok (tg l) ∧ Settled s g (vaOf s g f l) f.ty) →
    exec i s = .next (finishWord (issueAll s (accsOf s g f (active i s g) tg))))
  ∧ (∀ (gd : Guard) (w : LdWidth) (m : MemMod) (d a : SReg) (b : Operand) (off : BitVec 13) (s : State) (g : Grp)
      (l : Nat) (t : Target), let i : Instr := .sld gd w m d a b off
    let f := sldForm w m d a b off
    Runs i s g → NoTxn g (active i s g) →
    (lowest (active i s g) = none → exec i s = .next (finishWord s))
    ∧ (lowest (active i s g) = some l → checkOf s g f l = .ok t → Settled s g (vaOf s g f l) .load →
      exec i s = .next (finishWord (issueAll s [{ accOf s g f 0 l t with also := s.cur.mask }]))))

/-- R169: outside transactions, a memory word with a lane that fails a check traps before any access: the first check
that some lane fails gives the cause, the record names the lanes that fail it, and ADDR is the lowest one's address.
The checks of one address, in their order: canonical, aligned, in the scratchpad where it is an aperture address, else
mapped with the permission, and present. Readings of the model, not rules: logs 4, 37, 99. -/
def Obligations.MemoryChecksTrapInOrder : Prop :=
  (∀ (i : Instr) (f : AccForm) (s : State) (g : Grp) (m : Mask) (o l0 : Nat), accForm i = some f →
    Runs i s g → NoTxn g (active i s g) →
    (∀ l x, (active i s g).getLsbD l = true → checkOf s g f l = .bad x → o ≤ x.order) →
    (∀ l, l < 64 → (m.getLsbD l = true ↔ (active i s g).getLsbD l = true ∧ ∃ c, checkOf s g f l = .bad { order := o, cause := c })) →
    lowest m = some l0 →
    exec i s = .next (takeTrap s s.cur.core s.cur.slot
      (mkRec g s.cur.slot m (curPc s) (vaOf s g f l0) 0 (causeOfCheck o) 0)))
  ∧ (∀ (s : State) (c : Nat) (g : Grp) (a : Dword) (al : Nat) (ty : AccessType),
    let r := checkAddr s c g a.toNat al ty
    let top : Prop := a.extractLsb' 57 7 = (a.extractLsb' 56 1).signExtend 7
    let bad (o cause : Nat) : Prop := r = .bad { order := o, cause := cause }
    let good : Prop := top ∧ a.toNat % al = 0
    (bad 1 0x0A ↔ ¬top)
    ∧ (bad 2 0x0B ↔ top ∧ a.toNat % al ≠ 0)
    ∧ (good → ownAperture ≤ a.toNat → (bad 3 0x0C ↔ aperture s c g a.toNat = none))
    ∧ (good → a.toNat < ownAperture → g.supervisor = false →
      (findLeaf s c g.grid a.toNat = .unmapped → bad 4 0x0A)
      ∧ (findLeaf s c g.grid a.toNat = .absent → bad 5 0x0D)
      ∧ ∀ lf p, findLeaf s c g.grid a.toNat = .leaf lf p →
        (r = .ok (leafTarget lf a.toNat) ↔ permits lf ty = true) ∧ (bad 4 0x0A ↔ permits lf ty = false)))

/-- R279, R324: a memory word that issues, traps, or has its transaction aborted stores nothing: no byte of memory changes in
its step, not those of the page-table entries whose A and D bits it sets either. Readings of the model, not rules: log 83. -/
def Obligations.MemoryWordsStoreNothingAtIssue : Prop :=
  ∀ (i : Instr) (s t : State), memoryWord i = true → exec i s = .next t → t.mem = s.mem

/-- R294, R291, R290, R178: WAITV parks the lanes whose guard is true with their reads pending, and the others go on;
FENCE writes its team's failure word and clears it; XFENCE goes on; PREF counts in cr.hint what it asks and what it
drops, and changes no register and no byte of memory. Readings of the model, not rules: log 104. -/
def Obligations.WaitFenceAndPrefetch : Prop :=
  ∀ (gd : Guard) (s : State) (g : Grp) (cc : WCond) (w : AWidth) (acq : Bool) (sc : Scope) (d a : Reg) (b : Operand)
    (off : BitVec 13) (o : Ordering4) (n : SReg) (p q : Path) (tm : Team) (ps : PrefScope) (ev : Fin 8)
    (tg : Nat → Target),
    (let i : Instr := .waitv gd cc w acq sc d a b off
      let f := waitForm cc w acq sc d a b off (lowest (active i s g))
      Runs i s g → NoTxn g (active i s g) → g.lanes.length = 64 →
      (∀ l, (active i s g).getLsbD l = true → checkOf s g f l = .ok (tg l) ∧ (∃ pa, (tg l).place = .glob pa)
        ∧ Settled s g (vaOf s g f l) .load) →
      ∃ t, exec i s = .next t ∧ GroupLanes (issueAll s (accsOf s g f (active i s g) tg)) g (fun l =>
        if (active i s g).getLsbD l then { laneAt g l with wait := .waitv } else passed s (laneAt g l) l) t)
    ∧ (let i : Instr := .fence gd o sc n
      Runs i s g → NoTxn g (active i s g) → s.cur.core < s.cores.length →
      (active i s g = 0 → exec i s = .next (finishWord s))
      ∧ (active i s g ≠ 0 → teamAt s s.cur.core g.team = some tm →
        exec i s = .next (finishWord (setCurGrp
          (modTeam s s.cur.core g.team fun t => { t with fails := t.fails.set g.index 0 })
          (putS g n.val 2 (tm.fails.getD g.index 0).toNat)))))
    ∧ (let i : Instr := .xfence gd sc p q
      Runs i s g → NoTxn g (active i s g) → exec i s = .next (finishWord s))
    ∧ (let i : Instr := .pref gd ps ev a off
      let va (l : Nat) : Nat := based (envOf s g l) a off
      let bad (l : Nat) : Bool := match checkAddr s s.cur.core g (va l) 1 .load with | .bad _ => true | .ok _ => false
      let aperture (x : Nat) : Bool := canonical x && ((ownAperture ≤ x && x < ownAperture + 2 ^ 24) || peerAperture ≤ x)
      let asks : List Nat := (inOrder (active i s g)).filter fun l => !aperture (va l)
      Runs i s g → s.cur.core < s.cores.length →
      (∀ l ∈ asks, bad l = true ∨ Settled s g (va l) .load) →
      ∃ t, exec i s = .next (finishWord t)
        ∧ t = { setCurGrp s { g with hint := ((curGrp t).getD g).hint } with homes := t.homes }
        ∧ ∀ g', curGrp t = some g' →
          g'.hint.toNat % 2 ^ 32 = min (2 ^ 32 - 1) (g.hint.toNat % 2 ^ 32 + asks.length)
          ∧ g'.hint.toNat / 2 ^ 32 = min (2 ^ 32 - 1) (g.hint.toNat / 2 ^ 32 + asks.countP bad))

/-! ## The ordering machine (R273 to R295, R324, R326) -/

/-- R279, R280: a load executes at its home: its destination takes the bytes that it sees, zero- or sign-extended, and
no byte of memory changes; LR reserves its granule as well. Readings of the model, not rules: logs 19, 25. -/
def Obligations.LoadsTakeTheBytesTheySee : Prop :=
  ∀ (s : State) (c pa : Nat) (a : Acc) (g : Grp) (by_ : Nat → Byte) (sg : Bool),
    AtHome s c a pa → readableNow s (some (.release c)) none pa a.n a.gr = true →
    grpAt s c a.slot = some g → a.lane < g.lanes.length → a.txn = false → a.own = [] → a.spared = (0, 0) →
    (∀ i, i < a.n → Sees (coreAt s c) s.mem a (pa + i) (by_ i)) →
    let v := leNat ((List.range a.n).map by_)
    (a.kind = .load sg → ∃ t, exec (.satisfy c a.id) s = .next (retireDone c t)
      ∧ t.mem = s.mem ∧ (coreAt t c).pend = without (coreAt s c) a.id
      ∧ grpAt t c a.slot = some (landed g a.lane a.dst
          (if sg then ((BitVec.ofNat (8 * a.n) v).signExtend 32).toNat else v)))
    ∧ (a.kind = .lr → ∃ t, exec (.satisfy c a.id) s = .next (retireDone c t)
      ∧ t.mem = s.mem ∧ (coreAt t c).pend = without (coreAt s c) a.id
      ∧ grpAt t c a.slot = some (landed (modLane g a.lane fun ln => { ln with resv := some (granule (.glob pa)) })
          a.lane a.dst v))

/-- R174, R175: ATOM, ACAS and SC that wait in no queue execute at their home as one step: where they store, exactly their bytes change;
ATOM and ACAS return the old value, SC 0 where it stores and 1 where it does not, and it clears its lane's
reservation. Readings of the model, not rules: logs 18, 25. -/
def Obligations.AtomicsActAsOneStep : Prop :=
  ∀ (s : State) (c pa p n : Nat) (a : Acc) (g : Grp), AtHome s c a pa →
    (coreAt s c).outb.any (accOverlap a) = false → writableNow s (some (.release c)) none none pa a.n a.gr = true →
    waitsAt (.acc c a.id) (homeOf s pa a.gr) = false →
    grpAt s c a.slot = some g → a.lane < g.lanes.length → a.spared = (0, 0) → a.dst = .v p n →
    Memory.wf s.mem = true → ((∃ op, a.kind = .atom op) ∨ (∃ cmp, a.kind = .acas cmp) ∨ a.kind = .sc) →
    let old := readLe s.mem pa a.n
    let new := stores a (laneAt g a.lane).resv old
    let ret := if a.kind = .sc then (if new.isSome then 0 else 1) else old
    ∃ t g', exec (.satisfy c a.id) s = .next (retireDone c t)
      ∧ (∀ v, new = some v → Stored s.mem t.mem pa a.n v) ∧ (new = none → t.mem = s.mem)
      ∧ (coreAt t c).pend = without (coreAt s c) a.id ∧ grpAt t c a.slot = some g'
      ∧ (laneAt g' a.lane).regs = putV (laneAt g a.lane).regs p ret n
      ∧ (a.kind = .sc → (laneAt g' a.lane).resv = none)

/-- R279, R281, R283: a store moves from its lane's queue to the outbound buffer, a release after every earlier access of its
lane, and as a registered release where it is one; a store to scratchpad executes there. R284, R287, R276: a buffered store travels to its home's queue; the write at the
head of a grain's queue performs once the horizon has passed and no read is served in that clock (R317), unless another
agent owns the grain, and changes exactly its bytes; a store to an address
that nothing backs fails, and its team's accumulator records it. Readings of the model, not rules: logs 25, 35. -/
def Obligations.StoresReachMemoryThroughTheirHome : Prop :=
  (∀ (s : State) (c pa tc tn off : Nat) (a : Acc) (tm : Team),
    (coreAt s c).pend.find? (fun b => b.id = a.id) = some a → a.kind = .store → issuable c (coreAt s c) a = true →
    let x := coreAt s c
    let h := homeOf s pa a.gr
    let moved (b : Acc) : State :=
      modCore s c fun y => { y with pend := without x a.id, outb := x.outb ++ [b] }
    (isRelease a = true → ∀ b ∈ before a.id x.pend, sameLane a b = false) →
    (a.place = .glob pa → coveredBy x pa = none → undrained x < 512 → walking s c a = false →
      (registers s a = false → exec (.buffer c a.id) s = .next (retireDone c (moved a)))
      ∧ (registers s a = true → readableNow s (some (.release c)) none pa a.n a.gr = true →
        (h.owner = none → h.isOpen = true) → exec (.buffer c a.id) s = .next (retireDone c
          (putHome (moved { a with registered := true })
            { h with owner := some (.release c), asked := h.asked && h.owner.isSome }))))
    ∧ (a.place = .scr tc tn off → releaseReady x a = true → tc < s.cores.length → teamAt s tc tn = some tm → Memory.wf tm.bytes = true →
      (∀ w b, backingOf tm off ≠ .invalid w b) →
      ∃ t tm', exec (.buffer c a.id) s = .next (retireDone c t) ∧ t.mem = s.mem
        ∧ (coreAt t c).pend = without x a.id ∧ teamAt t tc tn = some tm' ∧ Stored tm.bytes tm'.bytes off a.n a.val))
  ∧ (∀ (s : State) (c id pa : Nat) (a : Acc) (h : Home) (w : PWrite) (ws : List PWrite),
    let x := coreAt s c
    let older := x.outb.takeWhile fun b => b.id ≠ a.id
    (x.outb.find? (fun b => b.id = a.id) = some a → a.place = .glob pa → a.drained = false →
      (∀ b ∈ older, b.drained = false → accOverlap a b = false) →
      (drainsLast a = true → ∀ b ∈ x.outb ++ x.pend, sameLane a b = true → a.id ≤ b.id) →
      heldByRelease s c a = false →
      (backed s pa = true → readableNow s (some (.release c)) none pa a.n a.gr = true →
        exec (.drain c a.id) s = .next (putHome
          (modCore s c fun y => { y with outb := x.outb.map fun b => if b.id = a.id then { b with drained := true } else b })
          { homeOf s pa a.gr with
            queue := (homeOf s pa a.gr).queue ++ [{ src := .acc c a.id, pa := pa, bytes := leBytes a.n a.val }]
            len := 2, wrote := true }))
      ∧ (regionOf pa = .nothing → s.badPages.contains (pa / 4096) = false →
        exec (.drain c a.id) s = .next (dropBuffered (recordFailure s c a 2) c a.id)))
    ∧ (s.homes.find? (fun k => k.grain = h.grain) = some h → 0 < h.size → h.queue = w :: ws → w.src = .acc c id → w.rmw = false →
      (∀ e, regionOf h.grain ≠ .fabric e) → h.horizon ≤ meridian s → h.readAt ≤ s.clock → w.orr = false →
      helmHolds s none w.pa w.bytes.length true = false → (h.owner = none ∨ h.owner = some (.release c)) →
      outsideHolds s h = false → Memory.wf s.mem = true →
      ∃ t, exec (.perform h.grain) s = .next t
        ∧ (∀ q, sget t.mem q = if w.pa ≤ q ∧ q < w.pa + w.bytes.length then w.bytes.getD (q - w.pa) 0 else sget s.mem q)
        ∧ homeOf t h.grain h.size = { h with queue := ws, len := 2, wrote := true }
        ∧ (∀ b ∈ (coreAt t c).outb, b.id ≠ id)))

/-- R274, R281: the copies of a grain are dropped when their expiry has passed; an owner that was asked gives the
grain up once no registered release of its core stands there. R326, R324: TRANSLATION_WALK for a user group's mapped
address, of which the core holds no leaf, puts its leaf into the core's TLB, and for each entry that it used whose A bit
is 0 a write of that bit enters the queue of its home; no byte of memory changes in the step. Readings of the model, not
rules: log 83. -/
def Obligations.LeasesOwnersAndWalks : Prop :=
  (∀ (s : State) (h : Home) (c : Nat), s.homes.find? (fun k => k.grain = h.grain) = some h →
    ((∃ l ∈ h.leases, l.expiry ≤ meridian s) → exec (.expire h.grain) s = .next (putHome s
      { h with leases := h.leases.filter fun l => decide (meridian s < l.expiry) }))
    ∧ (h.owner = some (.release c) → h.asked = true →
      (∀ a ∈ (coreAt s c).outb, a.registered = true ∨ viaWindow s h.grain = true →
        overlap (.glob h.grain) h.size a.place a.n = false) →
      exec (.ownerSurrender h.grain) s = .next (putHome s { h with owner := none, asked := false })))
  ∧ (∀ (s : State) (c k : Nat) (va : Dword) (g : Grp) (lf : Leaf) (ps : List Nat), grpAt s c k = some g → c < s.cores.length →
    let root := gridRoot s g.grid
    let near (h : Home) (p : Nat) : Prop := h.grain < p / 512 * 512 + 512 ∧ p / 512 * 512 < h.grain + h.size
    g.supervisor = false → va.toNat < ownAperture →
    (∀ e ∈ (coreAt s c).tlb, e.asid = rootAsid root → leafCovers e.leaf va.toNat = false) →
    walkFrom s va.toNat 5 (rootTable root) = .leaf lf ps →
    (∀ h ∈ s.homes, ∀ p ∈ ps, near h p → h.size = 512 ∧ h.grain % 512 = 0) →
    ∃ t, exec (.translationWalk c k va) s = .next t
      ∧ (coreAt t c).tlb.head? = some { asid := rootAsid root, leaf := lf } ∧ t.mem = s.mem
      ∧ ∀ p ∈ ps, (performedByte s p).getLsbD 6 = false →
        { src := .walker (some c) root va.toNat (performedLe s p 8), pa := p, bytes := [0x40], orr := true }
          ∈ (homeOf t p 512).queue)

/-- R294, R295: WATCH_WAKE takes the oldest wake of its grain and releases, of the lanes parked on its words, exactly
those whose condition holds on the new value; WATCH_POLL releases its lane where the condition holds now, past its
word; so does a WAITV's own read. Readings of the model, not rules: logs 88, 89. -/
def Obligations.WatchesReleaseParkedLanes : Prop :=
  ∀ (s : State) (c n : Nat) (w : Wake) (a : Acc) (g : Grp) (cc : WCond) (cmp pa : Nat) (iv t0 : Nat),
    let x := coreAt s c
    (x.wakes.find? (fun k => k.grain = n) = some w → x.pend.Pairwise (fun a b => a.id ≠ b.id) →
      ∃ t, exec (.watchWake c n) s = .next t ∧ t.mem = s.mem ∧ (coreAt t c).wakes = x.wakes.erase w
        ∧ (∀ b ∈ (coreAt t c).pend, b ∈ x.pend)
        ∧ ∀ b ∈ x.pend, (b ∉ (coreAt t c).pend ↔ b.watch ≠ .no ∧ ∃ cc cmp v, b.kind = .waitv cc cmp
            ∧ wakeBytes w b v ∧ waitHolds cc v (cmp % 2 ^ (8 * b.n)) = true))
    ∧ (grpAt s c a.slot = some g → a.lane < g.lanes.length → a.kind = .waitv cc cmp → a.place = .glob pa →
      a.spared = (0, 0) → (∀ st ∈ x.outb, accOverlap a st = false) →
      readableNow s (some (.release c)) none pa a.n a.gr = true →
      waitHolds cc (readLe s.mem pa a.n) (cmp % 2 ^ (8 * a.n)) = true →
      let freed (t : State) : Prop := t.mem = s.mem ∧ (coreAt t c).pend = without x a.id
        ∧ grpAt t c a.slot = some (modLane (landed g a.lane a.dst (readLe s.mem pa a.n)) a.lane fun ln =>
            { ln with wait := .ready, pc := ln.pc + 8 })
      (x.pend = [a] → a.watch = .poll t0 iv → t0 ≤ s.clock → coveredBy x pa = none → viaWindow s pa = false →
        (linesOf pa a.n).any (linePoisoned s) = false →
        ∃ t, exec (.watchPoll c (homeOf s pa a.gr).grain) s = .next t ∧ freed t)
      ∧ (AtHome s c a pa → g.stop = none → ∃ t, exec (.satisfy c a.id) s = .next (retireDone c t) ∧ freed t))

/-! ## Windows (R181 to R185) -/

/-- R182: WMAP maps the slot, with every block invalid, or raises WINDOW_MAP where a limit is broken. R185: WFLUSH
writes exactly the dirty sectors back and leaves the blocks valid and clean, WFLUSH.UN empties the slot as well; WDROP
empties it and writes nothing. Readings of the model, not rules: logs 27, 37. -/
def Obligations.WindowWordsMapFlushAndDrop : Prop :=
  ∀ (gd : Guard) (w : Fin 4) (a b c : SReg) (un : Bool) (s : State) (g : Grp) (tm : Team),
    s.cur.core < s.cores.length → teamAt s s.cur.core g.team = some tm → tm.wins.length = 4 → Memory.wf s.mem = true →
    let va := getS g a.val 2
    let off := getS g b.val 1
    let len := getS g c.val 1
    let slot (t : State) : Option Window := windowOf t s.cur.core g.team w.val
    (RunsOnce (.wmap gd w a b c) s g →
      (MapOk tm w.val va off len → ∃ t, exec (.wmap gd w a b c) s = .next (finishWord t)
        ∧ slot t = some { va := va, off := off, len := len, blocks := List.replicate (len / 512) .invalid })
      ∧ (¬MapOk tm w.val va off len → traps (.wmap gd w a b c) s g 0x0E va))
    ∧ (RunsOnce (.wflush gd un w) s g → ∃ t, exec (.wflush gd un w) s = .next (finishWord t)
      ∧ (slot s = none → t = s ∨ un = true)
      ∧ ∀ wn, slot s = some wn → BlocksApart wn → WrittenBack s t.mem tm wn
        ∧ slot t = if un then none else some { wn with blocks := wn.blocks.map fun b => match b with
          | .invalid => .invalid
          | .valid pa _ => .valid pa 0 })
    ∧ (RunsOnce (.wdrop gd w) s g → ∃ t, exec (.wdrop gd w) s = .next (finishWord t) ∧ slot t = none ∧ t.mem = s.mem)

/-- R183, R173: a touched invalid block is filled with the bytes of memory, once no buffered store of its core to it is left,
and becomes valid and clean. R185: a block that
was asked for goes back, exactly its dirty sectors, and becomes invalid. Readings of the model, not rules: log 27. -/
def Obligations.WindowBlocksFillAndSurrender : Prop :=
  ∀ (s : State) (c t blk pa : Nat) (w : Fin 4) (wn : Window) (tm : Team) (tg : Target) (d : BitVec 16),
    c < s.cores.length → windowOf s c t w.val = some wn → teamAt s c t = some tm → tm.wins.length = 4 →
    Memory.wf tm.bytes = true → Memory.wf s.mem = true → blk < wn.blocks.length →
    let lo := wn.off + 512 * blk
    (wn.blocks.getD blk .invalid = .invalid → blockTouched s c t lo = true →
      teamLeaf s c tm.grid (wn.va + 512 * blk) = some tg → tg.place = .glob pa → backed s pa = true →
      (∀ a ∈ (coreAt s c).outb, overlap (.glob pa) 512 a.place a.n = false) → viaWindow s pa = false →
      writableNow s none none (some (.fill c t w.val blk)) pa 512 tg.gr = true →
      ∃ u tm', exec (.windowFill c t w blk) s = .next u ∧ u.mem = s.mem
        ∧ windowOf u c t w.val = some { wn with blocks := wn.blocks.set blk (.valid pa 0) }
        ∧ teamAt u c t = some tm'
        ∧ ∀ q, sget tm'.bytes q = if lo ≤ q ∧ q < lo + 512 then sget s.mem (pa + (q - lo)) else sget tm.bytes q)
    ∧ (wn.blocks.getD blk .invalid = .valid pa d → viaWindow s pa = false →
      (∃ a ∈ blockGrains pa (blockGr s pa), (homeOf s a 512).asked = true) →
      ∃ u, exec (.windowSurrender c t w blk) s = .next u
        ∧ windowOf u c t w.val = some { wn with blocks := wn.blocks.set blk .invalid }
        ∧ ∀ q, sget u.mem q = if pa ≤ q ∧ q < pa + 512 ∧ d.getLsbD ((q - pa) / 32) = true
            then sget tm.bytes (lo + (q - pa)) else sget s.mem q)

/-! ## Byte barriers, handles, sweeps, copies (R186 to R198) -/

/-- R187, R188: BARI clears the record; BARX posts to it, and a flip releases every lane parked there; BARW goes on where
the phase differs from its operand and parks elsewhere; BART gives that to its predicate. A BARX above 0x7FFF_FFFF
raises BARRIER. Under a V code, each lane whose guard is true acts on the
record that its own address names, in lane order. Readings of the model, not rules: log 109. -/
def Obligations.BarrierWordsActOnTheirRecord : Prop :=
  ∀ (gd : Guard) (a : Reg) (b : Operand) (p : PReg) (s : State) (g : Grp) (l tc tn off : Nat) (tm : Team),
    g.lanes.length = 64 →
    let v := recordAt tm off
    let n := opI (envOf s g l) 1 b
    let stays := barPhase v = decide (n % 2 = 1)
    let stored (t : State) (r : BitVec 64) : Prop := ∃ tm', teamAt t tc tn = some tm' ∧ Stored tm.bytes tm'.bytes off 8 r.toNat
    (OneBar (.bari gd a) a .store s g l tc tn off tm →
      ∃ t, exec (.bari gd a) s = .next (finishWord t) ∧ stored t 0 ∧ t.mem = s.mem)
    ∧ (OneBar (.barx gd a b) a .store s g l tc tn off tm →
      (n ≤ 0x7FFFFFFF → ∃ t, exec (.barx gd a b) s = .next (finishWord t) ∧ stored t (posted v n).1 ∧ t.mem = s.mem
        ∧ Released s t (.scr tc tn off) (posted v n).2)
      ∧ (0x7FFFFFFF < n → traps (.barx gd a b) s g 0x0F (opI (envOf s g l) 2 a.op)))
    ∧ (OneBar (.barw gd a b) a .load s g l tc tn off tm → active (.barw gd a b) s g = oneLane l →
      ∃ t, exec (.barw gd a b) s = .next t ∧ GroupLanes s g (fun j =>
        if stays ∧ j = l then { laneAt g l with wait := .barw (.scr tc tn off) } else passed s (laneAt g j) j) t)
    ∧ (OneBar (.bart gd p a b) a .load s g l tc tn off tm → active (.bart gd p a b) s g = oneLane l →
      exec (.bart gd p a b) s = .next (finishWord (setCurGrp s (modLane g l fun ln => setP ln p !(decide stays)))))
    ∧ ∀ offs : Nat → Nat,
      let count (j : Nat) : Nat := opI (envOf s g j) 1 b
      let keeps (j : Nat) : Bool := barPhase (recordAt tm (offs j)) = decide (count j % 2 = 1)
      let at_ (m : Mask) (o : Nat) : List Nat := (inOrder m).filter fun j => offs j = o
      (LaneBars (.bari gd a) a .store s g tc tn offs tm → ∃ t tm', exec (.bari gd a) s = .next (finishWord t)
        ∧ t.mem = s.mem ∧ teamAt t tc tn = some tm' ∧ ∀ o, o % 8 = 0 →
          recordAt tm' o = if at_ (active (.bari gd a) s g) o = [] then recordAt tm o else 0)
      ∧ (LaneBars (.barx gd a b) a .store s g tc tn offs tm →
        (∀ j, (active (.barx gd a b) s g).getLsbD j = true → count j ≤ 0x7FFFFFFF) →
        ∃ t tm', exec (.barx gd a b) s = .next (finishWord t) ∧ t.mem = s.mem ∧ teamAt t tc tn = some tm' ∧ ∀ o, o % 8 = 0 →
          recordAt tm' o = (at_ (active (.barx gd a b) s g) o).foldl (fun v j => (posted v (count j)).1) (recordAt tm o))
      ∧ (LaneBars (.barw gd a b) a .load s g tc tn offs tm → ∃ t, exec (.barw gd a b) s = .next t ∧ GroupLanes s g (fun j =>
        if (active (.barw gd a b) s g).getLsbD j = true ∧ keeps j = true then
          { laneAt g j with wait := .barw (.scr tc tn (offs j)) } else passed s (laneAt g j) j) t)
      ∧ (LaneBars (.bart gd p a b) a .load s g tc tn offs tm → ∃ t, exec (.bart gd p a b) s = .next (finishWord t)
        ∧ GroupLanes s g (fun j => if (active (.bart gd p a b) s g).getLsbD j then setP (laneAt g j) p !(keeps j)
          else laneAt g j) t)

/-- R196: HWAIT on a pending handle parks the lanes whose guard is true, and otherwise gives them the status word; HTEST
tells whether it is pending no more; HCAN cancels a pending one, whose producer is gone, and leaves any other alone. -/
def Obligations.HandleWords : Prop :=
  ∀ (gd : Guard) (d : Option Reg) (n : Fin 256) (p : PReg) (h : HReg) (s : State) (g : Grp), g.lanes.length = 64 →
    let w := (g.handles.getD h.val 0).toNat
    (Runs (.hwait gd d h) s g → NoTxn g (active (.hwait gd d h) s g) →
      (w % 4 = 1 → ∃ t, exec (.hwait gd d h) s = .next t ∧ GroupLanes s g (fun l =>
        if (active (.hwait gd d h) s g).getLsbD l then
          { laneAt g l with wait := .hwait h d (lowest (active (.hwait gd d h) s g) = some l) }
        else passed s (laneAt g l) l) t)
      ∧ (w % 4 ≠ 1 → d = none → exec (.hwait gd d h) s = .next (finishWord s))
      ∧ (∀ r, w % 4 ≠ 1 → d = some (.s r) → active (.hwait gd d h) s g ≠ 0 →
        exec (.hwait gd d h) s = .next (finishWord (setCurGrp s (putS g r.val 1 w))))
      ∧ (w % 4 ≠ 1 → d = some (.v n) → ∃ t, exec (.hwait gd d h) s = .next (finishWord t)
        ∧ GroupLanes s g (fun l => if (active (.hwait gd d h) s g).getLsbD l then written (laneAt g l) n.val 1 w 0
          else laneAt g l) t))
    ∧ (Runs (.htest gd p h) s g → NoTxn g (active (.htest gd p h) s g) →
      ∃ t, exec (.htest gd p h) s = .next (finishWord t) ∧ GroupLanes s g (fun l =>
        if (active (.htest gd p h) s g).getLsbD l then setP (laneAt g l) p (decide (w % 4 ≠ 1)) else laneAt g l) t)
    ∧ (RunsOnce (.hcan gd h) s g → h.val < g.handles.length → s.cur.core < s.cores.length →
      (w % 4 ≠ 1 → exec (.hcan gd h) s = .next (finishWord s))
      ∧ (w % 4 = 1 → ∃ t g', exec (.hcan gd h) s = .next (finishWord t) ∧ curGrp t = some g'
        ∧ g'.handles = g.handles.set h.val (BitVec.ofNat 32 (w / 4 * 4 + 3))
        ∧ (∀ l, (laneAt g' l).wait = match (laneAt g l).wait with
            | .hwait h' d' e => if h' = h ∧ l < 64 then .ready else .hwait h' d' e
            | other => other)
        ∧ (∀ m ∈ (coreAt t s.cur.core).mops, ¬(m.slot = s.cur.slot ∧ m.h = h))
        ∧ ∀ j ∈ (coreAt t s.cur.core).jobs, j.slot = s.cur.slot → ∀ op it b f, j.kind ≠ .sweep h op it b f))

/-- R197, R198: TLDI loads an iterator record, or raises DESCRIPTOR where it breaks a limit; TSWP starts a sweep,
whose handle is pending of kind 6, raises ILLEGAL on an empty slot, whatever its guards are (R50), and HBUSY on a pending
handle; SWEEP_ELEMENT
changes its element in scratchpad, counts it in the handle, and completes the handle with the last one. Readings of
the model, not rules: logs 24, 42, 82. -/
def Obligations.SweepsChangeTheirElementsInOrder : Prop :=
  ∀ (gd : Guard) (i : Fin 2) (a b : SReg) (h : HReg) (op : SweepOp) (s : State) (g : Grp) (l : Nat),
    h.val < g.handles.length → s.cur.core < s.cores.length →
    let va := getS g a.val 2
    let hw := (g.handles.getD h.val 0).toNat
    (∀ bs s1 it, RunsOnce (.tldi gd i a) s g → lowest (active (.tldi gd i a) s g) = some l →
      snapRead g l 16 16 4 va s = .ok bs s1 → curGrp s1 = some g → s1.cur = s.cur →
      (decodeIter bs = some it → exec (.tldi gd i a) s = .next (finishWord (setCurGrp s1
        { g with iters := g.iters.set i.val (some it) })))
      ∧ (decodeIter bs = none → exec (.tldi gd i a) s = .next (takeTrap s1 s.cur.core s.cur.slot
        (mkRec g s.cur.slot (active (.tldi gd i a) s g) (curPc s1) va 0 0x10 0))))
    ∧ (curGrp s = some g → g.iters.getD i.val none = none → Stops (.tswp gd op h i b) s g s.cur.mask 0x01)
    ∧ (RunsOnce (.tswp gd op h i b) s g →
      ∀ it, g.iters.getD i.val none = some it →
        (hw % 4 = 1 → traps (.tswp gd op h i b) s g 0x11 0)
        ∧ (hw % 4 ≠ 1 → exec (.tswp gd op h i b) s = .next (finishWord (setCurGrp
            (withJob s (newJob s g (.tswp gd op h i b) (.sweep h op it (getS g b.val 1) (fz32 g))))
            { g with handles := g.handles.set h.val 0x61 }))))
    ∧ (∀ (c t off : Nat) (j : Job) (it : Iter) (x : Nat) (fl : Bool) (tm : Team) (k : Grp),
      (coreAt s c).jobs.find? (fun y => y.id = j.id) = some j → j.kind = .sweep h op it x fl → j.paused = false →
      grpAt s c j.slot = some k → k.frozen = false → h.val < k.handles.length → it.ty = 0 → it.extent.length = 4 →
      it.stride.length = 4 → Pad s c t off tm → windowPoison s tm off 4 = none →
      checkAddr s c k (elementAddr it j.next).toNat 4 .atomic =
        .ok { place := .scr c t off, gr := 512, shr := false, nc := false, norepl := false } →
      let old : BitVec 32 := BitVec.ofNat 32 (readLe tm.bytes off 4)
      let w := (k.handles.getD h.val 0).toNat
      let last : Bool := j.next + 1 = it.extent.prod
      ∃ u tm' k', exec (.sweepElement c j.id) s = .next (retireDone c u) ∧ teamAt u c t = some tm'
        ∧ Stored tm.bytes tm'.bytes off 4 (sweptInt op it.sat old (BitVec.ofNat 32 x))
        ∧ (last = true → ∀ y ∈ (coreAt u c).jobs, y.id ≠ j.id)
        ∧ (last = false → (coreAt u c).jobs.find? (fun y => y.id = j.id) = some { j with next := j.next + 1 })
        ∧ grpAt u c j.slot = some k' ∧ k'.handles.getD h.val 0 = BitVec.ofNat 32
            (min (w / 256 + 1) (2 ^ 24 - 1) * 256 + w / 16 % 16 * 16 + if last then 2 else w % 4))

/-- R190 to R193: CPY and CPYG take their course record, and CPYG its index list, and start the copy, or raise
COURSE where the record breaks a limit; COPY_WRITE writes its unit, moves the copy on, and its bytes arrive at the
barrier. Readings of the model, not rules: logs 24, 25, 82, 109. -/
def Obligations.CopiesRunUnitByUnit : Prop :=
  (∀ (gd : Guard) (a b : SReg) (s s1 s2 s3 : State) (g : Grp) (l : Nat) (hd ds ls : List Byte),
    let rec_ := getS g a.val 2
    let course := decodeCourse (hd ++ ds)
    let dims := (leNat ((hd.drop 40).take 4)) % 16
    let n := (course.dims.getD (dims - 1) { bcast := false, sstride := 0, dstride := 0, extent := 1 }).extent
    lowest (active (.cpy gd a) s g) = some l →
    snapRead g l 16 16 3 rec_ s = .ok hd s1 → snapRead g l 16 16 dims (rec_ + 48) s1 = .ok ds s2 →
    curGrp s2 = some g → s2.cur = s.cur →
    (RunsOnce (.cpy gd a) s g →
      (courseOk s2 g (hd ++ ds) course false = true → (crsTarget course = 1 → panelMiss s2 g course = none) →
        exec (.cpy gd a) s = .next (finishWord (withJob s2 (newJob s2 g (.cpy gd a) (.cpy rec_ 0 course none)))))
      ∧ (courseOk s2 g (hd ++ ds) course false = false → exec (.cpy gd a) s = .next (takeTrap s2 s.cur.core s.cur.slot
        (mkRec g s.cur.slot (active (.cpy gd a) s g) (curPc s2) rec_ 0 0x10 0))))
    ∧ (RunsOnce (.cpyg gd a b) s g → courseOk s2 g (hd ++ ds) course true = false →
      exec (.cpyg gd a b) s = .next (takeTrap s2 s.cur.core s.cur.slot
        (mkRec g s.cur.slot (active (.cpyg gd a b) s g) (curPc s2) rec_ 0 0x10 0)))
    ∧ (RunsOnce (.cpyg gd a b) s g → courseOk s2 g (hd ++ ds) course true = true → 1 ≤ dims →
      indexList g l n (getS g b.val 2) s2 = .ok ls s3 → curGrp s3 = some g → s3.cur = s.cur →
      (crsTarget course = 1 → panelMiss s3 g course = none) →
      exec (.cpyg gd a b) s = .next (finishWord (withJob s3 (newJob s3 g (.cpyg gd a b) (.cpy rec_ (getS g b.val 2)
        course (some ((List.range n).map fun k => leNat ((ls.drop (4 * k)).take 4)))))))))
  ∧ (∀ (s s1 : State) (c : Nat) (j : Job) (rec_ ls : Nat) (course : Course) (ix : Option (List Nat)) (g : Grp)
      (r0 : PartsIn) (t off : Nat) (tm : Team),
    let u := unitOf course ix j.next
    let src : Source := .turn (.copyWrite c j.id j.next) 0
    (coreAt s c).jobs.find? (fun y => y.id = j.id) = some j → j.kind = .cpy rec_ ls course ix → j.paused = false →
    j.extra = [] → j.next < copyUnits course → grpAt s c j.slot = some g → g.frozen = false →
    aperture s c g course.bar = some (.scr c t off) → Pad s c t off tm →
    readParts s src c g u.parts = .ok r0 → r0.bad = none →
    engWrite r0.state src c g u.dst (leBytes u.bytes (unitValue u r0.vals)) = .ok s1 →
    ∃ r tm1 tm', exec (.copyWrite c j.id j.next) s = .next (retireDone c r)
      ∧ teamAt s1 c t = some tm1 ∧ teamAt r c t = some tm'
      ∧ Stored tm1.bytes tm'.bytes off 8 (arrivedAt (recordAt tm1 off) u.bytes).1.toNat
      ∧ (j.next + 1 = copyUnits course → ∀ y ∈ (coreAt r c).jobs, y.id ≠ j.id)
      ∧ (j.next + 1 < copyUnits course →
        (coreAt r c).jobs.find? (fun y => y.id = j.id) = some { j with next := j.next + 1 }))

/-! ## The matrix engine (R199 to R213) -/

/-- R200 to R203: MACQ goes on as owner, takes a free engine of the same launch, or queues and parks; MREL gives the
engine up and raises MATRIX without it; ENGINE_GRANT makes the oldest waiter the owner and releases its lanes, on a
change of launch only after TILE_CLEAR has set every tile to +0. R203, R208, R210, R212: a matrix word of the owner
whose handle is not pending and whose limits hold is accepted with its snapshot; it raises MATRIX without the engine,
HBUSY on a pending handle, and traps where a limit is broken. Readings of the model, not rules: logs 7, 37, 46, 105. -/
def Obligations.MatrixEngineIsOwnedAndAcceptsWords : Prop :=
  ∀ (gd : Guard) (s : State) (g : Grp), g.lanes.length = 64 → s.cur.core < s.cores.length →
    let c := s.cur.core
    let x := coreAt s c
    let k := s.cur.slot
    let parks (i : Instr) (w : Wait) (ws : List Nat) : Prop := ∃ t, exec i s = .next t ∧ (coreAt t c).waiters = ws
      ∧ (coreAt t c).owner = x.owner ∧ ∃ g', curGrp t = some g' ∧ ∀ l, laneAt g' l =
        if (active i s g).getLsbD l then { laneAt g l with wait := w } else passed s (laneAt g l) l
    (RunsOnce (.macq gd) s g →
      let i : Instr := .macq gd
      let free : Prop := x.owner = none ∧ x.waiters = [] ∧ x.mops = [] ∧ x.launch = some g.grid
      (x.owner = some k → exec i s = .next (finishWord s))
      ∧ (free → exec i s = .next (finishWord (modCore s c fun y =>
        { y with owner := some k, cleared := false })))
      ∧ (x.owner ≠ some k → k ∈ x.waiters → parks i .macq x.waiters)
      ∧ (x.owner ≠ some k → k ∉ x.waiters → x.waiters.length < 16 → ¬free → parks i .macq (x.waiters ++ [k]))
      ∧ (x.owner ≠ some k → k ∉ x.waiters → 16 ≤ x.waiters.length → parks i .macqFull x.waiters))
    ∧ (RunsOnce (.mrel gd) s g →
      (x.owner = some k → exec (.mrel gd) s = .next (finishWord (modCore s c fun y =>
        { y with owner := none, grantAt := if x.mops = [] then s.clock + 8 else x.grantAt })))
      ∧ (x.owner ≠ some k → traps (.mrel gd) s g 0x12 0))
    ∧ (∀ d w ws h, (coreAt s d).owner = none → (coreAt s d).waiters = w :: ws → (coreAt s d).mops = [] → d < s.cores.length →
      grpAt s d w = some h →
      let y := coreAt s d
      (y.grantAt ≤ s.clock → y.launch = some h.grid ∨ y.cleared = true →
        ∃ t h', exec (.engineGrant d) s = .next t
          ∧ (coreAt t d).owner = some w ∧ (coreAt t d).waiters = ws ∧ (coreAt t d).launch = some h.grid
          ∧ grpAt t d w = some h' ∧ h' = { h with lanes := h.lanes.map fun ln =>
              if ln.wait = .macq then { ln with wait := .ready, pc := ln.pc + 8 } else ln })
      ∧ (y.grantAt + 512 ≤ s.clock → y.launch ≠ some h.grid → y.cleared = false →
        exec (.tileClear d) s = .next (modCore s d fun z => { z with tiles := [], cleared := true })))
    ∧ (∀ (i : Instr) (f : MatrixForm) (l : Nat), RunsOnce i s g → lowest (active i s g) = some l →
      matrixForm s g l (((teamAt s c g.team).map (·.shared)).getD 0) i = some f →
      let w := (g.handles.getD f.h.val 0).toNat
      (x.owner ≠ some k → traps i s g 0x12 0)
      ∧ (x.owner = some k → w % 4 = 1 → traps i s g 0x11 0)
      ∧ (x.owner = some k → w % 4 ≠ 1 → f.limits →
        exec i s = .next (finishWord (setCurGrp
          (modCore s c fun y => { y with mops := y.mops ++ [
            { slot := k, team := g.team, grid := g.grid, h := f.h, word := i.encode.getD 0, tile := f.tile, kind := f.what
              fzm := g.ftz.getLsbD 2, steps := 0, latched := 0, latch := [], cancelled := false }] })
          { g with handles := g.handles.set f.h.val (BitVec.ofNat 32 (16 * f.kind + 1)) })))
      ∧ (x.owner = some k → w % 4 ≠ 1 → ¬f.limits →
        ∃ m addr, ∃ cause ∈ [0x12, 0x0B, 0x0C], exec i s = .next (takeTrap s c k (mkRec g k m (curPc s) addr 0 cause 0))))

/-- R209, R69, R70: a step of MMA adds to every word of its tile, rounded to nearest even, the exact sum of the 32
products of its row and column, with the operands at their places in their panels; an overwriting first step starts
from +0. Readings of the model, not rules: log 82. -/
def Obligations.MatrixStepAccumulatesTheExactSum : Prop :=
  ∀ (s : State) (c : Nat) (m : MOp) (ms : List MOp) (g : Grp) (tm : Team) (ka kb : Kind) (ga gb : GSize) (ovw : Bool)
    (a b nb : Nat), HeadOp s c m ms g tm → m.kind = .mma ka kb ga gb ovw a b nb → m.steps < nb →
    grouped ka = grouped kb →
    ∃ u, exec (.matrixStep c) s = .next (retireDone c u) ∧ Stepped u c m ms g [] (m.steps + 1 = nb)
      ∧ (∀ t i j, t ≠ m.tile → i < 64 → j < 64 → tileWord u c t i j = tileWord s c t i j)
      ∧ ∀ (i j : Nat) (av bv : Nat → ℚ) (z : ℚ), i < 64 → j < 64 → m.fzm = false →
        (∀ k, k < 32 → elemQ tm.bytes a nb ka ga i (32 * m.steps + k) = some (av k)
          ∧ elemQ tm.bytes b nb kb gb j (32 * m.steps + k) = some (bv k)) →
        (if ovw ∧ m.steps = 0 then z = 0 else codeVal fmt32 (tileWord s c m.tile i j).toNat = some z) →
        z + stepSum av bv ≠ 0 → |z + stepSum av bv| ≤ largest fmt32 →
        RoundsTo fmt32 .rne (z + stepSum av bv) (tileWord u c m.tile i j).toNat

/-- R211, R213: MZERO clears its tiles; MLDZ widens each element of scratchpad into its word; MSTZ stores each word at
its element, rounded where the format is narrower; GATHER latches the next step's slices of the named rows; a step of
MMAG leaves a zero row as it stands. Readings of the model, not rules: log 82. -/
def Obligations.TileMovesAndGathers : Prop :=
  ∀ (s : State) (c : Nat) (m : MOp) (ms : List MOp) (g : Grp) (tm : Team) (n o st : Nat) (lf : LdFmt) (sf : StFmt) (rm : Rm)
    (sat : Bool) (ka kb : Kind) (ga gb : GSize) (ovw : Bool) (b t rs nb bar : Nat) (rows : List (Option Nat))
    (sl : List Byte) (rest : List (List Byte)), HeadOp s c m ms g tm →
    let stepOf (u : State) : Prop := exec (.matrixStep c) s = .next (retireDone c u)
    (m.kind = .mzero n → ∃ u, stepOf u ∧ Stepped u c m ms g [] true
      ∧ ∀ t i j, i < 64 → j < 64 →
        tileWord u c t i j = if m.tile ≤ t ∧ t < m.tile + n then 0 else tileWord s c t i j)
    ∧ (m.kind = .mldz lf o st → ∃ u, stepOf u ∧ Stepped u c m ms g [] true
      ∧ ∀ i j, i < 64 → j < 64 →
        let f : Fmt := match lf with | .f32 => fmt32 | .f16 => fmt16 | .bf16 => fmtB16
        let es := ldBytes lf
        let v := readLe tm.bytes (o + i * (if st = 0 then 64 * es else st) + j * es) es
        let w := (tileWord u c m.tile i j).toNat
        (lf = .f32 → isNaNCode f v = false → w = v) ∧ (isNaNCode f v = true → w = 0x7FC00000)
          ∧ ∀ q, codeVal f v = some q → codeVal fmt32 w = some q)
    ∧ (m.kind = .mstz sf rm sat o st → moveLimits (stBytes sf) o st tm.shared → ∃ u tm', stepOf u
      ∧ Stepped u c m ms g [] true ∧ teamAt u c m.team = some tm'
      ∧ ∀ i j, i < 64 → j < 64 →
        let es := stBytes sf
        let v := readLe tm'.bytes (o + i * (if st = 0 then 64 * es else st) + j * es) es
        let w := (tileWord s c m.tile i j).toNat
        (sf = .f32 → v = if isNaNCode fmt32 w then 0x7FC00000 else w)
          ∧ ∀ f q, (sf = .f16 ∧ f = fmt16 ∨ sf = .bf16 ∧ f = fmtB16 ∨ sf = .e4m3 ∧ f = fmtE4m3 ∨ sf = .e5m2 ∧ f = fmtE5m2) →
            codeVal fmt32 w = some q → q ≠ 0 → |q| ≤ largest f → RoundsTo f rm q v)
    ∧ (m.kind = .mmag ka kb ga gb ovw b t rs nb bar rows →
      (m.latched < nb → m.latch.length < 2 → bar = 0xFFFFFFFF → ∃ u, exec (.gather c) s = .next u
        ∧ (coreAt u c).mops = { m with
            latched := m.latched + 1
            latch := m.latch ++ [rows.flatMap fun r => match r with
              | none => []
              | some q => readBytes tm.bytes (t + q * rs + 4 * bitsOfKind ka * m.latched) (4 * bitsOfKind ka)
                  ++ if grouped ka then readBytes tm.bytes
                    (t + q * rs + 4 * bitsOfKind ka * nb + 4 * (32 * m.latched / groupSize ga)) 4 else []] } :: ms)
      ∧ (m.latch = sl :: rest → ∃ u, stepOf u ∧ Stepped u c m ms g rest (m.steps + 1 = nb)
        ∧ ∀ i j, i < 64 → j < 64 → rows.getD i none = none → rows.length = 64 →
          tileWord u c m.tile i j = if ovw ∧ m.steps = 0 then 0 else tileWord s c m.tile i j))

/-! ## Lane transactions (R299 to R311) -/

/-- R299, R300: below the anchor threshold, with their stores performed, TBEGIN opens a transaction in every lane of
its set. R310: TABORT aborts the lanes inside one, to the handler, or under RETRY to the restart with TRY one higher;
the others go on. R309: EXPIRED aborts a lane that has been open for LIFE ticks, to its restart. R303: TEND takes
consecutive tickets for its lanes, in order. R311: TSTAT reads. R307: a free anchor lock goes to its oldest waiter.
Readings of the model, not rules: logs 10, 29. -/
def Obligations.TransactionsOpenAbortAndTakeTickets : Prop :=
  ∀ (gd : Guard) (d : VReg) (n : Fin 9) (off : Word) (retry : Bool) (u : Fin 16) (v : Fin 256) (p : PReg) (s : State)
    (g : Grp), g.lanes.length = 64 → s.cur.core < s.cores.length →
    let x := coreAt s s.cur.core
    let handler := relative { Lane.empty with pc := curPc s } off
    (Runs (.tbegin d n off) s g → badPc handler.toNat = false →
      (∀ l, s.cur.mask.getLsbD l = true → inTxn (laneAt g l) = false ∧ (laneAt g l).pc = curPc s
        ∧ tryOf (laneAt g l) < max (g.tretry.toNat % 16) 1
        ∧ (∀ a ∈ x.pend ++ x.outb, ¬(a.slot = s.cur.slot ∧ a.lane = l))) →
      ∃ t, exec (.tbegin d n off) s = .next t ∧ GroupLanes s g (fun l => if s.cur.mask.getLsbD l then
        opensTxn (meridian s) (laneAt g l) d.val n.val handler else laneAt g l) t)
    ∧ (∀ l tx, Runs (.tabort gd retry u) s g → active (.tabort gd retry u) s g = oneLane l → l < 64 → Inside (laneAt g l) tx →
      ∃ t g', exec (.tabort gd retry u) s = .next t ∧ curGrp t = some g'
        ∧ (retry = false → AbortedTo (laneAt g l) tx tx.handler 0 (16 + u.val) (laneAt g' l))
        ∧ (retry = true → AbortedTo (laneAt g l) tx tx.restart (min (tryOf (laneAt g l) + 1) 15) (16 + u.val) (laneAt g' l))
        ∧ ∀ j, j ≠ l → laneAt g' j = { passed s (laneAt g j) j with starve := (laneAt g' j).starve })
    ∧ (∀ c k l tx h, grpAt s c k = some h → c < s.cores.length → l < h.lanes.length → Inside (laneAt h l) tx →
      running h = true → (∀ i, (laneAt h l).wait ≠ .tend i) → h.tretry.toNat / 2 ^ 16 ≠ 0 →
      (laneAt h l).txnStart.toNat + h.tretry.toNat / 2 ^ 16 ≤ meridian s →
      ∃ t h', exec (.expired c k l) s = .next t ∧ grpAt t c k = some h'
        ∧ AbortedTo (laneAt h l) tx tx.restart (min (tryOf (laneAt h l) + 1) 15) 5 (laneAt h' l))
    ∧ (Runs .tend s g →
      let ins : List Nat := (inOrder s.cur.mask).filter fun l => inTxn (laneAt g l)
      let nth (l : Nat) : Nat := (ins.takeWhile fun j => j ≠ l).length
      ∃ t g', exec .tend s = .next t ∧ t.ticket = s.ticket + ins.length ∧ curGrp t = some g'
        ∧ t.tickets = s.tickets ++ mapFrom (fun i l =>
            { num := s.ticket + i, who := .lane s.cur.core s.cur.slot l, last := s.ticket + ins.length - 1, ended := false })
            0 ins
        ∧ ∀ l, laneAt g' l = if s.cur.mask.getLsbD l then
            (if inTxn (laneAt g l) then { laneAt g l with resv := none, wait := .tend (s.ticket + nth l) }
             else { laneAt g l with resv := none, pc := (laneAt g l).pc + 8 }) else laneAt g l)
    ∧ (Runs (.tstat gd (.v v) p) s g → ∃ t, exec (.tstat gd (.v v) p) s = .next (finishWord t)
      ∧ GroupLanes s g (fun l =>
        let ln := laneAt g l
        let anchored : Bool := match ln.txn with | some tx => tx.anchor.isSome | none => false
        if (active (.tstat gd (.v v) p) s g).getLsbD l then
          setP (written ln v.val 1 (anchored.toNat * 1024 + (inTxn ln).toNat * 512 + tryOf ln * 32 + causeOf ln) 0) p (inTxn ln)
        else ln) t)
    ∧ (∀ k w ws, anchorAt s k = { k := k, holder := none, waiters := w :: ws } →
      ∃ t, exec (.anchorGrant k) s = .next t ∧ anchorAt t k = { k := k, holder := some w, waiters := ws }
        ∧ ∀ j, j ≠ k → anchorAt t j = anchorAt s j)

/-- R301, R302: a load of a lane in a transaction takes the bytes that the lane's own stores hold and records the others,
and forms no request where the stores hold them all; a store goes into the transaction alone; codes of ordering and scope have no
effect. R297: with no record or sector free either aborts with CAPACITY. R301, R315: a place in a scratchpad or a valid window
block aborts with UNSUPP, a line of a host or of another package with REMOTE, a word that no transaction may run with UNSUPP,
one of the matrix engine with ENGINE; TSWP over an empty slot is ILLEGAL instead (R198), and a TBEGIN whose handler is bad
has its own cause (R309). Readings of the model, not rules: logs 19, 29, 121. -/
def Obligations.TransactionalAccessesStayInTheLane : Prop :=
  (∀ (i : Instr) (f : AccForm) (s : State) (g : Grp) (l : Nat) (tx : Txn) (t : Target), accForm i = some f →
    (∀ w, f.kind w = .store) ∨ (∃ sg, ∀ w, f.kind w = .load sg) → OneInside i s g l tx → checkOf s g f l = .ok t →
    let x := coreAt s s.cur.core
    let aborts (cause : Nat) : Prop := Aborts i s g l tx tx.handler 0 cause
    let full_ : Prop := match tx.anchor with
      | none => Aborts i s g l tx tx.restart (min (tryOf (laneAt g l) + 1) 15) 2
      | some _ => aborts 2
    (∀ c k off, t.place = .scr c k off → aborts 0x0A)
    ∧ ∀ pa, t.place = .glob pa →
      (coveredBy x pa ≠ none → aborts 0x0A)
      ∧ (coveredBy x pa = none → (∃ p, regionOf pa = .host p) ∨ (∃ e, regionOf pa = .fabric e) → aborts 6)
      ∧ (coveredBy x pa = none → regionOf pa = .hbm ∨ regionOf pa = .lpddr →
        let own := ownOf tx pa f.bytes
        (∀ sg, (∀ w, f.kind w = .load sg) →
          (own.length ≠ f.bytes → 4096 ≤ recordsUsed x → full_)
          ∧ (Settled s g (vaOf s g f l) f.ty →
            (own.length ≠ f.bytes → recordsUsed x < 4096 → exec i s = .next (finishWord (issueAll s
              [{ accOf s g f 0 l t with txn := true, ord := .rlx, scope := .lane, own := own }])))
            ∧ (own.length = f.bytes →
              let v := leNat (own.map (·.2))
              exec i s = .next (finishWord (setCurGrp s (landed g l (f.dst (envOf s g l))
                (if sg then ((BitVec.ofNat (8 * f.bytes) v).signExtend 32).toNat else v)))))))
        ∧ ((∀ w, f.kind w = .store) → Memory.wf tx.writes = true →
          (sectorsUsed x < 1024 → Settled s g (vaOf s g f l) f.ty → ∃ w', exec i s = .next (finishWord (setCurGrp s
              (modLane g l fun ln => { ln with txn := some { tx with writes := w', masked := tx.masked ++ [(pa, f.bytes, t.gr)] } })))
            ∧ Stored tx.writes w' pa f.bytes (f.val (envOf s g l)))
          ∧ (1024 ≤ sectorsUsed x → pa / 32 ∉ sectorsOf tx.masked → full_))))
  ∧ (∀ (s : State) (c pa : Nat) (a : Acc) (g : Grp) (tx : Txn) (by_ : Nat → Byte) (sg : Bool),
    AtHome s c a pa → readableNow s (some (.release c)) none pa a.n a.gr = true → a.kind = .load sg → a.txn = true →
    grpAt s c a.slot = some g → a.lane < g.lanes.length → Inside (laneAt g a.lane) tx → a.spared = (0, 0) →
    (∀ i, i < a.n → Sees (coreAt s c) s.mem a (pa + i) (by_ i)) →
    let own (i : Nat) : Option Byte := (a.own.find? fun o => o.1 = pa + i).map (·.2)
    let v := leNat ((List.range a.n).map fun i => (own i).getD (by_ i))
    let rec_ : ReadRec :=
      { pa := pa, gr := a.gr, bytes := ((List.range a.n).filter fun i => (own i).isNone).map fun i => (pa + i, by_ i) }
    ∃ t, exec (.satisfy c a.id) s = .next (retireDone c t) ∧ t.mem = s.mem ∧ (coreAt t c).pend = without (coreAt s c) a.id
      ∧ grpAt t c a.slot = some (landed
          (modLane g a.lane fun ln => { ln with txn := some { tx with
            reads := tx.reads ++ if rec_.bytes = [] then [] else [rec_] } })
          a.lane a.dst (if sg then ((BitVec.ofNat (8 * a.n) v).signExtend 32).toNat else v)))
  ∧ (∀ (i : Instr) (s : State) (g : Grp) (l : Nat) (tx : Txn), OneInside i s g l tx →
    (unsupported i = true → (∀ gd op h n b, i = .tswp gd op h n b → g.iters.getD n.val none ≠ none) →
      (∀ d n off, i = .tbegin d n off → badPc (relative { Lane.empty with pc := curPc s } off).toNat = false) →
      Aborts i s g l tx tx.handler 0 0x0A)
    ∧ (matrixWords i = true → Aborts i s g l tx tx.handler 0 8))

/-- R303 to R306: a commit whose records hold and whose locks no other fibre holds performs every store of the
transaction in one step, and no other byte of memory changes; the lane stands behind its TEND, outside. One whose
record does not hold performs nothing, and the lane aborts to its restart. Readings of the model, not rules: log 29.
-/
def Obligations.CommitPerformsAllOrNothing : Prop :=
  ∀ (s : State) (n c k l : Nat) (g : Grp) (t : Txn), MayCommit s n c k l g t → Memory.wf s.mem = true →
    ((∀ r ∈ t.reads, Holds s.mem r) →
      (∀ a ∈ (txnFoot t).reads ++ (txnFoot t).writes, ∀ x, a.1 ≤ x → x < a.1 + a.2.1 →
        heldByOther s (some (c, k, l)) (anchorOf x) = false) →
      ∃ u g', exec (.commit n) s = .next u
        ∧ (∀ q, (inStores t q → sget u.mem q = sget t.writes q) ∧ (¬inStores t q → sget u.mem q = sget s.mem q))
        ∧ grpAt u c k = some g' ∧ (laneAt g' l).txn = none ∧ inTxn (laneAt g' l) = false
        ∧ tryOf (laneAt g' l) = 0 ∧ (laneAt g' l).pc = (laneAt g l).pc + 8 ∧ (laneAt g' l).regs = (laneAt g l).regs
        ∧ (laneAt g' l).resv = none ∧ u.tickets = [])
    ∧ ((∃ r ∈ t.reads, ¬Holds s.mem r) →
      ∃ u g', exec (.commit n) s = .next u ∧ u.mem = s.mem ∧ grpAt u c k = some g' ∧ u.tickets = []
        ∧ (laneAt g' l).txn = none ∧ (laneAt g' l).pc = t.restart ∧ causeOf (laneAt g' l) = 1
        ∧ (laneAt g' l).preds = t.preds ∧ (laneAt g' l).depth = t.depth)

/-! ## Helm cores (R312 to R314) -/

/-- R313: HTBEGIN, once the core's earlier stores are performed, takes a checkpoint and writes 0, and nests to depth 7; an
inner HTEND lowers the depth, the outermost one takes a ticket; HTABORT, a conflict, an interrupt return the checkpoint
with their cause in rd; HTSTAT reads. An interrupt that is enabled is then entered, as the RISC-V base gives (PRESUMED,
log 8). R314: a helm commit performs every write of its transaction in one step, and no other byte of memory changes.
Readings of the model, not rules: logs 8, 29, 31, 33. -/
def Obligations.HelmTransactions : Prop :=
  ∀ (s : State) (rd : Fin 32) (u : Fin 16) (x : Helm) (line : Nat) (wr : Bool),
    (s.helms[s.cur.core]? = some x →
      let h := s.cur.core
      (x.depth = 0 → x.outb ≠ [] → exec (.htbegin rd) s = .next s)
      ∧ (x.depth = 0 → x.outb = [] → exec (.htbegin rd) s = .next (putHelm s h (helmWrites
        { x with checkpoint := some x.regs, rd := rd.val, depth := 1, rsig := [], wsig := [], writes := [] } rd.val 0)))
      ∧ (x.depth ≠ 0 → x.depth < 7 → exec (.htbegin rd) s = .next (putHelm s h
        (helmWrites { x with depth := x.depth + 1 } rd.val 0)))
      ∧ (∀ r, x.depth = 7 → x.checkpoint = some r → exec (.htbegin rd) s = .next (putHelm s h (helmAborted x r 0x0A)))
      ∧ (x.depth ≠ 1 → exec .htend s = .next (putHelm s h (helmWrites { x with depth := x.depth - 1 } 0 0)))
      ∧ (x.depth = 1 → exec .htend s = .next { putHelm s h { x with ticket := some s.ticket } with
          ticket := s.ticket + 1
          tickets := s.tickets ++ [{ num := s.ticket, who := .helm h, last := s.ticket, ended := false }] })
      ∧ (∀ r, x.depth ≠ 0 → x.checkpoint = some r → exec (.htabort u) s = .next (putHelm s h (helmAborted x r (16 + u.val))))
      ∧ (x.depth = 0 → exec (.htabort u) s = .next (putHelm s h (helmWrites x 0 0)))
      ∧ exec (.htstat rd) s = .next (putHelm s h (helmWrites x rd.val
          (BitVec.ofNat 64 (x.cause % 32 * 16 + (if x.depth = 0 then 0 else 8) + x.depth % 8)))))
    ∧ (∀ h r, s.helms[h]? = some x → x.depth ≠ 0 → x.checkpoint = some r →
      (x.ticket = none → exec (.helmConflict h line wr) s = .next (putHelm s h (helmAborted x r 1)))
      ∧ (irqReady x = false → exec (.interrupt h) s = .next (putHelm s h (helmAborted x r 0x0B)))
      ∧ (irqReady x = true → exec (.interrupt h) s = .next (putHelm s h (trapEntry true 9 0 (helmAborted x r 0x0B)))))
    ∧ (x.depth = 0 → x.checkpoint = none → irqReady x = true → ∀ h, s.helms[h]? = some x →
      exec (.interrupt h) s = .next (putHelm s h (trapEntry true 9 0 x)))
    ∧ (∀ h n r last, s.helms[h]? = some x → x.ticket = some n → x.checkpoint = some r → x.writes.Pairwise (fun a b => a.1 < b.1) →
      Memory.wf s.mem = true → s.tickets = [{ num := n, who := .helm h, last := last, ended := false }] →
      HomesFree s → s.hostLines = [] → s.directory = [] → (∀ i y, i ≠ h → s.helms[i]? = some y → y.ticket = none) →
      (∀ a, (anchorAt s a).holder = none) →
      ∃ t rv, exec (.helmCommit n) s = .next t ∧ t.tickets = []
        ∧ (∀ q, sget t.mem q = if x.writes.any (fun b => b.1 = q) then sget x.writes q else sget s.mem q)
        ∧ t.helms[h]? = some (helmWrites { x with
            checkpoint := none, depth := 0, rsig := [], wsig := [], writes := [], ticket := none, resv := rv } 0 0))

/-! ## Control registers, traps, the supervisor (R220 to R240) -/

/-- R224, R226, R269: CRD reads every register of the user view in each lane; CWR writes the RW fields of one register
of the group, and in cr.lsw each lane's six sticky flags; a view of the supervisor's raises PRIV in a user group.
R222, R225, R269: the supervisor view writes the same registers, and cr.spill and the voyage counts, and cr.tring, cr.stage and
HEAD, which stops at TAIL. Readings of
the model, not rules: logs 5, 9, 48. -/
def Obligations.ControlRegistersReadAndWrite : Prop :=
  ∀ (gd : Guard) (n : Fin 256) (r : UReg) (v : CReg) (a : Operand) (d : Reg) (s : State) (g : Grp) (l : Nat),
    g.lanes.length = 64 → s.cur.core < s.cores.length →
    let i : Instr := .crd gd (.v n) (.user r)
    let j (x : CReg) : Instr := .cwr gd x a
    let val (w : Nat) : Nat := opI (envOf s g l) w a
    (Runs i s g → ∃ t, exec i s = .next (finishWord t) ∧ GroupLanes s g (fun k =>
      if (active i s g).getLsbD k then written (laneAt g k) n.val (regs12 r.w64) (readsUser s g (laneAt g k) r) 0
      else laneAt g k) t)
    ∧ (Runs (j (.user .lsw)) s g → ∃ t, exec (j (.user .lsw)) s = .next (finishWord t) ∧ GroupLanes s g (fun k =>
      if (active (j (.user .lsw)) s g).getLsbD k then
        { laneAt g k with lsw := (laneAt g k).lsw &&& 0xFFFFFFC0 ||| (BitVec.ofNat 32 (opI (envOf s g k) 1 a) &&& 0x3F) }
      else laneAt g k) t)
    ∧ (Runs (j (.user r)) s g → r ≠ .lsw → lowest (active (j (.user r)) s g) = some l →
      exec (j (.user r)) s = .next (finishWord (setCurGrp s (writesUser g (val (regs12 r.w64)) r))))
    ∧ (∀ x, v = .sv r ∨ v = .tring ∨ v = .trptr ∨ v = .stage → g.supervisor = false → x = .crd gd d v ∨ x = j v →
      Runs x s g → active x s g ≠ 0 → traps x s g 0x13 0)
    ∧ (g.supervisor = true → lowest (active (j .tring) s g) = some l →
      let sets (x : CReg) (f : Core → Core) : Prop := Runs (j x) s g → exec (j x) s = .next (finishWord (modCore s s.cur.core f))
      sets .tring (fun y => { y with tring := BitVec.ofNat 64 (val 2) &&& 0x01FFFFFFFFFFF00F })
      ∧ sets .stage (fun y => { y with stage := BitVec.ofNat 64 (val 2) &&& 0x01FFFFFFFFFF0000 })
      ∧ ((coreAt s s.cur.core).tail < 2 ^ 32 → (coreAt s s.cur.core).head < 2 ^ 32 →
        sets .trptr (fun y => { y with head := headWritten y.tail y.head (BitVec.ofNat 64 (val 2)) })))
    ∧ (g.supervisor = true → r ≠ .lsw → lowest (active (j (.sv r)) s g) = some l → Runs (j (.sv r)) s g →
      let w := val (regs12 r.w64)
      let g' := if r = .spill then { g with spill := BitVec.ofNat 64 w &&& 0x01FFFFFFFFFFF01F } else writesUser g w r
      exec (j (.sv r)) s = .next (finishWord (modCore (setCurGrp s g') s.cur.core fun y => writesVoy y w r)))

/-- R220 to R222, R229: an asynchronous cause stops its group with the PC of its next word, clears its reservations
and ends its tack; the core holds the record, and TRAP_RECORD_WRITE puts its fields into the ring and raises TAIL;
SRET.RESUME lets the group go on, past its word under SKIP; no lane's registers change. R82, R83: a tack begins with a
starving group's last ready set. R99: REP_ISSUE runs the stepped word, once its registers, its unit and an issue slot of
its partition are free and no group of it comes before (R134), and the index moves on, or the PC after the last. Readings of the model, not rules: logs 39, 47,
50, 87. -/
def Obligations.TrapsStopRecordAndResume : Prop :=
  ∀ (s : State) (c k : Nat) (g : Grp), grpAt s c k = some g → c < s.cores.length → g.supervisor = false →
    g.lanes.length = 64 →
    (∀ r rs, running g = true → g.causes = r :: rs → ∃ t g', exec (.asyncTrap c k) s = .next t ∧ grpAt t c k = some g'
      ∧ g'.stop = some { r with pc := nextPc g } ∧ g'.causes = rs ∧ g'.tack = none
      ∧ (coreAt t c).records = (coreAt s c).records ++ [{ r with pc := nextPc g }]
      ∧ ∀ l, (laneAt g' l).regs = (laneAt g l).regs ∧ (laneAt g' l).pc = (laneAt g l).pc
        ∧ ((∀ a ∈ (coreAt s c).pend, ¬(a.slot = k ∧ a.lane = l ∧ a.kind = .sc)) → (laneAt g' l).resv = none))
    ∧ (∀ r rs, (coreAt s c).records = r :: rs → writesLanded (coreAt s c) r.slot = true →
      let x := coreAt s c
      let size := x.tring.toNat % 16
      let pa := x.tring.toNat / 2 ^ 12 % 2 ^ 45 * 2 ^ 12 + 64 * (x.tail % 2 ^ size)
      4 ≤ size → size ≤ 12 → (x.tail + 2 ^ 32 - x.head) % 2 ^ 32 < 2 ^ size → backed s pa = true →
      viaWindow s pa = false → (∀ m ∈ s.sent, m.1 ≠ .turn (.trapRecordWrite c) x.tail) →
      writableNow s none none none pa 64 512 = true → Memory.wf s.mem = true →
      ∃ t, exec (.trapRecordWrite c) s = .next t ∧ RecordAt t.mem pa (s.clock / 16) r
        ∧ (∀ q, q < pa ∨ pa + 64 ≤ q → sget t.mem q = sget s.mem q)
        ∧ (coreAt t c).tail = (x.tail + 1) % 2 ^ 32 ∧ (coreAt t c).records = rs)
    ∧ (∀ gd skip d a v r, RunsSv (.sretResume gd skip d a) s v → s.cur.core = c → s.cur.slot ≠ k → Names s v a k g →
      (g.stop = none ∨ recordHeld (coreAt s c) k = true → answers (.sretResume gd skip d a) s s d 2)
      ∧ (g.stop = some r → recordHeld (coreAt s c) k = false → ∃ t g', answers (.sretResume gd skip d a) s t d 0
        ∧ grpAt t c k = some g' ∧ g'.stop = none ∧ ∀ l, laneAt g' l =
          if skip = true ∧ r.mask.getLsbD l = true then { laneAt g l with pc := (laneAt g l).pc + 8 } else laneAt g l))
    ∧ (∀ l, running g = true → g.rep = none → g.tack = none → starving g = true →
      lastOf g (maskOf fun m => (lanesOf (readyMask g)).any fun j => leadOf g (samePc g (readyMask g) j) = some m) = some l →
      exec (.tack c k) s = .next (setGrp s c k (some
        { g with tack := some (TackState.mk (samePc g (readyMask g) l) 0 false) })))
    ∧ (∀ r l i, running g = true → g.causes = [] → g.rep = some r → lowest r.set = some l → outranked s c k = false → ∀ v, r.word = some v →
      let w := stepWord v (stepVal r.d) (stepVal r.a) (stepVal r.b) (stepVal r.c) r.next
      let n := unitNeed s c g r.set w i
      let u := unitsAt (coreAt s c) (k / 8)
      decode w = some i → laneWise i = true → (∀ v ∈ i.uses, regBusy (coreAt s c) k g r.set v = false) →
      unitFree u s.clock n = true → slotsFree u s.clock k n = true →
      let s1 := enter s c k r.set false n
      ∀ g1, grpAt s1 c k = some g1 → RunsAlu i s1 g1 →
        exec (.repIssue c k) s = afterIssue s c k (exec i s1)
        ∧ ∃ t g', exec (.repIssue c k) s = .next t ∧ grpAt t c k = some g'
          ∧ (r.next + 1 < r.count → g'.rep = some { r with next := r.next + 1 } ∧ (laneAt g' l).pc = (laneAt g l).pc)
          ∧ (r.count ≤ r.next + 1 → g'.rep = none ∧ (laneAt g' l).pc = (laneAt g l).pc + 8))

/-- R223, R227 to R230, R234: every supervisor word raises PRIV in a user group; SYSC posts its record and parks its
lanes; SRET.REPLY gives them the value and lets them go on; SRET.DROP retires a group with no commit and no access
left; MBOX.WAIT and MBOX.STAT read the counts, MBOX.POP stores the oldest record at its offset; TINV removes the
entries it covers. Readings of the model, not rules: logs 47, 48, 49, 51, 57. -/
def Obligations.SupervisorWords : Prop :=
  ∀ (gd : Guard) (d a b : SReg) (s : State) (g : Grp), g.lanes.length = 64 → s.cur.core < s.cores.length →
    let c := s.cur.core
    let x := coreAt s c
    (∀ i, supervisorWord i = true → Runs i s g →
      (active i s g = 0 → exec i s = .next (finishWord s))
      ∧ (active i s g ≠ 0 → g.supervisor = false → traps i s g 0x13 0))
    ∧ (∀ n, RunsOnce (.sysc gd n d a) s g →
      (g.supervisor = true → traps (.sysc gd n d a) s g 0x13 0)
      ∧ (g.supervisor = false → g.sysc = none → mailRoom x 1 = true → ∃ t g' r, exec (.sysc gd n d a) s = .next t
        ∧ (coreAt t c).mailbox = x.mailbox ++ [r] ∧ r.length = 64 ∧ leNat (r.take 2) = 1
        ∧ leNat ((r.drop 4).take 4) = n.toNat ∧ leNat ((r.drop 8).take 8) = g.grid.toNat
        ∧ leNat ((r.drop 16).take 48) = getS g a.val 12
        ∧ curGrp t = some g' ∧ g'.sysc = some d.val ∧ ∀ l, laneAt g' l =
          if (active (.sysc gd n d a) s g).getLsbD l then { laneAt g l with wait := .sysc } else passed s (laneAt g l) l))
    ∧ (RunsSv (.sretReply gd d a b) s g →
      (NamesNone s g a → answers (.sretReply gd d a b) s s d 1)
      ∧ ∀ k t, Names s g a k t → s.cur.slot ≠ k → (t.sysc = none → answers (.sretReply gd d a b) s s d 2)
        ∧ ∀ r, t.sysc = some r → answers (.sretReply gd d a b) s (setGrp s c k (some
          { putS t r 2 (getS g b.val 2) with sysc := none, lanes := t.lanes.map (wokenFrom .sysc) })) d 0)
    ∧ (RunsSv (.sretDrop gd d a) s g →
      (NamesNone s g a → answers (.sretDrop gd d a) s s d 1)
      ∧ ∀ k t, Names s g a k t → s.cur.slot ≠ k → t.supervisor = false → s.tickets = [] →
        (∀ p ∈ x.pend, p.slot ≠ k) → t.lanes.length = 64 → ∃ u, exec (.sretDrop gd d a) s = .next u ∧ grpAt u c k = none)
    ∧ (RunsSv (.mboxWait gd d) s g →
      let n := x.mailbox.length % 256 + (x.tail + 2 ^ 32 - x.head) % 2 ^ 32 % 2 ^ 24 * 256
      let some_ : Prop := x.mailbox ≠ [] ∨ (x.tail + 2 ^ 32 - x.head) % 2 ^ 32 ≠ 0
      (some_ → answers (.mboxWait gd d) s s d n)
      ∧ (¬some_ → ∃ t, exec (.mboxWait gd d) s = .next t ∧ GroupLanes s g (fun l =>
        if (active (.mboxWait gd d) s g).getLsbD l then
          { laneAt g l with wait := .mbox d.val (lowest (active (.mboxWait gd d) s g) = some l) }
        else passed s (laneAt g l) l) t))
    ∧ (RunsSv (.mboxStat gd d) s g →
      answers (.mboxStat gd d) s s d (x.mailbox.length % 256 + (x.tail + 2 ^ 32 - x.head) % 2 ^ 32 % 2 ^ 24 * 256))
    ∧ (∀ tm, RunsSv (.mboxPop gd d a) s g → Pad s c g.team (getS g a.val 1) tm →
      let off := getS g a.val 1
      (off % 64 ≠ 0 ∨ tm.shared < off + 64 → answers (.mboxPop gd d a) s s d 2)
      ∧ (off % 64 = 0 → off + 64 ≤ tm.shared → x.mailbox = [] → answers (.mboxPop gd d a) s s d 0)
      ∧ ∀ r rs, off % 64 = 0 → off + 64 ≤ tm.shared → x.mailbox = r :: rs → r.length = 64 →
        ∃ t tm', answers (.mboxPop gd d a) s t d 1 ∧ (coreAt t c).mailbox = rs ∧ teamAt t c g.team = some tm'
          ∧ ∀ q, sget tm'.bytes q = if off ≤ q ∧ q < off + 64 then r.getD (q - off) 0 else sget tm.bytes q)
    ∧ (∀ i page, (i = .tinvAll gd ∧ page = none) ∨ (i = .tinvPage gd a ∧ page = some (getS g a.val 2)) → RunsSv i s g →
      (∀ p ∈ x.pend ++ x.outb, p.grid = 0) →
      exec i s = .next (finishWord (modCore s c fun y => { y with tlb := y.tlb.filter fun e =>
        match page with
        | none => false
        | some va => !(decide (e.leaf.va ≤ va) && decide (va < e.leaf.va + e.leaf.size)) })))

/-- R235 to R239: CTXS.G and CTXS.T answer 1 for what does not stand, 4 for a bad image address, CTXS.T 3 for a team
that still has groups; else the group is stopped, unless commits of it have their ticket (R316), and the supervisor's lanes
wait for the image. CTXL.G and CTXL.T answer 5 for a bad image address and for an image that is not theirs, and their lanes
wait for bytes that cannot be read yet; else the group stands in the lowest free slot of its partition, with every lane's PC
(past a barrier that has flipped meanwhile) and registers from the image, and the team with its bytes. Readings of the
model, not rules: logs 4, 55, 56. -/
def Obligations.ContextWordsSaveAndLoad : Prop :=
  ∀ (gd : Guard) (d a b : SReg) (s : State) (g : Grp), g.lanes.length = 64 →
    let c := s.cur.core
    let img := getS g b.val 2
    let waits (i : Instr) (w : Bool → Wait) : Prop := ∃ t g', exec i s = .next t ∧ curGrp t = some g' ∧ ∀ l,
      (laneAt g' l).wait = if (active i s g).getLsbD l then w (lowest (active i s g) = some l) else (laneAt g l).wait
    (RunsSv (.ctxsG gd d a b) s g →
      (NamesNone s g a → answers (.ctxsG gd d a b) s s d 1)
      ∧ ∀ k t, Names s g a k t → s.cur.slot = 0 → t.lanes.length = 64 → t.supervisor = false →
        let n := 0x2500 + 256 * t.growth.getD t.alloc + 384 * (engineRecords (coreAt s c) k).length
        (img % 256 ≠ 0 ∨ 2 ^ 56 < img + n → answers (.ctxsG gd d a b) s s d 4)
        ∧ (img % 256 = 0 → img + n ≤ 2 ^ 56 → waits (.ctxsG gd d a b) (.ctxsG k img d.val)
          ∧ ∃ u t', exec (.ctxsG gd d a b) s = .next u ∧ grpAt u c k = some t' ∧ running t' = (running t && ticketed s c k)
            ∧ if ticketed s c k = true then t' = t else t'.frozen = true))
    ∧ (RunsSv (.ctxsT gd d a b) s g →
      let n := getS g a.val 1
      (teamAt s c n = none ∨ 128 ≤ n → answers (.ctxsT gd d a b) s s d 1)
      ∧ ∀ tm, n < 128 → teamAt s c n = some tm →
        (anyGroup (coreAt s c) n = true → answers (.ctxsT gd d a b) s s d 3)
        ∧ (anyGroup (coreAt s c) n = false → img % 256 ≠ 0 ∨ 2 ^ 56 < img + 0x400 + tm.shared →
          answers (.ctxsT gd d a b) s s d 4)
        ∧ (anyGroup (coreAt s c) n = false → img % 256 = 0 → img + 0x400 + tm.shared ≤ 2 ^ 56 →
          waits (.ctxsT gd d a b) (.ctxsT n img d.val)))
    ∧ (RunsSv (.ctxlG gd d a b) s g → img % 256 ≠ 0 ∨ 2 ^ 56 < img + 0x2500 → answers (.ctxlG gd d a b) s s d (5 * 2 ^ 24))
    ∧ (RunsSv (.ctxlG gd d a b) s g → img % 256 = 0 → img + 0x2500 ≤ 2 ^ 56 → imageRead s img 0x2500 = none →
      waits (.ctxlG gd d a b) (.ctxlG (getS g a.val 1) img d.val))
    ∧ (RunsSv (.ctxlG gd d a b) s g → img % 256 = 0 → img + 0x2500 ≤ 2 ^ 56 → ∀ hd bs, imageRead s img 0x2500 = some hd →
      let part := getS g a.val 1
      (leNat (hd.take 4) ≠ 0x10000 ∨ leNat ((hd.drop 0x18).take 1) ≠ c → answers (.ctxlG gd d a b) s s d (5 * 2 ^ 24))
      ∧ ∀ k, groupRefusal s c hd part = none → freeSlotIn (coreAt s c) part = some k →
        (coreAt s c).groups.length = 96 → bs.take 0x2500 = hd →
        imageRead s img (0x2500 + 256 * leNat ((hd.drop 4).take 2) + 384 * leNat ((hd.drop 0x1D).take 1)) = some bs →
        ∃ t h, answers (.ctxlG gd d a b) s t d (k % 8 * 16 + k / 8) ∧ grpAt t c k = some h
          ∧ h.grid.toNat = leNat ((bs.drop 8).take 8) ∧ h.index = leNat ((bs.drop 0x1A).take 1)
          ∧ (∀ l, l < 64 →
            let parked := (leNat ((bs.drop (0x508 + 128 * l)).take 1)).testBit 2
            let behind := parked = true ∧ leNat ((bs.drop (0x516 + 128 * l)).take 1) = 5
            let pc : Dword := BitVec.ofNat 64 (leNat ((bs.drop (0x500 + 128 * l)).take 8) / 8 * 8)
            (laneAt h l).pc = pc ∨ (behind ∧ (laneAt h l).pc = pc + 8))
          ∧ ∀ l n, l < 64 → n < leNat ((bs.drop 4).take 2) →
            (sget (laneAt h l).regs n).toNat = leNat ((bs.drop (0x2500 + 4 * (64 * n + l))).take 4))
    ∧ (RunsSv (.ctxlT gd d a b) s g → img % 256 ≠ 0 ∨ 2 ^ 56 < img + 0x400 → answers (.ctxlT gd d a b) s s d (5 * 2 ^ 24))
    ∧ (RunsSv (.ctxlT gd d a b) s g → img % 256 = 0 → img + 0x400 ≤ 2 ^ 56 → imageRead s img 0x400 = none →
      waits (.ctxlT gd d a b) (.ctxlT (getS g a.val 1) img d.val))
    ∧ (RunsSv (.ctxlT gd d a b) s g → img % 256 = 0 → img + 0x400 ≤ 2 ^ 56 → ∀ hd bs, imageRead s img 0x400 = some hd →
      let n := getS g a.val 1
      (leNat (hd.take 4) ≠ 0x20000 ∨ leNat ((hd.drop 0x18).take 1) ≠ c → answers (.ctxlT gd d a b) s s d (5 * 2 ^ 24))
      ∧ (teamRefusal s c n hd = none → imageRead s img (0x400 + leNat ((hd.drop 4).take 4)) = some bs → bs.take 0x400 = hd →
        (teamHome s c bs).retired = false →
        ∃ t tm, answers (.ctxlT gd d a b) s t d 0 ∧ teamAt t c n = some tm ∧ tm.shared = leNat ((bs.drop 4).take 4)
          ∧ ∀ q, q < tm.shared → sget tm.bytes q = bs.getD (0x400 + q) 0))

/-! ## Team barriers, roles, time limits (R147, R158 to R161) -/

/-- R158: a group arrives at its team barrier once its members' accesses are done: the first arrival fixes the count
and the group waits; the last flips the phase and releases every group that waits there. A count that differs raises
RENDEZVOUS. R249: a cluster barrier is the same, kept at cluster core 0, with at most 384 groups, and with the lanes'
stores performed. R160, R161: ROLESW gives a group its priority and its allotment, and its fibres a fresh start at the
entry, once the exchange network has held it (R133); a growing one waits for its units. R147: a rendezvous pending for LIMIT
clocks is cancelled, and the group stops. Readings of the model, not rules: logs 44, 113, 119, 120. -/
def Obligations.TeamBarriersRolesAndTimeLimits : Prop :=
  (∀ (s : State) (c k : Nat) (g : Grp) (r : Rdv) (gd : Guard) (m : MReg) (o : Operand) (a b : SReg) (tm : Team) (l0 : Nat),
    Complete s c k g r → c < s.cores.length → k < 96 → (coreAt s c).groups.length = 96 → lowest (r.arrived &&& r.guards) = some l0 →
    let ev : Instr := .rendezvousComplete c k
    let n := gave r l0
    let stops (cause : Nat) (mask : Mask) (info : Nat) : Prop := ∃ t g', exec ev s = .next t ∧ grpAt t c k = some g'
      ∧ g'.rdv = none ∧ ∃ x, g'.stop = some x ∧ x.cause = cause ∧ x.mask = mask ∧ x.info = info ∧ x.pc = r.pc
    (∀ id : Fin 16, r.word = some (.tbar gd m id o) → teamAt s c g.team = some tm → tm.bars.length = 16 →
      lanesDone (coreAt s c) k (r.arrived &&& r.guards) false false = true →
      let bar := tm.bars.getD id.val Barrier.zero
      (bar.arrived = 0 → 2 ≤ n → n ≤ 32 → ∃ t g' tm', exec ev s = .next t ∧ grpAt t c k = some g'
        ∧ teamAt t c g.team = some tm' ∧ tm' = setTeamBar tm id.val { bar with expect := n, arrived := 1, all := false }
        ∧ g'.rdv = none ∧ g'.bars = g.bars ++ [r]
        ∧ ∀ l, laneAt g' l = if r.arrived.getLsbD l then { laneAt g l with wait := .barrier bar.phase } else laneAt g l)
      ∧ (bar.arrived ≠ 0 → bar.all = false → n = bar.expect → n ≤ 32 → bar.expect = bar.arrived + 1 → g.bars = [] →
        ∃ t g' tm', exec ev s = .next t ∧ grpAt t c k = some g'
          ∧ teamAt t c g.team = some tm' ∧ tm' = setTeamBar tm id.val { bar with arrived := 0, phase := !bar.phase }
          ∧ g'.rdv = none ∧ g'.bars = []
          ∧ (∀ l, laneAt g' l =
              if r.arrived.getLsbD l then { laneAt g l with wait := .ready, pc := r.pc + 8 } else laneAt g l)
          ∧ ∀ j h v, j ≠ k → grpAt s c j = some h → h.team = g.team → h.lanes.length = 64 → h.bars = [v] → (∃ gd' m' o', v.word = some (.tbar gd' m' id o')) →
            ∃ h', grpAt t c j = some h' ∧ h'.bars = [] ∧ ∀ l, laneAt h' l =
              if v.arrived.getLsbD l then { laneAt h l with wait := .ready, pc := v.pc + 8 } else laneAt h l)
      ∧ (32 < n ∨ (bar.arrived ≠ 0 ∧ bar.all = false ∧ n ≠ bar.expect) → stops 0x08 r.arrived r.captured.toNat))
    ∧ (∀ (id : Fin 8) (p : Nat) (t0 : Team), r.word = some (.cbar gd m id o) → teamAt s c g.team = some tm →
      member s tm 0 = some (p, t0) → teamAt s p t0.num = some t0 → p < s.cores.length → t0.cbars.length = 8 →
      lanesDone (coreAt s c) k (r.arrived &&& r.guards) false true = true →
      let bar := t0.cbars.getD id.val Barrier.zero
      let keeps (t : State) (b : Barrier) : Prop :=
        (teamAt t p t0.num).map (fun u => u.cbars) = some (t0.cbars.set id.val b)
      (bar.arrived = 0 → 2 ≤ n → n ≤ 384 → ∃ t g', exec ev s = .next t ∧ grpAt t c k = some g'
        ∧ keeps t { bar with expect := n, arrived := 1, all := false } ∧ g'.rdv = none ∧ g'.bars = g.bars ++ [r]
        ∧ ∀ l, laneAt g' l = if r.arrived.getLsbD l then { laneAt g l with wait := .barrier bar.phase } else laneAt g l)
      ∧ (bar.arrived ≠ 0 → bar.all = false → n = bar.expect → n ≤ 384 → bar.expect = bar.arrived + 1 →
        ∃ t, exec ev s = .next t ∧ keeps t { bar with arrived := 0, phase := !bar.phase }
          ∧ ∀ cc q u j h v, member s tm cc = some (q, u) → q < s.cores.length → (q ≠ c ∨ j ≠ k) →
            grpAt s q j = some h → h.team = u.num → h.lanes.length = 64 → h.bars = [v] →
            (∃ gd' m' o', v.word = some (.cbar gd' m' id o')) →
            ∃ h', grpAt t q j = some h' ∧ h'.bars = [] ∧ ∀ l, laneAt h' l =
              if v.arrived.getLsbD l then { laneAt h l with wait := .ready, pc := v.pc + 8 } else laneAt h l)
      ∧ (384 < n ∨ (bar.arrived ≠ 0 ∧ bar.all = false ∧ n ≠ bar.expect) → stops 0x08 r.arrived r.captured.toNat))
    ∧ (r.word = some (.rolesw m a b) →
      let role := n
      let entry := gave2 r l0
      let new := role % 512
      let good : Prop := new % 8 = 0 ∧ 8 ≤ new ∧ new ≤ 256 ∧ role / 2 ^ 9 % 2 ^ 7 = 0 ∧ role < 2 ^ 19
      let all_ : Prop := ∀ l, l < 64 → (laneAt g l).status = .live → r.captured.getLsbD l = true
      (all_ → ¬good → stops 0x09 r.arrived 0)
      ∧ (all_ → good → badPc entry = true → stops 0x04 r.arrived 0)
      ∧ (all_ → good → badPc entry = false → (∀ l, r.arrived.getLsbD l = true → (laneAt g l).txn = none) →
        (∀ p ∈ (coreAt s c).pend, p.kind ≠ .sc) →
        ∃ t g', exec ev s = .next t ∧ grpAt t c k = some g' ∧ g'.rdv = none ∧ g'.prio = role / 2 ^ 16 % 8
          ∧ (new ≤ g.alloc → g'.alloc = new ∧ g'.growth = none) ∧ (g.alloc < new → g'.alloc = g.alloc ∧ g'.growth = some new)
          ∧ (∀ l, laneAt g' l = if r.arrived.getLsbD l then
              { freshRole (laneAt g l) entry (min g.alloc new) with wait := if g.alloc < new then .grow else .rendezvous }
            else laneAt g l)
          ∧ (g.alloc < new → g'.outs = g.outs)
          ∧ (new ≤ g.alloc → ∃ o, g'.outs = g.outs ++ [o] ∧ o.writeAt = exchangeEnd s c k
            ∧ ∀ u h, grpAt u c k = some h → h.outs.find? (fun p => decide (p.writeAt ≤ u.clock)) = some o →
              ∃ h', exec ev u = .next (setGrp u c k (some { h' with outs := h.outs.erase o })) ∧ h' = { h with lanes := h'.lanes }
                ∧ ∀ l, laneAt h' l = if r.arrived.getLsbD l then { laneAt h l with wait := .ready, pc := BitVec.ofNat 64 entry }
                  else laneAt h l))))
  ∧ (∀ (s : State) (c k l : Nat) (g : Grp) (r : Rdv), grpAt s c k = some g → g.rdv = some r → g.lanes.length = 64 →
    running g = true → c < s.cores.length → k < 96 → (coreAt s c).groups.length = 96 →
    l < 64 → r.captured.getLsbD l = true → r.arrived.getLsbD l = false → r.excused.getLsbD l = false →
    (laneAt g l).status = .live →
    (∀ o ∈ g.outs, s.clock < o.writeAt) →
    g.rdvz ≠ 0 → g.rdvz.toNat ≤ r.base + (s.clock - r.since) → ∃ t g', exec (.rendezvousTimeout c k) s = .next t
      ∧ grpAt t c k = some g' ∧ g'.rdv = none
      ∧ (∀ l, r.arrived.getLsbD l = true → (laneAt g' l).wait = .ready ∧ (laneAt g' l).pc = (laneAt g l).pc)
      ∧ ∃ x, g'.stop = some x ∧ x.cause = 0x08 ∧ x.mask = r.arrived ∧ x.info = r.captured.toNat ∧ x.pc = r.pc)
  ∧ (∀ (s : State) (d j new : Nat) (h : Grp), grpAt s d j = some h → h.growth = some new → d < s.cores.length →
    (coreAt s d).ages.find? (fun i => decide (i / 8 = j / 8) && ((grpAt s d i).map (·.growth.isSome)).getD false) = some j →
    new / 8 - h.alloc / 8 ≤ freeUnits (coreAt s d) (j / 8) →
    exec (.growingAllotment d j) s = .next (setGrp s d j (some { h with
      alloc := new, growth := none
      lanes := h.lanes.map fun ln => if ln.wait = .grow then { ln with wait := .ready } else ln })))

/-! ## Voyages (R254 to R271) -/

/-- R271, R259: VOYAGER_SEND sends a whole train whose stores are performed, and spends a credit for each of its
voyagers. R259, R262: VOYAGER_DELIVERY brings a train into the berth, in its order, and 64 voyagers for one PC become
due as one batch. R261: HARBOUR_DRAIN takes the oldest entry of the core's list and advances HEAD. R262:
MUSTER_TIMEOUT makes the voyagers of a PC due. R263: MUSTER makes the oldest due batch a group. R265: CHART_ADOPT
takes the chart that was sent. R267: HOLDER_LOSS publishes a chart without the core. Readings of the model, not rules:
logs 52, 60, 64, 86. -/
def Obligations.VoyagersTravelAndMuster : Prop :=
  ∀ (s : State) (c : Nat) (v : Voyage) (tm : Team) (gr : Grid), AtVoyage s c v tm gr →
    let x := coreAt s c
    (∀ i h p w, v.held[i]? = some h →
      let inTrain (g : HeldVoyager) : Bool := g.train = h.train && g.dest = h.dest
      let train := v.held.filter inTrain
      (∀ g ∈ train, ∀ a ∈ x.pend ++ x.outb, a.id ∉ g.waits) → tm.place[h.dest]? = some p → p ≠ c → p < s.cores.length →
      (coreAt s p).voyage = some w → h.dest < v.credits.length → train.length ≤ v.credits.getD h.dest 0 →
      ∃ t, exec (.voyagerSend c i) s = .next t ∧ t.mem = s.mem
        ∧ (coreAt t c).voyage = some { v with
            held := v.held.filter fun g => !inTrain g
            credits := v.credits.set h.dest (v.credits.getD h.dest 0 - train.length) }
        ∧ (coreAt t p).voyage = some { w with
            flight := w.flight ++ train.map fun g => Flying.mk g.v tm.ccore h.train })
    ∧ (∀ i f, v.flight[i]? = some f → (∀ g ∈ v.flight.take i, g.from_ = f.from_ → g.train = f.train) →
      let inTrain (g : Flying) : Bool := g.from_ = f.from_ && g.train = f.train
      let new : List Berthed := (v.flight.filter inTrain).map fun g => Berthed.mk g.v (meridian s) (some f.from_)
      let w : Voyage := { v with flight := v.flight.filter fun g => !inTrain g }
      ∃ t, exec (.voyagerDelivery c i) s = .next t ∧ t.mem = s.mem ∧ Berths s t c w new
        ∧ ((v.berth ++ new).length = 64 → (∀ b ∈ v.berth ++ new, b.v.pc = f.v.pc) →
          (coreAt t c).voyage = some { w with berth := [], due := v.due ++ [v.berth ++ new] }
          ∧ (x.vmus.toNat % 2 ^ 32 < 2 ^ 32 - 1 → (coreAt t c).vmus.toNat = x.vmus.toNat + 1)))
    ∧ (∀ hd fb vb s0,
      let l := harbourList v.chart tm.cluster tm.ccore
      let head := fieldAt hd 8 8
      (v.berth.filter fun b => b.credit = none).length + (v.due.map fun d => (d.filter fun b => b.credit = none).length).sum
        < 256 - (tm.place.length - 1) * (240 / (tm.place.length - 1)) →
      withTurn s (.turn (.harbourDrain c) 0) (gridRanges s c v.grid l (64 + 4 * v.chart.fpc)) = .ok s0 →
      gridRead s0 c v.grid l 16 = some hd → head < fieldAt hd 0 8 →
      gridRead s0 c v.grid (l + 64 + 4 * (head % max 1 v.chart.fpc)) 4 = some fb →
      gridRead s0 c v.grid (harbourSlot v.chart tm.cluster (leNat fb)) 256 = some vb →
      let s1 := gridWrite s0 c v.grid (l + 8) (leBytes 8 (head + 1))
      ∃ t, exec (.harbourDrain c) s = .next t ∧ t.mem = s1.mem
        ∧ Berths s t c v [Berthed.mk (voyagerFrom s tm vb) (meridian s) none])
    ∧ (∀ pc b, v.berth.find? (fun b => b.v.pc = pc) = some b → b.since + v.chart.muster ≤ meridian s →
      (v.berth.filter fun b => b.v.pc = pc).length ≤ 64 →
      ∃ t, exec (.musterTimeout c pc) s = .next t ∧ t.mem = s.mem
        ∧ (coreAt t c).voyage = some { v with
            berth := v.berth.filter fun b => b.v.pc ≠ pc
            due := v.due ++ [v.berth.filter fun b => b.v.pc = pc] }
        ∧ (x.vmus.toNat / 2 ^ 32 < 2 ^ 32 - 1 → (coreAt t c).vmus.toNat = x.vmus.toNat + 2 ^ 32))
    ∧ (∀ b ds idx k, v.due = b :: ds → b.length ≤ 64 → freeIndex x tm.num = some idx →
      placeFor x (recRegs gr.record / 8) = some k → groupsAlive s c tm false < 32 → x.groups.length = 96 →
      ∃ t g, exec (.muster c) s = .next t ∧ grpAt t c k = some g ∧ g.grid = gr.id ∧ g.team = tm.num ∧ g.index = idx
        ∧ g.alloc = recRegs gr.record ∧ g.masks = List.replicate 7 0xFFFF_FFFF_FFFF_FFFF
        ∧ (coreAt t c).voyage.map (·.due) = some ds
        ∧ ∀ l, match b[l]? with
          | some w => Mustered (laneAt g l) w.v
          | none => laneAt g l = Lane.empty)
    ∧ (∀ ch, v.next = some ch → ∃ t w, exec (.chartAdopt c) s = .next t ∧ t.mem = s.mem ∧ (coreAt t c).voyage = some w
      ∧ w.chart = ch ∧ w.next = none ∧ (coreAt t c).vgen = BitVec.ofNat 32 ch.gen)
    ∧ (∀ s0,
      let ch := chartWithout tm.ccore v.chart
      let l := harbourList v.chart tm.cluster tm.ccore
      (heldSeg v.chart tm.ccore).isSome → v.next = none → v.berth = [] → v.due = [] → (∀ sg ∈ ch.segs, sg.holders ≠ []) →
      withTurn s (.turn (.holderLoss c) 0) (gridRanges s c v.grid l (64 + 4 * v.chart.fpc)
        ++ gridRanges s c v.grid (recChart gr.record) 448) = .ok s0 →
      let s1 := gridWrite s0 c v.grid (recChart gr.record) (encodeChart ch)
      WithoutHolder v.chart ch tm.ccore ∧ ∃ t, exec (.holderLoss c) s = .next t ∧ t.mem = s1.mem
        ∧ ∀ p ∈ tm.place, ∀ w, (coreAt s p).voyage = some w → w.grid = v.grid →
          (coreAt t p).voyage = some { w with next := some ch })

/-! ## The mailbox and its firmware (R227, R231, R338 to R340, R358) -/

/-- R227: the oldest remote post enters a mailbox that has an entry for it. R339: the firmware takes a call reply, a
served fault, a refused one and an invalidation from its mailbox, and acts on each. R340: a launch request puts its
record into its queue and stores the grid's identifier; a storage failure and the end of a grid end its task. Readings
of the model, not rules: logs 61, 62, 63. -/
def Obligations.FirmwareServesItsMailbox : Prop :=
  ∀ (s : State) (c : Nat) (r : List Byte) (rs : List (List Byte)),
    let x := coreAt s c
    (c < s.cores.length → x.posts = r :: rs → x.mailbox.length < 32 →
      (fieldAt r 0 2 = 1 → (x.mailbox.filter fun q => fieldAt q 0 2 = 1).length < 24) →
      exec (.mailboxPost c) s = .next (modCore s c fun y => { y with mailbox := y.mailbox ++ [r], posts := rs }))
    ∧ (Heads s c r rs → fieldAt r 0 2 = 2 → ∀ k g, ForGroup s c r k g →
      (∀ d, fieldAt r 4 4 = 0 → g.sysc = some d → ∃ t, exec (.callReply c) s = .next t ∧ (coreAt t c).mailbox = rs
        ∧ grpAt t c k = some (Answered g d (fieldAt r 16 8)))
      ∧ (∀ z, fieldAt r 4 4 = 1 → g.stop = some z → recordHeld x k = false → ∃ t g', exec (.faultServed c) s = .next t
        ∧ (coreAt t c).mailbox = rs ∧ grpAt t c k = some g' ∧ g'.stop = none ∧ ∀ l, laneAt g' l = laneAt g l))
    ∧ (Heads s c r rs → fieldAt r 0 2 = 2 → fieldAt r 4 4 = 3 → (∀ a ∈ x.pend ++ x.outb, a.grid = 0) →
      let cd := fieldAt r 24 8
      let kept (e : TlbEntry) : Bool := fieldAt r 16 8 ≠ 2 ^ 64 - 1
        && !(decide (e.leaf.va ≤ fieldAt r 16 8) && decide (fieldAt r 16 8 < e.leaf.va + e.leaf.size))
      backed s cd = true → (linesOf cd 4).any (linePoisoned s) = false → Memory.wf s.mem = true →
      viaWindow s cd = false → writableNow s none none (some (.turn (.invalidate c) 0)) cd 4 512 = true →
        ∃ t, exec (.invalidate c) s = .next t ∧ (coreAt t c).mailbox = rs ∧ (coreAt t c).tlb = x.tlb.filter kept
          ∧ Stored s.mem t.mem cd 4 (readLe s.mem cd 4 + 1))
    ∧ (Heads s c r rs → ∀ gr, gridOf s (BitVec.ofNat 64 (fieldAt r 8 8)) = some gr → gr.stage = .running →
      let ends (ev : Instr) (t : State) : Prop :=
        exec ev s = .next t ∧ (coreAt t c).mailbox = rs ∧ Ended t gr.id 4
      (fieldAt r 0 2 = 2 → fieldAt r 4 4 = 2 → ∃ t, ends (.faultRefused c) t)
      ∧ (fieldAt r 0 2 = 4 → fieldAt r 2 2 = 2 → ∃ t, ends (.endTheGrid c) t)
      ∧ (fieldAt r 0 2 = 4 → fieldAt r 2 2 = 1 → ∃ t, ends (.storageFailure c) t
        ∧ t.landings = s.landings.filter fun l => !(l.grid = gr.id && l.handle = fieldAt r 16 8)))
    ∧ (Heads s c r rs → fieldAt r 0 2 = 3 → ∀ g tg q, grpAt s c 0 = some g →
      checkAddr s c g (fieldAt r 8 8) 64 .load = .ok tg →
      engRead s (.turn (.launchRequest c) 0) c g (fieldAt r 8 8) 512 = .ok q → q.bad = none →
      let bs := q.bytes
      let out := fieldAt r 16 8
      (recordOk bs = false → ∃ t g' z, exec (.launchRequest c) s = .next t ∧ (coreAt t c).mailbox = rs
        ∧ grpAt t c 0 = some g' ∧ g'.stop = some z ∧ z.cause = 0x14)
      ∧ (recordOk bs = true → (queueAt s (recPrio bs)).length < 64 →
        let queued (t : State) : Prop := exec (.launchRequest c) s = .next t ∧ (coreAt t c).mailbox = rs
          ∧ t.queues = s.queues.set (recPrio bs) (queueAt s (recPrio bs) ++ [(BitVec.ofNat 64 s.nextGrid, bs)])
          ∧ t.nextGrid = s.nextGrid + 1
        (out = 0 → ∃ t, queued t)
        ∧ (out ≠ 0 → viaWindow q.state out = false → backed q.state out = true → (∀ m ∈ q.state.sent, m.1 ≠ .turn (.launchRequest c) 1) →
          writableNow q.state none none none out 8 512 = true → Memory.wf q.state.mem = true →
          ∃ t, queued t ∧ Stored q.state.mem t.mem out 8 s.nextGrid)))

/-- R231, R358: the replies of the system calls, for arguments in mapped global memory. NULL replies 0 and an
unassigned number ERR_NOSYS; FOPEN replies a handle that is not open (which one, and the reply for a path that names
no file, are the model's choice: log 11); FCLOSE closes; FREAD replies the length once its transfer is queued, and
ERR_BADF, ERR_RANGE for a bad handle or range; FWRITE has written at its reply; FSTAT writes 64 bytes (free ones: log
11); PRINT prints. Readings of the model, not rules: log 63. -/
def Obligations.SystemCallsReply : Prop :=
  ∀ (s : State) (c k : Nat) (r : List Byte) (rs : List (List Byte)) (g : Grp), Heads s c r rs → fieldAt r 0 2 = 1 →
    ForGroup s c r k g →
    let n := fieldAt r 4 4
    let h0 := fieldAt r 16 4
    let opened (h : Handle) : Prop := s.handles.find? (fun x => x.num = h0) = some h
    let unopened : Prop := ∀ h ∈ s.handles, h.num ≠ h0
    let len := fieldAt r 28 4
    (∀ d, n = 0 ∨ 6 < n → g.sysc = some d → ∃ t, exec (.null c) s = .next t ∧ (coreAt t c).mailbox = rs
      ∧ grpAt t c k = some (Answered g d (if n = 0 then 0 else 2 ^ 64 - 1)))
    ∧ (∀ q, n = 1 → fieldAt r 16 8 < ownAperture →
      engRead s (.turn (.fopen c) 0) c g (fieldAt r 16 8) (fieldAt r 24 4) = .ok q → q.bad = none →
      let path := q.bytes
      let gives (t : State) (i : Nat) : Prop := exec (.fopen c) s = .next t ∧ ∃ m, (∀ h ∈ s.handles, h.num ≠ m)
        ∧ t.handles = Handle.mk m i len :: s.handles ∧ Replies s t c r rs m
      (∀ i, fileOf s path = some i → ∃ t, gives t i ∧ t.files = s.files)
      ∧ (fileOf s path = none → len / 4 % 2 = 1 →
        ∃ t, gives t s.files.length ∧ t.files = s.files ++ [File.mk path []])
      ∧ (fileOf s path = none → len / 4 % 2 = 0 → ∃ t e, exec (.fopen c) s = .next t ∧ t.handles = s.handles
        ∧ 1 ≤ e ∧ e ≤ 6 ∧ Replies s t c r rs (2 ^ 64 - e)))
    ∧ (n = 2 → (∀ h, opened h → ∃ t, exec (.fclose c) s = .next t ∧ Replies s t c r rs 0
        ∧ t.handles = s.handles.filter fun x => x.num ≠ h0)
      ∧ (unopened → ∃ t, exec (.fclose c) s = .next t ∧ Replies s t c r rs (2 ^ 64 - 2)))
    ∧ (∀ d bar, n = 3 → resolveDest s c g (fieldAt r 32 8) len (fieldAt r 40 8) = .ok (some d) bar →
      (unopened → ∃ t, exec (.fread c) s = .next t ∧ Replies s t c r rs (2 ^ 64 - 2) ∧ t.landings = s.landings)
      ∧ ∀ h, opened h →
        (h.flags % 2 = 0 → ∃ t, exec (.fread c) s = .next t ∧ Replies s t c r rs (2 ^ 64 - 2) ∧ t.landings = s.landings)
        ∧ (h.flags % 2 = 1 → (fileData s h).length < fieldAt r 20 8 + len →
          ∃ t, exec (.fread c) s = .next t ∧ Replies s t c r rs (2 ^ 64 - 6) ∧ t.landings = s.landings)
        ∧ (h.flags % 2 = 1 → fieldAt r 20 8 + len ≤ (fileData s h).length → 0 < len →
          ∃ t l, exec (.fread c) s = .next t ∧ Replies s t c r rs len ∧ t.landings = s.landings ++ [l]
            ∧ l.grid = g.grid ∧ l.dest = d ∧ l.len = len ∧ l.landed = 0 ∧ l.bar = bar ∧ l.handle = h0 ∧ l.got = []
            ∧ l.data = ((fileData s h).drop (fieldAt r 20 8)).take len
            ∧ ∀ va, d = .virt va → ∀ q lf, va / 4096 ≤ q → q * 4096 < va + len →
              (∃ used, findLeaf s c g.grid (4096 * q) = .leaf lf used) → lf ∈ l.pins))
    ∧ (∀ q, n = 4 → fieldAt r 32 8 < ownAperture →
      engRead s (.turn (.fwrite c) 0) c g (fieldAt r 32 8) len = .ok q → q.bad = none →
      let bs := q.bytes
      (unopened → ∃ t, exec (.fwrite c) s = .next t ∧ Replies s t c r rs (2 ^ 64 - 2) ∧ t.files = s.files)
      ∧ ∀ h f, opened h → s.files[h.file]? = some f → h.flags / 2 % 2 = 1 → ∃ t f', exec (.fwrite c) s = .next t
        ∧ Replies s t c r rs bs.length ∧ t.files = s.files.set h.file f' ∧ f'.path = f.path
        ∧ Spliced f.data f'.data (fieldAt r 20 8) bs)
    ∧ (n = 5 → (unopened → ∃ t, exec (.fstat c) s = .next t ∧ Replies s t c r rs (2 ^ 64 - 2))
      ∧ ∀ h u, opened h → fieldAt r 20 8 < ownAperture →
        engWrite (freeBytes s 64).2 (.turn (.fstat c) 0) c g (fieldAt r 20 8) (freeBytes s 64).1 = .ok u →
        ∃ t, exec (.fstat c) s = .next t ∧ Replies s t c r rs 0 ∧ t.mem = u.mem)
    ∧ (∀ q, n = 6 → fieldAt r 16 8 < ownAperture →
      engRead s (.turn (.print c) 0) c g (fieldAt r 16 8) (fieldAt r 24 4) = .ok q → q.bad = none →
      ∃ t, exec (.print c) s = .next t ∧ Replies s t c r rs 0 ∧ t.console = s.console ++ q.bytes)

/-! ## Launching (R233, R328 to R337, R323) -/

/-- Each of these answers a next state under conditions on the state and the operands alone. R233, R328, R329: LNCH (lnch)
raises LAUNCH for a record that breaks a limit, parks its set before a full queue, and otherwise queues the record and
writes the next grid identifier; LAUNCH_RECORD_TAKEN (launchRecordTaken) takes the oldest record of the highest class.
R330 to R332: a satisfied dependence (dependenceSatisfied) counts, and with the last one the grid is admitted or
refused. R334, R336: a team starts where a core has room (teamStart). R335: an empty region takes the youngest half of a
neighbour's blocks (stealRequest). R337: a grid that is over stores its status and then DONEV (gridComplete). R323:
BAD_PAGE_APPEND (badPageAppend) lists a page that no lease holds and no FREAD has pinned (R358). Readings of the model, not rules: logs 10, 54, 58, 59. -/
def Obligations.LaunchesStartAndCompleteGrids : Prop :=
  (∀ (gd : Guard) (d a : SReg) (s s1 : State) (g : Grp) (l : Nat) (bs : List Byte),
    let i : Instr := .lnch gd d a
    RunsOnce i s g → lowest (active i s g) = some l → snapRead g l 64 64 8 (getS g a.val 2) s = .ok bs s1 →
    curGrp s1 = some g → s1.cur = s.cur → g.lanes.length = 64 →
    let p := recPrio bs
    (recordOk bs = false → exec i s = .next (takeTrap s1 s.cur.core s.cur.slot
      (mkRec g s.cur.slot (active i s g) (curPc s1) (getS g a.val 2) 0 0x14 0)))
    ∧ (recordOk bs = true → 64 ≤ (queueAt s1 p).length → ∃ t, exec i s = .next t ∧ GroupLanes s1 g (fun j =>
        if (plainLanes s g).getLsbD j then { laneAt g j with wait := .launch p } else passed s (laneAt g j) j) t)
    ∧ (recordOk bs = true → (queueAt s1 p).length < 64 →
      let u : State := { s1 with
        queues := s1.queues.set p (queueAt s1 p ++ [(BitVec.ofNat 64 s1.nextGrid, bs)])
        nextGrid := s1.nextGrid + 1 }
      exec i s = .next (finishWord (setCurGrp u (putS g d.val 2 (BitVec.ofNat 64 s1.nextGrid).toNat)))))
  ∧ (∀ (s : State) (ps : List Placement) (p : Nat) (id : Dword) (r : List Byte) (rest : List (Dword × List Byte)),
    p < 8 → queueAt s p = (id, r) :: rest → (∀ q, p < q → q < 8 → queueAt s q = []) → placesOk r ps = true →
    (s.grids.filter fun g => match g.stage with | .held _ => true | _ => false).length < 256 → gridOf s id = none →
    let new : Grid :=
      { id := id, record := r, stage := .held [], places := ps, pins := [], pinnedBytes := 0, chart := none, bound := 0
        started := 0, alive := [] }
    let u : State := { s with queues := s.queues.set p rest, grids := s.grids ++ [new] }
    (recNdep r ≠ 0 → exec (.launchRecordTaken ps) s = .next u)
    ∧ (recNdep r = 0 → ∃ t, exec (.launchRecordTaken ps) s = .next t ∧ Admitted u t id r))
  ∧ (∀ (s : State) (n i : Nat) (g : Grid) (met : List Nat), gridOf s (BitVec.ofNat 64 n) = some g → g.stage = .held met →
    met.length = recNdep g.record →
    ∃ t, exec (.dependenceSatisfied n i) s = .next t ∧ Admitted s t (BitVec.ofNat 64 n) g.record)
  ∧ (∀ (s : State) (n i pa : Nat) (g : Grid) (met : List Nat) (cc : WCond),
    let id := BitVec.ofNat 64 n
    let k := recNdep g.record
    gridOf s id = some g → g.stage = .held met → i < k → i ∉ met → met.length < k →
    firmAddr s (recRoot g.record) (recDepAddr g.record i) = some pa → backed s pa = true →
    viaWindow s pa = false → (linesOf pa 8).any (linePoisoned s) = false → readableNow s none none pa 8 512 = true →
    recDcond g.record i = (match cc with | .eq => 0 | .ne => 1 | .lt => 2 | .ge => 3) →
    let v := noteReads s pa 8 512
    let u := modGrid v id fun g => { g with stage := .held (i :: met) }
    (waitHolds cc (readLe s.mem pa 8) (recDepVal g.record i) = false → exec (.dependenceSatisfied n i) s = .next v)
    ∧ (waitHolds cc (readLe s.mem pa 8) (recDepVal g.record i) = true →
      (met.length + 1 < k → exec (.dependenceSatisfied n i) s = .next u)
      ∧ (met.length + 1 = k → ∃ t, exec (.dependenceSatisfied n i) s = .next t ∧ Admitted u t id g.record)))
  ∧ (∀ (s : State) (die : Fin 2) (n q core : Nat) (g : Grid) (f : Floating) (y : Core),
    let id := BitVec.ofNat 64 n
    let fs := s.regions.getD (4 * die.val + core % 8 / 2) []
    gridOf s id = some g → (∀ b ∈ s.binds.getD die.val [], ¬(b.grid = id ∧ b.cluster = q)) → core / 88 = die.val →
    core < s.cores.length → fs.find? (fun f => fs.all fun e => e.prio ≤ f.prio) = some f → f.grid = id → f.cluster = q →
    startTeam g q [core] 0 (coreAt s core) = some y →
    (∃ t h, exec (.teamStart die n q core) s = .next t ∧ t.cores = s.cores.set core y ∧ gridOf t id = some h
      ∧ h.started = g.started + 1)
    ∧ (g.chart = none → (coreAt s core).groups.length = 96 →
      Started g.record g.id q [core] 0 (coreAt s core) y))
  ∧ (∀ (s : State) (die : Fin 2) (n q core p k tn : Nat) (g : Grid) (f : Floating),
    let id := BitVec.ofNat 64 n
    let fs := s.regions.getD (4 * die.val + core % 8 / 2) []
    let x := coreAt s core
    gridOf s id = some g → (∀ b ∈ s.binds.getD die.val [], ¬(b.grid = id ∧ b.cluster = q)) → core / 88 = die.val →
    core < s.cores.length → fs.find? (fun f => fs.all fun e => e.prio ≤ f.prio) = some f → f.grid = id → f.cluster = q →
    g.chart = none → recGpt g.record = 1 → x.groups.length = 96 → tn < 128 → (∀ t ∈ x.teams, t.num ≠ tn) →
    ((x.teams.filter fun t => t.num < 128).map (·.shared)).sum + recShared g.record ≤ 1310720 →
    p < 12 → recRegs g.record / 8 ≤ freeUnits x p → k ≠ 0 → k / 8 = p → grpIn x k = none →
    ∃ t y, exec (.teamStart die n q core) s = .next t ∧ t.cores = s.cores.set core y ∧ Started g.record g.id q [core] 0 x y)
  ∧ (∀ (s s1 : State) (die : Fin 2) (n q core : Nat) (g : Grid) (b : Bind),
    let id := BitVec.ofNat 64 n
    gridOf s id = some g → (s.binds.getD die.val []).find? (fun b => b.grid = id ∧ b.cluster = q) = some b →
    startCluster s g q (rectCores b.place (recCw g.record) (recCh g.record)) = some s1 →
    ∃ t h, exec (.teamStart die n q core) s = .next t ∧ t.cores = s1.cores ∧ gridOf s1 id = some h
      ∧ (gridOf t id).map (·.started) = some (h.started + 1))
  ∧ (∀ (s : State) (die : Fin 2) (r : Fin 4) (v : Nat),
    let at_ (t : State) (i : Nat) : List Floating := t.regions.getD (4 * die.val + i) []
    let fs := at_ s v
    let m := fs.length - fs.length / 2
    s.regions.length = 8 → at_ s r.val = [] → 2 ≤ fs.length → (fs.drop m).any (regionRoom s die.val r.val) = true → v < 4 →
    r.val = v + 1 ∨ (v = r.val + 1 ∧ (r.val = 0 ∨ (at_ s (r.val - 1)).length < 2)) →
    ∃ t, exec (.stealRequest die r) s = .next t ∧ t = { s with regions := t.regions } ∧ at_ t r.val = fs.drop m
      ∧ at_ t v = fs.take m ∧ ∀ i, i ≠ 4 * die.val + r.val → i ≠ 4 * die.val + v → t.regions[i]? = s.regions[i]?)
  ∧ (∀ (s s2 s3 : State) (n st : Nat) (g : Grid),
    let id := BitVec.ofNat 64 n
    let done := recDone g.record
    let root := recRoot g.record
    gridOf s id = some g → gridOver s g = true → g.stage = .ending st ∨ (g.stage = .running ∧ st = 0) → done ≠ 0 →
    firmStore (overCores s (dropTeams id)) (.grid n 0) root (done + 8) 8 st = .ok s2 →
    firmStore s2 (.grid n 1) root done 8 (recDonev g.record) = .ok s3 →
    ∃ t, exec (.gridComplete n) s = .next t ∧ t.mem = s3.mem ∧ gridOf t id = none
      ∧ ∀ x ∈ t.cores, ∀ tm ∈ x.teams, tm.grid ≠ id)
  ∧ (∀ (s : State) (n : Nat) (g : Grid),
    let id := BitVec.ofNat 64 n
    gridOf s id = some g → gridOver s g = true → recDone g.record = 0 →
    ∃ t, exec (.gridComplete n) s = .next t ∧ gridOf t id = none ∧ ∀ x ∈ t.cores, ∀ tm ∈ x.teams, tm.grid ≠ id)
  ∧ (∀ (s : State) (page : Nat),
    let covers (lf : Leaf) : Prop := lf.pa < 4096 * page + 4096 ∧ 4096 * page < lf.pa + lf.size
    let leased : Prop := (∃ g ∈ s.grids, ∃ lf ∈ g.pins, covers lf) ∨ ∃ l ∈ s.landings, ∃ lf ∈ l.pins, covers lf
    (leased ∨ page ∈ s.badPages ∨ 4096 ≤ s.badPages.length → exec (.badPageAppend page) s = .next s)
    ∧ (¬leased → page ∉ s.badPages → s.badPages.length < 4096 →
      exec (.badPageAppend page) s = .next { s with badPages := s.badPages ++ [page] }))

/-! ## Inbound requests and ports (R343 to R359) -/

/-- R349: a write or a read whose translation fails is counted, and has no other effect but the entry of a bad page or a poisoned line that its walk reads. R350: a write that nothing of
its port holds back enters its home's queue, and a read, once its port has no earlier write, changes nothing. R350,
R359: a held write is sent in its turn, and a performed one is acknowledged: its byte count arrives at its barrier.
R353: a whole slot posts a record. R348: a W32 store of 1 to 2,047 at offset 0 makes that interrupt pending, and any
other is discarded. Readings of the model, not rules: logs 65, 67. -/
def Obligations.InboundRequestsKeepTheirOrder : Prop :=
  ∀ (s : State) (rq : Requester) (addr : Dword),
    let p := rq.port
    let mine (w : Inbound) : Prop := w.port = p.val
    let counted (o : Host.Outcome State Fault Refusal) : Prop := ∃ t, o = .next t ∧ Counted s t 0x9001 ∧ t.mem = s.mem
      ∧ t.inbound = s.inbound
      ∧ (s.badPages = [] → (∀ l, linePoisoned s l = false) → t = addCount s 0x9001 1)
    (∀ bs ro, portState s p.val = 2 → onBus s p addr → bs ≠ [] → bs.length ≤ 512 → addr.toNat % 4096 + bs.length ≤ 4096 →
      landingTag addr.toNat = none → ioLeaf s p.val rq.rid.toNat addr.toNat true = none →
      counted (exec (.inboundWrite rq addr bs ro false) s))
    ∧ (∀ len, portState s p.val = 2 → onBus s p addr → 0 < len → len ≤ 4096 → addr.toNat % 4096 + len ≤ 4096 →
      landingTag addr.toNat = none → (∀ w ∈ s.inbound, ¬mine w) → ioLeaf s p.val rq.rid.toNat addr.toNat false = none →
      counted (exec (.inboundRead rq addr len none) s))
    ∧ (∀ lf pa bs ro, Arrives s rq addr bs.length true lf pa → bs.length ≤ 512 → pa % lf.gr + bs.length ≤ lf.gr →
      s.landings = [] → ro = true ∨ (∀ w ∈ s.inbound, ¬mine w) → readableNow s none none pa 1 lf.gr = true →
      let w := inboundAs s p ro pa lf.gr bs
      exec (.inboundWrite rq addr bs ro false) s
        = .next (queuedAt { s with inbound := s.inbound ++ [w], nextId := s.nextId + 1 } w pa))
    ∧ (∀ lf pa len, Arrives s rq addr len false lf pa → len ≤ 4096 → (∀ w ∈ s.inbound, ¬mine w) →
      readableNow s none none pa len lf.gr = true → (linesOf pa len).any (linePoisoned s) = false →
      ∃ t, exec (.inboundRead rq addr len none) s = .next t ∧ t = { s with homes := t.homes }
        ∧ (homeOf t pa 512).readAt = s.clock + 1)
    ∧ (∀ w pa, s.inbound.find? (fun v => v.id = w.id) = some w → w.state = .held → w.place = .glob pa → w.land = none →
      backed s pa = true → readableNow s none none pa 1 w.gr = true →
      w.ro = true ∨ (∀ v ∈ s.inbound, v.port = w.port → v.id < w.id → v.route = w.route ∧ v.state ≠ .held) →
      exec (.writeAck w.id) s = .next (queuedAt s w pa))
    ∧ (∀ w, s.inbound.find? (fun v => v.id = w.id) = some w → w.state = .performed →
      let done := s.inbound.filter fun v => v.id ≠ w.id
      (w.land = none → exec (.writeAck w.id) s = .next { s with inbound := done })
      ∧ ∀ n l c t off tm, w.land = some n → s.landings.find? (fun l => l.id = n) = some l → l.bar = .scr c t off →
        Pad s c t off tm →
        let r := arrivedAt (recordAt tm off) w.bytes.length
        ∃ u tm', exec (.writeAck w.id) s = .next u ∧ u.inbound = done ∧ u.mem = s.mem ∧ teamAt u c t = some tm'
          ∧ Stored tm.bytes tm'.bytes off 8 r.1.toNat ∧ Released s u (.scr c t off) r.2
          ∧ u.landings = (s.landings.map fun l =>
              if l.id = n then { l with landed := l.landed + w.bytes.length } else l).filter fun l => l.landed < l.len)
    ∧ (∀ c bs, portState s p.val = 2 → portRole s p.val = 0 ∨ portRole s p.val = 2 → bs.length = 64 → c < 176 →
      (∀ w ∈ s.inbound, mine w → w.route = c / 88 ∧ w.state = .performed) → mailRoom (coreAt s c) (fieldAt bs 0 2) = true →
      (coreAt s c).posts = [] →
      exec (.mailboxPostSlot p c bs) s = .next (modCore s c fun x => { x with mailbox := x.mailbox ++ [bs] }))
    ∧ (∀ (h off width : Nat) (v : Word), h < 64 →
      let good : Prop := width = 4 ∧ off = 0 ∧ 1 ≤ v.toNat ∧ v.toNat ≤ 2047
      (¬good → exec (.helmInterruptWindow h off width v) s = .next s)
      ∧ ∀ x, good → s.helms[h]? = some x → exec (.helmInterruptWindow h off width v) s = .next { s with
        helms := s.helms.set h { x with irqs := v.toNat :: x.irqs.filter fun i => i ≠ v.toNat } })

/-- R354: a host's answer ends its hold of a line, and writes the line back where it had changed it. R355: a snooped
copy of host memory goes after its horizon; a written-through store is performed when its GO arrives. R356: a request
that has been outstanding for CTO fails; a link that goes down leaves STATE 3, no shared line, poison in its exclusive
ones, and no request. R345: a trained link shows its width and rate; RETRAIN resets the link, in the role of ROLE
(R343). Readings of the model, not rules: logs 66, 68. -/
def Obligations.HostPortsAnswerFailAndTrain : Prop :=
  ∀ (s : State) (p : Fin 4), s.ports.length = 4 → s.roles.length = 4 →
    (∀ l data, s.hostLines.find? (fun x => x.port = p.val && x.line = l.line) = some l → l.asked = true →
      let left := s.hostLines.filter fun x => !(x.port = p.val && x.line = l.line)
      (l.hold ≠ .exclusive → exec (.birsp p l.line data) s = .next { s with hostLines := left })
      ∧ (l.hold = .exclusive → data.length = 64 → Memory.wf s.mem = true → ∃ t, exec (.birsp p l.line data) s = .next t
        ∧ t.hostLines = left
        ∧ ∀ q, sget t.mem q = if l.line ≤ q ∧ q < l.line + 64 then data.getD (q - l.line) 0 else sget s.mem q))
    ∧ (∀ line, line % 64 = 0 → line ∈ s.hostCache → lineActing s line = false → readableNow s none none line 64 512 = true →
      (∀ h ∈ s.homes, h.grain < line + 64 → line < h.grain + h.size → h.horizon ≤ meridian s) →
      ∃ t, exec (.hostSnoop line) s = .next t ∧ t.hostCache = s.hostCache.filter (fun l => l ≠ line) ∧ t.mem = s.mem
        ∧ t.homes = s.homes ∧ ∀ w ∈ t.watches, ¬(w.grain < line + 64 ∧ line < w.grain + w.size))
    ∧ (∀ o c id a, s.outstanding.find? (fun x => x.id = o.id && x.port.isSome && !x.failed && !x.complete) = some o →
      o.src = .acc c id → o.data ≠ [] → lineActing s o.pa = false → c < s.cores.length →
      (coreAt s c).outb.find? (fun x => x.id = id) = some a → Memory.wf s.mem = true →
      ∃ t, exec (.cxlGo o.id) s = .next t
        ∧ t.outstanding = s.outstanding.filter (fun x => x.id ≠ o.id)
        ∧ (∀ q, sget t.mem q = if cachedHere s o.pa o.data.length = true ∧ o.pa ≤ q ∧ q < o.pa + o.data.length
            then o.data.getD (q - o.pa) 0 else sget s.mem q)
        ∧ (coreAt t c).outb = (coreAt s c).outb.filter fun x => x.id ≠ id)
    ∧ (∀ o c id a, s.outstanding.find? (fun x => x.id = o.id) = some o → o.port = some p.val → c < s.cores.length →
      o.failed = false → o.complete = false → o.src = .acc c id →
      o.since + max 1 (portField s p 32 16) * 1750 ≤ s.clock →
      let x := coreAt s c
      let u : State := { s with outstanding := s.outstanding.filter fun x => x.id ≠ o.id }
      (o.data ≠ [] → x.outb.find? (fun y => y.id = id) = some a →
        exec (.completionTimeout o.id) s = .next (dropBuffered (recordFailure u c a 3) c id))
      ∧ (∀ sg pa g, o.data = [] → x.pend.find? (fun y => y.id = id) = some a → a.kind = .load sg → a.place = .glob pa →
        grpAt s c a.slot = some g →
        ∃ t, exec (.completionTimeout o.id) s = .next (retireDone c t) ∧ (coreAt t c).pend = without x id
          ∧ ∃ g', grpAt t c a.slot = some g' ∧ ∃ r ∈ g'.causes, r.cause = 0x16))
    ∧ (portState s p.val = 2 → ∃ t, exec (.linkDown p) s = .next t ∧ portState t p.val = 3
      ∧ (∀ l ∈ t.hostLines, l.port ≠ p.val) ∧ (∀ o ∈ t.outstanding, o.port = some p.val → o.failed = true)
      ∧ ∀ l ∈ s.hostLines, l.port = p.val → l.hold = .exclusive → l.line ∈ t.poison)
    ∧ (∀ (width : Fin 6) (rate : Fin 8),
      portState s p.val = 1 → width ≠ 0 → rate ≠ 0 → (portRole s p.val = 2 → rate.val ≤ 6) →
      ∃ t, exec (.portLinkUp p width rate) s = .next t ∧ portState t p.val = 2 ∧ portRole t p.val = portRole s p.val
        ∧ portField t p 20 4 = width.val ∧ portField t p 16 4 = rate.val ∧ portField t p 1 1 = 0
        ∧ portField t p 32 16 = portField s p 32 16)
    ∧ (∃ t, exec (.portRetrain p) s = .next t ∧ portRole t p.val = portField s p 2 2
      ∧ portState t p.val = (if portField s p 0 1 = 1 ∧ portField s p 2 2 ≠ 3 then 1 else 0)
      ∧ portField t p 1 1 = portState t p.val ∧ portField t p 16 8 = 0 ∧ portField t p 32 16 = portField s p 32 16)

/-! ## The fabric and its losses (R361 to R371) -/

/-- R363: a fabric port trains to STATE 2, fails to STATE 3, and is reset by RETRAIN; the switch assigns the endpoint
number once. R365: a remote write enters its home's queue, a read changes nothing, an atomic is one step of the
performed order. R367: a fabric copy is listed at the grant, and dropped by an invalidation once its leases have
passed. R369: a lost die or endpoint is lost from its declaration on; with no port up every other endpoint is. R370,
R371: the orphan records are written into their ring, and then pk.mchk shows the loss. Readings of the model, not
rules: logs 25, 69, 71. -/
def Obligations.FabricServesAndSurvivesLosses : Prop :=
  ∀ (s : State), s.fports.length = 12 →
    (∀ i : Fin 12,
      let only (t : State) : Prop := t = { s with fports := t.fports, outstanding := t.outstanding }
      (fportField s i 8 4 = 1 → ∃ t, exec (.fabricPortUp i true) s = .next t ∧ only t ∧ fportField t i 8 4 = 2
        ∧ fportField t i 1 1 = 0 ∧ fportField t i 0 1 = fportField s i 0 1)
      ∧ (fportField s i 8 4 = 2 ∨ fportField s i 8 4 = 1 → ∃ t, exec (.fabricPortUp i false) s = .next t
        ∧ fportField t i 8 4 = 3 ∧ fportField t i 1 1 = 0
        ∧ ((∃ j, j ≠ i ∧ fportField s j 8 4 = 2) → only t)
        ∧ (fportField s i 8 4 = 2 → (∀ j, j ≠ i → fportField s j 8 4 ≠ 2) →
          ∀ e, e < 1024 → ¬(fabField s 31 1 = 1 ∧ e = fabField s 0 10) → e ∈ t.lostEnds))
      ∧ (∃ t, exec (.fabricRetrain i) s = .next t ∧ fportField t i 8 4 = fportField s i 0 1
        ∧ fportField t i 1 1 = fportField s i 0 1))
    ∧ (∀ n : Fin 1024, fabField s 31 1 = 0 → (∃ i : Fin 12, fportField s i 8 4 = 2) →
      ∃ t, exec (.epidAssign n) s = .next t ∧ t = { s with fab := t.fab } ∧ fabField t 0 10 = n.val ∧ fabField t 31 1 = 1
        ∧ fabField t 32 16 = fabField s 32 16)
    ∧ (∀ (e : Fin 1024) (pa n : Nat) (m : MemMod), Remote s e pa n →
      let h := homeOf s pa 512
      (∀ bs, bs.length = n → pa % 32 + n ≤ 32 → readableNow s none none pa n 512 = true →
        exec (.remoteRequest e pa m (.write bs)) s = .next (putHome s
          { h with queue := h.queue ++ [{ src := .remote e.val, pa := pa, bytes := bs }], len := 2, wrote := true }))
      ∧ (readableNow s none none pa n 512 = true → (linesOf pa n).any (linePoisoned s) = false →
        ∃ t, exec (.remoteRequest e pa m (.read n)) s = .next t ∧ t = { s with homes := t.homes }
          ∧ (homeOf t pa 512).readAt = s.clock + 1)
      ∧ (pa % n = 0 → writableNow s none none none pa n 512 = true → (linesOf pa n).any (linePoisoned s) = false →
        Memory.wf s.mem = true →
        let old := readLe s.mem pa n
        let gives (k : InKind) (v : Option Nat) : Prop := ∃ t, exec (.remoteRequest e pa m k) s = .next t ∧ match v with
          | some v => Stored s.mem t.mem pa n v
          | none => t.mem = s.mem
        (∀ op w v, n = w.bytes → gives (.atom op w v) (some (atomNew op (8 * n) old v.toNat)))
        ∧ (∀ w x v, n = w.bytes → gives (.acas w x v) (if old = x.toNat % 2 ^ (8 * n) then some v.toNat else none))
        ∧ (∀ w v held, n = w.bytes → gives (.sc w v held) (if held = true then some v.toNat else none))
        ∧ ∀ k, n = 16 → 0 < k →
          let cur := old % 2 ^ 64
          gives (.partn k) (if cur % k = 0 ∧ cur + k ≤ old / 2 ^ 64 then
            some ((cur + k) % 2 ^ 64 + old / 2 ^ 64 * 2 ^ 64) else none))
      ∧ (n = 1 →
        let b := pa / 512 * 512
        (∃ t, exec (.remoteRequest e pa m (.hold .invalid)) s = .next t ∧ t = { s with directory := t.directory }
          ∧ ∀ d ∈ t.directory, d.grain = b → e.val ∉ d.ends)
        ∧ ((∃ r ∈ s.shared, r.1 ≤ pa ∧ pa < r.1 + r.2) → h.isOpen = true → s.hostLines = [] →
          ∃ t, exec (.remoteRequest e pa m (.hold .shared)) s = .next t ∧ e.val ∈ copyHolders t b
            ∧ ∀ j ∈ copyHolders s b, j ∈ copyHolders t b)))
    ∧ (∀ n, n % 512 = 0 → (∃ k ∈ s.copies, k.grain = n) →
      (∀ h ∈ s.homes, h.grain < n + 512 → n < h.grain + h.size → h.horizon ≤ meridian s) →
      ∃ t, exec (.fabricInvalidation n) s = .next t ∧ t.copies = s.copies.filter (fun k => k.grain ≠ n) ∧ t.mem = s.mem
        ∧ t.homes = s.homes.filter (fun h => !(decide (h.grain < n + 512) && decide (n < h.grain + h.size)))
        ∧ (∀ w ∈ t.watches, ¬(w.grain < n + 512 ∧ n < w.grain + w.size))
        ∧ ∀ c, c < s.cores.length → ∀ a ∈ (coreAt s c).pend, ∀ q, a.place = .glob q → a.watch = .entry → q < n + 512 →
          n < q + a.n → { a with watch := .poll (s.clock + 32) 32 } ∈ (coreAt t c).pend)
    ∧ (∀ d : Fin 2, d.val ∉ s.lostDies → ∃ t, exec (.dieLoss d) s = .next t ∧ t.lostDies = d.val :: s.lostDies
      ∧ t.losses = s.losses ++ [(false, d.val)] ∧ Counted s t 0x9005
      ∧ ∀ pa, regionOf pa = .hbm → hbmStack pa / 4 = d.val → backed t pa = false)
    ∧ (∀ e : Fin 1024, e.val ∉ s.lostEnds → ¬(fabField s 31 1 = 1 ∧ fabField s 0 10 = e.val) → ∃ t, exec (.packageLoss e) s = .next t
      ∧ t.lostEnds = e.val :: s.lostEnds ∧ t.losses = s.losses ++ [(true, e.val)]
      ∧ (∀ k ∈ t.copies, regionOf k.grain ≠ .fabric e.val) ∧ ∀ k ∈ t.directory, e.val ∉ k.ends)
    ∧ (∀ pkg n rest, s.losses = (pkg, n) :: rest →
      let mark : BitVec 64 := 0x8000000000000000#64 ||| (if pkg = true then 0x400 else 0) ||| BitVec.ofNat 64 (n % 1024)
      (s.orphans = [] → exec .orphanComplete s = .next { s with losses := rest, mchk := mark })
      ∧ ∀ r, s.orphans = [r] → r.length = 640 → Memory.wf s.mem = true →
        let size := s.orph.toNat % 16
        let pa := s.orph.toNat / 2 ^ 12 % 2 ^ 45 * 2 ^ 12 + 640 * (s.orphTail % 2 ^ size)
        4 ≤ size → size ≤ 12 → (s.orphTail + 2 ^ 32 - s.orphHead) % 2 ^ 32 < 2 ^ size →
        ∃ t, exec .orphanComplete s = .next t ∧ t.orphans = [] ∧ t.losses = rest ∧ t.mchk = mark
          ∧ t.orphTail = (s.orphTail + 1) % 2 ^ 32 ∧ ∀ q, sget t.mem q =
            if pa + 24 ≤ q ∧ q < pa + 32 then Claims.byteOf (meridian s) (q - pa - 24)
            else if pa ≤ q ∧ q < pa + 640 then r.getD (q - pa) 0 else sget s.mem q)

/-! ## Errors, counts, registers, reset (R341, R372 to R376) -/

/-- R372, R374, R375: an error reaches its log, an armed one with INJ; an uncorrected error in L2 data leaves poison,
one in a register array gives its group MEMERR; a replay is logged, a failed link loses its die. R374: a supervisor
that has trapped starts afresh, and the grids with a team there are to complete with status 5. R373, R375, R376:
clearing a log, arming an error, the lifetime counts. R345, R363, R371: the RW fields of a register take a written
value. R341: a package reset gives every core and helm core its reset state; that memory keeps its bytes is the
model's choice (log 13). Readings of the model, not rules: logs 72, 73, 74, 75, 91, 93. -/
def Obligations.ErrorsCountsRegistersAndReset : Prop :=
  ∀ (s : State) (u k addr syn : Nat) (ctx : BitVec 16),
    (Quiet s u k → holdsArray u k → k ∉ [4, 6, 9, 11, 12] →
      (s.einj.getLsbD 63 = false → s.planted = [] → ∃ t, exec (.correctedError u k addr syn ctx) s = .next t
        ∧ LogTakes s t u k false false syn ctx addr ∧ Counted s t (0x100 + 16 * u + k))
      ∧ (∀ p, k ≠ 1 → s.planted = [p] → p.unit = u → p.kind = k → p.addr = addr → p.flips = 1 →
        ∃ t, exec (.correctedError u k addr syn ctx) s = .next t ∧ t.planted = []
          ∧ LogTakes s t u k false true (p.bit + 1) ctx addr)
      ∧ (k = 5 ∨ k = 10 → s.planted = [] → s.einj.extractLsb' 63 1 = 1 → (s.einj.extractLsb' 40 2).toNat = 1 →
        (s.einj.extractLsb' 24 8).toNat = k → (s.einj.extractLsb' 0 10).toNat = u →
        ∃ t, exec (.correctedError u k addr syn ctx) s = .next t ∧ t.einj.getLsbD 63 = false ∧ Counted s t 0x9004
          ∧ LogTakes s t u k false true ((s.einj.extractLsb' 32 8).toNat + 1) ctx addr))
    ∧ (Quiet s u k → s.einj.getLsbD 63 = false → s.planted = [] → holdsArray u k →
      (k = 7 → ∃ t, exec (.uncorrectedError u k addr syn ctx) s = .next t ∧ LogTakes s t u k true false syn ctx addr
        ∧ addr / 64 * 64 ∈ t.poison)
      ∧ (∀ g, k = 1 → grpAt s u (8 * (ctx.toNat % 16) + ctx.toNat / 16 % 8) = some g → u < s.cores.length →
        ∃ t g', exec (.uncorrectedError u k addr syn ctx) s = .next t ∧ LogTakes s t u k true false syn ctx addr
          ∧ grpAt t u (8 * (ctx.toNat % 16) + ctx.toNat / 16 % 8) = some g' ∧ ∃ r, g'.causes = g.causes ++ [r]
          ∧ r.cause = 0x16 ∧ r.addr = addr))
    ∧ (holdsArray u 11 → Quiet s u 11 → s.einj.getLsbD 63 = false → s.planted = [] →
      let n := (sget s.replays (u + 1024 * addr)).toNat
      (n < 16 → ∃ t, exec (.linkReplay u addr false) s = .next t ∧ LogTakes s t u 11 false false 0 0xFFFF addr)
      ∧ (n < 15 → ∃ t, exec (.linkReplay u addr true) s = .next t ∧ LogTakes s t u 11 false false 0 0xFFFF addr
        ∧ (sget t.replays (u + 1024 * addr)).toNat = n + 1)
      ∧ (n = 15 → u < 176 → u / 88 ∉ s.lostDies → ∃ t, exec (.linkReplay u addr true) s = .next t
        ∧ LogTakes s t u 11 true false 0 0xFFFF addr ∧ t.lostDies = u / 88 :: s.lostDies)
      ∧ (16 ≤ n → ∀ again, exec (.linkReplay u addr again) s = .next s))
    ∧ (∀ g z, grpAt s u 0 = some g → g.supervisor = true → g.stop = some z → u < s.cores.length →
      ∃ t, exec (.supervisorStop u) s = .next t ∧ grpAt t u 0 = some Grp.supervisorReset
        ∧ ∀ tm ∈ (coreAt s u).teams, tm.num < 128 → ∀ gr, gridOf s tm.grid = some gr → gr.stage = .running →
          ∃ gr', gridOf t tm.grid = some gr' ∧ gr'.stage = .ending 5)
    ∧ (holdsArray u k → Quiet s u k → ∃ t, exec (.logClear u k) s = .next t
      ∧ t = { s with logs := t.logs, counts := t.counts } ∧ (logOf t u k).els = 0
      ∧ (logOf t u k).ela = 0 ∧ ∀ v j, (v, j) ≠ (u, k) → logOf t v j = logOf s v j)
    ∧ (∀ v : Dword,
      (s.einj.getLsbD 63 = true → exec (.errorInject v) s = .next s)
      ∧ (s.einj.getLsbD 63 = false → exec (.errorInject v) s = .next { s with einj := v &&& 0x800003FFFF0003FF })
      ∧ exec (.lifetimeSelect v) s = .next { s with lsel := v &&& 0xFFFF }
      ∧ exec (.registerWrite .fltq v) s = .next { s with fltq := ringWritten s.fltq v }
      ∧ exec (.registerWrite .orph v) s = .next { s with orph := ringWritten s.orph v }
      ∧ (s.fltTail < 2 ^ 32 → s.fltHead < 2 ^ 32 →
        exec (.registerWrite .fltp v) s = .next { s with fltHead := headWritten s.fltTail s.fltHead v })
      ∧ (s.orphTail < 2 ^ 32 → s.orphHead < 2 ^ 32 →
        exec (.registerWrite .orpp v) s = .next { s with orphHead := headWritten s.orphTail s.orphHead v })
      ∧ (∀ p : Fin 4, exec (.registerWrite (.hwin p) v) s = .next { s with
          hwins := s.hwins.set p.val (v &&& 0x000FFF0000000000) })
      ∧ exec (.registerWrite .fab v) s = .next { s with
          fab := (s.fab &&& ~~~0x0000FFFF00000000) ||| (v &&& 0x0000FFFF00000000) }
      ∧ exec (.registerWrite .mchk v) s = .next { s with mchk := s.mchk &&& ~~~(v &&& 0x8000000000000000) }
      ∧ (∀ p : Fin 4, p.val < s.ports.length → v.getLsbD 1 = false → ∃ t, exec (.registerWrite (.port p) v) s = .next t
        ∧ t = { s with ports := t.ports, roles := t.roles } ∧ portField t p 32 16 = (v.extractLsb' 32 16).toNat
        ∧ portField t p 2 2 = (v.extractLsb' 2 2).toNat ∧ portField t p 0 1 = (v.extractLsb' 0 1).toNat
        ∧ portField t p 16 8 = portField s p 16 8
        ∧ portState t p.val = (if portState s p.val = 0 ∧ v.getLsbD 0 = true ∧ (v.extractLsb' 2 2).toNat ≠ 3 then 1
          else if portState s p.val = 1 ∧ v.getLsbD 0 = false then 0 else portState s p.val))
      ∧ ∀ i : Fin 12, i.val < s.fports.length → v.getLsbD 1 = false → ∃ t, exec (.registerWrite (.fport i) v) s = .next t
        ∧ t = { s with fports := t.fports } ∧ fportField t i 0 1 = (v.extractLsb' 0 1).toNat
        ∧ fportField t i 8 4 = (if fportField s i 8 4 = 0 ∧ v.getLsbD 0 = true then 1
          else if fportField s i 8 4 = 1 ∧ v.getLsbD 0 = false then 0 else fportField s i 8 4))
    ∧ (s.updated + 1750000000 ≤ s.clock → ∃ t, exec .lifetimeUpdate s = .next t ∧ t.shown = t.counts
      ∧ t.updated = s.clock ∧ Counted s t 0)
    ∧ exec .orderlyShutdown s = .next { s with shown := s.counts }
    ∧ (∃ t, exec .packageReset s = .next t ∧ t.cores = (List.range 176).map Core.reset
      ∧ t.helms = List.replicate 64 Helm.reset ∧ t.homes = [] ∧ t.grids = [] ∧ t.clock = 0 ∧ t.mem = s.mem
      ∧ t.badPages = s.badPages ∧ Counted s t 1)

/-! ## Encodings (R14 to R49, R313) -/

/-- For every instruction that has a word, the word fits the 64 bits of a vector word or the 32 of a helm word, and a
well-formed instruction is read back from it, operand for operand; and what the decoder reads from a word is well-formed and
has that word. -/
def Obligations.DecodeReadsBackEveryWord : Prop :=
  (∀ (i : Instr) (w : Nat), i.wf = true → i.encode = some w → w < 2 ^ 64 ∧ decode w = some i)
  ∧ (∀ (i : Instr) (w : Nat), i.encodeHelm = some w → w < 2 ^ 32 ∧ decodeHelm w = some i)
  ∧ ∀ (i : Instr) (w : Nat), (decode w = some i → i.encode = some w ∧ i.wf = true)
    ∧ (decodeHelm w = some i → i.encodeHelm = some w)

/-- Words that the spec gives with their instructions decode to them: one of most families. -/
def Obligations.WordsOfTheSpecDecode : Prop :=
  let g := Guard.always
  let m (o : Ordering4) : MemMod := { ord := o, scope := .dev, evict := 4 }
  decode 0x0070180404000100 = some (.iadd g .i32 true (.v 3) (.v 1) (.v 2))
  ∧ decode 0x0C7014100E001030 = some (.lea g .n32 (.v 2) (.s 4) (.v 7) 3)
  ∧ decode 0x2370400806048200 = some (.ffma g .f32 .rtz (.v 8) (.v 2) (.v 3) (.v 4))
  ∧ decode 0x337040080806B000 = some (.dfma g .rne (.v 8) (.v 2) (.v 4) (.v 6))
  ∧ decode 0x4070280404054100 = some (.dp2 g .i16 true (.v 5) (.v 1) (.v 2) (.v 5))
  ∧ decode 0x4A70180404040050 = some (.scmp g (.v 3) (.v 1) (.v 2) (.v 4) 5)
  ∧ decode 0x5470181400000020 = some (.pmovNz g 3 (.v 5))
  ∧ decode 0x5870180B82007730 = some (.shfl g 7 .s64 .xor 7 3 (.v 2) (.int 1))
  ∧ decode 0x5C70480800001800 = some (.gred g 1 .f32 .add .rne false (.v 9) (.v 2))
  ∧ decode 0x60300000FFFFFFFC = some (.bra { neg := false, p := 3 } 0 0xFFFFFFFC)
  ∧ decode 0x6370001800000041 = some (.callx g 0 (.v 6) 4)
  ∧ decode 0x6B70200B820080EC = some (.atom g .add (m .ar) 4 (.v 2) (.int 1) 8)
  ∧ decode 0x70700422150B0010 = some (.wmap g 1 8 10 11)
  ∧ decode 0x7B70400388003000 = some (.mzero g 3 8 (.int 4))
  ∧ decode 0x7C70400200000006 = some (.tbegin 8 2 6)
  ∧ decode 0x7E78242000000003 = some (.sysc g 3 4 8)
  ∧ decodeHelm 0x100B = some .htend

/-! ## Steps, the memory's form, reset (R1 to R5, R319, R341) -/

/-- An event that is due comes first, and the clock stops at the next one that comes due before a turn; else the turn at the head
of the tape is taken. A turn of a group runs the word at its PC: where its bytes decode to an instruction of registers that the
group has, no group of its partition comes before it, and nothing makes the word wait, the step is that instruction's `exec` on
its issue set, and the bookkeeping of the issue; bytes that decode to none, or to one of scalars that the group has not, raise
ILLEGAL in the set. A helm core's turn runs the word of the helm extension at its pc, and an event's turn the event. Which turn
comes next is the tape's (log 1). Beside it a step only finds an injected error in what the turn reads, and places an armed one
(R375, log 72). -/
def Obligations.StepRunsTheDecodedInstruction : Prop :=
  (∀ s t : State, t.planted = [] → t.einj.getLsbD 63 = false → afterAct s (.next t) = .next t)
  ∧ (∀ (s : State) (a : Act), s.planted = [] → findInjected s a = s)
  ∧ (∀ (s : State) (i : Instr), dueNow s = some i → step s = afterAct s (exec i (findInjected s (.event i))))
  ∧ ∀ (s : State) (dt : Nat) (rest : List Turn), dueNow s = none →
    let at_ (a : Act) : State := findInjected { s with tape := rest, clock := s.clock + dt } a
    (∀ a d, s.tape = Turn.mk dt a :: rest → nextDue s dt = some d → step s = afterAct s (.next (passTo s d)))
    ∧ (nextDue s dt = none →
      (∀ c k g l w, let now := at_ (.issue c k)
        s.tape = Turn.mk dt (.issue c k) :: rest → Issues now c k g l → FetchesAt now c g (laneAt g l).pc w →
        (∀ j ∈ groupsBefore (coreAt now c) k, (planGroup now c j).issues = false) →
        let set := nextSet g
        let u := unitsAt (coreAt now c) (k / 8)
        slotsFree u now.clock k .none = true →
        ((∀ i, decode w = some i → i.inScal g.scal = false) →
          step s = afterAct s (.next (trap (enter now c k set false .none) 0x01 set 0 0)))
        ∧ ∀ i, decode w = some i → i.inScal g.scal = true →
          let act := activeLanes w i g set
          let need := unitNeed now c g set w i
          (∀ u ∈ i.uses, regBusy (coreAt now c) k g set u = false) → unitFree u now.clock need = true →
          slotsFree u now.clock k need = true → entriesShort now c g act i = false →
          (∀ gd sc p m, i = .xfence gd sc p m →
            xfenceWaits (coreAt now c) k g set gd sc p (g.fence.getD now.nextId) = false) →
          wordHold (coreAt now c) k g set i (mailRoom (coreAt now c) 1) = none →
          step s = afterAct s (afterIssue now c k (exec i (enter now c k set (isTransfer i && decide (act ≠ 0)) need))))
      ∧ (∀ h x w i, let now := at_ (.helm h)
        s.tape = Turn.mk dt (.helm h) :: rest → s.helms[h]? = some x → helmFetch now h x = .word w →
        decodeHelm w = some i →
        step s = afterAct s (exec i { noteFetch now x with cur := { (noteFetch now x).cur with core := h } }))
      ∧ ∀ i, s.tape = Turn.mk dt (.event i) :: rest → step s = afterAct s (exec i (at_ (.event i))))

/-- Every step keeps the canonical form of the memory: addresses strictly rising, and no entry that holds what an unlisted
address reads as (that it reads 0 is the model's choice: log 2). -/
def Obligations.StepKeepsTheMemoryCanonical : Prop :=
  ∀ s t : State, Memory.wf s.mem = true → step s = .next t → Memory.wf t.mem = true

/-- R341 and the reset columns of the register tables: every core holds the supervisor group alone, with 64 registers, 192
scalars, every lane live and ready, and every register and predicate 0 but P7; its control registers, and those of the I/O
die, have their reset values. The entry, the address of the parameter block and the bytes of memory are the model's choices
(logs 2, 3, 5), and no clause states them; the memory is canonical. -/
def Obligations.ResetStartsTheSupervisors : Prop :=
  let s := State.reset
  Memory.wf s.mem = true ∧ s.cores.length = 176 ∧ s.helms.length = 64
    ∧ (∀ c, c < 176 → ∃ g, grpAt s c 0 = some g ∧ g.supervisor = true ∧ g.alloc = 64 ∧ g.scal = 192
      ∧ (∀ l, l < 64 → (laneAt g l).status = .live ∧ (laneAt g l).wait = .ready ∧ (laneAt g l).preds = 0x80
        ∧ (laneAt g l).lsw = 0 ∧ ∀ r, sget (laneAt g l).regs r = 0)
      ∧ (∀ n, 2 ≤ n → sget g.sregs n = 0) ∧ g.stop = none ∧ g.rdv = none
      ∧ g.ftz = 0 ∧ g.fair = 256 ∧ g.rdvz = 0x01000000 ∧ g.dmr = 0 ∧ g.spill = 0 ∧ g.tretry = 0x10000008)
    ∧ (∀ c k, 0 < k → k < 96 → grpAt s c k = none)
    ∧ (∀ p : Fin 4, s.ports.getD p.val 0 = 0x0000C35000000000 ∧ s.hwins.getD p.val 1 = 0)
    ∧ s.fab = 0x000003E800000000 ∧ (∀ i : Fin 12, s.fports.getD i.val 1 = 0) ∧ s.fltq = 0 ∧ s.orph = 0 ∧ s.mchk = 0
    ∧ s.einj = 0 ∧ s.lsel = 0 ∧ s.logs = [] ∧ s.grids = [] ∧ s.tickets = []
end

