-- ==== Sys2Proof/Laws/Memory.lean ====
section
/-! SUPPORT. The laws of sparse contents and of memory: reading after writing, and the canonical form that every write
keeps. -/

namespace Sys2Proof.Machine

/-! ## The canonical form -/

theorem Sparse.wfFrom_mono {w : Nat} {m : Sparse w} {lo lo' : Nat} (h : Sparse.wfFrom lo m = true) (hl : lo' ≤ lo) :
    Sparse.wfFrom lo' m = true := by
  cases m with
  | nil => rfl
  | cons e m =>
    simp only [Sparse.wfFrom, Bool.and_eq_true, decide_eq_true_eq] at h ⊢
    exact ⟨⟨Nat.le_trans hl h.1.1, h.1.2⟩, h.2⟩

theorem sset_wfFrom {w : Nat} (m : Sparse w) (a : Nat) (v : BitVec w) (lo : Nat) (hlo : lo ≤ a)
    (h : Sparse.wfFrom lo m = true) : Sparse.wfFrom lo (sset m a v) = true := by
  induction m generalizing lo with
  | nil =>
    unfold sset
    split <;> simp_all [Sparse.wfFrom]
  | cons e m ih =>
    obtain ⟨b, u⟩ := e
    simp only [Sparse.wfFrom, Bool.and_eq_true, decide_eq_true_eq] at h
    obtain ⟨⟨hb, hu⟩, hm⟩ := h
    unfold sset
    split
    · subst b
      split
      · exact Sparse.wfFrom_mono hm (by omega)
      · simp_all [Sparse.wfFrom]
    · split
      · split
        · simp_all [Sparse.wfFrom]
        · have : a + 1 ≤ b := by omega
          simp_all [Sparse.wfFrom]
      · have hba : b + 1 ≤ a := by omega
        simp only [Sparse.wfFrom, Bool.and_eq_true, decide_eq_true_eq]
        exact ⟨⟨hb, hu⟩, ih (b + 1) hba hm⟩

/-- A write of one byte keeps memory's canonical form. -/
theorem sset_wf {m : Memory} (a : Nat) (v : Byte) (h : m.wf = true) : Memory.wf (sset m a v) = true :=
  sset_wfFrom m a v 0 (Nat.zero_le a) h

/-- A write of several bytes keeps memory's canonical form. -/
theorem writeBytes_wf {m : Memory} (a : Nat) (bs : List Byte) (h : m.wf = true) : (writeBytes m a bs).wf = true := by
  induction bs generalizing m a with
  | nil => exact h
  | cons b bs ih => exact ih (a + 1) (sset_wf a b h)

/-! ## Reading after writing -/

/-- Below the first address nothing is listed. -/
theorem sget_below {w : Nat} {m : Sparse w} {lo b : Nat} (h : Sparse.wfFrom lo m = true) (hb : b < lo) :
    sget m b = 0 := by
  cases m with
  | nil => rfl
  | cons e m =>
    obtain ⟨c, u⟩ := e
    simp only [Sparse.wfFrom, Bool.and_eq_true, decide_eq_true_eq] at h
    have h1 : ¬ c = b := by omega
    have h2 : b < c := by omega
    simp [sget, h1, h2]

theorem sget_sset_from {w : Nat} (m : Sparse w) (a b : Nat) (v : BitVec w) (lo : Nat)
    (h : Sparse.wfFrom lo m = true) : sget (sset m a v) b = if b = a then v else sget m b := by
  induction m generalizing lo with
  | nil =>
    simp only [sset, sget]
    by_cases hv : v = 0#w <;> by_cases hb : b = a
    · simp [hv, sget]
    · simp [hv, sget]
    · simp [hv, hb, sget]
    · simp [hv, hb, sget, Ne.symm hb]
  | cons e m ih =>
    obtain ⟨c, u⟩ := e
    simp only [Sparse.wfFrom, Bool.and_eq_true, decide_eq_true_eq] at h
    obtain ⟨⟨hc, hu⟩, hm⟩ := h
    unfold sset
    by_cases hca : c = a
    · subst hca
      by_cases hv : v = 0#w
      · by_cases hb : b = c
        · subst hb; simp [hv, sget_below hm (Nat.lt_succ_self b)]
        · simp only [hv, if_true, hb, if_false, sget, Ne.symm hb]
          by_cases hbc : b < c
          · simp [hbc, sget_below hm (by omega : b < c + 1)]
          · simp [hbc]
      · by_cases hb : b = c
        · subst hb; simp [hv, sget]
        · simp [hv, hb, sget, Ne.symm hb]
    · simp only [hca, if_false]
      by_cases hac : a < c
      · simp only [hac, if_true]
        by_cases hv : v = 0#w
        · by_cases hb : b = a
          · subst hb
            have h1 : ¬ c = b := hca
            simp [hv, sget, h1, hac]
          · simp [hv, hb]
        · by_cases hb : b = a
          · subst hb; simp [hv, sget]
          · by_cases hba : b < a
            · have h1 : ¬ c = b := by omega
              have h2 : b < c := by omega
              simp [hv, hb, sget, Ne.symm hb, hba, h1, h2]
            · simp [hv, hb, sget, Ne.symm hb, hba]
      · simp only [hac, if_false, sget]
        by_cases hcb : c = b
        · subst hcb; simp [hca]
        · by_cases hbc : b < c
          · have : ¬ b = a := by omega
            simp [hcb, hbc, this]
          · simp only [hcb, if_false, hbc]
            exact ih (c + 1) hm

/-- A byte reads as the last write to it left it, and every other byte as before. -/
theorem sget_sset {m : Memory} (a b : Nat) (v : Byte) (h : m.wf = true) :
    sget (sset m a v) b = if b = a then v else sget m b :=
  sget_sset_from m a b v 0 h

/-- Outside the bytes written, memory reads as before. -/
theorem sget_writeBytes_outside {m : Memory} (a b : Nat) (bs : List Byte) (h : m.wf = true)
    (hb : b < a ∨ a + bs.length ≤ b) : sget (writeBytes m a bs) b = sget m b := by
  induction bs generalizing m a with
  | nil => rfl
  | cons x bs ih =>
    simp only [List.length_cons] at hb
    have h1 : b ≠ a := by omega
    rw [writeBytes, ih (a + 1) (sset_wf a x h) (by omega), sget_sset a b x h, if_neg h1]

/-- Reading back the bytes written gives them. -/
theorem readBytes_writeBytes {m : Memory} (a : Nat) (bs : List Byte) (h : m.wf = true) :
    readBytes (writeBytes m a bs) a bs.length = bs := by
  induction bs generalizing m a with
  | nil => rfl
  | cons x bs ih =>
    simp only [List.length_cons, readBytes, writeBytes]
    rw [ih (a + 1) (sset_wf a x h), sget_writeBytes_outside (a + 1) a bs (sset_wf a x h) (by omega),
      sget_sset a a x h, if_pos rfl]

end Sys2Proof.Machine
end

