-- ==== Sys2Proof/Laws/State.lean ====
section
/-! SUPPORT. What each update of the state, of a core, of a group and of a lane leaves of every field: one lemma per
field per update, so that no proof unfolds a record update. -/

namespace Sys2Proof.Machine


/-! ### setCore -/

@[simp] theorem setCore_tape (s : State) (c : Nat) (x : Core) : (setCore s c x).tape = s.tape := rfl
@[simp] theorem setCore_focus (s : State) (c : Nat) (x : Core) : (setCore s c x).focus = s.focus := rfl
@[simp] theorem setCore_cur (s : State) (c : Nat) (x : Core) : (setCore s c x).cur = s.cur := rfl
@[simp] theorem setCore_freeCount (s : State) (c : Nat) (x : Core) : (setCore s c x).freeCount = s.freeCount := rfl
@[simp] theorem setCore_nextId (s : State) (c : Nat) (x : Core) : (setCore s c x).nextId = s.nextId := rfl
@[simp] theorem setCore_clock (s : State) (c : Nat) (x : Core) : (setCore s c x).clock = s.clock := rfl
@[simp] theorem setCore_mem (s : State) (c : Nat) (x : Core) : (setCore s c x).mem = s.mem := rfl
@[simp] theorem setCore_helms (s : State) (c : Nat) (x : Core) : (setCore s c x).helms = s.helms := rfl
@[simp] theorem setCore_homes (s : State) (c : Nat) (x : Core) : (setCore s c x).homes = s.homes := rfl
@[simp] theorem setCore_hostCache (s : State) (c : Nat) (x : Core) : (setCore s c x).hostCache = s.hostCache := rfl
@[simp] theorem setCore_watches (s : State) (c : Nat) (x : Core) : (setCore s c x).watches = s.watches := rfl
@[simp] theorem setCore_ticket (s : State) (c : Nat) (x : Core) : (setCore s c x).ticket = s.ticket := rfl
@[simp] theorem setCore_tickets (s : State) (c : Nat) (x : Core) : (setCore s c x).tickets = s.tickets := rfl
@[simp] theorem setCore_anchors (s : State) (c : Nat) (x : Core) : (setCore s c x).anchors = s.anchors := rfl
@[simp] theorem setCore_queues (s : State) (c : Nat) (x : Core) : (setCore s c x).queues = s.queues := rfl
@[simp] theorem setCore_nextGrid (s : State) (c : Nat) (x : Core) : (setCore s c x).nextGrid = s.nextGrid := rfl
@[simp] theorem setCore_grids (s : State) (c : Nat) (x : Core) : (setCore s c x).grids = s.grids := rfl
@[simp] theorem setCore_binds (s : State) (c : Nat) (x : Core) : (setCore s c x).binds = s.binds := rfl
@[simp] theorem setCore_regions (s : State) (c : Nat) (x : Core) : (setCore s c x).regions = s.regions := rfl
@[simp] theorem setCore_badPages (s : State) (c : Nat) (x : Core) : (setCore s c x).badPages = s.badPages := rfl
@[simp] theorem setCore_fltq (s : State) (c : Nat) (x : Core) : (setCore s c x).fltq = s.fltq := rfl
@[simp] theorem setCore_fltTail (s : State) (c : Nat) (x : Core) : (setCore s c x).fltTail = s.fltTail := rfl
@[simp] theorem setCore_fltHead (s : State) (c : Nat) (x : Core) : (setCore s c x).fltHead = s.fltHead := rfl
@[simp] theorem setCore_fltPend (s : State) (c : Nat) (x : Core) : (setCore s c x).fltPend = s.fltPend := rfl
@[simp] theorem setCore_rows (s : State) (c : Nat) (x : Core) : (setCore s c x).rows = s.rows := rfl
@[simp] theorem setCore_ports (s : State) (c : Nat) (x : Core) : (setCore s c x).ports = s.ports := rfl
@[simp] theorem setCore_hwins (s : State) (c : Nat) (x : Core) : (setCore s c x).hwins = s.hwins := rfl
@[simp] theorem setCore_roles (s : State) (c : Nat) (x : Core) : (setCore s c x).roles = s.roles := rfl
@[simp] theorem setCore_contexts (s : State) (c : Nat) (x : Core) : (setCore s c x).contexts = s.contexts := rfl
@[simp] theorem setCore_hdms (s : State) (c : Nat) (x : Core) : (setCore s c x).hdms = s.hdms := rfl
@[simp] theorem setCore_inbound (s : State) (c : Nat) (x : Core) : (setCore s c x).inbound = s.inbound := rfl
@[simp] theorem setCore_sent (s : State) (c : Nat) (x : Core) : (setCore s c x).sent = s.sent := rfl
@[simp] theorem setCore_outstanding (s : State) (c : Nat) (x : Core) : (setCore s c x).outstanding = s.outstanding := rfl
@[simp] theorem setCore_landings (s : State) (c : Nat) (x : Core) : (setCore s c x).landings = s.landings := rfl
@[simp] theorem setCore_hostLines (s : State) (c : Nat) (x : Core) : (setCore s c x).hostLines = s.hostLines := rfl
@[simp] theorem setCore_files (s : State) (c : Nat) (x : Core) : (setCore s c x).files = s.files := rfl
@[simp] theorem setCore_handles (s : State) (c : Nat) (x : Core) : (setCore s c x).handles = s.handles := rfl
@[simp] theorem setCore_console (s : State) (c : Nat) (x : Core) : (setCore s c x).console = s.console := rfl
@[simp] theorem setCore_fab (s : State) (c : Nat) (x : Core) : (setCore s c x).fab = s.fab := rfl
@[simp] theorem setCore_fports (s : State) (c : Nat) (x : Core) : (setCore s c x).fports = s.fports := rfl
@[simp] theorem setCore_shared (s : State) (c : Nat) (x : Core) : (setCore s c x).shared = s.shared := rfl
@[simp] theorem setCore_exports (s : State) (c : Nat) (x : Core) : (setCore s c x).exports = s.exports := rfl
@[simp] theorem setCore_directory (s : State) (c : Nat) (x : Core) : (setCore s c x).directory = s.directory := rfl
@[simp] theorem setCore_copies (s : State) (c : Nat) (x : Core) : (setCore s c x).copies = s.copies := rfl
@[simp] theorem setCore_lostDies (s : State) (c : Nat) (x : Core) : (setCore s c x).lostDies = s.lostDies := rfl
@[simp] theorem setCore_lostEnds (s : State) (c : Nat) (x : Core) : (setCore s c x).lostEnds = s.lostEnds := rfl
@[simp] theorem setCore_orph (s : State) (c : Nat) (x : Core) : (setCore s c x).orph = s.orph := rfl
@[simp] theorem setCore_orphTail (s : State) (c : Nat) (x : Core) : (setCore s c x).orphTail = s.orphTail := rfl
@[simp] theorem setCore_orphHead (s : State) (c : Nat) (x : Core) : (setCore s c x).orphHead = s.orphHead := rfl
@[simp] theorem setCore_orphans (s : State) (c : Nat) (x : Core) : (setCore s c x).orphans = s.orphans := rfl
@[simp] theorem setCore_losses (s : State) (c : Nat) (x : Core) : (setCore s c x).losses = s.losses := rfl
@[simp] theorem setCore_poison (s : State) (c : Nat) (x : Core) : (setCore s c x).poison = s.poison := rfl
@[simp] theorem setCore_lostBlocks (s : State) (c : Nat) (x : Core) : (setCore s c x).lostBlocks = s.lostBlocks := rfl
@[simp] theorem setCore_cleared (s : State) (c : Nat) (x : Core) : (setCore s c x).cleared = s.cleared := rfl
@[simp] theorem setCore_logs (s : State) (c : Nat) (x : Core) : (setCore s c x).logs = s.logs := rfl
@[simp] theorem setCore_planted (s : State) (c : Nat) (x : Core) : (setCore s c x).planted = s.planted := rfl
@[simp] theorem setCore_replays (s : State) (c : Nat) (x : Core) : (setCore s c x).replays = s.replays := rfl
@[simp] theorem setCore_mchk (s : State) (c : Nat) (x : Core) : (setCore s c x).mchk = s.mchk := rfl
@[simp] theorem setCore_einj (s : State) (c : Nat) (x : Core) : (setCore s c x).einj = s.einj := rfl
@[simp] theorem setCore_lsel (s : State) (c : Nat) (x : Core) : (setCore s c x).lsel = s.lsel := rfl
@[simp] theorem setCore_counts (s : State) (c : Nat) (x : Core) : (setCore s c x).counts = s.counts := rfl
@[simp] theorem setCore_shown (s : State) (c : Nat) (x : Core) : (setCore s c x).shown = s.shown := rfl
@[simp] theorem setCore_updated (s : State) (c : Nat) (x : Core) : (setCore s c x).updated = s.updated := rfl

/-! ### modCore -/

@[simp] theorem modCore_tape (s : State) (c : Nat) (f : Core → Core) : (modCore s c f).tape = s.tape := rfl
@[simp] theorem modCore_focus (s : State) (c : Nat) (f : Core → Core) : (modCore s c f).focus = s.focus := rfl
@[simp] theorem modCore_cur (s : State) (c : Nat) (f : Core → Core) : (modCore s c f).cur = s.cur := rfl
@[simp] theorem modCore_freeCount (s : State) (c : Nat) (f : Core → Core) : (modCore s c f).freeCount = s.freeCount := rfl
@[simp] theorem modCore_nextId (s : State) (c : Nat) (f : Core → Core) : (modCore s c f).nextId = s.nextId := rfl
@[simp] theorem modCore_clock (s : State) (c : Nat) (f : Core → Core) : (modCore s c f).clock = s.clock := rfl
@[simp] theorem modCore_mem (s : State) (c : Nat) (f : Core → Core) : (modCore s c f).mem = s.mem := rfl
@[simp] theorem modCore_helms (s : State) (c : Nat) (f : Core → Core) : (modCore s c f).helms = s.helms := rfl
@[simp] theorem modCore_homes (s : State) (c : Nat) (f : Core → Core) : (modCore s c f).homes = s.homes := rfl
@[simp] theorem modCore_hostCache (s : State) (c : Nat) (f : Core → Core) : (modCore s c f).hostCache = s.hostCache := rfl
@[simp] theorem modCore_watches (s : State) (c : Nat) (f : Core → Core) : (modCore s c f).watches = s.watches := rfl
@[simp] theorem modCore_ticket (s : State) (c : Nat) (f : Core → Core) : (modCore s c f).ticket = s.ticket := rfl
@[simp] theorem modCore_tickets (s : State) (c : Nat) (f : Core → Core) : (modCore s c f).tickets = s.tickets := rfl
@[simp] theorem modCore_anchors (s : State) (c : Nat) (f : Core → Core) : (modCore s c f).anchors = s.anchors := rfl
@[simp] theorem modCore_queues (s : State) (c : Nat) (f : Core → Core) : (modCore s c f).queues = s.queues := rfl
@[simp] theorem modCore_nextGrid (s : State) (c : Nat) (f : Core → Core) : (modCore s c f).nextGrid = s.nextGrid := rfl
@[simp] theorem modCore_grids (s : State) (c : Nat) (f : Core → Core) : (modCore s c f).grids = s.grids := rfl
@[simp] theorem modCore_binds (s : State) (c : Nat) (f : Core → Core) : (modCore s c f).binds = s.binds := rfl
@[simp] theorem modCore_regions (s : State) (c : Nat) (f : Core → Core) : (modCore s c f).regions = s.regions := rfl
@[simp] theorem modCore_badPages (s : State) (c : Nat) (f : Core → Core) : (modCore s c f).badPages = s.badPages := rfl
@[simp] theorem modCore_fltq (s : State) (c : Nat) (f : Core → Core) : (modCore s c f).fltq = s.fltq := rfl
@[simp] theorem modCore_fltTail (s : State) (c : Nat) (f : Core → Core) : (modCore s c f).fltTail = s.fltTail := rfl
@[simp] theorem modCore_fltHead (s : State) (c : Nat) (f : Core → Core) : (modCore s c f).fltHead = s.fltHead := rfl
@[simp] theorem modCore_fltPend (s : State) (c : Nat) (f : Core → Core) : (modCore s c f).fltPend = s.fltPend := rfl
@[simp] theorem modCore_rows (s : State) (c : Nat) (f : Core → Core) : (modCore s c f).rows = s.rows := rfl
@[simp] theorem modCore_ports (s : State) (c : Nat) (f : Core → Core) : (modCore s c f).ports = s.ports := rfl
@[simp] theorem modCore_hwins (s : State) (c : Nat) (f : Core → Core) : (modCore s c f).hwins = s.hwins := rfl
@[simp] theorem modCore_roles (s : State) (c : Nat) (f : Core → Core) : (modCore s c f).roles = s.roles := rfl
@[simp] theorem modCore_contexts (s : State) (c : Nat) (f : Core → Core) : (modCore s c f).contexts = s.contexts := rfl
@[simp] theorem modCore_hdms (s : State) (c : Nat) (f : Core → Core) : (modCore s c f).hdms = s.hdms := rfl
@[simp] theorem modCore_inbound (s : State) (c : Nat) (f : Core → Core) : (modCore s c f).inbound = s.inbound := rfl
@[simp] theorem modCore_sent (s : State) (c : Nat) (f : Core → Core) : (modCore s c f).sent = s.sent := rfl
@[simp] theorem modCore_outstanding (s : State) (c : Nat) (f : Core → Core) : (modCore s c f).outstanding = s.outstanding := rfl
@[simp] theorem modCore_landings (s : State) (c : Nat) (f : Core → Core) : (modCore s c f).landings = s.landings := rfl
@[simp] theorem modCore_hostLines (s : State) (c : Nat) (f : Core → Core) : (modCore s c f).hostLines = s.hostLines := rfl
@[simp] theorem modCore_files (s : State) (c : Nat) (f : Core → Core) : (modCore s c f).files = s.files := rfl
@[simp] theorem modCore_handles (s : State) (c : Nat) (f : Core → Core) : (modCore s c f).handles = s.handles := rfl
@[simp] theorem modCore_console (s : State) (c : Nat) (f : Core → Core) : (modCore s c f).console = s.console := rfl
@[simp] theorem modCore_fab (s : State) (c : Nat) (f : Core → Core) : (modCore s c f).fab = s.fab := rfl
@[simp] theorem modCore_fports (s : State) (c : Nat) (f : Core → Core) : (modCore s c f).fports = s.fports := rfl
@[simp] theorem modCore_shared (s : State) (c : Nat) (f : Core → Core) : (modCore s c f).shared = s.shared := rfl
@[simp] theorem modCore_exports (s : State) (c : Nat) (f : Core → Core) : (modCore s c f).exports = s.exports := rfl
@[simp] theorem modCore_directory (s : State) (c : Nat) (f : Core → Core) : (modCore s c f).directory = s.directory := rfl
@[simp] theorem modCore_copies (s : State) (c : Nat) (f : Core → Core) : (modCore s c f).copies = s.copies := rfl
@[simp] theorem modCore_lostDies (s : State) (c : Nat) (f : Core → Core) : (modCore s c f).lostDies = s.lostDies := rfl
@[simp] theorem modCore_lostEnds (s : State) (c : Nat) (f : Core → Core) : (modCore s c f).lostEnds = s.lostEnds := rfl
@[simp] theorem modCore_orph (s : State) (c : Nat) (f : Core → Core) : (modCore s c f).orph = s.orph := rfl
@[simp] theorem modCore_orphTail (s : State) (c : Nat) (f : Core → Core) : (modCore s c f).orphTail = s.orphTail := rfl
@[simp] theorem modCore_orphHead (s : State) (c : Nat) (f : Core → Core) : (modCore s c f).orphHead = s.orphHead := rfl
@[simp] theorem modCore_orphans (s : State) (c : Nat) (f : Core → Core) : (modCore s c f).orphans = s.orphans := rfl
@[simp] theorem modCore_losses (s : State) (c : Nat) (f : Core → Core) : (modCore s c f).losses = s.losses := rfl
@[simp] theorem modCore_poison (s : State) (c : Nat) (f : Core → Core) : (modCore s c f).poison = s.poison := rfl
@[simp] theorem modCore_lostBlocks (s : State) (c : Nat) (f : Core → Core) : (modCore s c f).lostBlocks = s.lostBlocks := rfl
@[simp] theorem modCore_cleared (s : State) (c : Nat) (f : Core → Core) : (modCore s c f).cleared = s.cleared := rfl
@[simp] theorem modCore_logs (s : State) (c : Nat) (f : Core → Core) : (modCore s c f).logs = s.logs := rfl
@[simp] theorem modCore_planted (s : State) (c : Nat) (f : Core → Core) : (modCore s c f).planted = s.planted := rfl
@[simp] theorem modCore_replays (s : State) (c : Nat) (f : Core → Core) : (modCore s c f).replays = s.replays := rfl
@[simp] theorem modCore_mchk (s : State) (c : Nat) (f : Core → Core) : (modCore s c f).mchk = s.mchk := rfl
@[simp] theorem modCore_einj (s : State) (c : Nat) (f : Core → Core) : (modCore s c f).einj = s.einj := rfl
@[simp] theorem modCore_lsel (s : State) (c : Nat) (f : Core → Core) : (modCore s c f).lsel = s.lsel := rfl
@[simp] theorem modCore_counts (s : State) (c : Nat) (f : Core → Core) : (modCore s c f).counts = s.counts := rfl
@[simp] theorem modCore_shown (s : State) (c : Nat) (f : Core → Core) : (modCore s c f).shown = s.shown := rfl
@[simp] theorem modCore_updated (s : State) (c : Nat) (f : Core → Core) : (modCore s c f).updated = s.updated := rfl

/-! ### setGrp -/

@[simp] theorem setGrp_tape (s : State) (c k : Nat) (g : Option Grp) : (setGrp s c k g).tape = s.tape := rfl
@[simp] theorem setGrp_focus (s : State) (c k : Nat) (g : Option Grp) : (setGrp s c k g).focus = s.focus := rfl
@[simp] theorem setGrp_cur (s : State) (c k : Nat) (g : Option Grp) : (setGrp s c k g).cur = s.cur := rfl
@[simp] theorem setGrp_freeCount (s : State) (c k : Nat) (g : Option Grp) : (setGrp s c k g).freeCount = s.freeCount := rfl
@[simp] theorem setGrp_nextId (s : State) (c k : Nat) (g : Option Grp) : (setGrp s c k g).nextId = s.nextId := rfl
@[simp] theorem setGrp_clock (s : State) (c k : Nat) (g : Option Grp) : (setGrp s c k g).clock = s.clock := rfl
@[simp] theorem setGrp_mem (s : State) (c k : Nat) (g : Option Grp) : (setGrp s c k g).mem = s.mem := rfl
@[simp] theorem setGrp_helms (s : State) (c k : Nat) (g : Option Grp) : (setGrp s c k g).helms = s.helms := rfl
@[simp] theorem setGrp_homes (s : State) (c k : Nat) (g : Option Grp) : (setGrp s c k g).homes = s.homes := rfl
@[simp] theorem setGrp_hostCache (s : State) (c k : Nat) (g : Option Grp) : (setGrp s c k g).hostCache = s.hostCache := rfl
@[simp] theorem setGrp_watches (s : State) (c k : Nat) (g : Option Grp) : (setGrp s c k g).watches = s.watches := rfl
@[simp] theorem setGrp_ticket (s : State) (c k : Nat) (g : Option Grp) : (setGrp s c k g).ticket = s.ticket := rfl
@[simp] theorem setGrp_tickets (s : State) (c k : Nat) (g : Option Grp) : (setGrp s c k g).tickets = s.tickets := rfl
@[simp] theorem setGrp_anchors (s : State) (c k : Nat) (g : Option Grp) : (setGrp s c k g).anchors = s.anchors := rfl
@[simp] theorem setGrp_queues (s : State) (c k : Nat) (g : Option Grp) : (setGrp s c k g).queues = s.queues := rfl
@[simp] theorem setGrp_nextGrid (s : State) (c k : Nat) (g : Option Grp) : (setGrp s c k g).nextGrid = s.nextGrid := rfl
@[simp] theorem setGrp_grids (s : State) (c k : Nat) (g : Option Grp) : (setGrp s c k g).grids = s.grids := rfl
@[simp] theorem setGrp_binds (s : State) (c k : Nat) (g : Option Grp) : (setGrp s c k g).binds = s.binds := rfl
@[simp] theorem setGrp_regions (s : State) (c k : Nat) (g : Option Grp) : (setGrp s c k g).regions = s.regions := rfl
@[simp] theorem setGrp_badPages (s : State) (c k : Nat) (g : Option Grp) : (setGrp s c k g).badPages = s.badPages := rfl
@[simp] theorem setGrp_fltq (s : State) (c k : Nat) (g : Option Grp) : (setGrp s c k g).fltq = s.fltq := rfl
@[simp] theorem setGrp_fltTail (s : State) (c k : Nat) (g : Option Grp) : (setGrp s c k g).fltTail = s.fltTail := rfl
@[simp] theorem setGrp_fltHead (s : State) (c k : Nat) (g : Option Grp) : (setGrp s c k g).fltHead = s.fltHead := rfl
@[simp] theorem setGrp_fltPend (s : State) (c k : Nat) (g : Option Grp) : (setGrp s c k g).fltPend = s.fltPend := rfl
@[simp] theorem setGrp_rows (s : State) (c k : Nat) (g : Option Grp) : (setGrp s c k g).rows = s.rows := rfl
@[simp] theorem setGrp_ports (s : State) (c k : Nat) (g : Option Grp) : (setGrp s c k g).ports = s.ports := rfl
@[simp] theorem setGrp_hwins (s : State) (c k : Nat) (g : Option Grp) : (setGrp s c k g).hwins = s.hwins := rfl
@[simp] theorem setGrp_roles (s : State) (c k : Nat) (g : Option Grp) : (setGrp s c k g).roles = s.roles := rfl
@[simp] theorem setGrp_contexts (s : State) (c k : Nat) (g : Option Grp) : (setGrp s c k g).contexts = s.contexts := rfl
@[simp] theorem setGrp_hdms (s : State) (c k : Nat) (g : Option Grp) : (setGrp s c k g).hdms = s.hdms := rfl
@[simp] theorem setGrp_inbound (s : State) (c k : Nat) (g : Option Grp) : (setGrp s c k g).inbound = s.inbound := rfl
@[simp] theorem setGrp_sent (s : State) (c k : Nat) (g : Option Grp) : (setGrp s c k g).sent = s.sent := rfl
@[simp] theorem setGrp_outstanding (s : State) (c k : Nat) (g : Option Grp) : (setGrp s c k g).outstanding = s.outstanding := rfl
@[simp] theorem setGrp_landings (s : State) (c k : Nat) (g : Option Grp) : (setGrp s c k g).landings = s.landings := rfl
@[simp] theorem setGrp_hostLines (s : State) (c k : Nat) (g : Option Grp) : (setGrp s c k g).hostLines = s.hostLines := rfl
@[simp] theorem setGrp_files (s : State) (c k : Nat) (g : Option Grp) : (setGrp s c k g).files = s.files := rfl
@[simp] theorem setGrp_handles (s : State) (c k : Nat) (g : Option Grp) : (setGrp s c k g).handles = s.handles := rfl
@[simp] theorem setGrp_console (s : State) (c k : Nat) (g : Option Grp) : (setGrp s c k g).console = s.console := rfl
@[simp] theorem setGrp_fab (s : State) (c k : Nat) (g : Option Grp) : (setGrp s c k g).fab = s.fab := rfl
@[simp] theorem setGrp_fports (s : State) (c k : Nat) (g : Option Grp) : (setGrp s c k g).fports = s.fports := rfl
@[simp] theorem setGrp_shared (s : State) (c k : Nat) (g : Option Grp) : (setGrp s c k g).shared = s.shared := rfl
@[simp] theorem setGrp_exports (s : State) (c k : Nat) (g : Option Grp) : (setGrp s c k g).exports = s.exports := rfl
@[simp] theorem setGrp_directory (s : State) (c k : Nat) (g : Option Grp) : (setGrp s c k g).directory = s.directory := rfl
@[simp] theorem setGrp_copies (s : State) (c k : Nat) (g : Option Grp) : (setGrp s c k g).copies = s.copies := rfl
@[simp] theorem setGrp_lostDies (s : State) (c k : Nat) (g : Option Grp) : (setGrp s c k g).lostDies = s.lostDies := rfl
@[simp] theorem setGrp_lostEnds (s : State) (c k : Nat) (g : Option Grp) : (setGrp s c k g).lostEnds = s.lostEnds := rfl
@[simp] theorem setGrp_orph (s : State) (c k : Nat) (g : Option Grp) : (setGrp s c k g).orph = s.orph := rfl
@[simp] theorem setGrp_orphTail (s : State) (c k : Nat) (g : Option Grp) : (setGrp s c k g).orphTail = s.orphTail := rfl
@[simp] theorem setGrp_orphHead (s : State) (c k : Nat) (g : Option Grp) : (setGrp s c k g).orphHead = s.orphHead := rfl
@[simp] theorem setGrp_orphans (s : State) (c k : Nat) (g : Option Grp) : (setGrp s c k g).orphans = s.orphans := rfl
@[simp] theorem setGrp_losses (s : State) (c k : Nat) (g : Option Grp) : (setGrp s c k g).losses = s.losses := rfl
@[simp] theorem setGrp_poison (s : State) (c k : Nat) (g : Option Grp) : (setGrp s c k g).poison = s.poison := rfl
@[simp] theorem setGrp_lostBlocks (s : State) (c k : Nat) (g : Option Grp) : (setGrp s c k g).lostBlocks = s.lostBlocks := rfl
@[simp] theorem setGrp_cleared (s : State) (c k : Nat) (g : Option Grp) : (setGrp s c k g).cleared = s.cleared := rfl
@[simp] theorem setGrp_logs (s : State) (c k : Nat) (g : Option Grp) : (setGrp s c k g).logs = s.logs := rfl
@[simp] theorem setGrp_planted (s : State) (c k : Nat) (g : Option Grp) : (setGrp s c k g).planted = s.planted := rfl
@[simp] theorem setGrp_replays (s : State) (c k : Nat) (g : Option Grp) : (setGrp s c k g).replays = s.replays := rfl
@[simp] theorem setGrp_mchk (s : State) (c k : Nat) (g : Option Grp) : (setGrp s c k g).mchk = s.mchk := rfl
@[simp] theorem setGrp_einj (s : State) (c k : Nat) (g : Option Grp) : (setGrp s c k g).einj = s.einj := rfl
@[simp] theorem setGrp_lsel (s : State) (c k : Nat) (g : Option Grp) : (setGrp s c k g).lsel = s.lsel := rfl
@[simp] theorem setGrp_counts (s : State) (c k : Nat) (g : Option Grp) : (setGrp s c k g).counts = s.counts := rfl
@[simp] theorem setGrp_shown (s : State) (c k : Nat) (g : Option Grp) : (setGrp s c k g).shown = s.shown := rfl
@[simp] theorem setGrp_updated (s : State) (c k : Nat) (g : Option Grp) : (setGrp s c k g).updated = s.updated := rfl

/-! ### modGrp -/

@[simp] theorem modGrp_tape (s : State) (c k : Nat) (f : Grp → Grp) : (modGrp s c k f).tape = s.tape := by
  unfold modGrp; split <;> rfl
@[simp] theorem modGrp_focus (s : State) (c k : Nat) (f : Grp → Grp) : (modGrp s c k f).focus = s.focus := by
  unfold modGrp; split <;> rfl
@[simp] theorem modGrp_cur (s : State) (c k : Nat) (f : Grp → Grp) : (modGrp s c k f).cur = s.cur := by
  unfold modGrp; split <;> rfl
@[simp] theorem modGrp_freeCount (s : State) (c k : Nat) (f : Grp → Grp) : (modGrp s c k f).freeCount = s.freeCount := by
  unfold modGrp; split <;> rfl
@[simp] theorem modGrp_nextId (s : State) (c k : Nat) (f : Grp → Grp) : (modGrp s c k f).nextId = s.nextId := by
  unfold modGrp; split <;> rfl
@[simp] theorem modGrp_clock (s : State) (c k : Nat) (f : Grp → Grp) : (modGrp s c k f).clock = s.clock := by
  unfold modGrp; split <;> rfl
@[simp] theorem modGrp_mem (s : State) (c k : Nat) (f : Grp → Grp) : (modGrp s c k f).mem = s.mem := by
  unfold modGrp; split <;> rfl
@[simp] theorem modGrp_helms (s : State) (c k : Nat) (f : Grp → Grp) : (modGrp s c k f).helms = s.helms := by
  unfold modGrp; split <;> rfl
@[simp] theorem modGrp_homes (s : State) (c k : Nat) (f : Grp → Grp) : (modGrp s c k f).homes = s.homes := by
  unfold modGrp; split <;> rfl
@[simp] theorem modGrp_hostCache (s : State) (c k : Nat) (f : Grp → Grp) : (modGrp s c k f).hostCache = s.hostCache := by
  unfold modGrp; split <;> rfl
@[simp] theorem modGrp_watches (s : State) (c k : Nat) (f : Grp → Grp) : (modGrp s c k f).watches = s.watches := by
  unfold modGrp; split <;> rfl
@[simp] theorem modGrp_ticket (s : State) (c k : Nat) (f : Grp → Grp) : (modGrp s c k f).ticket = s.ticket := by
  unfold modGrp; split <;> rfl
@[simp] theorem modGrp_tickets (s : State) (c k : Nat) (f : Grp → Grp) : (modGrp s c k f).tickets = s.tickets := by
  unfold modGrp; split <;> rfl
@[simp] theorem modGrp_anchors (s : State) (c k : Nat) (f : Grp → Grp) : (modGrp s c k f).anchors = s.anchors := by
  unfold modGrp; split <;> rfl
@[simp] theorem modGrp_queues (s : State) (c k : Nat) (f : Grp → Grp) : (modGrp s c k f).queues = s.queues := by
  unfold modGrp; split <;> rfl
@[simp] theorem modGrp_nextGrid (s : State) (c k : Nat) (f : Grp → Grp) : (modGrp s c k f).nextGrid = s.nextGrid := by
  unfold modGrp; split <;> rfl
@[simp] theorem modGrp_grids (s : State) (c k : Nat) (f : Grp → Grp) : (modGrp s c k f).grids = s.grids := by
  unfold modGrp; split <;> rfl
@[simp] theorem modGrp_binds (s : State) (c k : Nat) (f : Grp → Grp) : (modGrp s c k f).binds = s.binds := by
  unfold modGrp; split <;> rfl
@[simp] theorem modGrp_regions (s : State) (c k : Nat) (f : Grp → Grp) : (modGrp s c k f).regions = s.regions := by
  unfold modGrp; split <;> rfl
@[simp] theorem modGrp_badPages (s : State) (c k : Nat) (f : Grp → Grp) : (modGrp s c k f).badPages = s.badPages := by
  unfold modGrp; split <;> rfl
@[simp] theorem modGrp_fltq (s : State) (c k : Nat) (f : Grp → Grp) : (modGrp s c k f).fltq = s.fltq := by
  unfold modGrp; split <;> rfl
@[simp] theorem modGrp_fltTail (s : State) (c k : Nat) (f : Grp → Grp) : (modGrp s c k f).fltTail = s.fltTail := by
  unfold modGrp; split <;> rfl
@[simp] theorem modGrp_fltHead (s : State) (c k : Nat) (f : Grp → Grp) : (modGrp s c k f).fltHead = s.fltHead := by
  unfold modGrp; split <;> rfl
@[simp] theorem modGrp_fltPend (s : State) (c k : Nat) (f : Grp → Grp) : (modGrp s c k f).fltPend = s.fltPend := by
  unfold modGrp; split <;> rfl
@[simp] theorem modGrp_rows (s : State) (c k : Nat) (f : Grp → Grp) : (modGrp s c k f).rows = s.rows := by
  unfold modGrp; split <;> rfl
@[simp] theorem modGrp_ports (s : State) (c k : Nat) (f : Grp → Grp) : (modGrp s c k f).ports = s.ports := by
  unfold modGrp; split <;> rfl
@[simp] theorem modGrp_hwins (s : State) (c k : Nat) (f : Grp → Grp) : (modGrp s c k f).hwins = s.hwins := by
  unfold modGrp; split <;> rfl
@[simp] theorem modGrp_roles (s : State) (c k : Nat) (f : Grp → Grp) : (modGrp s c k f).roles = s.roles := by
  unfold modGrp; split <;> rfl
@[simp] theorem modGrp_contexts (s : State) (c k : Nat) (f : Grp → Grp) : (modGrp s c k f).contexts = s.contexts := by
  unfold modGrp; split <;> rfl
@[simp] theorem modGrp_hdms (s : State) (c k : Nat) (f : Grp → Grp) : (modGrp s c k f).hdms = s.hdms := by
  unfold modGrp; split <;> rfl
@[simp] theorem modGrp_inbound (s : State) (c k : Nat) (f : Grp → Grp) : (modGrp s c k f).inbound = s.inbound := by
  unfold modGrp; split <;> rfl
@[simp] theorem modGrp_sent (s : State) (c k : Nat) (f : Grp → Grp) : (modGrp s c k f).sent = s.sent := by
  unfold modGrp; split <;> rfl
@[simp] theorem modGrp_outstanding (s : State) (c k : Nat) (f : Grp → Grp) : (modGrp s c k f).outstanding = s.outstanding := by
  unfold modGrp; split <;> rfl
@[simp] theorem modGrp_landings (s : State) (c k : Nat) (f : Grp → Grp) : (modGrp s c k f).landings = s.landings := by
  unfold modGrp; split <;> rfl
@[simp] theorem modGrp_hostLines (s : State) (c k : Nat) (f : Grp → Grp) : (modGrp s c k f).hostLines = s.hostLines := by
  unfold modGrp; split <;> rfl
@[simp] theorem modGrp_files (s : State) (c k : Nat) (f : Grp → Grp) : (modGrp s c k f).files = s.files := by
  unfold modGrp; split <;> rfl
@[simp] theorem modGrp_handles (s : State) (c k : Nat) (f : Grp → Grp) : (modGrp s c k f).handles = s.handles := by
  unfold modGrp; split <;> rfl
@[simp] theorem modGrp_console (s : State) (c k : Nat) (f : Grp → Grp) : (modGrp s c k f).console = s.console := by
  unfold modGrp; split <;> rfl
@[simp] theorem modGrp_fab (s : State) (c k : Nat) (f : Grp → Grp) : (modGrp s c k f).fab = s.fab := by
  unfold modGrp; split <;> rfl
@[simp] theorem modGrp_fports (s : State) (c k : Nat) (f : Grp → Grp) : (modGrp s c k f).fports = s.fports := by
  unfold modGrp; split <;> rfl
@[simp] theorem modGrp_shared (s : State) (c k : Nat) (f : Grp → Grp) : (modGrp s c k f).shared = s.shared := by
  unfold modGrp; split <;> rfl
@[simp] theorem modGrp_exports (s : State) (c k : Nat) (f : Grp → Grp) : (modGrp s c k f).exports = s.exports := by
  unfold modGrp; split <;> rfl
@[simp] theorem modGrp_directory (s : State) (c k : Nat) (f : Grp → Grp) : (modGrp s c k f).directory = s.directory := by
  unfold modGrp; split <;> rfl
@[simp] theorem modGrp_copies (s : State) (c k : Nat) (f : Grp → Grp) : (modGrp s c k f).copies = s.copies := by
  unfold modGrp; split <;> rfl
@[simp] theorem modGrp_lostDies (s : State) (c k : Nat) (f : Grp → Grp) : (modGrp s c k f).lostDies = s.lostDies := by
  unfold modGrp; split <;> rfl
@[simp] theorem modGrp_lostEnds (s : State) (c k : Nat) (f : Grp → Grp) : (modGrp s c k f).lostEnds = s.lostEnds := by
  unfold modGrp; split <;> rfl
@[simp] theorem modGrp_orph (s : State) (c k : Nat) (f : Grp → Grp) : (modGrp s c k f).orph = s.orph := by
  unfold modGrp; split <;> rfl
@[simp] theorem modGrp_orphTail (s : State) (c k : Nat) (f : Grp → Grp) : (modGrp s c k f).orphTail = s.orphTail := by
  unfold modGrp; split <;> rfl
@[simp] theorem modGrp_orphHead (s : State) (c k : Nat) (f : Grp → Grp) : (modGrp s c k f).orphHead = s.orphHead := by
  unfold modGrp; split <;> rfl
@[simp] theorem modGrp_orphans (s : State) (c k : Nat) (f : Grp → Grp) : (modGrp s c k f).orphans = s.orphans := by
  unfold modGrp; split <;> rfl
@[simp] theorem modGrp_losses (s : State) (c k : Nat) (f : Grp → Grp) : (modGrp s c k f).losses = s.losses := by
  unfold modGrp; split <;> rfl
@[simp] theorem modGrp_poison (s : State) (c k : Nat) (f : Grp → Grp) : (modGrp s c k f).poison = s.poison := by
  unfold modGrp; split <;> rfl
@[simp] theorem modGrp_lostBlocks (s : State) (c k : Nat) (f : Grp → Grp) : (modGrp s c k f).lostBlocks = s.lostBlocks := by
  unfold modGrp; split <;> rfl
@[simp] theorem modGrp_cleared (s : State) (c k : Nat) (f : Grp → Grp) : (modGrp s c k f).cleared = s.cleared := by
  unfold modGrp; split <;> rfl
@[simp] theorem modGrp_logs (s : State) (c k : Nat) (f : Grp → Grp) : (modGrp s c k f).logs = s.logs := by
  unfold modGrp; split <;> rfl
@[simp] theorem modGrp_planted (s : State) (c k : Nat) (f : Grp → Grp) : (modGrp s c k f).planted = s.planted := by
  unfold modGrp; split <;> rfl
@[simp] theorem modGrp_replays (s : State) (c k : Nat) (f : Grp → Grp) : (modGrp s c k f).replays = s.replays := by
  unfold modGrp; split <;> rfl
@[simp] theorem modGrp_mchk (s : State) (c k : Nat) (f : Grp → Grp) : (modGrp s c k f).mchk = s.mchk := by
  unfold modGrp; split <;> rfl
@[simp] theorem modGrp_einj (s : State) (c k : Nat) (f : Grp → Grp) : (modGrp s c k f).einj = s.einj := by
  unfold modGrp; split <;> rfl
@[simp] theorem modGrp_lsel (s : State) (c k : Nat) (f : Grp → Grp) : (modGrp s c k f).lsel = s.lsel := by
  unfold modGrp; split <;> rfl
@[simp] theorem modGrp_counts (s : State) (c k : Nat) (f : Grp → Grp) : (modGrp s c k f).counts = s.counts := by
  unfold modGrp; split <;> rfl
@[simp] theorem modGrp_shown (s : State) (c k : Nat) (f : Grp → Grp) : (modGrp s c k f).shown = s.shown := by
  unfold modGrp; split <;> rfl
@[simp] theorem modGrp_updated (s : State) (c k : Nat) (f : Grp → Grp) : (modGrp s c k f).updated = s.updated := by
  unfold modGrp; split <;> rfl

/-! ### setCurGrp -/

@[simp] theorem setCurGrp_tape (s : State) (g : Grp) : (setCurGrp s g).tape = s.tape := rfl
@[simp] theorem setCurGrp_focus (s : State) (g : Grp) : (setCurGrp s g).focus = s.focus := rfl
@[simp] theorem setCurGrp_cur (s : State) (g : Grp) : (setCurGrp s g).cur = s.cur := rfl
@[simp] theorem setCurGrp_freeCount (s : State) (g : Grp) : (setCurGrp s g).freeCount = s.freeCount := rfl
@[simp] theorem setCurGrp_nextId (s : State) (g : Grp) : (setCurGrp s g).nextId = s.nextId := rfl
@[simp] theorem setCurGrp_clock (s : State) (g : Grp) : (setCurGrp s g).clock = s.clock := rfl
@[simp] theorem setCurGrp_mem (s : State) (g : Grp) : (setCurGrp s g).mem = s.mem := rfl
@[simp] theorem setCurGrp_helms (s : State) (g : Grp) : (setCurGrp s g).helms = s.helms := rfl
@[simp] theorem setCurGrp_homes (s : State) (g : Grp) : (setCurGrp s g).homes = s.homes := rfl
@[simp] theorem setCurGrp_hostCache (s : State) (g : Grp) : (setCurGrp s g).hostCache = s.hostCache := rfl
@[simp] theorem setCurGrp_watches (s : State) (g : Grp) : (setCurGrp s g).watches = s.watches := rfl
@[simp] theorem setCurGrp_ticket (s : State) (g : Grp) : (setCurGrp s g).ticket = s.ticket := rfl
@[simp] theorem setCurGrp_tickets (s : State) (g : Grp) : (setCurGrp s g).tickets = s.tickets := rfl
@[simp] theorem setCurGrp_anchors (s : State) (g : Grp) : (setCurGrp s g).anchors = s.anchors := rfl
@[simp] theorem setCurGrp_queues (s : State) (g : Grp) : (setCurGrp s g).queues = s.queues := rfl
@[simp] theorem setCurGrp_nextGrid (s : State) (g : Grp) : (setCurGrp s g).nextGrid = s.nextGrid := rfl
@[simp] theorem setCurGrp_grids (s : State) (g : Grp) : (setCurGrp s g).grids = s.grids := rfl
@[simp] theorem setCurGrp_binds (s : State) (g : Grp) : (setCurGrp s g).binds = s.binds := rfl
@[simp] theorem setCurGrp_regions (s : State) (g : Grp) : (setCurGrp s g).regions = s.regions := rfl
@[simp] theorem setCurGrp_badPages (s : State) (g : Grp) : (setCurGrp s g).badPages = s.badPages := rfl
@[simp] theorem setCurGrp_fltq (s : State) (g : Grp) : (setCurGrp s g).fltq = s.fltq := rfl
@[simp] theorem setCurGrp_fltTail (s : State) (g : Grp) : (setCurGrp s g).fltTail = s.fltTail := rfl
@[simp] theorem setCurGrp_fltHead (s : State) (g : Grp) : (setCurGrp s g).fltHead = s.fltHead := rfl
@[simp] theorem setCurGrp_fltPend (s : State) (g : Grp) : (setCurGrp s g).fltPend = s.fltPend := rfl
@[simp] theorem setCurGrp_rows (s : State) (g : Grp) : (setCurGrp s g).rows = s.rows := rfl
@[simp] theorem setCurGrp_ports (s : State) (g : Grp) : (setCurGrp s g).ports = s.ports := rfl
@[simp] theorem setCurGrp_hwins (s : State) (g : Grp) : (setCurGrp s g).hwins = s.hwins := rfl
@[simp] theorem setCurGrp_roles (s : State) (g : Grp) : (setCurGrp s g).roles = s.roles := rfl
@[simp] theorem setCurGrp_contexts (s : State) (g : Grp) : (setCurGrp s g).contexts = s.contexts := rfl
@[simp] theorem setCurGrp_hdms (s : State) (g : Grp) : (setCurGrp s g).hdms = s.hdms := rfl
@[simp] theorem setCurGrp_inbound (s : State) (g : Grp) : (setCurGrp s g).inbound = s.inbound := rfl
@[simp] theorem setCurGrp_sent (s : State) (g : Grp) : (setCurGrp s g).sent = s.sent := rfl
@[simp] theorem setCurGrp_outstanding (s : State) (g : Grp) : (setCurGrp s g).outstanding = s.outstanding := rfl
@[simp] theorem setCurGrp_landings (s : State) (g : Grp) : (setCurGrp s g).landings = s.landings := rfl
@[simp] theorem setCurGrp_hostLines (s : State) (g : Grp) : (setCurGrp s g).hostLines = s.hostLines := rfl
@[simp] theorem setCurGrp_files (s : State) (g : Grp) : (setCurGrp s g).files = s.files := rfl
@[simp] theorem setCurGrp_handles (s : State) (g : Grp) : (setCurGrp s g).handles = s.handles := rfl
@[simp] theorem setCurGrp_console (s : State) (g : Grp) : (setCurGrp s g).console = s.console := rfl
@[simp] theorem setCurGrp_fab (s : State) (g : Grp) : (setCurGrp s g).fab = s.fab := rfl
@[simp] theorem setCurGrp_fports (s : State) (g : Grp) : (setCurGrp s g).fports = s.fports := rfl
@[simp] theorem setCurGrp_shared (s : State) (g : Grp) : (setCurGrp s g).shared = s.shared := rfl
@[simp] theorem setCurGrp_exports (s : State) (g : Grp) : (setCurGrp s g).exports = s.exports := rfl
@[simp] theorem setCurGrp_directory (s : State) (g : Grp) : (setCurGrp s g).directory = s.directory := rfl
@[simp] theorem setCurGrp_copies (s : State) (g : Grp) : (setCurGrp s g).copies = s.copies := rfl
@[simp] theorem setCurGrp_lostDies (s : State) (g : Grp) : (setCurGrp s g).lostDies = s.lostDies := rfl
@[simp] theorem setCurGrp_lostEnds (s : State) (g : Grp) : (setCurGrp s g).lostEnds = s.lostEnds := rfl
@[simp] theorem setCurGrp_orph (s : State) (g : Grp) : (setCurGrp s g).orph = s.orph := rfl
@[simp] theorem setCurGrp_orphTail (s : State) (g : Grp) : (setCurGrp s g).orphTail = s.orphTail := rfl
@[simp] theorem setCurGrp_orphHead (s : State) (g : Grp) : (setCurGrp s g).orphHead = s.orphHead := rfl
@[simp] theorem setCurGrp_orphans (s : State) (g : Grp) : (setCurGrp s g).orphans = s.orphans := rfl
@[simp] theorem setCurGrp_losses (s : State) (g : Grp) : (setCurGrp s g).losses = s.losses := rfl
@[simp] theorem setCurGrp_poison (s : State) (g : Grp) : (setCurGrp s g).poison = s.poison := rfl
@[simp] theorem setCurGrp_lostBlocks (s : State) (g : Grp) : (setCurGrp s g).lostBlocks = s.lostBlocks := rfl
@[simp] theorem setCurGrp_cleared (s : State) (g : Grp) : (setCurGrp s g).cleared = s.cleared := rfl
@[simp] theorem setCurGrp_logs (s : State) (g : Grp) : (setCurGrp s g).logs = s.logs := rfl
@[simp] theorem setCurGrp_planted (s : State) (g : Grp) : (setCurGrp s g).planted = s.planted := rfl
@[simp] theorem setCurGrp_replays (s : State) (g : Grp) : (setCurGrp s g).replays = s.replays := rfl
@[simp] theorem setCurGrp_mchk (s : State) (g : Grp) : (setCurGrp s g).mchk = s.mchk := rfl
@[simp] theorem setCurGrp_einj (s : State) (g : Grp) : (setCurGrp s g).einj = s.einj := rfl
@[simp] theorem setCurGrp_lsel (s : State) (g : Grp) : (setCurGrp s g).lsel = s.lsel := rfl
@[simp] theorem setCurGrp_counts (s : State) (g : Grp) : (setCurGrp s g).counts = s.counts := rfl
@[simp] theorem setCurGrp_shown (s : State) (g : Grp) : (setCurGrp s g).shown = s.shown := rfl
@[simp] theorem setCurGrp_updated (s : State) (g : Grp) : (setCurGrp s g).updated = s.updated := rfl

/-! ### modCur -/

@[simp] theorem modCur_tape (s : State) (f : Grp → Grp) : (modCur s f).tape = s.tape := modGrp_tape _ _ _ _
@[simp] theorem modCur_focus (s : State) (f : Grp → Grp) : (modCur s f).focus = s.focus := modGrp_focus _ _ _ _
@[simp] theorem modCur_cur (s : State) (f : Grp → Grp) : (modCur s f).cur = s.cur := modGrp_cur _ _ _ _
@[simp] theorem modCur_freeCount (s : State) (f : Grp → Grp) : (modCur s f).freeCount = s.freeCount := modGrp_freeCount _ _ _ _
@[simp] theorem modCur_nextId (s : State) (f : Grp → Grp) : (modCur s f).nextId = s.nextId := modGrp_nextId _ _ _ _
@[simp] theorem modCur_clock (s : State) (f : Grp → Grp) : (modCur s f).clock = s.clock := modGrp_clock _ _ _ _
@[simp] theorem modCur_mem (s : State) (f : Grp → Grp) : (modCur s f).mem = s.mem := modGrp_mem _ _ _ _
@[simp] theorem modCur_helms (s : State) (f : Grp → Grp) : (modCur s f).helms = s.helms := modGrp_helms _ _ _ _
@[simp] theorem modCur_homes (s : State) (f : Grp → Grp) : (modCur s f).homes = s.homes := modGrp_homes _ _ _ _
@[simp] theorem modCur_hostCache (s : State) (f : Grp → Grp) : (modCur s f).hostCache = s.hostCache := modGrp_hostCache _ _ _ _
@[simp] theorem modCur_watches (s : State) (f : Grp → Grp) : (modCur s f).watches = s.watches := modGrp_watches _ _ _ _
@[simp] theorem modCur_ticket (s : State) (f : Grp → Grp) : (modCur s f).ticket = s.ticket := modGrp_ticket _ _ _ _
@[simp] theorem modCur_tickets (s : State) (f : Grp → Grp) : (modCur s f).tickets = s.tickets := modGrp_tickets _ _ _ _
@[simp] theorem modCur_anchors (s : State) (f : Grp → Grp) : (modCur s f).anchors = s.anchors := modGrp_anchors _ _ _ _
@[simp] theorem modCur_queues (s : State) (f : Grp → Grp) : (modCur s f).queues = s.queues := modGrp_queues _ _ _ _
@[simp] theorem modCur_nextGrid (s : State) (f : Grp → Grp) : (modCur s f).nextGrid = s.nextGrid := modGrp_nextGrid _ _ _ _
@[simp] theorem modCur_grids (s : State) (f : Grp → Grp) : (modCur s f).grids = s.grids := modGrp_grids _ _ _ _
@[simp] theorem modCur_binds (s : State) (f : Grp → Grp) : (modCur s f).binds = s.binds := modGrp_binds _ _ _ _
@[simp] theorem modCur_regions (s : State) (f : Grp → Grp) : (modCur s f).regions = s.regions := modGrp_regions _ _ _ _
@[simp] theorem modCur_badPages (s : State) (f : Grp → Grp) : (modCur s f).badPages = s.badPages := modGrp_badPages _ _ _ _
@[simp] theorem modCur_fltq (s : State) (f : Grp → Grp) : (modCur s f).fltq = s.fltq := modGrp_fltq _ _ _ _
@[simp] theorem modCur_fltTail (s : State) (f : Grp → Grp) : (modCur s f).fltTail = s.fltTail := modGrp_fltTail _ _ _ _
@[simp] theorem modCur_fltHead (s : State) (f : Grp → Grp) : (modCur s f).fltHead = s.fltHead := modGrp_fltHead _ _ _ _
@[simp] theorem modCur_fltPend (s : State) (f : Grp → Grp) : (modCur s f).fltPend = s.fltPend := modGrp_fltPend _ _ _ _
@[simp] theorem modCur_rows (s : State) (f : Grp → Grp) : (modCur s f).rows = s.rows := modGrp_rows _ _ _ _
@[simp] theorem modCur_ports (s : State) (f : Grp → Grp) : (modCur s f).ports = s.ports := modGrp_ports _ _ _ _
@[simp] theorem modCur_hwins (s : State) (f : Grp → Grp) : (modCur s f).hwins = s.hwins := modGrp_hwins _ _ _ _
@[simp] theorem modCur_roles (s : State) (f : Grp → Grp) : (modCur s f).roles = s.roles := modGrp_roles _ _ _ _
@[simp] theorem modCur_contexts (s : State) (f : Grp → Grp) : (modCur s f).contexts = s.contexts := modGrp_contexts _ _ _ _
@[simp] theorem modCur_hdms (s : State) (f : Grp → Grp) : (modCur s f).hdms = s.hdms := modGrp_hdms _ _ _ _
@[simp] theorem modCur_inbound (s : State) (f : Grp → Grp) : (modCur s f).inbound = s.inbound := modGrp_inbound _ _ _ _
@[simp] theorem modCur_sent (s : State) (f : Grp → Grp) : (modCur s f).sent = s.sent := modGrp_sent _ _ _ _
@[simp] theorem modCur_outstanding (s : State) (f : Grp → Grp) : (modCur s f).outstanding = s.outstanding := modGrp_outstanding _ _ _ _
@[simp] theorem modCur_landings (s : State) (f : Grp → Grp) : (modCur s f).landings = s.landings := modGrp_landings _ _ _ _
@[simp] theorem modCur_hostLines (s : State) (f : Grp → Grp) : (modCur s f).hostLines = s.hostLines := modGrp_hostLines _ _ _ _
@[simp] theorem modCur_files (s : State) (f : Grp → Grp) : (modCur s f).files = s.files := modGrp_files _ _ _ _
@[simp] theorem modCur_handles (s : State) (f : Grp → Grp) : (modCur s f).handles = s.handles := modGrp_handles _ _ _ _
@[simp] theorem modCur_console (s : State) (f : Grp → Grp) : (modCur s f).console = s.console := modGrp_console _ _ _ _
@[simp] theorem modCur_fab (s : State) (f : Grp → Grp) : (modCur s f).fab = s.fab := modGrp_fab _ _ _ _
@[simp] theorem modCur_fports (s : State) (f : Grp → Grp) : (modCur s f).fports = s.fports := modGrp_fports _ _ _ _
@[simp] theorem modCur_shared (s : State) (f : Grp → Grp) : (modCur s f).shared = s.shared := modGrp_shared _ _ _ _
@[simp] theorem modCur_exports (s : State) (f : Grp → Grp) : (modCur s f).exports = s.exports := modGrp_exports _ _ _ _
@[simp] theorem modCur_directory (s : State) (f : Grp → Grp) : (modCur s f).directory = s.directory := modGrp_directory _ _ _ _
@[simp] theorem modCur_copies (s : State) (f : Grp → Grp) : (modCur s f).copies = s.copies := modGrp_copies _ _ _ _
@[simp] theorem modCur_lostDies (s : State) (f : Grp → Grp) : (modCur s f).lostDies = s.lostDies := modGrp_lostDies _ _ _ _
@[simp] theorem modCur_lostEnds (s : State) (f : Grp → Grp) : (modCur s f).lostEnds = s.lostEnds := modGrp_lostEnds _ _ _ _
@[simp] theorem modCur_orph (s : State) (f : Grp → Grp) : (modCur s f).orph = s.orph := modGrp_orph _ _ _ _
@[simp] theorem modCur_orphTail (s : State) (f : Grp → Grp) : (modCur s f).orphTail = s.orphTail := modGrp_orphTail _ _ _ _
@[simp] theorem modCur_orphHead (s : State) (f : Grp → Grp) : (modCur s f).orphHead = s.orphHead := modGrp_orphHead _ _ _ _
@[simp] theorem modCur_orphans (s : State) (f : Grp → Grp) : (modCur s f).orphans = s.orphans := modGrp_orphans _ _ _ _
@[simp] theorem modCur_losses (s : State) (f : Grp → Grp) : (modCur s f).losses = s.losses := modGrp_losses _ _ _ _
@[simp] theorem modCur_poison (s : State) (f : Grp → Grp) : (modCur s f).poison = s.poison := modGrp_poison _ _ _ _
@[simp] theorem modCur_lostBlocks (s : State) (f : Grp → Grp) : (modCur s f).lostBlocks = s.lostBlocks := modGrp_lostBlocks _ _ _ _
@[simp] theorem modCur_cleared (s : State) (f : Grp → Grp) : (modCur s f).cleared = s.cleared := modGrp_cleared _ _ _ _
@[simp] theorem modCur_logs (s : State) (f : Grp → Grp) : (modCur s f).logs = s.logs := modGrp_logs _ _ _ _
@[simp] theorem modCur_planted (s : State) (f : Grp → Grp) : (modCur s f).planted = s.planted := modGrp_planted _ _ _ _
@[simp] theorem modCur_replays (s : State) (f : Grp → Grp) : (modCur s f).replays = s.replays := modGrp_replays _ _ _ _
@[simp] theorem modCur_mchk (s : State) (f : Grp → Grp) : (modCur s f).mchk = s.mchk := modGrp_mchk _ _ _ _
@[simp] theorem modCur_einj (s : State) (f : Grp → Grp) : (modCur s f).einj = s.einj := modGrp_einj _ _ _ _
@[simp] theorem modCur_lsel (s : State) (f : Grp → Grp) : (modCur s f).lsel = s.lsel := modGrp_lsel _ _ _ _
@[simp] theorem modCur_counts (s : State) (f : Grp → Grp) : (modCur s f).counts = s.counts := modGrp_counts _ _ _ _
@[simp] theorem modCur_shown (s : State) (f : Grp → Grp) : (modCur s f).shown = s.shown := modGrp_shown _ _ _ _
@[simp] theorem modCur_updated (s : State) (f : Grp → Grp) : (modCur s f).updated = s.updated := modGrp_updated _ _ _ _

/-! ### modTeam -/

@[simp] theorem modTeam_tape (s : State) (c t : Nat) (f : Team → Team) : (modTeam s c t f).tape = s.tape := rfl
@[simp] theorem modTeam_focus (s : State) (c t : Nat) (f : Team → Team) : (modTeam s c t f).focus = s.focus := rfl
@[simp] theorem modTeam_cur (s : State) (c t : Nat) (f : Team → Team) : (modTeam s c t f).cur = s.cur := rfl
@[simp] theorem modTeam_freeCount (s : State) (c t : Nat) (f : Team → Team) : (modTeam s c t f).freeCount = s.freeCount := rfl
@[simp] theorem modTeam_nextId (s : State) (c t : Nat) (f : Team → Team) : (modTeam s c t f).nextId = s.nextId := rfl
@[simp] theorem modTeam_clock (s : State) (c t : Nat) (f : Team → Team) : (modTeam s c t f).clock = s.clock := rfl
@[simp] theorem modTeam_mem (s : State) (c t : Nat) (f : Team → Team) : (modTeam s c t f).mem = s.mem := rfl
@[simp] theorem modTeam_helms (s : State) (c t : Nat) (f : Team → Team) : (modTeam s c t f).helms = s.helms := rfl
@[simp] theorem modTeam_homes (s : State) (c t : Nat) (f : Team → Team) : (modTeam s c t f).homes = s.homes := rfl
@[simp] theorem modTeam_hostCache (s : State) (c t : Nat) (f : Team → Team) : (modTeam s c t f).hostCache = s.hostCache := rfl
@[simp] theorem modTeam_watches (s : State) (c t : Nat) (f : Team → Team) : (modTeam s c t f).watches = s.watches := rfl
@[simp] theorem modTeam_ticket (s : State) (c t : Nat) (f : Team → Team) : (modTeam s c t f).ticket = s.ticket := rfl
@[simp] theorem modTeam_tickets (s : State) (c t : Nat) (f : Team → Team) : (modTeam s c t f).tickets = s.tickets := rfl
@[simp] theorem modTeam_anchors (s : State) (c t : Nat) (f : Team → Team) : (modTeam s c t f).anchors = s.anchors := rfl
@[simp] theorem modTeam_queues (s : State) (c t : Nat) (f : Team → Team) : (modTeam s c t f).queues = s.queues := rfl
@[simp] theorem modTeam_nextGrid (s : State) (c t : Nat) (f : Team → Team) : (modTeam s c t f).nextGrid = s.nextGrid := rfl
@[simp] theorem modTeam_grids (s : State) (c t : Nat) (f : Team → Team) : (modTeam s c t f).grids = s.grids := rfl
@[simp] theorem modTeam_binds (s : State) (c t : Nat) (f : Team → Team) : (modTeam s c t f).binds = s.binds := rfl
@[simp] theorem modTeam_regions (s : State) (c t : Nat) (f : Team → Team) : (modTeam s c t f).regions = s.regions := rfl
@[simp] theorem modTeam_badPages (s : State) (c t : Nat) (f : Team → Team) : (modTeam s c t f).badPages = s.badPages := rfl
@[simp] theorem modTeam_fltq (s : State) (c t : Nat) (f : Team → Team) : (modTeam s c t f).fltq = s.fltq := rfl
@[simp] theorem modTeam_fltTail (s : State) (c t : Nat) (f : Team → Team) : (modTeam s c t f).fltTail = s.fltTail := rfl
@[simp] theorem modTeam_fltHead (s : State) (c t : Nat) (f : Team → Team) : (modTeam s c t f).fltHead = s.fltHead := rfl
@[simp] theorem modTeam_fltPend (s : State) (c t : Nat) (f : Team → Team) : (modTeam s c t f).fltPend = s.fltPend := rfl
@[simp] theorem modTeam_rows (s : State) (c t : Nat) (f : Team → Team) : (modTeam s c t f).rows = s.rows := rfl
@[simp] theorem modTeam_ports (s : State) (c t : Nat) (f : Team → Team) : (modTeam s c t f).ports = s.ports := rfl
@[simp] theorem modTeam_hwins (s : State) (c t : Nat) (f : Team → Team) : (modTeam s c t f).hwins = s.hwins := rfl
@[simp] theorem modTeam_roles (s : State) (c t : Nat) (f : Team → Team) : (modTeam s c t f).roles = s.roles := rfl
@[simp] theorem modTeam_contexts (s : State) (c t : Nat) (f : Team → Team) : (modTeam s c t f).contexts = s.contexts := rfl
@[simp] theorem modTeam_hdms (s : State) (c t : Nat) (f : Team → Team) : (modTeam s c t f).hdms = s.hdms := rfl
@[simp] theorem modTeam_inbound (s : State) (c t : Nat) (f : Team → Team) : (modTeam s c t f).inbound = s.inbound := rfl
@[simp] theorem modTeam_sent (s : State) (c t : Nat) (f : Team → Team) : (modTeam s c t f).sent = s.sent := rfl
@[simp] theorem modTeam_outstanding (s : State) (c t : Nat) (f : Team → Team) : (modTeam s c t f).outstanding = s.outstanding := rfl
@[simp] theorem modTeam_landings (s : State) (c t : Nat) (f : Team → Team) : (modTeam s c t f).landings = s.landings := rfl
@[simp] theorem modTeam_hostLines (s : State) (c t : Nat) (f : Team → Team) : (modTeam s c t f).hostLines = s.hostLines := rfl
@[simp] theorem modTeam_files (s : State) (c t : Nat) (f : Team → Team) : (modTeam s c t f).files = s.files := rfl
@[simp] theorem modTeam_handles (s : State) (c t : Nat) (f : Team → Team) : (modTeam s c t f).handles = s.handles := rfl
@[simp] theorem modTeam_console (s : State) (c t : Nat) (f : Team → Team) : (modTeam s c t f).console = s.console := rfl
@[simp] theorem modTeam_fab (s : State) (c t : Nat) (f : Team → Team) : (modTeam s c t f).fab = s.fab := rfl
@[simp] theorem modTeam_fports (s : State) (c t : Nat) (f : Team → Team) : (modTeam s c t f).fports = s.fports := rfl
@[simp] theorem modTeam_shared (s : State) (c t : Nat) (f : Team → Team) : (modTeam s c t f).shared = s.shared := rfl
@[simp] theorem modTeam_exports (s : State) (c t : Nat) (f : Team → Team) : (modTeam s c t f).exports = s.exports := rfl
@[simp] theorem modTeam_directory (s : State) (c t : Nat) (f : Team → Team) : (modTeam s c t f).directory = s.directory := rfl
@[simp] theorem modTeam_copies (s : State) (c t : Nat) (f : Team → Team) : (modTeam s c t f).copies = s.copies := rfl
@[simp] theorem modTeam_lostDies (s : State) (c t : Nat) (f : Team → Team) : (modTeam s c t f).lostDies = s.lostDies := rfl
@[simp] theorem modTeam_lostEnds (s : State) (c t : Nat) (f : Team → Team) : (modTeam s c t f).lostEnds = s.lostEnds := rfl
@[simp] theorem modTeam_orph (s : State) (c t : Nat) (f : Team → Team) : (modTeam s c t f).orph = s.orph := rfl
@[simp] theorem modTeam_orphTail (s : State) (c t : Nat) (f : Team → Team) : (modTeam s c t f).orphTail = s.orphTail := rfl
@[simp] theorem modTeam_orphHead (s : State) (c t : Nat) (f : Team → Team) : (modTeam s c t f).orphHead = s.orphHead := rfl
@[simp] theorem modTeam_orphans (s : State) (c t : Nat) (f : Team → Team) : (modTeam s c t f).orphans = s.orphans := rfl
@[simp] theorem modTeam_losses (s : State) (c t : Nat) (f : Team → Team) : (modTeam s c t f).losses = s.losses := rfl
@[simp] theorem modTeam_poison (s : State) (c t : Nat) (f : Team → Team) : (modTeam s c t f).poison = s.poison := rfl
@[simp] theorem modTeam_lostBlocks (s : State) (c t : Nat) (f : Team → Team) : (modTeam s c t f).lostBlocks = s.lostBlocks := rfl
@[simp] theorem modTeam_cleared (s : State) (c t : Nat) (f : Team → Team) : (modTeam s c t f).cleared = s.cleared := rfl
@[simp] theorem modTeam_logs (s : State) (c t : Nat) (f : Team → Team) : (modTeam s c t f).logs = s.logs := rfl
@[simp] theorem modTeam_planted (s : State) (c t : Nat) (f : Team → Team) : (modTeam s c t f).planted = s.planted := rfl
@[simp] theorem modTeam_replays (s : State) (c t : Nat) (f : Team → Team) : (modTeam s c t f).replays = s.replays := rfl
@[simp] theorem modTeam_mchk (s : State) (c t : Nat) (f : Team → Team) : (modTeam s c t f).mchk = s.mchk := rfl
@[simp] theorem modTeam_einj (s : State) (c t : Nat) (f : Team → Team) : (modTeam s c t f).einj = s.einj := rfl
@[simp] theorem modTeam_lsel (s : State) (c t : Nat) (f : Team → Team) : (modTeam s c t f).lsel = s.lsel := rfl
@[simp] theorem modTeam_counts (s : State) (c t : Nat) (f : Team → Team) : (modTeam s c t f).counts = s.counts := rfl
@[simp] theorem modTeam_shown (s : State) (c t : Nat) (f : Team → Team) : (modTeam s c t f).shown = s.shown := rfl
@[simp] theorem modTeam_updated (s : State) (c t : Nat) (f : Team → Team) : (modTeam s c t f).updated = s.updated := rfl

/-! ### modGrid -/

@[simp] theorem modGrid_tape (s : State) (id : Dword) (f : Grid → Grid) : (modGrid s id f).tape = s.tape := rfl
@[simp] theorem modGrid_focus (s : State) (id : Dword) (f : Grid → Grid) : (modGrid s id f).focus = s.focus := rfl
@[simp] theorem modGrid_cur (s : State) (id : Dword) (f : Grid → Grid) : (modGrid s id f).cur = s.cur := rfl
@[simp] theorem modGrid_freeCount (s : State) (id : Dword) (f : Grid → Grid) : (modGrid s id f).freeCount = s.freeCount := rfl
@[simp] theorem modGrid_nextId (s : State) (id : Dword) (f : Grid → Grid) : (modGrid s id f).nextId = s.nextId := rfl
@[simp] theorem modGrid_clock (s : State) (id : Dword) (f : Grid → Grid) : (modGrid s id f).clock = s.clock := rfl
@[simp] theorem modGrid_mem (s : State) (id : Dword) (f : Grid → Grid) : (modGrid s id f).mem = s.mem := rfl
@[simp] theorem modGrid_cores (s : State) (id : Dword) (f : Grid → Grid) : (modGrid s id f).cores = s.cores := rfl
@[simp] theorem modGrid_helms (s : State) (id : Dword) (f : Grid → Grid) : (modGrid s id f).helms = s.helms := rfl
@[simp] theorem modGrid_homes (s : State) (id : Dword) (f : Grid → Grid) : (modGrid s id f).homes = s.homes := rfl
@[simp] theorem modGrid_hostCache (s : State) (id : Dword) (f : Grid → Grid) : (modGrid s id f).hostCache = s.hostCache := rfl
@[simp] theorem modGrid_watches (s : State) (id : Dword) (f : Grid → Grid) : (modGrid s id f).watches = s.watches := rfl
@[simp] theorem modGrid_ticket (s : State) (id : Dword) (f : Grid → Grid) : (modGrid s id f).ticket = s.ticket := rfl
@[simp] theorem modGrid_tickets (s : State) (id : Dword) (f : Grid → Grid) : (modGrid s id f).tickets = s.tickets := rfl
@[simp] theorem modGrid_anchors (s : State) (id : Dword) (f : Grid → Grid) : (modGrid s id f).anchors = s.anchors := rfl
@[simp] theorem modGrid_queues (s : State) (id : Dword) (f : Grid → Grid) : (modGrid s id f).queues = s.queues := rfl
@[simp] theorem modGrid_nextGrid (s : State) (id : Dword) (f : Grid → Grid) : (modGrid s id f).nextGrid = s.nextGrid := rfl
@[simp] theorem modGrid_binds (s : State) (id : Dword) (f : Grid → Grid) : (modGrid s id f).binds = s.binds := rfl
@[simp] theorem modGrid_regions (s : State) (id : Dword) (f : Grid → Grid) : (modGrid s id f).regions = s.regions := rfl
@[simp] theorem modGrid_badPages (s : State) (id : Dword) (f : Grid → Grid) : (modGrid s id f).badPages = s.badPages := rfl
@[simp] theorem modGrid_fltq (s : State) (id : Dword) (f : Grid → Grid) : (modGrid s id f).fltq = s.fltq := rfl
@[simp] theorem modGrid_fltTail (s : State) (id : Dword) (f : Grid → Grid) : (modGrid s id f).fltTail = s.fltTail := rfl
@[simp] theorem modGrid_fltHead (s : State) (id : Dword) (f : Grid → Grid) : (modGrid s id f).fltHead = s.fltHead := rfl
@[simp] theorem modGrid_fltPend (s : State) (id : Dword) (f : Grid → Grid) : (modGrid s id f).fltPend = s.fltPend := rfl
@[simp] theorem modGrid_rows (s : State) (id : Dword) (f : Grid → Grid) : (modGrid s id f).rows = s.rows := rfl
@[simp] theorem modGrid_ports (s : State) (id : Dword) (f : Grid → Grid) : (modGrid s id f).ports = s.ports := rfl
@[simp] theorem modGrid_hwins (s : State) (id : Dword) (f : Grid → Grid) : (modGrid s id f).hwins = s.hwins := rfl
@[simp] theorem modGrid_roles (s : State) (id : Dword) (f : Grid → Grid) : (modGrid s id f).roles = s.roles := rfl
@[simp] theorem modGrid_contexts (s : State) (id : Dword) (f : Grid → Grid) : (modGrid s id f).contexts = s.contexts := rfl
@[simp] theorem modGrid_hdms (s : State) (id : Dword) (f : Grid → Grid) : (modGrid s id f).hdms = s.hdms := rfl
@[simp] theorem modGrid_inbound (s : State) (id : Dword) (f : Grid → Grid) : (modGrid s id f).inbound = s.inbound := rfl
@[simp] theorem modGrid_sent (s : State) (id : Dword) (f : Grid → Grid) : (modGrid s id f).sent = s.sent := rfl
@[simp] theorem modGrid_outstanding (s : State) (id : Dword) (f : Grid → Grid) : (modGrid s id f).outstanding = s.outstanding := rfl
@[simp] theorem modGrid_landings (s : State) (id : Dword) (f : Grid → Grid) : (modGrid s id f).landings = s.landings := rfl
@[simp] theorem modGrid_hostLines (s : State) (id : Dword) (f : Grid → Grid) : (modGrid s id f).hostLines = s.hostLines := rfl
@[simp] theorem modGrid_files (s : State) (id : Dword) (f : Grid → Grid) : (modGrid s id f).files = s.files := rfl
@[simp] theorem modGrid_handles (s : State) (id : Dword) (f : Grid → Grid) : (modGrid s id f).handles = s.handles := rfl
@[simp] theorem modGrid_console (s : State) (id : Dword) (f : Grid → Grid) : (modGrid s id f).console = s.console := rfl
@[simp] theorem modGrid_fab (s : State) (id : Dword) (f : Grid → Grid) : (modGrid s id f).fab = s.fab := rfl
@[simp] theorem modGrid_fports (s : State) (id : Dword) (f : Grid → Grid) : (modGrid s id f).fports = s.fports := rfl
@[simp] theorem modGrid_shared (s : State) (id : Dword) (f : Grid → Grid) : (modGrid s id f).shared = s.shared := rfl
@[simp] theorem modGrid_exports (s : State) (id : Dword) (f : Grid → Grid) : (modGrid s id f).exports = s.exports := rfl
@[simp] theorem modGrid_directory (s : State) (id : Dword) (f : Grid → Grid) : (modGrid s id f).directory = s.directory := rfl
@[simp] theorem modGrid_copies (s : State) (id : Dword) (f : Grid → Grid) : (modGrid s id f).copies = s.copies := rfl
@[simp] theorem modGrid_lostDies (s : State) (id : Dword) (f : Grid → Grid) : (modGrid s id f).lostDies = s.lostDies := rfl
@[simp] theorem modGrid_lostEnds (s : State) (id : Dword) (f : Grid → Grid) : (modGrid s id f).lostEnds = s.lostEnds := rfl
@[simp] theorem modGrid_orph (s : State) (id : Dword) (f : Grid → Grid) : (modGrid s id f).orph = s.orph := rfl
@[simp] theorem modGrid_orphTail (s : State) (id : Dword) (f : Grid → Grid) : (modGrid s id f).orphTail = s.orphTail := rfl
@[simp] theorem modGrid_orphHead (s : State) (id : Dword) (f : Grid → Grid) : (modGrid s id f).orphHead = s.orphHead := rfl
@[simp] theorem modGrid_orphans (s : State) (id : Dword) (f : Grid → Grid) : (modGrid s id f).orphans = s.orphans := rfl
@[simp] theorem modGrid_losses (s : State) (id : Dword) (f : Grid → Grid) : (modGrid s id f).losses = s.losses := rfl
@[simp] theorem modGrid_poison (s : State) (id : Dword) (f : Grid → Grid) : (modGrid s id f).poison = s.poison := rfl
@[simp] theorem modGrid_lostBlocks (s : State) (id : Dword) (f : Grid → Grid) : (modGrid s id f).lostBlocks = s.lostBlocks := rfl
@[simp] theorem modGrid_cleared (s : State) (id : Dword) (f : Grid → Grid) : (modGrid s id f).cleared = s.cleared := rfl
@[simp] theorem modGrid_logs (s : State) (id : Dword) (f : Grid → Grid) : (modGrid s id f).logs = s.logs := rfl
@[simp] theorem modGrid_planted (s : State) (id : Dword) (f : Grid → Grid) : (modGrid s id f).planted = s.planted := rfl
@[simp] theorem modGrid_replays (s : State) (id : Dword) (f : Grid → Grid) : (modGrid s id f).replays = s.replays := rfl
@[simp] theorem modGrid_mchk (s : State) (id : Dword) (f : Grid → Grid) : (modGrid s id f).mchk = s.mchk := rfl
@[simp] theorem modGrid_einj (s : State) (id : Dword) (f : Grid → Grid) : (modGrid s id f).einj = s.einj := rfl
@[simp] theorem modGrid_lsel (s : State) (id : Dword) (f : Grid → Grid) : (modGrid s id f).lsel = s.lsel := rfl
@[simp] theorem modGrid_counts (s : State) (id : Dword) (f : Grid → Grid) : (modGrid s id f).counts = s.counts := rfl
@[simp] theorem modGrid_shown (s : State) (id : Dword) (f : Grid → Grid) : (modGrid s id f).shown = s.shown := rfl
@[simp] theorem modGrid_updated (s : State) (id : Dword) (f : Grid → Grid) : (modGrid s id f).updated = s.updated := rfl

/-! ### putHome -/

@[simp] theorem putHome_tape (s : State) (h : Home) : (putHome s h).tape = s.tape := rfl
@[simp] theorem putHome_focus (s : State) (h : Home) : (putHome s h).focus = s.focus := rfl
@[simp] theorem putHome_cur (s : State) (h : Home) : (putHome s h).cur = s.cur := rfl
@[simp] theorem putHome_freeCount (s : State) (h : Home) : (putHome s h).freeCount = s.freeCount := rfl
@[simp] theorem putHome_nextId (s : State) (h : Home) : (putHome s h).nextId = s.nextId := rfl
@[simp] theorem putHome_clock (s : State) (h : Home) : (putHome s h).clock = s.clock := rfl
@[simp] theorem putHome_mem (s : State) (h : Home) : (putHome s h).mem = s.mem := rfl
@[simp] theorem putHome_cores (s : State) (h : Home) : (putHome s h).cores = s.cores := rfl
@[simp] theorem putHome_helms (s : State) (h : Home) : (putHome s h).helms = s.helms := rfl
@[simp] theorem putHome_hostCache (s : State) (h : Home) : (putHome s h).hostCache = s.hostCache := rfl
@[simp] theorem putHome_watches (s : State) (h : Home) : (putHome s h).watches = s.watches := rfl
@[simp] theorem putHome_ticket (s : State) (h : Home) : (putHome s h).ticket = s.ticket := rfl
@[simp] theorem putHome_tickets (s : State) (h : Home) : (putHome s h).tickets = s.tickets := rfl
@[simp] theorem putHome_anchors (s : State) (h : Home) : (putHome s h).anchors = s.anchors := rfl
@[simp] theorem putHome_queues (s : State) (h : Home) : (putHome s h).queues = s.queues := rfl
@[simp] theorem putHome_nextGrid (s : State) (h : Home) : (putHome s h).nextGrid = s.nextGrid := rfl
@[simp] theorem putHome_grids (s : State) (h : Home) : (putHome s h).grids = s.grids := rfl
@[simp] theorem putHome_binds (s : State) (h : Home) : (putHome s h).binds = s.binds := rfl
@[simp] theorem putHome_regions (s : State) (h : Home) : (putHome s h).regions = s.regions := rfl
@[simp] theorem putHome_badPages (s : State) (h : Home) : (putHome s h).badPages = s.badPages := rfl
@[simp] theorem putHome_fltq (s : State) (h : Home) : (putHome s h).fltq = s.fltq := rfl
@[simp] theorem putHome_fltTail (s : State) (h : Home) : (putHome s h).fltTail = s.fltTail := rfl
@[simp] theorem putHome_fltHead (s : State) (h : Home) : (putHome s h).fltHead = s.fltHead := rfl
@[simp] theorem putHome_fltPend (s : State) (h : Home) : (putHome s h).fltPend = s.fltPend := rfl
@[simp] theorem putHome_rows (s : State) (h : Home) : (putHome s h).rows = s.rows := rfl
@[simp] theorem putHome_ports (s : State) (h : Home) : (putHome s h).ports = s.ports := rfl
@[simp] theorem putHome_hwins (s : State) (h : Home) : (putHome s h).hwins = s.hwins := rfl
@[simp] theorem putHome_roles (s : State) (h : Home) : (putHome s h).roles = s.roles := rfl
@[simp] theorem putHome_contexts (s : State) (h : Home) : (putHome s h).contexts = s.contexts := rfl
@[simp] theorem putHome_hdms (s : State) (h : Home) : (putHome s h).hdms = s.hdms := rfl
@[simp] theorem putHome_inbound (s : State) (h : Home) : (putHome s h).inbound = s.inbound := rfl
@[simp] theorem putHome_sent (s : State) (h : Home) : (putHome s h).sent = s.sent := rfl
@[simp] theorem putHome_outstanding (s : State) (h : Home) : (putHome s h).outstanding = s.outstanding := rfl
@[simp] theorem putHome_landings (s : State) (h : Home) : (putHome s h).landings = s.landings := rfl
@[simp] theorem putHome_hostLines (s : State) (h : Home) : (putHome s h).hostLines = s.hostLines := rfl
@[simp] theorem putHome_files (s : State) (h : Home) : (putHome s h).files = s.files := rfl
@[simp] theorem putHome_handles (s : State) (h : Home) : (putHome s h).handles = s.handles := rfl
@[simp] theorem putHome_console (s : State) (h : Home) : (putHome s h).console = s.console := rfl
@[simp] theorem putHome_fab (s : State) (h : Home) : (putHome s h).fab = s.fab := rfl
@[simp] theorem putHome_fports (s : State) (h : Home) : (putHome s h).fports = s.fports := rfl
@[simp] theorem putHome_shared (s : State) (h : Home) : (putHome s h).shared = s.shared := rfl
@[simp] theorem putHome_exports (s : State) (h : Home) : (putHome s h).exports = s.exports := rfl
@[simp] theorem putHome_directory (s : State) (h : Home) : (putHome s h).directory = s.directory := rfl
@[simp] theorem putHome_copies (s : State) (h : Home) : (putHome s h).copies = s.copies := rfl
@[simp] theorem putHome_lostDies (s : State) (h : Home) : (putHome s h).lostDies = s.lostDies := rfl
@[simp] theorem putHome_lostEnds (s : State) (h : Home) : (putHome s h).lostEnds = s.lostEnds := rfl
@[simp] theorem putHome_orph (s : State) (h : Home) : (putHome s h).orph = s.orph := rfl
@[simp] theorem putHome_orphTail (s : State) (h : Home) : (putHome s h).orphTail = s.orphTail := rfl
@[simp] theorem putHome_orphHead (s : State) (h : Home) : (putHome s h).orphHead = s.orphHead := rfl
@[simp] theorem putHome_orphans (s : State) (h : Home) : (putHome s h).orphans = s.orphans := rfl
@[simp] theorem putHome_losses (s : State) (h : Home) : (putHome s h).losses = s.losses := rfl
@[simp] theorem putHome_poison (s : State) (h : Home) : (putHome s h).poison = s.poison := rfl
@[simp] theorem putHome_lostBlocks (s : State) (h : Home) : (putHome s h).lostBlocks = s.lostBlocks := rfl
@[simp] theorem putHome_cleared (s : State) (h : Home) : (putHome s h).cleared = s.cleared := rfl
@[simp] theorem putHome_logs (s : State) (h : Home) : (putHome s h).logs = s.logs := rfl
@[simp] theorem putHome_planted (s : State) (h : Home) : (putHome s h).planted = s.planted := rfl
@[simp] theorem putHome_replays (s : State) (h : Home) : (putHome s h).replays = s.replays := rfl
@[simp] theorem putHome_mchk (s : State) (h : Home) : (putHome s h).mchk = s.mchk := rfl
@[simp] theorem putHome_einj (s : State) (h : Home) : (putHome s h).einj = s.einj := rfl
@[simp] theorem putHome_lsel (s : State) (h : Home) : (putHome s h).lsel = s.lsel := rfl
@[simp] theorem putHome_counts (s : State) (h : Home) : (putHome s h).counts = s.counts := rfl
@[simp] theorem putHome_shown (s : State) (h : Home) : (putHome s h).shown = s.shown := rfl
@[simp] theorem putHome_updated (s : State) (h : Home) : (putHome s h).updated = s.updated := rfl

/-! ### putLog -/

@[simp] theorem putLog_tape (s : State) (e : ErrLog) : (putLog s e).tape = s.tape := rfl
@[simp] theorem putLog_focus (s : State) (e : ErrLog) : (putLog s e).focus = s.focus := rfl
@[simp] theorem putLog_cur (s : State) (e : ErrLog) : (putLog s e).cur = s.cur := rfl
@[simp] theorem putLog_freeCount (s : State) (e : ErrLog) : (putLog s e).freeCount = s.freeCount := rfl
@[simp] theorem putLog_nextId (s : State) (e : ErrLog) : (putLog s e).nextId = s.nextId := rfl
@[simp] theorem putLog_clock (s : State) (e : ErrLog) : (putLog s e).clock = s.clock := rfl
@[simp] theorem putLog_mem (s : State) (e : ErrLog) : (putLog s e).mem = s.mem := rfl
@[simp] theorem putLog_cores (s : State) (e : ErrLog) : (putLog s e).cores = s.cores := rfl
@[simp] theorem putLog_helms (s : State) (e : ErrLog) : (putLog s e).helms = s.helms := rfl
@[simp] theorem putLog_homes (s : State) (e : ErrLog) : (putLog s e).homes = s.homes := rfl
@[simp] theorem putLog_hostCache (s : State) (e : ErrLog) : (putLog s e).hostCache = s.hostCache := rfl
@[simp] theorem putLog_watches (s : State) (e : ErrLog) : (putLog s e).watches = s.watches := rfl
@[simp] theorem putLog_ticket (s : State) (e : ErrLog) : (putLog s e).ticket = s.ticket := rfl
@[simp] theorem putLog_tickets (s : State) (e : ErrLog) : (putLog s e).tickets = s.tickets := rfl
@[simp] theorem putLog_anchors (s : State) (e : ErrLog) : (putLog s e).anchors = s.anchors := rfl
@[simp] theorem putLog_queues (s : State) (e : ErrLog) : (putLog s e).queues = s.queues := rfl
@[simp] theorem putLog_nextGrid (s : State) (e : ErrLog) : (putLog s e).nextGrid = s.nextGrid := rfl
@[simp] theorem putLog_grids (s : State) (e : ErrLog) : (putLog s e).grids = s.grids := rfl
@[simp] theorem putLog_binds (s : State) (e : ErrLog) : (putLog s e).binds = s.binds := rfl
@[simp] theorem putLog_regions (s : State) (e : ErrLog) : (putLog s e).regions = s.regions := rfl
@[simp] theorem putLog_badPages (s : State) (e : ErrLog) : (putLog s e).badPages = s.badPages := rfl
@[simp] theorem putLog_fltq (s : State) (e : ErrLog) : (putLog s e).fltq = s.fltq := rfl
@[simp] theorem putLog_fltTail (s : State) (e : ErrLog) : (putLog s e).fltTail = s.fltTail := rfl
@[simp] theorem putLog_fltHead (s : State) (e : ErrLog) : (putLog s e).fltHead = s.fltHead := rfl
@[simp] theorem putLog_fltPend (s : State) (e : ErrLog) : (putLog s e).fltPend = s.fltPend := rfl
@[simp] theorem putLog_rows (s : State) (e : ErrLog) : (putLog s e).rows = s.rows := rfl
@[simp] theorem putLog_ports (s : State) (e : ErrLog) : (putLog s e).ports = s.ports := rfl
@[simp] theorem putLog_hwins (s : State) (e : ErrLog) : (putLog s e).hwins = s.hwins := rfl
@[simp] theorem putLog_roles (s : State) (e : ErrLog) : (putLog s e).roles = s.roles := rfl
@[simp] theorem putLog_contexts (s : State) (e : ErrLog) : (putLog s e).contexts = s.contexts := rfl
@[simp] theorem putLog_hdms (s : State) (e : ErrLog) : (putLog s e).hdms = s.hdms := rfl
@[simp] theorem putLog_inbound (s : State) (e : ErrLog) : (putLog s e).inbound = s.inbound := rfl
@[simp] theorem putLog_sent (s : State) (e : ErrLog) : (putLog s e).sent = s.sent := rfl
@[simp] theorem putLog_outstanding (s : State) (e : ErrLog) : (putLog s e).outstanding = s.outstanding := rfl
@[simp] theorem putLog_landings (s : State) (e : ErrLog) : (putLog s e).landings = s.landings := rfl
@[simp] theorem putLog_hostLines (s : State) (e : ErrLog) : (putLog s e).hostLines = s.hostLines := rfl
@[simp] theorem putLog_files (s : State) (e : ErrLog) : (putLog s e).files = s.files := rfl
@[simp] theorem putLog_handles (s : State) (e : ErrLog) : (putLog s e).handles = s.handles := rfl
@[simp] theorem putLog_console (s : State) (e : ErrLog) : (putLog s e).console = s.console := rfl
@[simp] theorem putLog_fab (s : State) (e : ErrLog) : (putLog s e).fab = s.fab := rfl
@[simp] theorem putLog_fports (s : State) (e : ErrLog) : (putLog s e).fports = s.fports := rfl
@[simp] theorem putLog_shared (s : State) (e : ErrLog) : (putLog s e).shared = s.shared := rfl
@[simp] theorem putLog_exports (s : State) (e : ErrLog) : (putLog s e).exports = s.exports := rfl
@[simp] theorem putLog_directory (s : State) (e : ErrLog) : (putLog s e).directory = s.directory := rfl
@[simp] theorem putLog_copies (s : State) (e : ErrLog) : (putLog s e).copies = s.copies := rfl
@[simp] theorem putLog_lostDies (s : State) (e : ErrLog) : (putLog s e).lostDies = s.lostDies := rfl
@[simp] theorem putLog_lostEnds (s : State) (e : ErrLog) : (putLog s e).lostEnds = s.lostEnds := rfl
@[simp] theorem putLog_orph (s : State) (e : ErrLog) : (putLog s e).orph = s.orph := rfl
@[simp] theorem putLog_orphTail (s : State) (e : ErrLog) : (putLog s e).orphTail = s.orphTail := rfl
@[simp] theorem putLog_orphHead (s : State) (e : ErrLog) : (putLog s e).orphHead = s.orphHead := rfl
@[simp] theorem putLog_orphans (s : State) (e : ErrLog) : (putLog s e).orphans = s.orphans := rfl
@[simp] theorem putLog_losses (s : State) (e : ErrLog) : (putLog s e).losses = s.losses := rfl
@[simp] theorem putLog_poison (s : State) (e : ErrLog) : (putLog s e).poison = s.poison := rfl
@[simp] theorem putLog_lostBlocks (s : State) (e : ErrLog) : (putLog s e).lostBlocks = s.lostBlocks := rfl
@[simp] theorem putLog_cleared (s : State) (e : ErrLog) : (putLog s e).cleared = s.cleared := rfl
@[simp] theorem putLog_planted (s : State) (e : ErrLog) : (putLog s e).planted = s.planted := rfl
@[simp] theorem putLog_replays (s : State) (e : ErrLog) : (putLog s e).replays = s.replays := rfl
@[simp] theorem putLog_mchk (s : State) (e : ErrLog) : (putLog s e).mchk = s.mchk := rfl
@[simp] theorem putLog_einj (s : State) (e : ErrLog) : (putLog s e).einj = s.einj := rfl
@[simp] theorem putLog_lsel (s : State) (e : ErrLog) : (putLog s e).lsel = s.lsel := rfl
@[simp] theorem putLog_counts (s : State) (e : ErrLog) : (putLog s e).counts = s.counts := rfl
@[simp] theorem putLog_shown (s : State) (e : ErrLog) : (putLog s e).shown = s.shown := rfl
@[simp] theorem putLog_updated (s : State) (e : ErrLog) : (putLog s e).updated = s.updated := rfl

/-! ### addCount -/

@[simp] theorem addCount_tape (s : State) (i n : Nat) : (addCount s i n).tape = s.tape := rfl
@[simp] theorem addCount_focus (s : State) (i n : Nat) : (addCount s i n).focus = s.focus := rfl
@[simp] theorem addCount_cur (s : State) (i n : Nat) : (addCount s i n).cur = s.cur := rfl
@[simp] theorem addCount_freeCount (s : State) (i n : Nat) : (addCount s i n).freeCount = s.freeCount := rfl
@[simp] theorem addCount_nextId (s : State) (i n : Nat) : (addCount s i n).nextId = s.nextId := rfl
@[simp] theorem addCount_clock (s : State) (i n : Nat) : (addCount s i n).clock = s.clock := rfl
@[simp] theorem addCount_mem (s : State) (i n : Nat) : (addCount s i n).mem = s.mem := rfl
@[simp] theorem addCount_cores (s : State) (i n : Nat) : (addCount s i n).cores = s.cores := rfl
@[simp] theorem addCount_helms (s : State) (i n : Nat) : (addCount s i n).helms = s.helms := rfl
@[simp] theorem addCount_homes (s : State) (i n : Nat) : (addCount s i n).homes = s.homes := rfl
@[simp] theorem addCount_hostCache (s : State) (i n : Nat) : (addCount s i n).hostCache = s.hostCache := rfl
@[simp] theorem addCount_watches (s : State) (i n : Nat) : (addCount s i n).watches = s.watches := rfl
@[simp] theorem addCount_ticket (s : State) (i n : Nat) : (addCount s i n).ticket = s.ticket := rfl
@[simp] theorem addCount_tickets (s : State) (i n : Nat) : (addCount s i n).tickets = s.tickets := rfl
@[simp] theorem addCount_anchors (s : State) (i n : Nat) : (addCount s i n).anchors = s.anchors := rfl
@[simp] theorem addCount_queues (s : State) (i n : Nat) : (addCount s i n).queues = s.queues := rfl
@[simp] theorem addCount_nextGrid (s : State) (i n : Nat) : (addCount s i n).nextGrid = s.nextGrid := rfl
@[simp] theorem addCount_grids (s : State) (i n : Nat) : (addCount s i n).grids = s.grids := rfl
@[simp] theorem addCount_binds (s : State) (i n : Nat) : (addCount s i n).binds = s.binds := rfl
@[simp] theorem addCount_regions (s : State) (i n : Nat) : (addCount s i n).regions = s.regions := rfl
@[simp] theorem addCount_badPages (s : State) (i n : Nat) : (addCount s i n).badPages = s.badPages := rfl
@[simp] theorem addCount_fltq (s : State) (i n : Nat) : (addCount s i n).fltq = s.fltq := rfl
@[simp] theorem addCount_fltTail (s : State) (i n : Nat) : (addCount s i n).fltTail = s.fltTail := rfl
@[simp] theorem addCount_fltHead (s : State) (i n : Nat) : (addCount s i n).fltHead = s.fltHead := rfl
@[simp] theorem addCount_fltPend (s : State) (i n : Nat) : (addCount s i n).fltPend = s.fltPend := rfl
@[simp] theorem addCount_rows (s : State) (i n : Nat) : (addCount s i n).rows = s.rows := rfl
@[simp] theorem addCount_ports (s : State) (i n : Nat) : (addCount s i n).ports = s.ports := rfl
@[simp] theorem addCount_hwins (s : State) (i n : Nat) : (addCount s i n).hwins = s.hwins := rfl
@[simp] theorem addCount_roles (s : State) (i n : Nat) : (addCount s i n).roles = s.roles := rfl
@[simp] theorem addCount_contexts (s : State) (i n : Nat) : (addCount s i n).contexts = s.contexts := rfl
@[simp] theorem addCount_hdms (s : State) (i n : Nat) : (addCount s i n).hdms = s.hdms := rfl
@[simp] theorem addCount_inbound (s : State) (i n : Nat) : (addCount s i n).inbound = s.inbound := rfl
@[simp] theorem addCount_sent (s : State) (i n : Nat) : (addCount s i n).sent = s.sent := rfl
@[simp] theorem addCount_outstanding (s : State) (i n : Nat) : (addCount s i n).outstanding = s.outstanding := rfl
@[simp] theorem addCount_landings (s : State) (i n : Nat) : (addCount s i n).landings = s.landings := rfl
@[simp] theorem addCount_hostLines (s : State) (i n : Nat) : (addCount s i n).hostLines = s.hostLines := rfl
@[simp] theorem addCount_files (s : State) (i n : Nat) : (addCount s i n).files = s.files := rfl
@[simp] theorem addCount_handles (s : State) (i n : Nat) : (addCount s i n).handles = s.handles := rfl
@[simp] theorem addCount_console (s : State) (i n : Nat) : (addCount s i n).console = s.console := rfl
@[simp] theorem addCount_fab (s : State) (i n : Nat) : (addCount s i n).fab = s.fab := rfl
@[simp] theorem addCount_fports (s : State) (i n : Nat) : (addCount s i n).fports = s.fports := rfl
@[simp] theorem addCount_shared (s : State) (i n : Nat) : (addCount s i n).shared = s.shared := rfl
@[simp] theorem addCount_exports (s : State) (i n : Nat) : (addCount s i n).exports = s.exports := rfl
@[simp] theorem addCount_directory (s : State) (i n : Nat) : (addCount s i n).directory = s.directory := rfl
@[simp] theorem addCount_copies (s : State) (i n : Nat) : (addCount s i n).copies = s.copies := rfl
@[simp] theorem addCount_lostDies (s : State) (i n : Nat) : (addCount s i n).lostDies = s.lostDies := rfl
@[simp] theorem addCount_lostEnds (s : State) (i n : Nat) : (addCount s i n).lostEnds = s.lostEnds := rfl
@[simp] theorem addCount_orph (s : State) (i n : Nat) : (addCount s i n).orph = s.orph := rfl
@[simp] theorem addCount_orphTail (s : State) (i n : Nat) : (addCount s i n).orphTail = s.orphTail := rfl
@[simp] theorem addCount_orphHead (s : State) (i n : Nat) : (addCount s i n).orphHead = s.orphHead := rfl
@[simp] theorem addCount_orphans (s : State) (i n : Nat) : (addCount s i n).orphans = s.orphans := rfl
@[simp] theorem addCount_losses (s : State) (i n : Nat) : (addCount s i n).losses = s.losses := rfl
@[simp] theorem addCount_poison (s : State) (i n : Nat) : (addCount s i n).poison = s.poison := rfl
@[simp] theorem addCount_lostBlocks (s : State) (i n : Nat) : (addCount s i n).lostBlocks = s.lostBlocks := rfl
@[simp] theorem addCount_cleared (s : State) (i n : Nat) : (addCount s i n).cleared = s.cleared := rfl
@[simp] theorem addCount_logs (s : State) (i n : Nat) : (addCount s i n).logs = s.logs := rfl
@[simp] theorem addCount_planted (s : State) (i n : Nat) : (addCount s i n).planted = s.planted := rfl
@[simp] theorem addCount_replays (s : State) (i n : Nat) : (addCount s i n).replays = s.replays := rfl
@[simp] theorem addCount_mchk (s : State) (i n : Nat) : (addCount s i n).mchk = s.mchk := rfl
@[simp] theorem addCount_einj (s : State) (i n : Nat) : (addCount s i n).einj = s.einj := rfl
@[simp] theorem addCount_lsel (s : State) (i n : Nat) : (addCount s i n).lsel = s.lsel := rfl
@[simp] theorem addCount_shown (s : State) (i n : Nat) : (addCount s i n).shown = s.shown := rfl
@[simp] theorem addCount_updated (s : State) (i n : Nat) : (addCount s i n).updated = s.updated := rfl

/-! ### freeAnchor -/

@[simp] theorem freeAnchor_tape (s : State) (k : Nat) : (freeAnchor s k).tape = s.tape := rfl
@[simp] theorem freeAnchor_focus (s : State) (k : Nat) : (freeAnchor s k).focus = s.focus := rfl
@[simp] theorem freeAnchor_cur (s : State) (k : Nat) : (freeAnchor s k).cur = s.cur := rfl
@[simp] theorem freeAnchor_freeCount (s : State) (k : Nat) : (freeAnchor s k).freeCount = s.freeCount := rfl
@[simp] theorem freeAnchor_nextId (s : State) (k : Nat) : (freeAnchor s k).nextId = s.nextId := rfl
@[simp] theorem freeAnchor_clock (s : State) (k : Nat) : (freeAnchor s k).clock = s.clock := rfl
@[simp] theorem freeAnchor_mem (s : State) (k : Nat) : (freeAnchor s k).mem = s.mem := rfl
@[simp] theorem freeAnchor_cores (s : State) (k : Nat) : (freeAnchor s k).cores = s.cores := rfl
@[simp] theorem freeAnchor_helms (s : State) (k : Nat) : (freeAnchor s k).helms = s.helms := rfl
@[simp] theorem freeAnchor_homes (s : State) (k : Nat) : (freeAnchor s k).homes = s.homes := rfl
@[simp] theorem freeAnchor_hostCache (s : State) (k : Nat) : (freeAnchor s k).hostCache = s.hostCache := rfl
@[simp] theorem freeAnchor_watches (s : State) (k : Nat) : (freeAnchor s k).watches = s.watches := rfl
@[simp] theorem freeAnchor_ticket (s : State) (k : Nat) : (freeAnchor s k).ticket = s.ticket := rfl
@[simp] theorem freeAnchor_tickets (s : State) (k : Nat) : (freeAnchor s k).tickets = s.tickets := rfl
@[simp] theorem freeAnchor_queues (s : State) (k : Nat) : (freeAnchor s k).queues = s.queues := rfl
@[simp] theorem freeAnchor_nextGrid (s : State) (k : Nat) : (freeAnchor s k).nextGrid = s.nextGrid := rfl
@[simp] theorem freeAnchor_grids (s : State) (k : Nat) : (freeAnchor s k).grids = s.grids := rfl
@[simp] theorem freeAnchor_binds (s : State) (k : Nat) : (freeAnchor s k).binds = s.binds := rfl
@[simp] theorem freeAnchor_regions (s : State) (k : Nat) : (freeAnchor s k).regions = s.regions := rfl
@[simp] theorem freeAnchor_badPages (s : State) (k : Nat) : (freeAnchor s k).badPages = s.badPages := rfl
@[simp] theorem freeAnchor_fltq (s : State) (k : Nat) : (freeAnchor s k).fltq = s.fltq := rfl
@[simp] theorem freeAnchor_fltTail (s : State) (k : Nat) : (freeAnchor s k).fltTail = s.fltTail := rfl
@[simp] theorem freeAnchor_fltHead (s : State) (k : Nat) : (freeAnchor s k).fltHead = s.fltHead := rfl
@[simp] theorem freeAnchor_fltPend (s : State) (k : Nat) : (freeAnchor s k).fltPend = s.fltPend := rfl
@[simp] theorem freeAnchor_rows (s : State) (k : Nat) : (freeAnchor s k).rows = s.rows := rfl
@[simp] theorem freeAnchor_ports (s : State) (k : Nat) : (freeAnchor s k).ports = s.ports := rfl
@[simp] theorem freeAnchor_hwins (s : State) (k : Nat) : (freeAnchor s k).hwins = s.hwins := rfl
@[simp] theorem freeAnchor_roles (s : State) (k : Nat) : (freeAnchor s k).roles = s.roles := rfl
@[simp] theorem freeAnchor_contexts (s : State) (k : Nat) : (freeAnchor s k).contexts = s.contexts := rfl
@[simp] theorem freeAnchor_hdms (s : State) (k : Nat) : (freeAnchor s k).hdms = s.hdms := rfl
@[simp] theorem freeAnchor_inbound (s : State) (k : Nat) : (freeAnchor s k).inbound = s.inbound := rfl
@[simp] theorem freeAnchor_sent (s : State) (k : Nat) : (freeAnchor s k).sent = s.sent := rfl
@[simp] theorem freeAnchor_outstanding (s : State) (k : Nat) : (freeAnchor s k).outstanding = s.outstanding := rfl
@[simp] theorem freeAnchor_landings (s : State) (k : Nat) : (freeAnchor s k).landings = s.landings := rfl
@[simp] theorem freeAnchor_hostLines (s : State) (k : Nat) : (freeAnchor s k).hostLines = s.hostLines := rfl
@[simp] theorem freeAnchor_files (s : State) (k : Nat) : (freeAnchor s k).files = s.files := rfl
@[simp] theorem freeAnchor_handles (s : State) (k : Nat) : (freeAnchor s k).handles = s.handles := rfl
@[simp] theorem freeAnchor_console (s : State) (k : Nat) : (freeAnchor s k).console = s.console := rfl
@[simp] theorem freeAnchor_fab (s : State) (k : Nat) : (freeAnchor s k).fab = s.fab := rfl
@[simp] theorem freeAnchor_fports (s : State) (k : Nat) : (freeAnchor s k).fports = s.fports := rfl
@[simp] theorem freeAnchor_shared (s : State) (k : Nat) : (freeAnchor s k).shared = s.shared := rfl
@[simp] theorem freeAnchor_exports (s : State) (k : Nat) : (freeAnchor s k).exports = s.exports := rfl
@[simp] theorem freeAnchor_directory (s : State) (k : Nat) : (freeAnchor s k).directory = s.directory := rfl
@[simp] theorem freeAnchor_copies (s : State) (k : Nat) : (freeAnchor s k).copies = s.copies := rfl
@[simp] theorem freeAnchor_lostDies (s : State) (k : Nat) : (freeAnchor s k).lostDies = s.lostDies := rfl
@[simp] theorem freeAnchor_lostEnds (s : State) (k : Nat) : (freeAnchor s k).lostEnds = s.lostEnds := rfl
@[simp] theorem freeAnchor_orph (s : State) (k : Nat) : (freeAnchor s k).orph = s.orph := rfl
@[simp] theorem freeAnchor_orphTail (s : State) (k : Nat) : (freeAnchor s k).orphTail = s.orphTail := rfl
@[simp] theorem freeAnchor_orphHead (s : State) (k : Nat) : (freeAnchor s k).orphHead = s.orphHead := rfl
@[simp] theorem freeAnchor_orphans (s : State) (k : Nat) : (freeAnchor s k).orphans = s.orphans := rfl
@[simp] theorem freeAnchor_losses (s : State) (k : Nat) : (freeAnchor s k).losses = s.losses := rfl
@[simp] theorem freeAnchor_poison (s : State) (k : Nat) : (freeAnchor s k).poison = s.poison := rfl
@[simp] theorem freeAnchor_lostBlocks (s : State) (k : Nat) : (freeAnchor s k).lostBlocks = s.lostBlocks := rfl
@[simp] theorem freeAnchor_cleared (s : State) (k : Nat) : (freeAnchor s k).cleared = s.cleared := rfl
@[simp] theorem freeAnchor_logs (s : State) (k : Nat) : (freeAnchor s k).logs = s.logs := rfl
@[simp] theorem freeAnchor_planted (s : State) (k : Nat) : (freeAnchor s k).planted = s.planted := rfl
@[simp] theorem freeAnchor_replays (s : State) (k : Nat) : (freeAnchor s k).replays = s.replays := rfl
@[simp] theorem freeAnchor_mchk (s : State) (k : Nat) : (freeAnchor s k).mchk = s.mchk := rfl
@[simp] theorem freeAnchor_einj (s : State) (k : Nat) : (freeAnchor s k).einj = s.einj := rfl
@[simp] theorem freeAnchor_lsel (s : State) (k : Nat) : (freeAnchor s k).lsel = s.lsel := rfl
@[simp] theorem freeAnchor_counts (s : State) (k : Nat) : (freeAnchor s k).counts = s.counts := rfl
@[simp] theorem freeAnchor_shown (s : State) (k : Nat) : (freeAnchor s k).shown = s.shown := rfl
@[simp] theorem freeAnchor_updated (s : State) (k : Nat) : (freeAnchor s k).updated = s.updated := rfl

/-! ### clearGranules -/

@[simp] theorem clearGranules_tape (s : State) (p : Place) (n : Nat) : (clearGranules s p n).tape = s.tape := rfl
@[simp] theorem clearGranules_focus (s : State) (p : Place) (n : Nat) : (clearGranules s p n).focus = s.focus := rfl
@[simp] theorem clearGranules_cur (s : State) (p : Place) (n : Nat) : (clearGranules s p n).cur = s.cur := rfl
@[simp] theorem clearGranules_freeCount (s : State) (p : Place) (n : Nat) : (clearGranules s p n).freeCount = s.freeCount := rfl
@[simp] theorem clearGranules_nextId (s : State) (p : Place) (n : Nat) : (clearGranules s p n).nextId = s.nextId := rfl
@[simp] theorem clearGranules_clock (s : State) (p : Place) (n : Nat) : (clearGranules s p n).clock = s.clock := rfl
@[simp] theorem clearGranules_mem (s : State) (p : Place) (n : Nat) : (clearGranules s p n).mem = s.mem := rfl
@[simp] theorem clearGranules_homes (s : State) (p : Place) (n : Nat) : (clearGranules s p n).homes = s.homes := rfl
@[simp] theorem clearGranules_hostCache (s : State) (p : Place) (n : Nat) : (clearGranules s p n).hostCache = s.hostCache := rfl
@[simp] theorem clearGranules_watches (s : State) (p : Place) (n : Nat) : (clearGranules s p n).watches = s.watches := rfl
@[simp] theorem clearGranules_ticket (s : State) (p : Place) (n : Nat) : (clearGranules s p n).ticket = s.ticket := rfl
@[simp] theorem clearGranules_tickets (s : State) (p : Place) (n : Nat) : (clearGranules s p n).tickets = s.tickets := rfl
@[simp] theorem clearGranules_anchors (s : State) (p : Place) (n : Nat) : (clearGranules s p n).anchors = s.anchors := rfl
@[simp] theorem clearGranules_queues (s : State) (p : Place) (n : Nat) : (clearGranules s p n).queues = s.queues := rfl
@[simp] theorem clearGranules_nextGrid (s : State) (p : Place) (n : Nat) : (clearGranules s p n).nextGrid = s.nextGrid := rfl
@[simp] theorem clearGranules_grids (s : State) (p : Place) (n : Nat) : (clearGranules s p n).grids = s.grids := rfl
@[simp] theorem clearGranules_binds (s : State) (p : Place) (n : Nat) : (clearGranules s p n).binds = s.binds := rfl
@[simp] theorem clearGranules_regions (s : State) (p : Place) (n : Nat) : (clearGranules s p n).regions = s.regions := rfl
@[simp] theorem clearGranules_badPages (s : State) (p : Place) (n : Nat) : (clearGranules s p n).badPages = s.badPages := rfl
@[simp] theorem clearGranules_fltq (s : State) (p : Place) (n : Nat) : (clearGranules s p n).fltq = s.fltq := rfl
@[simp] theorem clearGranules_fltTail (s : State) (p : Place) (n : Nat) : (clearGranules s p n).fltTail = s.fltTail := rfl
@[simp] theorem clearGranules_fltHead (s : State) (p : Place) (n : Nat) : (clearGranules s p n).fltHead = s.fltHead := rfl
@[simp] theorem clearGranules_fltPend (s : State) (p : Place) (n : Nat) : (clearGranules s p n).fltPend = s.fltPend := rfl
@[simp] theorem clearGranules_rows (s : State) (p : Place) (n : Nat) : (clearGranules s p n).rows = s.rows := rfl
@[simp] theorem clearGranules_ports (s : State) (p : Place) (n : Nat) : (clearGranules s p n).ports = s.ports := rfl
@[simp] theorem clearGranules_hwins (s : State) (p : Place) (n : Nat) : (clearGranules s p n).hwins = s.hwins := rfl
@[simp] theorem clearGranules_roles (s : State) (p : Place) (n : Nat) : (clearGranules s p n).roles = s.roles := rfl
@[simp] theorem clearGranules_contexts (s : State) (p : Place) (n : Nat) : (clearGranules s p n).contexts = s.contexts := rfl
@[simp] theorem clearGranules_hdms (s : State) (p : Place) (n : Nat) : (clearGranules s p n).hdms = s.hdms := rfl
@[simp] theorem clearGranules_inbound (s : State) (p : Place) (n : Nat) : (clearGranules s p n).inbound = s.inbound := rfl
@[simp] theorem clearGranules_sent (s : State) (p : Place) (n : Nat) : (clearGranules s p n).sent = s.sent := rfl
@[simp] theorem clearGranules_outstanding (s : State) (p : Place) (n : Nat) : (clearGranules s p n).outstanding = s.outstanding := rfl
@[simp] theorem clearGranules_landings (s : State) (p : Place) (n : Nat) : (clearGranules s p n).landings = s.landings := rfl
@[simp] theorem clearGranules_hostLines (s : State) (p : Place) (n : Nat) : (clearGranules s p n).hostLines = s.hostLines := rfl
@[simp] theorem clearGranules_files (s : State) (p : Place) (n : Nat) : (clearGranules s p n).files = s.files := rfl
@[simp] theorem clearGranules_handles (s : State) (p : Place) (n : Nat) : (clearGranules s p n).handles = s.handles := rfl
@[simp] theorem clearGranules_console (s : State) (p : Place) (n : Nat) : (clearGranules s p n).console = s.console := rfl
@[simp] theorem clearGranules_fab (s : State) (p : Place) (n : Nat) : (clearGranules s p n).fab = s.fab := rfl
@[simp] theorem clearGranules_fports (s : State) (p : Place) (n : Nat) : (clearGranules s p n).fports = s.fports := rfl
@[simp] theorem clearGranules_shared (s : State) (p : Place) (n : Nat) : (clearGranules s p n).shared = s.shared := rfl
@[simp] theorem clearGranules_exports (s : State) (p : Place) (n : Nat) : (clearGranules s p n).exports = s.exports := rfl
@[simp] theorem clearGranules_directory (s : State) (p : Place) (n : Nat) : (clearGranules s p n).directory = s.directory := rfl
@[simp] theorem clearGranules_copies (s : State) (p : Place) (n : Nat) : (clearGranules s p n).copies = s.copies := rfl
@[simp] theorem clearGranules_lostDies (s : State) (p : Place) (n : Nat) : (clearGranules s p n).lostDies = s.lostDies := rfl
@[simp] theorem clearGranules_lostEnds (s : State) (p : Place) (n : Nat) : (clearGranules s p n).lostEnds = s.lostEnds := rfl
@[simp] theorem clearGranules_orph (s : State) (p : Place) (n : Nat) : (clearGranules s p n).orph = s.orph := rfl
@[simp] theorem clearGranules_orphTail (s : State) (p : Place) (n : Nat) : (clearGranules s p n).orphTail = s.orphTail := rfl
@[simp] theorem clearGranules_orphHead (s : State) (p : Place) (n : Nat) : (clearGranules s p n).orphHead = s.orphHead := rfl
@[simp] theorem clearGranules_orphans (s : State) (p : Place) (n : Nat) : (clearGranules s p n).orphans = s.orphans := rfl
@[simp] theorem clearGranules_losses (s : State) (p : Place) (n : Nat) : (clearGranules s p n).losses = s.losses := rfl
@[simp] theorem clearGranules_poison (s : State) (p : Place) (n : Nat) : (clearGranules s p n).poison = s.poison := rfl
@[simp] theorem clearGranules_lostBlocks (s : State) (p : Place) (n : Nat) : (clearGranules s p n).lostBlocks = s.lostBlocks := rfl
@[simp] theorem clearGranules_cleared (s : State) (p : Place) (n : Nat) : (clearGranules s p n).cleared = s.cleared := rfl
@[simp] theorem clearGranules_logs (s : State) (p : Place) (n : Nat) : (clearGranules s p n).logs = s.logs := rfl
@[simp] theorem clearGranules_planted (s : State) (p : Place) (n : Nat) : (clearGranules s p n).planted = s.planted := rfl
@[simp] theorem clearGranules_replays (s : State) (p : Place) (n : Nat) : (clearGranules s p n).replays = s.replays := rfl
@[simp] theorem clearGranules_mchk (s : State) (p : Place) (n : Nat) : (clearGranules s p n).mchk = s.mchk := rfl
@[simp] theorem clearGranules_einj (s : State) (p : Place) (n : Nat) : (clearGranules s p n).einj = s.einj := rfl
@[simp] theorem clearGranules_lsel (s : State) (p : Place) (n : Nat) : (clearGranules s p n).lsel = s.lsel := rfl
@[simp] theorem clearGranules_counts (s : State) (p : Place) (n : Nat) : (clearGranules s p n).counts = s.counts := rfl
@[simp] theorem clearGranules_shown (s : State) (p : Place) (n : Nat) : (clearGranules s p n).shown = s.shown := rfl
@[simp] theorem clearGranules_updated (s : State) (p : Place) (n : Nat) : (clearGranules s p n).updated = s.updated := rfl

/-! ### modHelm -/

@[simp] theorem modHelm_tape (s : State) (h : Nat) (f : Helm → Helm) : (modHelm s h f).tape = s.tape := rfl
@[simp] theorem modHelm_focus (s : State) (h : Nat) (f : Helm → Helm) : (modHelm s h f).focus = s.focus := rfl
@[simp] theorem modHelm_cur (s : State) (h : Nat) (f : Helm → Helm) : (modHelm s h f).cur = s.cur := rfl
@[simp] theorem modHelm_freeCount (s : State) (h : Nat) (f : Helm → Helm) : (modHelm s h f).freeCount = s.freeCount := rfl
@[simp] theorem modHelm_nextId (s : State) (h : Nat) (f : Helm → Helm) : (modHelm s h f).nextId = s.nextId := rfl
@[simp] theorem modHelm_clock (s : State) (h : Nat) (f : Helm → Helm) : (modHelm s h f).clock = s.clock := rfl
@[simp] theorem modHelm_mem (s : State) (h : Nat) (f : Helm → Helm) : (modHelm s h f).mem = s.mem := rfl
@[simp] theorem modHelm_cores (s : State) (h : Nat) (f : Helm → Helm) : (modHelm s h f).cores = s.cores := rfl
@[simp] theorem modHelm_homes (s : State) (h : Nat) (f : Helm → Helm) : (modHelm s h f).homes = s.homes := rfl
@[simp] theorem modHelm_hostCache (s : State) (h : Nat) (f : Helm → Helm) : (modHelm s h f).hostCache = s.hostCache := rfl
@[simp] theorem modHelm_watches (s : State) (h : Nat) (f : Helm → Helm) : (modHelm s h f).watches = s.watches := rfl
@[simp] theorem modHelm_ticket (s : State) (h : Nat) (f : Helm → Helm) : (modHelm s h f).ticket = s.ticket := rfl
@[simp] theorem modHelm_tickets (s : State) (h : Nat) (f : Helm → Helm) : (modHelm s h f).tickets = s.tickets := rfl
@[simp] theorem modHelm_anchors (s : State) (h : Nat) (f : Helm → Helm) : (modHelm s h f).anchors = s.anchors := rfl
@[simp] theorem modHelm_queues (s : State) (h : Nat) (f : Helm → Helm) : (modHelm s h f).queues = s.queues := rfl
@[simp] theorem modHelm_nextGrid (s : State) (h : Nat) (f : Helm → Helm) : (modHelm s h f).nextGrid = s.nextGrid := rfl
@[simp] theorem modHelm_grids (s : State) (h : Nat) (f : Helm → Helm) : (modHelm s h f).grids = s.grids := rfl
@[simp] theorem modHelm_binds (s : State) (h : Nat) (f : Helm → Helm) : (modHelm s h f).binds = s.binds := rfl
@[simp] theorem modHelm_regions (s : State) (h : Nat) (f : Helm → Helm) : (modHelm s h f).regions = s.regions := rfl
@[simp] theorem modHelm_badPages (s : State) (h : Nat) (f : Helm → Helm) : (modHelm s h f).badPages = s.badPages := rfl
@[simp] theorem modHelm_fltq (s : State) (h : Nat) (f : Helm → Helm) : (modHelm s h f).fltq = s.fltq := rfl
@[simp] theorem modHelm_fltTail (s : State) (h : Nat) (f : Helm → Helm) : (modHelm s h f).fltTail = s.fltTail := rfl
@[simp] theorem modHelm_fltHead (s : State) (h : Nat) (f : Helm → Helm) : (modHelm s h f).fltHead = s.fltHead := rfl
@[simp] theorem modHelm_fltPend (s : State) (h : Nat) (f : Helm → Helm) : (modHelm s h f).fltPend = s.fltPend := rfl
@[simp] theorem modHelm_rows (s : State) (h : Nat) (f : Helm → Helm) : (modHelm s h f).rows = s.rows := rfl
@[simp] theorem modHelm_ports (s : State) (h : Nat) (f : Helm → Helm) : (modHelm s h f).ports = s.ports := rfl
@[simp] theorem modHelm_hwins (s : State) (h : Nat) (f : Helm → Helm) : (modHelm s h f).hwins = s.hwins := rfl
@[simp] theorem modHelm_roles (s : State) (h : Nat) (f : Helm → Helm) : (modHelm s h f).roles = s.roles := rfl
@[simp] theorem modHelm_contexts (s : State) (h : Nat) (f : Helm → Helm) : (modHelm s h f).contexts = s.contexts := rfl
@[simp] theorem modHelm_hdms (s : State) (h : Nat) (f : Helm → Helm) : (modHelm s h f).hdms = s.hdms := rfl
@[simp] theorem modHelm_inbound (s : State) (h : Nat) (f : Helm → Helm) : (modHelm s h f).inbound = s.inbound := rfl
@[simp] theorem modHelm_sent (s : State) (h : Nat) (f : Helm → Helm) : (modHelm s h f).sent = s.sent := rfl
@[simp] theorem modHelm_outstanding (s : State) (h : Nat) (f : Helm → Helm) : (modHelm s h f).outstanding = s.outstanding := rfl
@[simp] theorem modHelm_landings (s : State) (h : Nat) (f : Helm → Helm) : (modHelm s h f).landings = s.landings := rfl
@[simp] theorem modHelm_hostLines (s : State) (h : Nat) (f : Helm → Helm) : (modHelm s h f).hostLines = s.hostLines := rfl
@[simp] theorem modHelm_files (s : State) (h : Nat) (f : Helm → Helm) : (modHelm s h f).files = s.files := rfl
@[simp] theorem modHelm_handles (s : State) (h : Nat) (f : Helm → Helm) : (modHelm s h f).handles = s.handles := rfl
@[simp] theorem modHelm_console (s : State) (h : Nat) (f : Helm → Helm) : (modHelm s h f).console = s.console := rfl
@[simp] theorem modHelm_fab (s : State) (h : Nat) (f : Helm → Helm) : (modHelm s h f).fab = s.fab := rfl
@[simp] theorem modHelm_fports (s : State) (h : Nat) (f : Helm → Helm) : (modHelm s h f).fports = s.fports := rfl
@[simp] theorem modHelm_shared (s : State) (h : Nat) (f : Helm → Helm) : (modHelm s h f).shared = s.shared := rfl
@[simp] theorem modHelm_exports (s : State) (h : Nat) (f : Helm → Helm) : (modHelm s h f).exports = s.exports := rfl
@[simp] theorem modHelm_directory (s : State) (h : Nat) (f : Helm → Helm) : (modHelm s h f).directory = s.directory := rfl
@[simp] theorem modHelm_copies (s : State) (h : Nat) (f : Helm → Helm) : (modHelm s h f).copies = s.copies := rfl
@[simp] theorem modHelm_lostDies (s : State) (h : Nat) (f : Helm → Helm) : (modHelm s h f).lostDies = s.lostDies := rfl
@[simp] theorem modHelm_lostEnds (s : State) (h : Nat) (f : Helm → Helm) : (modHelm s h f).lostEnds = s.lostEnds := rfl
@[simp] theorem modHelm_orph (s : State) (h : Nat) (f : Helm → Helm) : (modHelm s h f).orph = s.orph := rfl
@[simp] theorem modHelm_orphTail (s : State) (h : Nat) (f : Helm → Helm) : (modHelm s h f).orphTail = s.orphTail := rfl
@[simp] theorem modHelm_orphHead (s : State) (h : Nat) (f : Helm → Helm) : (modHelm s h f).orphHead = s.orphHead := rfl
@[simp] theorem modHelm_orphans (s : State) (h : Nat) (f : Helm → Helm) : (modHelm s h f).orphans = s.orphans := rfl
@[simp] theorem modHelm_losses (s : State) (h : Nat) (f : Helm → Helm) : (modHelm s h f).losses = s.losses := rfl
@[simp] theorem modHelm_poison (s : State) (h : Nat) (f : Helm → Helm) : (modHelm s h f).poison = s.poison := rfl
@[simp] theorem modHelm_lostBlocks (s : State) (h : Nat) (f : Helm → Helm) : (modHelm s h f).lostBlocks = s.lostBlocks := rfl
@[simp] theorem modHelm_cleared (s : State) (h : Nat) (f : Helm → Helm) : (modHelm s h f).cleared = s.cleared := rfl
@[simp] theorem modHelm_logs (s : State) (h : Nat) (f : Helm → Helm) : (modHelm s h f).logs = s.logs := rfl
@[simp] theorem modHelm_planted (s : State) (h : Nat) (f : Helm → Helm) : (modHelm s h f).planted = s.planted := rfl
@[simp] theorem modHelm_replays (s : State) (h : Nat) (f : Helm → Helm) : (modHelm s h f).replays = s.replays := rfl
@[simp] theorem modHelm_mchk (s : State) (h : Nat) (f : Helm → Helm) : (modHelm s h f).mchk = s.mchk := rfl
@[simp] theorem modHelm_einj (s : State) (h : Nat) (f : Helm → Helm) : (modHelm s h f).einj = s.einj := rfl
@[simp] theorem modHelm_lsel (s : State) (h : Nat) (f : Helm → Helm) : (modHelm s h f).lsel = s.lsel := rfl
@[simp] theorem modHelm_counts (s : State) (h : Nat) (f : Helm → Helm) : (modHelm s h f).counts = s.counts := rfl
@[simp] theorem modHelm_shown (s : State) (h : Nat) (f : Helm → Helm) : (modHelm s h f).shown = s.shown := rfl
@[simp] theorem modHelm_updated (s : State) (h : Nat) (f : Helm → Helm) : (modHelm s h f).updated = s.updated := rfl

/-! ### Groups: lanes -/

@[simp] theorem modLane_grid (g : Grp) (l : Nat) (f : Lane → Lane) : (modLane g l f).grid = g.grid := rfl
@[simp] theorem modLane_team (g : Grp) (l : Nat) (f : Lane → Lane) : (modLane g l f).team = g.team := rfl
@[simp] theorem modLane_index (g : Grp) (l : Nat) (f : Lane → Lane) : (modLane g l f).index = g.index := rfl
@[simp] theorem modLane_prio (g : Grp) (l : Nat) (f : Lane → Lane) : (modLane g l f).prio = g.prio := rfl
@[simp] theorem modLane_alloc (g : Grp) (l : Nat) (f : Lane → Lane) : (modLane g l f).alloc = g.alloc := rfl
@[simp] theorem modLane_scal (g : Grp) (l : Nat) (f : Lane → Lane) : (modLane g l f).scal = g.scal := rfl
@[simp] theorem modLane_supervisor (g : Grp) (l : Nat) (f : Lane → Lane) : (modLane g l f).supervisor = g.supervisor := rfl
@[simp] theorem modLane_sregs (g : Grp) (l : Nat) (f : Lane → Lane) : (modLane g l f).sregs = g.sregs := rfl
@[simp] theorem modLane_masks (g : Grp) (l : Nat) (f : Lane → Lane) : (modLane g l f).masks = g.masks := rfl
@[simp] theorem modLane_handles (g : Grp) (l : Nat) (f : Lane → Lane) : (modLane g l f).handles = g.handles := rfl
@[simp] theorem modLane_iters (g : Grp) (l : Nat) (f : Lane → Lane) : (modLane g l f).iters = g.iters := rfl
@[simp] theorem modLane_rdv (g : Grp) (l : Nat) (f : Lane → Lane) : (modLane g l f).rdv = g.rdv := rfl
@[simp] theorem modLane_outs (g : Grp) (l : Nat) (f : Lane → Lane) : (modLane g l f).outs = g.outs := rfl
@[simp] theorem modLane_bars (g : Grp) (l : Nat) (f : Lane → Lane) : (modLane g l f).bars = g.bars := rfl
@[simp] theorem modLane_rep (g : Grp) (l : Nat) (f : Lane → Lane) : (modLane g l f).rep = g.rep := rfl
@[simp] theorem modLane_tack (g : Grp) (l : Nat) (f : Lane → Lane) : (modLane g l f).tack = g.tack := rfl
@[simp] theorem modLane_stop (g : Grp) (l : Nat) (f : Lane → Lane) : (modLane g l f).stop = g.stop := rfl
@[simp] theorem modLane_causes (g : Grp) (l : Nat) (f : Lane → Lane) : (modLane g l f).causes = g.causes := rfl
@[simp] theorem modLane_draining (g : Grp) (l : Nat) (f : Lane → Lane) : (modLane g l f).draining = g.draining := rfl
@[simp] theorem modLane_fence (g : Grp) (l : Nat) (f : Lane → Lane) : (modLane g l f).fence = g.fence := rfl
@[simp] theorem modLane_frozen (g : Grp) (l : Nat) (f : Lane → Lane) : (modLane g l f).frozen = g.frozen := rfl
@[simp] theorem modLane_dropped (g : Grp) (l : Nat) (f : Lane → Lane) : (modLane g l f).dropped = g.dropped := rfl
@[simp] theorem modLane_sysc (g : Grp) (l : Nat) (f : Lane → Lane) : (modLane g l f).sysc = g.sysc := rfl
@[simp] theorem modLane_growth (g : Grp) (l : Nat) (f : Lane → Lane) : (modLane g l f).growth = g.growth := rfl
@[simp] theorem modLane_ftz (g : Grp) (l : Nat) (f : Lane → Lane) : (modLane g l f).ftz = g.ftz := rfl
@[simp] theorem modLane_fair (g : Grp) (l : Nat) (f : Lane → Lane) : (modLane g l f).fair = g.fair := rfl
@[simp] theorem modLane_rdvz (g : Grp) (l : Nat) (f : Lane → Lane) : (modLane g l f).rdvz = g.rdvz := rfl
@[simp] theorem modLane_dmr (g : Grp) (l : Nat) (f : Lane → Lane) : (modLane g l f).dmr = g.dmr := rfl
@[simp] theorem modLane_dmrc (g : Grp) (l : Nat) (f : Lane → Lane) : (modLane g l f).dmrc = g.dmrc := rfl
@[simp] theorem modLane_dmra (g : Grp) (l : Nat) (f : Lane → Lane) : (modLane g l f).dmra = g.dmra := rfl
@[simp] theorem modLane_hint (g : Grp) (l : Nat) (f : Lane → Lane) : (modLane g l f).hint = g.hint := rfl
@[simp] theorem modLane_spill (g : Grp) (l : Nat) (f : Lane → Lane) : (modLane g l f).spill = g.spill := rfl
@[simp] theorem modLane_tretry (g : Grp) (l : Nat) (f : Lane → Lane) : (modLane g l f).tretry = g.tretry := rfl

/-! ### mapLanes -/

@[simp] theorem mapLanes_grid (m : Mask) (f : Nat → Lane → Lane) (g : Grp) : (mapLanes m f g).grid = g.grid := rfl
@[simp] theorem mapLanes_team (m : Mask) (f : Nat → Lane → Lane) (g : Grp) : (mapLanes m f g).team = g.team := rfl
@[simp] theorem mapLanes_index (m : Mask) (f : Nat → Lane → Lane) (g : Grp) : (mapLanes m f g).index = g.index := rfl
@[simp] theorem mapLanes_prio (m : Mask) (f : Nat → Lane → Lane) (g : Grp) : (mapLanes m f g).prio = g.prio := rfl
@[simp] theorem mapLanes_alloc (m : Mask) (f : Nat → Lane → Lane) (g : Grp) : (mapLanes m f g).alloc = g.alloc := rfl
@[simp] theorem mapLanes_scal (m : Mask) (f : Nat → Lane → Lane) (g : Grp) : (mapLanes m f g).scal = g.scal := rfl
@[simp] theorem mapLanes_supervisor (m : Mask) (f : Nat → Lane → Lane) (g : Grp) : (mapLanes m f g).supervisor = g.supervisor := rfl
@[simp] theorem mapLanes_sregs (m : Mask) (f : Nat → Lane → Lane) (g : Grp) : (mapLanes m f g).sregs = g.sregs := rfl
@[simp] theorem mapLanes_masks (m : Mask) (f : Nat → Lane → Lane) (g : Grp) : (mapLanes m f g).masks = g.masks := rfl
@[simp] theorem mapLanes_handles (m : Mask) (f : Nat → Lane → Lane) (g : Grp) : (mapLanes m f g).handles = g.handles := rfl
@[simp] theorem mapLanes_iters (m : Mask) (f : Nat → Lane → Lane) (g : Grp) : (mapLanes m f g).iters = g.iters := rfl
@[simp] theorem mapLanes_rdv (m : Mask) (f : Nat → Lane → Lane) (g : Grp) : (mapLanes m f g).rdv = g.rdv := rfl
@[simp] theorem mapLanes_outs (m : Mask) (f : Nat → Lane → Lane) (g : Grp) : (mapLanes m f g).outs = g.outs := rfl
@[simp] theorem mapLanes_bars (m : Mask) (f : Nat → Lane → Lane) (g : Grp) : (mapLanes m f g).bars = g.bars := rfl
@[simp] theorem mapLanes_rep (m : Mask) (f : Nat → Lane → Lane) (g : Grp) : (mapLanes m f g).rep = g.rep := rfl
@[simp] theorem mapLanes_tack (m : Mask) (f : Nat → Lane → Lane) (g : Grp) : (mapLanes m f g).tack = g.tack := rfl
@[simp] theorem mapLanes_stop (m : Mask) (f : Nat → Lane → Lane) (g : Grp) : (mapLanes m f g).stop = g.stop := rfl
@[simp] theorem mapLanes_causes (m : Mask) (f : Nat → Lane → Lane) (g : Grp) : (mapLanes m f g).causes = g.causes := rfl
@[simp] theorem mapLanes_draining (m : Mask) (f : Nat → Lane → Lane) (g : Grp) : (mapLanes m f g).draining = g.draining := rfl
@[simp] theorem mapLanes_fence (m : Mask) (f : Nat → Lane → Lane) (g : Grp) : (mapLanes m f g).fence = g.fence := rfl
@[simp] theorem mapLanes_frozen (m : Mask) (f : Nat → Lane → Lane) (g : Grp) : (mapLanes m f g).frozen = g.frozen := rfl
@[simp] theorem mapLanes_dropped (m : Mask) (f : Nat → Lane → Lane) (g : Grp) : (mapLanes m f g).dropped = g.dropped := rfl
@[simp] theorem mapLanes_sysc (m : Mask) (f : Nat → Lane → Lane) (g : Grp) : (mapLanes m f g).sysc = g.sysc := rfl
@[simp] theorem mapLanes_growth (m : Mask) (f : Nat → Lane → Lane) (g : Grp) : (mapLanes m f g).growth = g.growth := rfl
@[simp] theorem mapLanes_ftz (m : Mask) (f : Nat → Lane → Lane) (g : Grp) : (mapLanes m f g).ftz = g.ftz := rfl
@[simp] theorem mapLanes_fair (m : Mask) (f : Nat → Lane → Lane) (g : Grp) : (mapLanes m f g).fair = g.fair := rfl
@[simp] theorem mapLanes_rdvz (m : Mask) (f : Nat → Lane → Lane) (g : Grp) : (mapLanes m f g).rdvz = g.rdvz := rfl
@[simp] theorem mapLanes_dmr (m : Mask) (f : Nat → Lane → Lane) (g : Grp) : (mapLanes m f g).dmr = g.dmr := rfl
@[simp] theorem mapLanes_dmrc (m : Mask) (f : Nat → Lane → Lane) (g : Grp) : (mapLanes m f g).dmrc = g.dmrc := rfl
@[simp] theorem mapLanes_dmra (m : Mask) (f : Nat → Lane → Lane) (g : Grp) : (mapLanes m f g).dmra = g.dmra := rfl
@[simp] theorem mapLanes_hint (m : Mask) (f : Nat → Lane → Lane) (g : Grp) : (mapLanes m f g).hint = g.hint := rfl
@[simp] theorem mapLanes_spill (m : Mask) (f : Nat → Lane → Lane) (g : Grp) : (mapLanes m f g).spill = g.spill := rfl
@[simp] theorem mapLanes_tretry (m : Mask) (f : Nat → Lane → Lane) (g : Grp) : (mapLanes m f g).tretry = g.tretry := rfl

/-! ### advance -/

@[simp] theorem advance_grid (m : Mask) (g : Grp) : (advance m g).grid = g.grid := rfl
@[simp] theorem advance_team (m : Mask) (g : Grp) : (advance m g).team = g.team := rfl
@[simp] theorem advance_index (m : Mask) (g : Grp) : (advance m g).index = g.index := rfl
@[simp] theorem advance_prio (m : Mask) (g : Grp) : (advance m g).prio = g.prio := rfl
@[simp] theorem advance_alloc (m : Mask) (g : Grp) : (advance m g).alloc = g.alloc := rfl
@[simp] theorem advance_scal (m : Mask) (g : Grp) : (advance m g).scal = g.scal := rfl
@[simp] theorem advance_supervisor (m : Mask) (g : Grp) : (advance m g).supervisor = g.supervisor := rfl
@[simp] theorem advance_sregs (m : Mask) (g : Grp) : (advance m g).sregs = g.sregs := rfl
@[simp] theorem advance_masks (m : Mask) (g : Grp) : (advance m g).masks = g.masks := rfl
@[simp] theorem advance_handles (m : Mask) (g : Grp) : (advance m g).handles = g.handles := rfl
@[simp] theorem advance_iters (m : Mask) (g : Grp) : (advance m g).iters = g.iters := rfl
@[simp] theorem advance_rdv (m : Mask) (g : Grp) : (advance m g).rdv = g.rdv := rfl
@[simp] theorem advance_outs (m : Mask) (g : Grp) : (advance m g).outs = g.outs := rfl
@[simp] theorem advance_bars (m : Mask) (g : Grp) : (advance m g).bars = g.bars := rfl
@[simp] theorem advance_rep (m : Mask) (g : Grp) : (advance m g).rep = g.rep := rfl
@[simp] theorem advance_tack (m : Mask) (g : Grp) : (advance m g).tack = g.tack := rfl
@[simp] theorem advance_stop (m : Mask) (g : Grp) : (advance m g).stop = g.stop := rfl
@[simp] theorem advance_causes (m : Mask) (g : Grp) : (advance m g).causes = g.causes := rfl
@[simp] theorem advance_draining (m : Mask) (g : Grp) : (advance m g).draining = g.draining := rfl
@[simp] theorem advance_fence (m : Mask) (g : Grp) : (advance m g).fence = g.fence := rfl
@[simp] theorem advance_frozen (m : Mask) (g : Grp) : (advance m g).frozen = g.frozen := rfl
@[simp] theorem advance_dropped (m : Mask) (g : Grp) : (advance m g).dropped = g.dropped := rfl
@[simp] theorem advance_sysc (m : Mask) (g : Grp) : (advance m g).sysc = g.sysc := rfl
@[simp] theorem advance_growth (m : Mask) (g : Grp) : (advance m g).growth = g.growth := rfl
@[simp] theorem advance_ftz (m : Mask) (g : Grp) : (advance m g).ftz = g.ftz := rfl
@[simp] theorem advance_fair (m : Mask) (g : Grp) : (advance m g).fair = g.fair := rfl
@[simp] theorem advance_rdvz (m : Mask) (g : Grp) : (advance m g).rdvz = g.rdvz := rfl
@[simp] theorem advance_dmr (m : Mask) (g : Grp) : (advance m g).dmr = g.dmr := rfl
@[simp] theorem advance_dmrc (m : Mask) (g : Grp) : (advance m g).dmrc = g.dmrc := rfl
@[simp] theorem advance_dmra (m : Mask) (g : Grp) : (advance m g).dmra = g.dmra := rfl
@[simp] theorem advance_hint (m : Mask) (g : Grp) : (advance m g).hint = g.hint := rfl
@[simp] theorem advance_spill (m : Mask) (g : Grp) : (advance m g).spill = g.spill := rfl
@[simp] theorem advance_tretry (m : Mask) (g : Grp) : (advance m g).tretry = g.tretry := rfl

/-! ### putS -/

@[simp] theorem putS_grid (g : Grp) (num n v : Nat) : (putS g num n v).grid = g.grid := rfl
@[simp] theorem putS_team (g : Grp) (num n v : Nat) : (putS g num n v).team = g.team := rfl
@[simp] theorem putS_index (g : Grp) (num n v : Nat) : (putS g num n v).index = g.index := rfl
@[simp] theorem putS_prio (g : Grp) (num n v : Nat) : (putS g num n v).prio = g.prio := rfl
@[simp] theorem putS_alloc (g : Grp) (num n v : Nat) : (putS g num n v).alloc = g.alloc := rfl
@[simp] theorem putS_scal (g : Grp) (num n v : Nat) : (putS g num n v).scal = g.scal := rfl
@[simp] theorem putS_supervisor (g : Grp) (num n v : Nat) : (putS g num n v).supervisor = g.supervisor := rfl
@[simp] theorem putS_lanes (g : Grp) (num n v : Nat) : (putS g num n v).lanes = g.lanes := rfl
@[simp] theorem putS_masks (g : Grp) (num n v : Nat) : (putS g num n v).masks = g.masks := rfl
@[simp] theorem putS_handles (g : Grp) (num n v : Nat) : (putS g num n v).handles = g.handles := rfl
@[simp] theorem putS_iters (g : Grp) (num n v : Nat) : (putS g num n v).iters = g.iters := rfl
@[simp] theorem putS_rdv (g : Grp) (num n v : Nat) : (putS g num n v).rdv = g.rdv := rfl
@[simp] theorem putS_outs (g : Grp) (num n v : Nat) : (putS g num n v).outs = g.outs := rfl
@[simp] theorem putS_bars (g : Grp) (num n v : Nat) : (putS g num n v).bars = g.bars := rfl
@[simp] theorem putS_rep (g : Grp) (num n v : Nat) : (putS g num n v).rep = g.rep := rfl
@[simp] theorem putS_tack (g : Grp) (num n v : Nat) : (putS g num n v).tack = g.tack := rfl
@[simp] theorem putS_stop (g : Grp) (num n v : Nat) : (putS g num n v).stop = g.stop := rfl
@[simp] theorem putS_causes (g : Grp) (num n v : Nat) : (putS g num n v).causes = g.causes := rfl
@[simp] theorem putS_draining (g : Grp) (num n v : Nat) : (putS g num n v).draining = g.draining := rfl
@[simp] theorem putS_fence (g : Grp) (num n v : Nat) : (putS g num n v).fence = g.fence := rfl
@[simp] theorem putS_frozen (g : Grp) (num n v : Nat) : (putS g num n v).frozen = g.frozen := rfl
@[simp] theorem putS_dropped (g : Grp) (num n v : Nat) : (putS g num n v).dropped = g.dropped := rfl
@[simp] theorem putS_sysc (g : Grp) (num n v : Nat) : (putS g num n v).sysc = g.sysc := rfl
@[simp] theorem putS_growth (g : Grp) (num n v : Nat) : (putS g num n v).growth = g.growth := rfl
@[simp] theorem putS_ftz (g : Grp) (num n v : Nat) : (putS g num n v).ftz = g.ftz := rfl
@[simp] theorem putS_fair (g : Grp) (num n v : Nat) : (putS g num n v).fair = g.fair := rfl
@[simp] theorem putS_rdvz (g : Grp) (num n v : Nat) : (putS g num n v).rdvz = g.rdvz := rfl
@[simp] theorem putS_dmr (g : Grp) (num n v : Nat) : (putS g num n v).dmr = g.dmr := rfl
@[simp] theorem putS_dmrc (g : Grp) (num n v : Nat) : (putS g num n v).dmrc = g.dmrc := rfl
@[simp] theorem putS_dmra (g : Grp) (num n v : Nat) : (putS g num n v).dmra = g.dmra := rfl
@[simp] theorem putS_hint (g : Grp) (num n v : Nat) : (putS g num n v).hint = g.hint := rfl
@[simp] theorem putS_spill (g : Grp) (num n v : Nat) : (putS g num n v).spill = g.spill := rfl
@[simp] theorem putS_tretry (g : Grp) (num n v : Nat) : (putS g num n v).tretry = g.tretry := rfl

/-! ### putM -/

@[simp] theorem putM_grid (g : Grp) (m : MReg) (v : Mask) : (putM g m v).grid = g.grid := rfl
@[simp] theorem putM_team (g : Grp) (m : MReg) (v : Mask) : (putM g m v).team = g.team := rfl
@[simp] theorem putM_index (g : Grp) (m : MReg) (v : Mask) : (putM g m v).index = g.index := rfl
@[simp] theorem putM_prio (g : Grp) (m : MReg) (v : Mask) : (putM g m v).prio = g.prio := rfl
@[simp] theorem putM_alloc (g : Grp) (m : MReg) (v : Mask) : (putM g m v).alloc = g.alloc := rfl
@[simp] theorem putM_scal (g : Grp) (m : MReg) (v : Mask) : (putM g m v).scal = g.scal := rfl
@[simp] theorem putM_supervisor (g : Grp) (m : MReg) (v : Mask) : (putM g m v).supervisor = g.supervisor := rfl
@[simp] theorem putM_lanes (g : Grp) (m : MReg) (v : Mask) : (putM g m v).lanes = g.lanes := rfl
@[simp] theorem putM_sregs (g : Grp) (m : MReg) (v : Mask) : (putM g m v).sregs = g.sregs := rfl
@[simp] theorem putM_handles (g : Grp) (m : MReg) (v : Mask) : (putM g m v).handles = g.handles := rfl
@[simp] theorem putM_iters (g : Grp) (m : MReg) (v : Mask) : (putM g m v).iters = g.iters := rfl
@[simp] theorem putM_rdv (g : Grp) (m : MReg) (v : Mask) : (putM g m v).rdv = g.rdv := rfl
@[simp] theorem putM_outs (g : Grp) (m : MReg) (v : Mask) : (putM g m v).outs = g.outs := rfl
@[simp] theorem putM_bars (g : Grp) (m : MReg) (v : Mask) : (putM g m v).bars = g.bars := rfl
@[simp] theorem putM_rep (g : Grp) (m : MReg) (v : Mask) : (putM g m v).rep = g.rep := rfl
@[simp] theorem putM_tack (g : Grp) (m : MReg) (v : Mask) : (putM g m v).tack = g.tack := rfl
@[simp] theorem putM_stop (g : Grp) (m : MReg) (v : Mask) : (putM g m v).stop = g.stop := rfl
@[simp] theorem putM_causes (g : Grp) (m : MReg) (v : Mask) : (putM g m v).causes = g.causes := rfl
@[simp] theorem putM_draining (g : Grp) (m : MReg) (v : Mask) : (putM g m v).draining = g.draining := rfl
@[simp] theorem putM_fence (g : Grp) (m : MReg) (v : Mask) : (putM g m v).fence = g.fence := rfl
@[simp] theorem putM_frozen (g : Grp) (m : MReg) (v : Mask) : (putM g m v).frozen = g.frozen := rfl
@[simp] theorem putM_dropped (g : Grp) (m : MReg) (v : Mask) : (putM g m v).dropped = g.dropped := rfl
@[simp] theorem putM_sysc (g : Grp) (m : MReg) (v : Mask) : (putM g m v).sysc = g.sysc := rfl
@[simp] theorem putM_growth (g : Grp) (m : MReg) (v : Mask) : (putM g m v).growth = g.growth := rfl
@[simp] theorem putM_ftz (g : Grp) (m : MReg) (v : Mask) : (putM g m v).ftz = g.ftz := rfl
@[simp] theorem putM_fair (g : Grp) (m : MReg) (v : Mask) : (putM g m v).fair = g.fair := rfl
@[simp] theorem putM_rdvz (g : Grp) (m : MReg) (v : Mask) : (putM g m v).rdvz = g.rdvz := rfl
@[simp] theorem putM_dmr (g : Grp) (m : MReg) (v : Mask) : (putM g m v).dmr = g.dmr := rfl
@[simp] theorem putM_dmrc (g : Grp) (m : MReg) (v : Mask) : (putM g m v).dmrc = g.dmrc := rfl
@[simp] theorem putM_dmra (g : Grp) (m : MReg) (v : Mask) : (putM g m v).dmra = g.dmra := rfl
@[simp] theorem putM_hint (g : Grp) (m : MReg) (v : Mask) : (putM g m v).hint = g.hint := rfl
@[simp] theorem putM_spill (g : Grp) (m : MReg) (v : Mask) : (putM g m v).spill = g.spill := rfl
@[simp] theorem putM_tretry (g : Grp) (m : MReg) (v : Mask) : (putM g m v).tretry = g.tretry := rfl

/-! ### clearResv -/

@[simp] theorem clearResv_grid (x : Core) (k : Nat) (g : Grp) : (clearResv x k g).grid = g.grid := rfl
@[simp] theorem clearResv_team (x : Core) (k : Nat) (g : Grp) : (clearResv x k g).team = g.team := rfl
@[simp] theorem clearResv_index (x : Core) (k : Nat) (g : Grp) : (clearResv x k g).index = g.index := rfl
@[simp] theorem clearResv_prio (x : Core) (k : Nat) (g : Grp) : (clearResv x k g).prio = g.prio := rfl
@[simp] theorem clearResv_alloc (x : Core) (k : Nat) (g : Grp) : (clearResv x k g).alloc = g.alloc := rfl
@[simp] theorem clearResv_scal (x : Core) (k : Nat) (g : Grp) : (clearResv x k g).scal = g.scal := rfl
@[simp] theorem clearResv_supervisor (x : Core) (k : Nat) (g : Grp) : (clearResv x k g).supervisor = g.supervisor := rfl
@[simp] theorem clearResv_sregs (x : Core) (k : Nat) (g : Grp) : (clearResv x k g).sregs = g.sregs := rfl
@[simp] theorem clearResv_masks (x : Core) (k : Nat) (g : Grp) : (clearResv x k g).masks = g.masks := rfl
@[simp] theorem clearResv_handles (x : Core) (k : Nat) (g : Grp) : (clearResv x k g).handles = g.handles := rfl
@[simp] theorem clearResv_iters (x : Core) (k : Nat) (g : Grp) : (clearResv x k g).iters = g.iters := rfl
@[simp] theorem clearResv_rdv (x : Core) (k : Nat) (g : Grp) : (clearResv x k g).rdv = g.rdv := rfl
@[simp] theorem clearResv_outs (x : Core) (k : Nat) (g : Grp) : (clearResv x k g).outs = g.outs := rfl
@[simp] theorem clearResv_bars (x : Core) (k : Nat) (g : Grp) : (clearResv x k g).bars = g.bars := rfl
@[simp] theorem clearResv_rep (x : Core) (k : Nat) (g : Grp) : (clearResv x k g).rep = g.rep := rfl
@[simp] theorem clearResv_tack (x : Core) (k : Nat) (g : Grp) : (clearResv x k g).tack = g.tack := rfl
@[simp] theorem clearResv_stop (x : Core) (k : Nat) (g : Grp) : (clearResv x k g).stop = g.stop := rfl
@[simp] theorem clearResv_causes (x : Core) (k : Nat) (g : Grp) : (clearResv x k g).causes = g.causes := rfl
@[simp] theorem clearResv_draining (x : Core) (k : Nat) (g : Grp) : (clearResv x k g).draining = g.draining := rfl
@[simp] theorem clearResv_fence (x : Core) (k : Nat) (g : Grp) : (clearResv x k g).fence = g.fence := rfl
@[simp] theorem clearResv_frozen (x : Core) (k : Nat) (g : Grp) : (clearResv x k g).frozen = g.frozen := rfl
@[simp] theorem clearResv_dropped (x : Core) (k : Nat) (g : Grp) : (clearResv x k g).dropped = g.dropped := rfl
@[simp] theorem clearResv_sysc (x : Core) (k : Nat) (g : Grp) : (clearResv x k g).sysc = g.sysc := rfl
@[simp] theorem clearResv_growth (x : Core) (k : Nat) (g : Grp) : (clearResv x k g).growth = g.growth := rfl
@[simp] theorem clearResv_ftz (x : Core) (k : Nat) (g : Grp) : (clearResv x k g).ftz = g.ftz := rfl
@[simp] theorem clearResv_fair (x : Core) (k : Nat) (g : Grp) : (clearResv x k g).fair = g.fair := rfl
@[simp] theorem clearResv_rdvz (x : Core) (k : Nat) (g : Grp) : (clearResv x k g).rdvz = g.rdvz := rfl
@[simp] theorem clearResv_dmr (x : Core) (k : Nat) (g : Grp) : (clearResv x k g).dmr = g.dmr := rfl
@[simp] theorem clearResv_dmrc (x : Core) (k : Nat) (g : Grp) : (clearResv x k g).dmrc = g.dmrc := rfl
@[simp] theorem clearResv_dmra (x : Core) (k : Nat) (g : Grp) : (clearResv x k g).dmra = g.dmra := rfl
@[simp] theorem clearResv_hint (x : Core) (k : Nat) (g : Grp) : (clearResv x k g).hint = g.hint := rfl
@[simp] theorem clearResv_spill (x : Core) (k : Nat) (g : Grp) : (clearResv x k g).spill = g.spill := rfl
@[simp] theorem clearResv_tretry (x : Core) (k : Nat) (g : Grp) : (clearResv x k g).tretry = g.tretry := rfl

/-! ### endTack -/

@[simp] theorem endTack_grid (g : Grp) : (endTack g).grid = g.grid := by
  unfold endTack; split <;> rfl
@[simp] theorem endTack_team (g : Grp) : (endTack g).team = g.team := by
  unfold endTack; split <;> rfl
@[simp] theorem endTack_index (g : Grp) : (endTack g).index = g.index := by
  unfold endTack; split <;> rfl
@[simp] theorem endTack_prio (g : Grp) : (endTack g).prio = g.prio := by
  unfold endTack; split <;> rfl
@[simp] theorem endTack_alloc (g : Grp) : (endTack g).alloc = g.alloc := by
  unfold endTack; split <;> rfl
@[simp] theorem endTack_scal (g : Grp) : (endTack g).scal = g.scal := by
  unfold endTack; split <;> rfl
@[simp] theorem endTack_supervisor (g : Grp) : (endTack g).supervisor = g.supervisor := by
  unfold endTack; split <;> rfl
@[simp] theorem endTack_sregs (g : Grp) : (endTack g).sregs = g.sregs := by
  unfold endTack; split <;> rfl
@[simp] theorem endTack_masks (g : Grp) : (endTack g).masks = g.masks := by
  unfold endTack; split <;> rfl
@[simp] theorem endTack_handles (g : Grp) : (endTack g).handles = g.handles := by
  unfold endTack; split <;> rfl
@[simp] theorem endTack_iters (g : Grp) : (endTack g).iters = g.iters := by
  unfold endTack; split <;> rfl
@[simp] theorem endTack_rdv (g : Grp) : (endTack g).rdv = g.rdv := by
  unfold endTack; split <;> rfl
@[simp] theorem endTack_outs (g : Grp) : (endTack g).outs = g.outs := by
  unfold endTack; split <;> rfl
@[simp] theorem endTack_bars (g : Grp) : (endTack g).bars = g.bars := by
  unfold endTack; split <;> rfl
@[simp] theorem endTack_rep (g : Grp) : (endTack g).rep = g.rep := by
  unfold endTack; split <;> rfl
@[simp] theorem endTack_stop (g : Grp) : (endTack g).stop = g.stop := by
  unfold endTack; split <;> rfl
@[simp] theorem endTack_causes (g : Grp) : (endTack g).causes = g.causes := by
  unfold endTack; split <;> rfl
@[simp] theorem endTack_draining (g : Grp) : (endTack g).draining = g.draining := by
  unfold endTack; split <;> rfl
@[simp] theorem endTack_fence (g : Grp) : (endTack g).fence = g.fence := by
  unfold endTack; split <;> rfl
@[simp] theorem endTack_frozen (g : Grp) : (endTack g).frozen = g.frozen := by
  unfold endTack; split <;> rfl
@[simp] theorem endTack_dropped (g : Grp) : (endTack g).dropped = g.dropped := by
  unfold endTack; split <;> rfl
@[simp] theorem endTack_sysc (g : Grp) : (endTack g).sysc = g.sysc := by
  unfold endTack; split <;> rfl
@[simp] theorem endTack_growth (g : Grp) : (endTack g).growth = g.growth := by
  unfold endTack; split <;> rfl
@[simp] theorem endTack_ftz (g : Grp) : (endTack g).ftz = g.ftz := by
  unfold endTack; split <;> rfl
@[simp] theorem endTack_fair (g : Grp) : (endTack g).fair = g.fair := by
  unfold endTack; split <;> rfl
@[simp] theorem endTack_rdvz (g : Grp) : (endTack g).rdvz = g.rdvz := by
  unfold endTack; split <;> rfl
@[simp] theorem endTack_dmr (g : Grp) : (endTack g).dmr = g.dmr := by
  unfold endTack; split <;> rfl
@[simp] theorem endTack_dmrc (g : Grp) : (endTack g).dmrc = g.dmrc := by
  unfold endTack; split <;> rfl
@[simp] theorem endTack_dmra (g : Grp) : (endTack g).dmra = g.dmra := by
  unfold endTack; split <;> rfl
@[simp] theorem endTack_hint (g : Grp) : (endTack g).hint = g.hint := by
  unfold endTack; split <;> rfl
@[simp] theorem endTack_spill (g : Grp) : (endTack g).spill = g.spill := by
  unfold endTack; split <;> rfl
@[simp] theorem endTack_tretry (g : Grp) : (endTack g).tretry = g.tretry := by
  unfold endTack; split <;> rfl

/-! ### finishGrp -/

@[simp] theorem finishGrp_grid (m : Mask) (g : Grp) : (finishGrp m g).grid = g.grid := by
  unfold finishGrp
  split
  · rfl
  · split <;> rfl
@[simp] theorem finishGrp_team (m : Mask) (g : Grp) : (finishGrp m g).team = g.team := by
  unfold finishGrp
  split
  · rfl
  · split <;> rfl
@[simp] theorem finishGrp_index (m : Mask) (g : Grp) : (finishGrp m g).index = g.index := by
  unfold finishGrp
  split
  · rfl
  · split <;> rfl
@[simp] theorem finishGrp_prio (m : Mask) (g : Grp) : (finishGrp m g).prio = g.prio := by
  unfold finishGrp
  split
  · rfl
  · split <;> rfl
@[simp] theorem finishGrp_alloc (m : Mask) (g : Grp) : (finishGrp m g).alloc = g.alloc := by
  unfold finishGrp
  split
  · rfl
  · split <;> rfl
@[simp] theorem finishGrp_scal (m : Mask) (g : Grp) : (finishGrp m g).scal = g.scal := by
  unfold finishGrp
  split
  · rfl
  · split <;> rfl
@[simp] theorem finishGrp_supervisor (m : Mask) (g : Grp) : (finishGrp m g).supervisor = g.supervisor := by
  unfold finishGrp
  split
  · rfl
  · split <;> rfl
@[simp] theorem finishGrp_sregs (m : Mask) (g : Grp) : (finishGrp m g).sregs = g.sregs := by
  unfold finishGrp
  split
  · rfl
  · split <;> rfl
@[simp] theorem finishGrp_masks (m : Mask) (g : Grp) : (finishGrp m g).masks = g.masks := by
  unfold finishGrp
  split
  · rfl
  · split <;> rfl
@[simp] theorem finishGrp_handles (m : Mask) (g : Grp) : (finishGrp m g).handles = g.handles := by
  unfold finishGrp
  split
  · rfl
  · split <;> rfl
@[simp] theorem finishGrp_iters (m : Mask) (g : Grp) : (finishGrp m g).iters = g.iters := by
  unfold finishGrp
  split
  · rfl
  · split <;> rfl
@[simp] theorem finishGrp_rdv (m : Mask) (g : Grp) : (finishGrp m g).rdv = g.rdv := by
  unfold finishGrp
  split
  · rfl
  · split <;> rfl
@[simp] theorem finishGrp_outs (m : Mask) (g : Grp) : (finishGrp m g).outs = g.outs := by
  unfold finishGrp
  split
  · rfl
  · split <;> rfl
@[simp] theorem finishGrp_bars (m : Mask) (g : Grp) : (finishGrp m g).bars = g.bars := by
  unfold finishGrp
  split
  · rfl
  · split <;> rfl
@[simp] theorem finishGrp_tack (m : Mask) (g : Grp) : (finishGrp m g).tack = g.tack := by
  unfold finishGrp
  split
  · rfl
  · split <;> rfl
@[simp] theorem finishGrp_stop (m : Mask) (g : Grp) : (finishGrp m g).stop = g.stop := by
  unfold finishGrp
  split
  · rfl
  · split <;> rfl
@[simp] theorem finishGrp_causes (m : Mask) (g : Grp) : (finishGrp m g).causes = g.causes := by
  unfold finishGrp
  split
  · rfl
  · split <;> rfl
@[simp] theorem finishGrp_draining (m : Mask) (g : Grp) : (finishGrp m g).draining = g.draining := by
  unfold finishGrp
  split
  · rfl
  · split <;> rfl
@[simp] theorem finishGrp_fence (m : Mask) (g : Grp) : (finishGrp m g).fence = g.fence := by
  unfold finishGrp
  split
  · rfl
  · split <;> rfl
@[simp] theorem finishGrp_frozen (m : Mask) (g : Grp) : (finishGrp m g).frozen = g.frozen := by
  unfold finishGrp
  split
  · rfl
  · split <;> rfl
@[simp] theorem finishGrp_dropped (m : Mask) (g : Grp) : (finishGrp m g).dropped = g.dropped := by
  unfold finishGrp
  split
  · rfl
  · split <;> rfl
@[simp] theorem finishGrp_sysc (m : Mask) (g : Grp) : (finishGrp m g).sysc = g.sysc := by
  unfold finishGrp
  split
  · rfl
  · split <;> rfl
@[simp] theorem finishGrp_growth (m : Mask) (g : Grp) : (finishGrp m g).growth = g.growth := by
  unfold finishGrp
  split
  · rfl
  · split <;> rfl
@[simp] theorem finishGrp_ftz (m : Mask) (g : Grp) : (finishGrp m g).ftz = g.ftz := by
  unfold finishGrp
  split
  · rfl
  · split <;> rfl
@[simp] theorem finishGrp_fair (m : Mask) (g : Grp) : (finishGrp m g).fair = g.fair := by
  unfold finishGrp
  split
  · rfl
  · split <;> rfl
@[simp] theorem finishGrp_rdvz (m : Mask) (g : Grp) : (finishGrp m g).rdvz = g.rdvz := by
  unfold finishGrp
  split
  · rfl
  · split <;> rfl
@[simp] theorem finishGrp_dmr (m : Mask) (g : Grp) : (finishGrp m g).dmr = g.dmr := by
  unfold finishGrp
  split
  · rfl
  · split <;> rfl
@[simp] theorem finishGrp_dmrc (m : Mask) (g : Grp) : (finishGrp m g).dmrc = g.dmrc := by
  unfold finishGrp
  split
  · rfl
  · split <;> rfl
@[simp] theorem finishGrp_dmra (m : Mask) (g : Grp) : (finishGrp m g).dmra = g.dmra := by
  unfold finishGrp
  split
  · rfl
  · split <;> rfl
@[simp] theorem finishGrp_hint (m : Mask) (g : Grp) : (finishGrp m g).hint = g.hint := by
  unfold finishGrp
  split
  · rfl
  · split <;> rfl
@[simp] theorem finishGrp_spill (m : Mask) (g : Grp) : (finishGrp m g).spill = g.spill := by
  unfold finishGrp
  split
  · rfl
  · split <;> rfl
@[simp] theorem finishGrp_tretry (m : Mask) (g : Grp) : (finishGrp m g).tretry = g.tretry := by
  unfold finishGrp
  split
  · rfl
  · split <;> rfl

/-! ### Lanes: wrV -/

@[simp] theorem wrV_status (ln : Lane) (name n v : Nat) : (wrV ln name n v).status = ln.status := rfl
@[simp] theorem wrV_pc (ln : Lane) (name n v : Nat) : (wrV ln name n v).pc = ln.pc := rfl
@[simp] theorem wrV_preds (ln : Lane) (name n v : Nat) : (wrV ln name n v).preds = ln.preds := rfl
@[simp] theorem wrV_base (ln : Lane) (name n v : Nat) : (wrV ln name n v).base = ln.base := rfl
@[simp] theorem wrV_depth (ln : Lane) (name n v : Nat) : (wrV ln name n v).depth = ln.depth := rfl
@[simp] theorem wrV_cab (ln : Lane) (name n v : Nat) : (wrV ln name n v).cab = ln.cab := rfl
@[simp] theorem wrV_spill (ln : Lane) (name n v : Nat) : (wrV ln name n v).spill = ln.spill := rfl
@[simp] theorem wrV_fibre (ln : Lane) (name n v : Nat) : (wrV ln name n v).fibre = ln.fibre := rfl
@[simp] theorem wrV_starve (ln : Lane) (name n v : Nat) : (wrV ln name n v).starve = ln.starve := rfl
@[simp] theorem wrV_lsw (ln : Lane) (name n v : Nat) : (wrV ln name n v).lsw = ln.lsw := rfl
@[simp] theorem wrV_wait (ln : Lane) (name n v : Nat) : (wrV ln name n v).wait = ln.wait := rfl
@[simp] theorem wrV_resv (ln : Lane) (name n v : Nat) : (wrV ln name n v).resv = ln.resv := rfl
@[simp] theorem wrV_txn (ln : Lane) (name n v : Nat) : (wrV ln name n v).txn = ln.txn := rfl
@[simp] theorem wrV_txnStart (ln : Lane) (name n v : Nat) : (wrV ln name n v).txnStart = ln.txnStart := rfl
@[simp] theorem wrV_conflict (ln : Lane) (name n v : Nat) : (wrV ln name n v).conflict = ln.conflict := rfl

/-! ### addFlags -/

@[simp] theorem addFlags_status (ln : Lane) (f : Flags) : (addFlags ln f).status = ln.status := rfl
@[simp] theorem addFlags_pc (ln : Lane) (f : Flags) : (addFlags ln f).pc = ln.pc := rfl
@[simp] theorem addFlags_preds (ln : Lane) (f : Flags) : (addFlags ln f).preds = ln.preds := rfl
@[simp] theorem addFlags_base (ln : Lane) (f : Flags) : (addFlags ln f).base = ln.base := rfl
@[simp] theorem addFlags_depth (ln : Lane) (f : Flags) : (addFlags ln f).depth = ln.depth := rfl
@[simp] theorem addFlags_cab (ln : Lane) (f : Flags) : (addFlags ln f).cab = ln.cab := rfl
@[simp] theorem addFlags_spill (ln : Lane) (f : Flags) : (addFlags ln f).spill = ln.spill := rfl
@[simp] theorem addFlags_fibre (ln : Lane) (f : Flags) : (addFlags ln f).fibre = ln.fibre := rfl
@[simp] theorem addFlags_starve (ln : Lane) (f : Flags) : (addFlags ln f).starve = ln.starve := rfl
@[simp] theorem addFlags_wait (ln : Lane) (f : Flags) : (addFlags ln f).wait = ln.wait := rfl
@[simp] theorem addFlags_regs (ln : Lane) (f : Flags) : (addFlags ln f).regs = ln.regs := rfl
@[simp] theorem addFlags_resv (ln : Lane) (f : Flags) : (addFlags ln f).resv = ln.resv := rfl
@[simp] theorem addFlags_txn (ln : Lane) (f : Flags) : (addFlags ln f).txn = ln.txn := rfl
@[simp] theorem addFlags_txnStart (ln : Lane) (f : Flags) : (addFlags ln f).txnStart = ln.txnStart := rfl
@[simp] theorem addFlags_conflict (ln : Lane) (f : Flags) : (addFlags ln f).conflict = ln.conflict := rfl

/-! ### setLsw -/

@[simp] theorem setLsw_status (ln : Lane) (txa : Bool) (tr cause : Nat) : (setLsw ln txa tr cause).status = ln.status := by
  unfold setLsw; rfl
@[simp] theorem setLsw_pc (ln : Lane) (txa : Bool) (tr cause : Nat) : (setLsw ln txa tr cause).pc = ln.pc := by
  unfold setLsw; rfl
@[simp] theorem setLsw_preds (ln : Lane) (txa : Bool) (tr cause : Nat) : (setLsw ln txa tr cause).preds = ln.preds := by
  unfold setLsw; rfl
@[simp] theorem setLsw_base (ln : Lane) (txa : Bool) (tr cause : Nat) : (setLsw ln txa tr cause).base = ln.base := by
  unfold setLsw; rfl
@[simp] theorem setLsw_depth (ln : Lane) (txa : Bool) (tr cause : Nat) : (setLsw ln txa tr cause).depth = ln.depth := by
  unfold setLsw; rfl
@[simp] theorem setLsw_cab (ln : Lane) (txa : Bool) (tr cause : Nat) : (setLsw ln txa tr cause).cab = ln.cab := by
  unfold setLsw; rfl
@[simp] theorem setLsw_spill (ln : Lane) (txa : Bool) (tr cause : Nat) : (setLsw ln txa tr cause).spill = ln.spill := by
  unfold setLsw; rfl
@[simp] theorem setLsw_fibre (ln : Lane) (txa : Bool) (tr cause : Nat) : (setLsw ln txa tr cause).fibre = ln.fibre := by
  unfold setLsw; rfl
@[simp] theorem setLsw_starve (ln : Lane) (txa : Bool) (tr cause : Nat) : (setLsw ln txa tr cause).starve = ln.starve := by
  unfold setLsw; rfl
@[simp] theorem setLsw_wait (ln : Lane) (txa : Bool) (tr cause : Nat) : (setLsw ln txa tr cause).wait = ln.wait := by
  unfold setLsw; rfl
@[simp] theorem setLsw_regs (ln : Lane) (txa : Bool) (tr cause : Nat) : (setLsw ln txa tr cause).regs = ln.regs := by
  unfold setLsw; rfl
@[simp] theorem setLsw_resv (ln : Lane) (txa : Bool) (tr cause : Nat) : (setLsw ln txa tr cause).resv = ln.resv := by
  unfold setLsw; rfl
@[simp] theorem setLsw_txn (ln : Lane) (txa : Bool) (tr cause : Nat) : (setLsw ln txa tr cause).txn = ln.txn := by
  unfold setLsw; rfl
@[simp] theorem setLsw_txnStart (ln : Lane) (txa : Bool) (tr cause : Nat) : (setLsw ln txa tr cause).txnStart = ln.txnStart := by
  unfold setLsw; rfl
@[simp] theorem setLsw_conflict (ln : Lane) (txa : Bool) (tr cause : Nat) : (setLsw ln txa tr cause).conflict = ln.conflict := by
  unfold setLsw; rfl

/-! ### setP -/

@[simp] theorem setP_status (ln : Lane) (p : PReg) (b : Bool) : (setP ln p b).status = ln.status := by
  unfold setP; split <;> rfl
@[simp] theorem setP_pc (ln : Lane) (p : PReg) (b : Bool) : (setP ln p b).pc = ln.pc := by
  unfold setP; split <;> rfl
@[simp] theorem setP_base (ln : Lane) (p : PReg) (b : Bool) : (setP ln p b).base = ln.base := by
  unfold setP; split <;> rfl
@[simp] theorem setP_depth (ln : Lane) (p : PReg) (b : Bool) : (setP ln p b).depth = ln.depth := by
  unfold setP; split <;> rfl
@[simp] theorem setP_cab (ln : Lane) (p : PReg) (b : Bool) : (setP ln p b).cab = ln.cab := by
  unfold setP; split <;> rfl
@[simp] theorem setP_spill (ln : Lane) (p : PReg) (b : Bool) : (setP ln p b).spill = ln.spill := by
  unfold setP; split <;> rfl
@[simp] theorem setP_fibre (ln : Lane) (p : PReg) (b : Bool) : (setP ln p b).fibre = ln.fibre := by
  unfold setP; split <;> rfl
@[simp] theorem setP_starve (ln : Lane) (p : PReg) (b : Bool) : (setP ln p b).starve = ln.starve := by
  unfold setP; split <;> rfl
@[simp] theorem setP_lsw (ln : Lane) (p : PReg) (b : Bool) : (setP ln p b).lsw = ln.lsw := by
  unfold setP; split <;> rfl
@[simp] theorem setP_wait (ln : Lane) (p : PReg) (b : Bool) : (setP ln p b).wait = ln.wait := by
  unfold setP; split <;> rfl
@[simp] theorem setP_regs (ln : Lane) (p : PReg) (b : Bool) : (setP ln p b).regs = ln.regs := by
  unfold setP; split <;> rfl
@[simp] theorem setP_resv (ln : Lane) (p : PReg) (b : Bool) : (setP ln p b).resv = ln.resv := by
  unfold setP; split <;> rfl
@[simp] theorem setP_txn (ln : Lane) (p : PReg) (b : Bool) : (setP ln p b).txn = ln.txn := by
  unfold setP; split <;> rfl
@[simp] theorem setP_txnStart (ln : Lane) (p : PReg) (b : Bool) : (setP ln p b).txnStart = ln.txnStart := by
  unfold setP; split <;> rfl
@[simp] theorem setP_conflict (ln : Lane) (p : PReg) (b : Bool) : (setP ln p b).conflict = ln.conflict := by
  unfold setP; split <;> rfl

end Sys2Proof.Machine
end

