-- ==== Sys2Proof/Laws/Ops.lean ====
section
/-! SUPPORT. The laws of the named operations: masks and lists, lanes and groups by their place, registers, what a trap
leaves (10 R220 to R223), and what the frame of a vector word can come to. -/

namespace Sys2Proof.Machine

/-! ## Masks -/

theorem maskBelow_lt (f : Nat → Bool) (n : Nat) : maskBelow f n < 2 ^ n := by
  induction n with
  | zero => simp [maskBelow]
  | succ n ih =>
    simp only [maskBelow, Nat.pow_succ]
    split <;> omega

theorem maskBelow_testBit (f : Nat → Bool) (n l : Nat) :
    (maskBelow f n).testBit l = (decide (l < n) && f l) := by
  induction n with
  | zero => simp [maskBelow]
  | succ n ih =>
    have hlt := maskBelow_lt f n
    rcases Nat.lt_trichotomy l n with h | h | h
    · have h1 : l < n + 1 := by omega
      by_cases hf : f n
      · simp [maskBelow, hf, Nat.add_comm _ (2 ^ n), Nat.testBit_two_pow_add_gt h, ih, h, h1]
      · simp [maskBelow, hf, ih, h, h1]
    · subst h
      by_cases hf : f l
      · simp [maskBelow, hf, Nat.add_comm _ (2 ^ l), Nat.testBit_two_pow_add_eq, ih]
      · simp [maskBelow, hf, ih]
    · have h1 : ¬ l < n + 1 := by omega
      have h2 : maskBelow f (n + 1) < 2 ^ l :=
        Nat.lt_of_lt_of_le (maskBelow_lt f (n + 1)) (Nat.pow_le_pow_right (by omega) (by omega))
      simp [Nat.testBit_lt_two_pow h2, h1]

/-- A mask holds the lanes that its test names. -/
@[simp] theorem getLsbD_maskOf (f : Nat → Bool) (l : Nat) : (maskOf f).getLsbD l = (decide (l < 64) && f l) := by
  simp only [maskOf, BitVec.getLsbD_ofNat, maskBelow_testBit]
  by_cases h : l < 64 <;> simp [h]

theorem getLsbD_oneLane (l i : Nat) (h : l < 64) : (oneLane l).getLsbD i = decide (i = l) := by
  simp only [oneLane, BitVec.getLsbD_ofNat, Nat.testBit_two_pow]
  by_cases hi : i = l
  · subst hi; simp [h]
  · simp [hi, Ne.symm hi]

/-- The lanes of a mask are those whose bits are set. -/
theorem mem_lanesOf (m : Mask) (l : Nat) : l ∈ lanesOf m ↔ m.getLsbD l = true := by
  simp only [lanesOf, List.mem_filter, List.mem_range, and_iff_right_iff_imp]
  intro h
  exact BitVec.lt_of_getLsbD h

/-- The lane that `lowest` names is in the mask. -/
theorem lowest_mem {m : Mask} {l : Nat} (h : lowest m = some l) : m.getLsbD l = true :=
  (mem_lanesOf m l).mp (List.mem_of_mem_head? h)

/-! ## Lists by their index -/

@[simp] theorem length_mapFrom {α β : Type} (f : Nat → α → β) (i : Nat) (xs : List α) :
    (mapFrom f i xs).length = xs.length := by
  induction xs generalizing i with
  | nil => rfl
  | cons x xs ih => simp [mapFrom, ih]

theorem getD_mapFrom {α β : Type} (f : Nat → α → β) (i n : Nat) (xs : List α) (d : α) (e : β) (h : n < xs.length) :
    (mapFrom f i xs).getD n e = f (i + n) (xs.getD n d) := by
  induction xs generalizing i n with
  | nil => simp at h
  | cons x xs ih =>
    cases n with
    | zero => simp [mapFrom]
    | succ n =>
      have h' : n < xs.length := by simpa using h
      have := ih (i + 1) n h'
      simp only [mapFrom, List.getD_cons_succ, this]
      congr 1; omega

@[simp] theorem length_modAt {α : Type} (f : α → α) (n : Nat) (xs : List α) : (modAt f n xs).length = xs.length := by
  induction xs generalizing n with
  | nil => simp [modAt]
  | cons x xs ih => cases n <;> simp [modAt, ih]

theorem getD_modAt {α : Type} (f : α → α) (n m : Nat) (xs : List α) (d : α) (h : m < xs.length) :
    (modAt f n xs).getD m d = if m = n then f (xs.getD m d) else xs.getD m d := by
  induction xs generalizing n m with
  | nil => simp at h
  | cons x xs ih =>
    cases n with
    | zero => cases m <;> simp [modAt]
    | succ n =>
      cases m with
      | zero => simp [modAt]
      | succ m => simpa [modAt] using ih n m (by simpa using h)

/-! ## Cores, groups and lanes by their place -/

theorem coreAt_setCore (s : State) (c : Nat) (x : Core) (h : c < s.cores.length) : coreAt (setCore s c x) c = x := by
  simp [coreAt, setCore, h]

theorem coreAt_setCore_ne (s : State) (c c' : Nat) (x : Core) (h : c' ≠ c) :
    coreAt (setCore s c x) c' = coreAt s c' := by
  simp [coreAt, setCore, List.getElem?_set_ne (Ne.symm h)]

/-- A group written to a slot is the group there. -/
theorem grpAt_setGrp (s : State) (c k : Nat) (g : Option Grp) (hc : c < s.cores.length)
    (hk : k < (coreAt s c).groups.length) : grpAt (setGrp s c k g) c k = g := by
  simp [grpAt, grpIn, setGrp, modCore, coreAt_setCore _ _ _ hc, hk]

theorem grpAt_setGrp_ne (s : State) (c k c' k' : Nat) (g : Option Grp) (h : c' ≠ c ∨ k' ≠ k) :
    grpAt (setGrp s c k g) c' k' = grpAt s c' k' := by
  by_cases hc : c' = c
  · subst hc
    have hk : k' ≠ k := by simpa using h
    by_cases hl : c' < s.cores.length
    · simp [grpAt, grpIn, setGrp, modCore, coreAt_setCore _ _ _ hl, List.getElem?_set_ne (Ne.symm hk)]
    · simp [grpAt, setGrp, modCore, coreAt, setCore, hl]
  · simp [grpAt, setGrp, modCore, coreAt_setCore_ne _ _ _ _ hc]

/-- A slot that holds a group exists. -/
theorem lt_of_grpAt {s : State} {c k : Nat} {g : Grp} (h : grpAt s c k = some g) : k < (coreAt s c).groups.length := by
  by_contra hn
  have : (coreAt s c).groups[k]? = none := by simp at hn ⊢; exact hn
  simp [grpAt, grpIn, this] at h

theorem modGrp_some {s : State} {c k : Nat} {g : Grp} (f : Grp → Grp) (h : grpAt s c k = some g) :
    modGrp s c k f = setGrp s c k (some (f g)) := by
  simp [modGrp, h]

@[simp] theorem length_modLane (g : Grp) (l : Nat) (f : Lane → Lane) : (modLane g l f).lanes.length = g.lanes.length := by
  simp [modLane]

@[simp] theorem length_mapLanes (m : Mask) (f : Nat → Lane → Lane) (g : Grp) :
    (mapLanes m f g).lanes.length = g.lanes.length := by
  simp [mapLanes]

/-- A lane after a change of one lane. -/
theorem laneAt_modLane (g : Grp) (l l' : Nat) (f : Lane → Lane) (h : l' < g.lanes.length) :
    laneAt (modLane g l f) l' = if l' = l then f (laneAt g l') else laneAt g l' :=
  getD_modAt f l l' g.lanes Lane.empty h

/-- A lane after a change of the lanes of a mask. -/
theorem laneAt_mapLanes (m : Mask) (f : Nat → Lane → Lane) (g : Grp) (l : Nat) (h : l < g.lanes.length) :
    laneAt (mapLanes m f g) l = if m.getLsbD l then f l (laneAt g l) else laneAt g l := by
  have := getD_mapFrom (fun l ln => if m.getLsbD l then f l ln else ln) 0 l g.lanes Lane.empty Lane.empty h
  simpa [laneAt, mapLanes] using this

/-- A lane that no slot holds is the empty one, before and after. -/
theorem laneAt_out (g : Grp) (l : Nat) (h : g.lanes.length ≤ l) : laneAt g l = Lane.empty := by
  simp [laneAt, List.getElem?_eq_none h]

@[simp] theorem laneAt_putS (g : Grp) (num n v l : Nat) : laneAt (putS g num n v) l = laneAt g l := rfl
@[simp] theorem laneAt_putM (g : Grp) (m : MReg) (v : Mask) (l : Nat) : laneAt (putM g m v) l = laneAt g l := rfl

@[simp] theorem laneAt_mirrorCount (m : Mask) (g : Grp) (l : Nat) : laneAt (mirrorCount m g) l = laneAt g l := by
  unfold mirrorCount
  dsimp only
  split <;> rfl

/-- A word done: the lanes of its set stand 8 further, unless a REP that stands there has issues left. -/
theorem finishGrp_none {m : Mask} {g : Grp} (h : g.rep = none) : finishGrp m g = advance m g := by
  simp [finishGrp, h]

/-- Where no REP stands, a word's PC update is the only change of a lane at its end. -/
theorem laneAt_advance (m : Mask) (g : Grp) (l : Nat) (h : l < g.lanes.length) :
    laneAt (advance m g) l = if m.getLsbD l then { laneAt g l with pc := (laneAt g l).pc + 8 } else laneAt g l :=
  laneAt_mapLanes m _ g l h

/-! ## Registers -/

/-- Every write of registers keeps their canonical form. -/
theorem putV_wfFrom (regs : Sparse 32) (p v n : Nat) (h : Sparse.wfFrom 0 regs = true) :
    Sparse.wfFrom 0 (putV regs p v n) = true := by
  induction n generalizing regs p v with
  | zero => exact h
  | succ n ih => exact ih _ _ _ (sset_wfFrom regs p _ 0 (Nat.zero_le p) h)

/-- A register outside those written keeps its value. -/
theorem sget_putV_outside (regs : Sparse 32) (p v n q : Nat) (h : Sparse.wfFrom 0 regs = true) (hq : q < p ∨ p + n ≤ q) :
    sget (putV regs p v n) q = sget regs q := by
  induction n generalizing regs p v with
  | zero => rfl
  | succ n ih =>
    have h1 : q ≠ p := by omega
    rw [putV, ih _ _ _ (sset_wfFrom regs p _ 0 (Nat.zero_le p) h) (by omega), sget_sset_from regs p q _ 0 h, if_neg h1]

/-- Reading back what a write left in registers. -/
theorem sget_putV (regs : Sparse 32) (p v n i : Nat) (h : Sparse.wfFrom 0 regs = true) (hi : i < n) :
    sget (putV regs p v n) (p + i) = BitVec.ofNat 32 (v / 2 ^ (32 * i)) := by
  induction n generalizing regs p v i with
  | zero => omega
  | succ n ih =>
    have hw := sset_wfFrom regs p (BitVec.ofNat 32 v) 0 (Nat.zero_le p) h
    cases i with
    | zero =>
      rw [putV, sget_putV_outside _ _ _ _ _ hw (by omega)]
      simp [sget_sset_from regs p p _ 0 h]
    | succ i =>
      have := ih (sset regs p (BitVec.ofNat 32 v)) (p + 1) (v / 2 ^ 32) i hw (by omega)
      rw [putV, show p + (i + 1) = p + 1 + i by omega, this, Nat.div_div_eq_div_mul, ← Nat.pow_add]
      congr 3; omega

/-! ## What a trap leaves (R220, R221, R223) -/

/-- A user group that traps stops with the record, which the core holds to write. -/
theorem takeTrap_user {s : State} {c k : Nat} {g : Grp} (r : TrapRec) (h : grpAt s c k = some g)
    (hu : g.supervisor = false) :
    takeTrap s c k r =
      modCore (setGrp (unwatch s c k) c k (some { clearResv (coreAt s c) k (endTack g) with
        stop := some r, rdv := g.rdv.map (Rdv.halt s.clock), bars := g.bars.map (Rdv.halt s.clock) })) c
        fun x => { x with records := x.records ++ [r] } := by
  simp [takeTrap, h, hu]

/-- The supervisor group that traps writes no record; its core's log of kind 0x0C takes the cause and the PC. -/
theorem takeTrap_supervisor {s : State} {c k : Nat} {g : Grp} (r : TrapRec) (h : grpAt s c k = some g)
    (hu : g.supervisor = true) :
    takeTrap s c k r =
      logError (setGrp (unwatch s c k) c k (some { clearResv (coreAt s c) k (endTack g) with
        stop := some r, rdv := g.rdv.map (Rdv.halt s.clock), bars := g.bars.map (Rdv.halt s.clock) }))
        c 0x0C true false r.cause 0 r.pc.toNat := by
  simp [takeTrap, h, hu]

/-! ## The frame of a word -/

/-- A vector word answers a next state, or the fault of a turn that no group takes. -/
theorem withWord_cases (i : Instr) (s : State) (body : Grp → Mask → State) :
    (curGrp s = none ∧ withWord i s body = .fault .noGroup) ∨
    (∃ g gm, curGrp s = some g ∧ gm = guarded (i.guard.getD Guard.always) g s.cur.mask ∧
      (withWord i s body = .next (trap s 0x02 (windowLanes i.uses g gm) 0 0)
        ∨ withWord i s body = .next (trap s 0x1A (fallLanes (coreAt s s.cur.core) g s.cur.mask gm (leavesPc i)) 0 0)
        ∨ withWord i s body = .next (body g gm))) := by
  unfold withWord
  cases hg : curGrp s with
  | none => exact .inl ⟨rfl, rfl⟩
  | some g =>
    refine .inr ⟨g, _, rfl, rfl, ?_⟩
    dsimp only
    split
    · exact .inl rfl
    · split
      · exact .inr (.inl rfl)
      · exact .inr (.inr rfl)

/-- Inside its windows and its segment, a word has its own effect. -/
theorem withWord_next {i : Instr} {s : State} {g : Grp} (body : Grp → Mask → State) (hg : curGrp s = some g)
    (hw : windowLanes i.uses g (guarded (i.guard.getD Guard.always) g s.cur.mask) = 0)
    (hf : fallLanes (coreAt s s.cur.core) g s.cur.mask (guarded (i.guard.getD Guard.always) g s.cur.mask) (leavesPc i) = 0) :
    withWord i s body = .next (body g (guarded (i.guard.getD Guard.always) g s.cur.mask)) := by
  simp [withWord, hg, hw, hf]

/-- A lane-wise word inside its windows and its segment, with no comparison of mirror mode that differs. -/
theorem aluWord_next {i : Instr} {s : State} {g : Grp} (d : Option (Reg × Nat)) (f : Env → Res) (hg : curGrp s = some g)
    (hw : windowLanes i.uses g (guarded (i.guard.getD Guard.always) g s.cur.mask) = 0)
    (hf : fallLanes (coreAt s s.cur.core) g s.cur.mask (guarded (i.guard.getD Guard.always) g s.cur.mask) (leavesPc i) = 0)
    (hm : mirrorFails s g (guarded (i.guard.getD Guard.always) g s.cur.mask) = false) :
    aluWord i d f s = .next (setCurGrp s (finishGrp s.cur.mask
      (if scalarUnit i.uses then putAll s (guarded (i.guard.getD Guard.always) g s.cur.mask) d f g
       else mirrorCount (guarded (i.guard.getD Guard.always) g s.cur.mask)
        (putAll s (guarded (i.guard.getD Guard.always) g s.cur.mask) d f g)))) := by
  rw [aluWord, withWord_next _ hg hw hf]
  simp [hm]

/-- The register destination of a lane-wise word, lane by lane, for a vector register or none. -/
theorem laneAt_putAll_v (s : State) (gm : Mask) (n : Fin 256) (k : Nat) (f : Env → Res) (g : Grp) (l : Nat)
    (h : l < g.lanes.length) :
    laneAt (putAll s gm (some (.v n, k)) f g) l =
      if gm.getLsbD l then putRes (some (.v n, k)) (f (envOf s g l)) (laneAt g l) else laneAt g l :=
  laneAt_mapLanes gm _ g l h

theorem laneAt_putAll_none (s : State) (gm : Mask) (f : Env → Res) (g : Grp) (l : Nat) (h : l < g.lanes.length) :
    laneAt (putAll s gm none f g) l = if gm.getLsbD l then putRes none (f (envOf s g l)) (laneAt g l) else laneAt g l :=
  laneAt_mapLanes gm _ g l h

/-- A word that lanes outside every transaction run is the plain word. -/
theorem withoutTxn_none {cause : Nat} {s : State} {g : Grp} {gm : Mask} (body : State → Grp → Mask → State)
    (h : (maskOf fun l => gm.getLsbD l && inTxn (laneAt g l)) = 0) : withoutTxn cause s g gm body = body s g gm := by
  simp [withoutTxn, h]

end Sys2Proof.Machine
end

