-- ==== Sys2Proof/Tests/Slice0.lean ====
section
/-! SUPPORT. Tests: words written out from the spec's encoding tables, the conditions that WellFormed refuses, single
steps on small states, and for the statements of Certificates/Slice0/Obligations.lean states and operands that meet their
hypotheses. -/

namespace Sys2Proof.Tests

-- One proof at a time: each is checked in a thread with a large stack of its own.
set_option Elab.async false

open Sys2Proof.Machine Sys2Proof.Claims

/-! ## Decoding: a word of every row, from the fields that the spec gives it (02 R28 to R48 and each form's own rule) -/

def integerWords (g : Guard) : List (Nat × Instr) :=
  [(0x0070180404000100, .iadd g .i32 true (.v 3) (.v 1) (.v 2)),
   (0x01A0201B8A003100, .isub { neg := true, p := 2 } .n64 true (.v 4) (.v 6) (.int 5)),
   (0x0270480604031050, .iaddc g .n32 (.v 9) (.v 1) (.s 2) (.v 3) 5),
   (0x0378380404000000, .imul g .i32 false (.s 7) (.v 1) (.v 2)),
   (0x047010100C002000, .imulh g .i64 (.v 2) (.v 4) (.v 6)),
   (0x0570080806041100, .imad g .n32 true (.v 1) (.v 2) (.v 3) (.v 4)),
   (0x06701017BE081000, .imadw g .n32 (.v 2) (.v 5) (.int 31) (.v 8)),
   (0x0770101000002100, .ineg g .i64 true (.v 2) (.v 4)),
   (0x0877FEFC00000000, .iabs g .i32 false (.v 255) (.s 191)),
   (0x0970080BF0001000, .imin g .n32 (.v 1) (.v 2) (.ident .lane)),
   (0x0A70080806000000, .imax g .i32 (.v 1) (.v 2) (.v 3)),
   (0x0B70080B81C90000, .iclamp g .i32 (.v 1) (.v 2) (.int 0) (.int 9)),
   (0x0C7014100E001030, .lea g .n32 (.v 2) (.s 4) (.v 7) 3)]

def logicWords (g : Guard) : List (Nat × Instr) :=
  [(0x1070080806000000, .and g .i32 (.v 1) (.v 2) (.v 3)),
   (0x117010100C002000, .or g .i64 (.v 2) (.v 4) (.v 6)),
   (0x1270080806001000, .xor g .n32 (.v 1) (.v 2) (.v 3)),
   (0x1370080806000000, .andn g .i32 (.v 1) (.v 2) (.v 3)),
   (0x147010100E003000, .shl g .n64 (.v 2) (.v 4) (.v 7)),
   (0x1570080B88000000, .shr g .i32 (.v 1) (.v 2) (.int 4)),
   (0x1670080B88000000, .sar g .i32 (.v 1) (.v 2) (.int 4)),
   (0x1770080B88000000, .rol g .i32 (.v 1) (.v 2) (.int 4)),
   (0x1870080806040000, .funnel g .i32 (.v 1) (.v 2) (.v 3) (.v 4)),
   (0x1970080800000000, .popc g .i32 (.v 1) (.v 2)),
   (0x1970080800002001, .clz g .i64 (.v 1) (.v 2)),
   (0x1970080800000002, .ctz g .i32 (.v 1) (.v 2)),
   (0x1970080800000003, .brev g .i32 (.v 1) (.v 2)),
   (0x1A70080B89C81000, .bfx g .n32 (.v 1) (.v 2) (.int 4) (.int 8)),
   (0x1B70080806040000, .bfi g .i32 (.v 1) (.v 2) (.v 3) (.v 4)),
   (0x1C70080806040000, .bperm g .i32 (.v 1) (.v 2) (.v 3) (.v 4)),
   (0x1D700808060000E0, .sel g .i32 (.v 1) (.v 2) (.v 3) true 6),
   (0x1E700FE000000000, .mov g .i32 (.v 1) (.ident .lane)),
   (0x1F78300180000001, .movi g .i64 (.s 6) 0x80000001)]

def floatWords (g : Guard) : List (Nat × Instr) :=
  [(0x2070080BC4008600, .fadd g .f32 .rup (.v 1) (.v 2) (.flt 2)),
   (0x2170080806009000, .fsub g .f16x2 .rne (.v 1) (.v 2) (.v 3)),
   (0x227008080600A800, .fmul g .bf16x2 .rna (.v 1) (.v 2) (.v 3)),
   (0x2370400806048200, .ffma g .f32 .rtz (.v 8) (.v 2) (.v 3) (.v 4)),
   (0x2470080806008000, .fmin g .f32 (.v 1) (.v 2) (.v 3)),
   (0x2570080806008000, .fmax g .f32 (.v 1) (.v 2) (.v 3)),
   (0x2670080800008400, .frnd g .f32 .rdn (.v 1) (.v 2)),
   (0x2770080800008000, .ffrac g .f32 (.v 1) (.v 2)),
   (0x30701013E400B200, .dadd g .rtz (.v 2) (.v 4) (.flt 18)),
   (0x317010100C00B000, .dsub g .rne (.v 2) (.v 4) (.v 6)),
   (0x327010100C00B000, .dmul g .rne (.v 2) (.v 4) (.v 6)),
   (0x337040080806B000, .dfma g .rne (.v 8) (.v 2) (.v 4) (.v 6)),
   (0x347010100C00B000, .dmin g (.v 2) (.v 4) (.v 6)),
   (0x357010100C00B000, .dmax g (.v 2) (.v 4) (.v 6)),
   (0x367010100000B800, .drnd g .rna (.v 2) (.v 4)),
   (0x387010040000C180, .cvt g .e4m3 .f32 true .rne (.v 2) (.v 1)),
   (0x3970080806009280, .cvtp g .f16FromF32 false .rtz (.v 1) (.v 2) (.v 3)),
   (0x3970100C000080A1, .cvtpUnpk g .f32FromBf16 .rne (.v 2) (.v 3)),
   (0x3A70080800008000, .frcp g .rne (.v 1) (.v 2)),
   (0x3A70080800008201, .frsq g .rtz (.v 1) (.v 2)),
   (0x3A70080800008402, .fsqrt g .rdn (.v 1) (.v 2)),
   (0x3A70080800008603, .fexp2 g .rup (.v 1) (.v 2)),
   (0x3A70080800008804, .flog2 g .rna (.v 1) (.v 2)),
   (0x3A70080800008005, .fsin g .rne (.v 1) (.v 2)),
   (0x3A70080800008206, .fcos g .rtz (.v 1) (.v 2)),
   (0x3A70080800008407, .ftanh g .rdn (.v 1) (.v 2)),
   (0x3A70080800008608, .fsgm g .rup (.v 1) (.v 2)),
   (0x3A70080800008809, .ferf g .rna (.v 1) (.v 2))]

def packedWords (g : Guard) : List (Nat × Instr) :=
  [(0x4070280404054100, .dp2 g .i16 true (.v 5) (.v 1) (.v 2) (.v 5)),
   (0x4170080806047000, .dp4 g .n8 false (.v 1) (.v 2) (.v 3) (.v 4)),
   (0x4270080806005100, .padd2 g .n16 true (.v 1) (.v 2) (.v 3)),
   (0x4370080806004000, .psub2 g .i16 false (.v 1) (.v 2) (.v 3)),
   (0x4470080806004000, .pmax2 g .i16 (.v 1) (.v 2) (.v 3)),
   (0x4570080806005000, .pmin2 g .n16 (.v 1) (.v 2) (.v 3)),
   (0x467030179E004100, .shrnd g .i16 false true (.v 6) (.v 5) (.int 15)),
   (0x4770080806005100, .pack g .n16 true (.v 1) (.v 2) (.v 3)),
   (0x4770080806047001, .sad4 g (.v 1) (.v 2) (.v 3) (.v 4)),
   (0x487007E000000000, .hash g (.v 0) (.ident .lane)),
   (0x4970000002000000, .crc g (.v 0) (.v 0) (.v 1)),
   (0x4A70180404040050, .scmp g (.v 3) (.v 1) (.v 2) (.v 4) 5),
   (0x4B70080806000000, .seqm g (.v 1) (.v 2) (.v 3)),
   (0x4C70080800000010, .sfold g true (.v 1) (.v 2))]

def predicateWords (g : Guard) : List (Nat × Instr) :=
  [(0x5070280B8E003040, .icmp g .n64 .gt 5 (.v 2) (.int 7)),
   (0x5170080BC8008020, .fcmp g .lt 1 (.v 2) (.flt 4)),
   (0x527010080800B050, .dcmp g .ge 2 (.v 2) (.v 4)),
   (0x5370100400000080, .plop g 8 2 1 0),
   (0x5470480000000000, .pmov g (.v 9)),
   (0x5470042400000010, .pmovPw g (.s 9)),
   (0x5470181400000020, .pmovNz g 3 (.v 5)),
   (0x54703017BE000030, .pmovBit g 6 (.v 5) (.int 31))]

def pairWords (_ : Guard) : List (Nat × Instr) :=
  [(0x8380008008018000, .iadd2 { g := 7, d := 0, a := .v 2 } { op := .isub2, args := { g := 0, d := 1, a := .s 0 } }),
   (0x878080C011028082, .isub2 { g := 7, d := 1, a := .v 3 } { op := .imin2 .n32, args := { g := 1, d := 2, a := .s 1 } }),
   (0x8B8101011A038100, .imin2 .n32 { g := 7, d := 2, a := .v 4 } { op := .imax2 .i32, args := { g := 2, d := 3, a := .s 2 } }),
   (0x8F81814023048180, .imax2 .i32 { g := 7, d := 3, a := .v 5 } { op := .and2, args := { g := 3, d := 4, a := .s 3 } }),
   (0x938201802C058200, .and2 { g := 7, d := 4, a := .v 6 } { op := .or2, args := { g := 4, d := 5, a := .s 4 } }),
   (0x978281C035068280, .or2 { g := 7, d := 5, a := .v 7 } { op := .xor2, args := { g := 5, d := 6, a := .s 5 } }),
   (0x9B8302003E078300, .xor2 { g := 7, d := 6, a := .v 8 } { op := .shl2, args := { g := 6, d := 7, a := .s 6 } }),
   (0x9F83824040088380, .shl2 { g := 7, d := 7, a := .v 9 } { op := .shr2, args := { g := 0, d := 8, a := .s 7 } }),
   (0xA384028049098400, .shr2 { g := 7, d := 8, a := .v 10 } { op := .sar2, args := { g := 1, d := 9, a := .s 8 } }),
   (0xA78482C0520A8480, .sar2 { g := 7, d := 9, a := .v 11 } { op := .mov2, args := { g := 2, d := 10, a := .s 9 } }),
   (0xAB8503005B0B8506, .mov2 { g := 7, d := 10, a := .v 12 } { op := .fadd2 .rup, args := { g := 3, d := 11, a := .s 10 } }),
   (0xAF858343640C8580, .fadd2 .rup { g := 7, d := 11, a := .v 13 } { op := .fmul2 .rne, args := { g := 4, d := 12, a := .s 11 } }),
   (0xB38603806D0D8600, .fmul2 .rne { g := 7, d := 12, a := .v 14 } { op := .fmin2, args := { g := 5, d := 13, a := .s 12 } }),
   (0xB78683C0760E8680, .fmin2 { g := 7, d := 13, a := .v 15 } { op := .fmax2, args := { g := 6, d := 14, a := .s 13 } }),
   (0xBB870400780F8702, .fmax2 { g := 7, d := 14, a := .v 16 } { op := .padd2h true, args := { g := 0, d := 15, a := .s 14 } }),
   (0xBF87844101108780, .padd2h true { g := 7, d := 15, a := .v 17 } { op := .iadd2, args := { g := 1, d := 16, a := .s 15 } })]

def groupWords (g : Guard) : List (Nat × Instr) :=
  [(0x5870180B82007730, .shfl g 7 .s64 .xor 7 3 (.v 2) (.int 1)),
   (0x5970381B83C07050, .slide g 7 true .e16 7 (.v 6) (.int 1) (.int 0)),
   (0x5A70180400007010, .vote g 7 .any 3 1),
   (0x5B70100400007000, .ballot g 7 2 1),
   (0x5B78200C00002010, .ballotR g 2 (.s 4) 3),
   (0x5C70480800001800, .gred g 1 .f32 .add .rne false (.v 9) (.v 2)),
   (0x5D70200C00007080, .gscan g 7 .i32 .add true .rne false 4 (.v 3)),
   (0x5E70100406007000, .mskopAnd g 7 2 1 3),
   (0x5E70100406007010, .mskopOr g 7 2 1 3),
   (0x5E70100406007020, .mskopXor g 7 2 1 3),
   (0x5E70100406007030, .mskopAndn g 7 2 1 3),
   (0x5E70100400007040, .mskopNot g 7 2 1),
   (0x5E70142000007050, .mskopLd g 7 2 (.s 8)),
   (0x5E78401800007060, .mskopSt g 7 8 6),
   (0x5E70280000007070, .mskopLive g 7 5),
   (0x5E70280000001080, .mskopArrv g 1 5),
   (0x5F70000380007030, .tbar g 7 3 (.int 0)),
   (0x5F70000380007021, .cbar g 7 2 (.int 0)),
   (0x5F70042214007002, .rolesw 7 8 10)]

def controlWords (g : Guard) : List (Nat × Instr) :=
  [(0x60300000FFFFFFFC, .bra { neg := false, p := 3 } 0 0xFFFFFFFC),
   (0x6171000500000009, .call g 32 5 9),
   (0x6270240200000005, .trav g 4 (.core (.v 2)) 5),
   (0x6370181800000000, .brx g 3 (.v 6)),
   (0x6370001800000041, .callx g 0 (.v 6) 4),
   (0x6370201804000022, .travx g 4 (.v 6) (.core (.v 2))),
   (0x6420000000000000, .ret { neg := false, p := 2 } 0),
   (0x6470000000000001, .exit g),
   (0x6470000000000002, .yield g),
   (0x6470000000000053, .bkpt g 5),
   (0x6570201810000000, .spawn g 4 (.v 6) (.v 8)),
   (0x6670000000006340, .rep 64 .s1 .s2 .s0 .s4),
   (0x6770000000000000, .nop g)]

def memoryWords (g : Guard) : List (Nat × Instr) :=
  [(0x68701413F000026C, .ld g .w32 { ord := .acq, scope := .dev, evict := 4 } 2 (.s 4) (.ident .lane) 0),
   (0x6970441BF00002AC, .st g .w32 { ord := .rel, scope := .dev, evict := 4 } (.v 8) (.s 6) (.ident .lane) 0),
   (0x6A7844138001032C, .sld g .w64 { ord := .rlx, scope := .dev, evict := 4 } 8 4 (.int 0) 16),
   (0x6B70200B820080EC, .atom g .add { ord := .ar, scope := .dev, evict := 4 } 4 (.v 2) (.int 1) 8),
   (0x6C7020080DFF8814, .atomW64 g .xchg { ord := .rlx, scope := .team, evict := 4 } 4 (.v 2) (.v 6) 0x1FF8),
   (0x6D7020080C0001EC, .acas g .w64 { ord := .ar, scope := .dev, evict := 4 } 4 (.v 2) (.v 6) 0),
   (0x6D7030080000026C, .lr g .w32 { ord := .acq, scope := .dev, evict := 4 } 6 (.v 2) 0),
   (0x6D703808100004AC, .sc g .w32 { ord := .rel, scope := .dev, evict := 4 } 7 (.v 2) (.v 8) 0),
   (0x6E70000800040007, .pref g .lane 7 (.v 2) 64),
   (0x6E7020080C00012C, .partn g .w32 { ord := .rlx, scope := .dev, evict := 4 } 4 (.v 2) (.v 6)),
   (0x6E702C1382000868, .waitv g .eq .w32 true .dev (.v 5) (.s 4) (.int 1) 0),
   (0x6F782000000000B0, .fence g .rel .node 4),
   (0x6F700001100001E8, .xfence g .dev .matrix .copy)]

def engineWords (g : Guard) : List (Nat × Instr) :=
  [(0x70700422150B0010, .wmap g 1 8 10 11),
   (0x7170000000000010, .wflush g false 1),
   (0x7170000000000021, .wdrop g 2),
   (0x7270040800000000, .cpy g 2),
   (0x727004522C000001, .cpyg g 20 22),
   (0x7370040000000000, .bari g (.s 0)),
   (0x737004321C000001, .barx g (.s 12) (.s 14)),
   (0x7370040380000002, .barw g (.s 0) (.int 0)),
   (0x7370140382000003, .bart g 2 (.s 0) (.int 1)),
   (0x7470180000000120, .hwait g (some (.v 3)) 2),
   (0x7470080000000021, .htest g 1 2),
   (0x7470000000000022, .hcan g 2),
   (0x7570000212000311, .tswp g .mul 3 1 9),
   (0x7670044000000010, .tldi g 1 16),
   (0x7870000000000000, .macq g),
   (0x7870000000000001, .mrel g),
   (0x79702C1A0FC10481, .mma g 0 5 .e4m3 .e4m3 .g32 .g32 true 6 7 (.int 1)),
   (0x7A7000120D0C2000, .mmag g 2 0 .int8g .int8g .g32 .g32 false 4 6 12),
   (0x7B70400388003000, .mzero g 3 8 (.int 4)),
   (0x7B703C2212005901, .mldz g 5 .f16 7 8 (.s 9)),
   (0x7B702C2380001A02, .mstz g 1 .bf16 .rne false 5 8 (.int 0))]

def transactionWords (g : Guard) : List (Nat × Instr) :=
  [(0x7C70400200000006, .tbegin 8 2 6),
   (0x7D70000000000000, .tend),
   (0x7D70000000000131, .tabort g true 3),
   (0x7D70180000000052, .tstat g (.v 3) 5)]

def systemWords (g : Guard) : List (Nat × Instr) :=
  [(0x7E78242000000003, .sysc g 3 4 8),
   (0x7E70380100000000, .crd g (.v 7) (.user .lsw)),
   (0x7E70400100000801, .crd g (.v 8) .trptr),
   (0x7E70040E00000002, .cwr g (.user .fair) (.s 3)),
   (0x7E70041A00000410, .cwr g (.sv .vdep) (.s 6)),
   (0x7F78141000000000, .lnch g 2 4),
   (0x7F782C1A10000001, .sretReply g 5 6 8),
   (0x7F782C1800000051, .sretResume g true 5 6),
   (0x7F782C1800000021, .sretDrop g 5 6),
   (0x7F78180000000002, .mboxWait g 3),
   (0x7F781C1000000012, .mboxPop g 3 4),
   (0x7F78180000000022, .mboxStat g 3),
   (0x7F781C1A10000003, .ctxsG g 3 6 8),
   (0x7F781C1A10000013, .ctxsT g 3 6 8),
   (0x7F781C1E10000004, .ctxlG g 3 7 8),
   (0x7F781C1A10000014, .ctxlT g 3 6 8),
   (0x7F70000000000005, .tinvAll g),
   (0x7F70041000000025, .tinvPage g 4)]

theorem test_decode_integer : ∀ p ∈ integerWords Guard.always, decode p.1 = some p.2 := by decide +kernel
theorem test_decode_logic : ∀ p ∈ logicWords Guard.always, decode p.1 = some p.2 := by decide +kernel
theorem test_decode_float : ∀ p ∈ floatWords Guard.always, decode p.1 = some p.2 := by decide +kernel
theorem test_decode_packed : ∀ p ∈ packedWords Guard.always, decode p.1 = some p.2 := by decide +kernel
theorem test_decode_predicate : ∀ p ∈ predicateWords Guard.always, decode p.1 = some p.2 := by decide +kernel
theorem test_decode_pair : ∀ p ∈ pairWords Guard.always, decode p.1 = some p.2 := by decide +kernel
theorem test_decode_group : ∀ p ∈ groupWords Guard.always, decode p.1 = some p.2 := by decide +kernel
theorem test_decode_control : ∀ p ∈ controlWords Guard.always, decode p.1 = some p.2 := by decide +kernel
theorem test_decode_memory : ∀ p ∈ memoryWords Guard.always, decode p.1 = some p.2 := by decide +kernel
theorem test_decode_engine : ∀ p ∈ engineWords Guard.always, decode p.1 = some p.2 := by decide +kernel
theorem test_decode_transaction : ∀ p ∈ transactionWords Guard.always, decode p.1 = some p.2 := by decide +kernel
theorem test_decode_system : ∀ p ∈ systemWords Guard.always, decode p.1 = some p.2 := by decide +kernel

/-- The helm words of R313's examples. -/
theorem test_decode_helm : decodeHelm 0x0000050B = some (.htbegin 10) ∧ decodeHelm 0x0000100B = some .htend
    ∧ decodeHelm 0x0050200B = some (.htabort 5) ∧ decodeHelm 0x0000350B = some (.htstat 10) := by decide +kernel

/-- R42's own example of a pair word: two halves at once. -/
theorem test_decode_pair_example : (decode 0xAF8401010701E080).isSome = true := by decide +kernel

/-- R49: an unassigned major, a reserved type, a predicate destination of 7, a constant as destination, an odd register of
a 64-bit operand, and a nonzero field that the form does not use are no instructions. -/
theorem test_decode_refuses : ∀ w ∈ ([0x0D70000000000000, 0x007018040400E000, 0x007E000404000000,
    0x0070180404002000, 0x5070380404000000, 0x6470000000000011, 0x2070180404008A00] : List Nat), decode w = none := by
  decide +kernel

/-! ## WellFormed: an ill-formed term for each check -/

/-- R38: a 64-bit destination in an odd register. -/
theorem test_wf_aligned : Instr.wf (.iadd Guard.always .i64 false (.v 3) (.v 2) (.v 4)) = false := by decide +kernel

/-- R36: an identity constant in a float form. -/
theorem test_wf_form : Instr.wf (.fadd Guard.always .f32 .rne (.v 3) (.ident .lane) (.v 4)) = false := by decide +kernel

/-- R37: predicate 7 as a destination. -/
theorem test_wf_predicate : Instr.wf (.icmp Guard.always .i32 .eq 7 (.v 1) (.v 2)) = false := by decide +kernel

/-- R49: `?!P7`, a guard that is never true; and without a guard the same word is well-formed. -/
theorem test_wf_guard : Instr.wf (.iadd { neg := true, p := 7 } .i32 false (.v 3) (.v 2) (.v 4)) = false
    ∧ Instr.wf (.iadd Guard.always .i32 false (.v 3) (.v 2) (.v 4)) = true := by decide +kernel

/-- R34, R228: a block of twelve scalar registers that leaves the 192 there are. -/
theorem test_wf_block : Instr.wf (.sysc Guard.always 1 4 184) = false
    ∧ Instr.wf (.sysc Guard.always 1 4 180) = true := by decide +kernel

/-- R34: a scalar register above the group's allotment. -/
theorem test_wf_scalar : Instr.inScal 16 (.mov Guard.always .i32 (.v 1) (.s 16)) = false
    ∧ Instr.inScal 16 (.mov Guard.always .n64 (.v 2) (.s 14)) = true := by decide +kernel

/-! ## Small states -/

/-- A live lane at 0x1000: V2 and V3 hold an address of its own, V4 its number plus 1, V6 and V7 the target 0x2000. -/
def lane (l : Nat) : Lane :=
  { Lane.empty with
    status := .live, pc := 0x1000
    regs := [(2, BitVec.ofNat 32 (0x2000 + 64 * l)), (4, BitVec.ofNat 32 (l + 1)), (6, 0x2000)] }

/-- A user group of grid 7 and team 0, and a supervisor group, with such lanes; S4 and S5 hold an address, S6 a number. -/
def user : Grp :=
  { Grp.fresh with
    grid := 7, alloc := 256, scal := 192, lanes := (List.range 64).map lane, sregs := [(4, 0x3000), (6, 5)] }
def sup : Grp := { user with grid := 0, team := 256, prio := 7, supervisor := true }

/-- A team with 4 KiB of scratchpad, and a core with some groups in its first slots. -/
def pad (n : Nat) (id : Dword) : Team := { Team.fresh with num := n, grid := id, place := [0], shared := 4096 }
def coreOf (gs : List (Option Grp)) : Core :=
  { Core.reset 0 with
    groups := gs ++ List.replicate (96 - gs.length) none, ages := List.range gs.length, teams := [pad 0 7, pad 256 0] }

/-- A package of one core, whose turn is its slot 0 with every lane. -/
def on (x : Core) : State := { State.reset with cores := [x], clock := 1600 }
def su : State := on (coreOf [some user])
def ss : State := on (coreOf [some sup])

/-- The user group in slot 1, beside the supervisor in slot 0; the turn is the supervisor's, or the user group's. -/
def both (g : Grp) : State := on (coreOf [some sup, some g])
def turn (s : State) (k : Nat) : State := { s with cur := { core := 0, slot := k, mask := full, first := 0 } }

/-- What holds of the lanes that there are holds of the lanes of a mask. -/
theorem lanes_of_mask {m : Mask} {p : Nat → Prop} (h : ∀ l, l < 64 → m.getLsbD l = true → p l) (l : Nat)
    (hl : m.getLsbD l = true) : p l :=
  h l (Nat.lt_of_not_le fun hge => by simp [BitVec.getLsbD_of_ge m l hge] at hl) hl

/-- The lane at a number that no lane has. -/
theorem laneAt_user_high (l : Nat) (h : 64 ≤ l) : laneAt user l = Lane.empty := by
  unfold laneAt
  exact List.getD_eq_default _ _ (by simpa [user] using h)

/-! ## The statements' hypotheses are met: arithmetic words -/

/-- The words of the decode tests that compute lane by lane. -/
def laneWords : List Instr :=
  (integerWords Guard.always ++ logicWords Guard.always ++ floatWords Guard.always ++ packedWords Guard.always
    ++ predicateWords Guard.always).map fun p => p.2

theorem witness_arithmetic_words : ∀ i ∈ laneWords, laneWise i = true ∧ RunsAlu i su user := by
  unfold RunsAlu Runs
  decide +kernel

theorem witness_arithmetic_registers : RegsOk user := by
  refine ⟨by decide +kernel, fun l => ?_⟩
  by_cases h : l < 64
  · exact (by decide +kernel : ∀ l, l < 64 → Sparse.wfFrom 0 (laneAt user l).regs = true) l h
  · rw [laneAt_user_high l (Nat.le_of_not_lt h)]; rfl

theorem witness_conversion_types : CvtTy.i8.float = false ∧ CvtTy.n64.float = false := by decide

/-- R41: two halves of which each writes a register that the other reads. -/
theorem witness_pair_word :
    let h1 : HalfWord := { op := .iadd2, args := { g := 7, d := 4, a := .v 5 } }
    let h2 : HalfWord := { op := .xor2, args := { g := 0, d := 5, a := .v 4 } }
    halvesOf (.iadd2 h1.args h2) = some (h1, h2) ∧ curGrp su = some user ∧ user.lanes.length = 64
      ∧ halfWindow user su.cur.mask h1 = 0 ∧ halfWindow user su.cur.mask h2 = 0
      ∧ fallLanes (coreAt su 0) user su.cur.mask 0 false = 0
      ∧ mirrorFails su user (halfLanes user su.cur.mask h1) = false
      ∧ mirrorFails su user (halfLanes user su.cur.mask h2) = false := by decide +kernel

/-- R37: a scalar destination, with lanes whose guard is true and with none. -/
theorem witness_scalar_write :
    RunsAlu (.mov Guard.always .i64 (.s 8) (.v 2)) su user
      ∧ lowest (active (.mov Guard.always .i64 (.s 8) (.v 2)) su user) = some 0
      ∧ RunsAlu (.iadd { neg := false, p := 0 } .i32 true (.s 8) (.v 2) (.v 4)) su user
      ∧ lowest (active (.iadd { neg := false, p := 0 } .i32 true (.s 8) (.v 2) (.v 4)) su user) = none
      ∧ user.dmr.toNat % 4 = 0 := by
  unfold RunsAlu Runs
  decide +kernel

/-- R78: V9 with an allotment of 8 registers, in every lane. -/
def narrow : Grp := { user with alloc := 8 }
theorem witness_window_trap : curGrp (on (coreOf [some narrow])) = some narrow ∧ full ≠ 0
    ∧ (∀ l, l < 64 → (full.getLsbD l = true ↔
      (active (.mov Guard.always .i32 (.v 8) (.int 1)) (on (coreOf [some narrow])) narrow).getLsbD l = true
      ∧ ∃ u ∈ Instr.uses (.mov Guard.always .i32 (.v 8) (.int 1)), ∃ n : Fin 256, u.op = .v n
        ∧ narrow.alloc < (laneAt narrow l).base + n.val + u.n)) := by
  refine ⟨by decide +kernel, by decide, fun l hl => ?_⟩
  have h : (active (.mov Guard.always .i32 (.v 8) (.int 1)) (on (coreOf [some narrow])) narrow).getLsbD l = true
      ∧ full.getLsbD l = true ∧ (laneAt narrow l).base = 0 :=
    (by decide +kernel : ∀ l, l < 64 → (active (.mov Guard.always .i32 (.v 8) (.int 1)) (on (coreOf [some narrow]))
      narrow).getLsbD l = true ∧ full.getLsbD l = true ∧ (laneAt narrow l).base = 0) l hl
  refine ⟨fun _ => ⟨h.1, Use.d 1 (.v 8), List.Mem.head _, 8, rfl, ?_⟩, fun _ => h.2.1⟩
  rw [h.2.2]; simp [narrow, Use.d]

/-- R138, R140: each mode of mirroring. -/
def mirrored (m : Nat) : Grp := { user with dmr := BitVec.ofNat 32 m }
theorem witness_mirror_modes : ∀ m ∈ [0, 1, 2, 3],
    RunsAlu (.mov Guard.always .i32 (.v 8) (.v 4)) (on (coreOf [some (mirrored m)])) (mirrored m) := by
  unfold RunsAlu Runs
  decide +kernel

/-- R63: finite operands whose sum is neither 0 nor beyond the largest value: 1 and 1, in both formats. -/
theorem witness_float_operands :
    let e := envOf su user 0
    fz32 e.grp = false ∧ codeVal fmt32 (opF e fmt32 (.int 1)) = some 1 ∧ |(1 : ℚ) + 1| ≤ largest fmt32 ∧ (1 : ℚ) + 1 ≠ 0
      ∧ fz64 e.grp = false ∧ codeVal fmt64 (opF e fmt64 (.int 1)) = some 1 ∧ |(1 : ℚ) + 1| ≤ largest fmt64 := by
  refine ⟨by decide, by decide +kernel, by decide +kernel, by norm_num, by decide, by decide +kernel, by decide +kernel⟩

/-- R54: a NaN operand, and an operation whose result is one. -/
theorem witness_nan_operand :
    isNaNCode fmt32 (opF (envOf su user 0) fmt32 (.flt 20)) = true
      ∧ isNaNCode fmt32 (fpAdd fmt32 .rne false 0x7F800000 0xFF800000).1 = true := by decide +kernel

/-! ## Control -/

/-- A core on which the group has lanes at two PCs, some with records in their cabinets. -/
def caller (l : Nat) : Lane :=
  { lane l with
    preds := if l % 2 = 0 then 0x81 else 0x80, depth := 1 + l % 3
    cab := { pc := 0x4000, base := 0 } :: (List.range (l % 3)).map fun k => { pc := BitVec.ofNat 64 (0x5000 + 8 * k), base := 4 } }
def calling : Grp := { user with lanes := (List.range 64).map caller }
def sc_ : State := on (coreOf [some calling])
def ifP0 : Guard := { neg := false, p := 0 }

theorem witness_transfers :
    (∀ i ∈ ([.bra ifP0 0 5, .trav ifP0 0 .none 5] : List Instr), Runs i sc_ calling
      ∧ ∀ l, l < 64 → (relative (laneAt calling l) 5).toNat % 8 = 0)
    ∧ (∀ i ∈ ([.brx ifP0 0 (.v 6), .travx ifP0 0 (.v 6) .none] : List Instr), Runs i sc_ calling
      ∧ ∀ l, l < 64 → opI (envOf sc_ calling l) 2 (.v 6) = 0x2000)
    ∧ calling.lanes.length = 64 ∧ voyageOf (coreAt sc_ 0) calling = none := by
  unfold Runs
  decide +kernel

theorem witness_transfer_targets :
    GoodTargets (active (.bra ifP0 0 5) sc_ calling) (fun l => relative (laneAt calling l) 5)
      ∧ GoodTargets (active (.brx ifP0 0 (.v 6)) sc_ calling) fun l => BitVec.ofNat 64 (opI (envOf sc_ calling l) 2 (.v 6)) :=
  ⟨lanes_of_mask (by decide +kernel), lanes_of_mask (by decide +kernel)⟩

theorem witness_call :
    Runs (.call ifP0 0 4 5) sc_ calling ∧ Runs (.callx ifP0 0 (.v 6) 4) sc_ calling
      ∧ (∀ l, (active (.call ifP0 0 4 5) sc_ calling).getLsbD l = true → (laneAt calling l).base + 4 * 4 < calling.alloc
        ∧ (laneAt calling l).depth ≠ 65535 ∧ (laneAt calling l).cab.length < 4) := by
  refine ⟨?_, ?_, lanes_of_mask (by decide +kernel)⟩ <;> unfold Runs <;> decide +kernel

theorem witness_ret :
    let r (l : Nat) : Ret := ((laneAt calling l).cab.getLast?).getD { pc := 0, base := 0 }
    Runs (.ret ifP0 0) sc_ calling ∧ GoodTargets (active (.ret ifP0 0) sc_ calling) (fun l => (r l).pc)
      ∧ ∀ l, (active (.ret ifP0 0) sc_ calling).getLsbD l = true →
        (laneAt calling l).depth ≠ 0 ∧ (laneAt calling l).cab.getLast? = some (r l) := by
  refine ⟨?_, lanes_of_mask (by decide +kernel), lanes_of_mask (by decide +kernel)⟩
  unfold Runs
  decide +kernel

/-- R76 at a state of callers, and a control word that runs there. -/
theorem witness_depths : (∀ l, l < 64 → (laneAt calling l).depth = (laneAt calling l).cab.length + (laneAt calling l).spill
      ∧ (laneAt calling l).cab.length ≤ 4 ∧ (laneAt calling l).txn = none)
    ∧ controlWord (.call ifP0 0 4 5) = true := by decide +kernel

theorem witness_lane_life :
    (Runs (.exit ifP0) sc_ calling ∧ calling.rep = none ∧ calling.tack = none ∧ (coreAt sc_ 0).pend = []
      ∧ ∀ l, (active (.exit ifP0) sc_ calling).getLsbD l = true → inTxn (laneAt calling l) = false)
    ∧ Runs (.nop ifP0) sc_ calling ∧ Runs (.yield ifP0) sc_ calling ∧ active (.yield ifP0) sc_ calling ≠ 0
    ∧ Runs (.bkpt ifP0 5) sc_ calling ∧ active (.bkpt ifP0 5) sc_ calling ≠ 0
    ∧ Runs (.bkpt { neg := false, p := 6 } 5) sc_ calling ∧ active (.bkpt { neg := false, p := 6 } 5) sc_ calling = 0 := by
  refine ⟨⟨?_, rfl, rfl, rfl, lanes_of_mask (by decide +kernel)⟩, ?_⟩ <;> unfold Runs <;> decide +kernel

/-- R99: REP in front of IADD, which it admits, and in front of EXIT, which it does not; the supervisor's memory holds
both. -/
def coded : Memory := writeBytes (writeBytes [] 0x1008 (leBytes 8 0x0070180404000000)) 0x2008 (leBytes 8 0x6470000000000001)
def srep : State := { ss with mem := coded }
def sup2 : Grp := { sup with lanes := sup.lanes.map fun ln => { ln with pc := 0x2000 } }
def srep2 : State := { on (coreOf [some sup2]) with mem := coded }
theorem witness_rep :
    Runs (.rep 4 .s1 .s0 .s0 .s0) srep sup ∧ fetchAt srep 0 sup ((curPc srep).toNat + 8) = .word 0x0070180404000000 0
      ∧ repOk sup 0x0070180404000000 4 .s1 .s0 .s0 .s0 = true
      ∧ Runs (.rep 4 .s0 .s0 .s0 .s0) srep2 sup2 ∧ fetchAt srep2 0 sup2 ((curPc srep2).toNat + 8) = .word 0x6470000000000001 0
      ∧ repOk sup2 0x6470000000000001 4 .s0 .s0 .s0 .s0 = false := by
  unfold Runs
  decide +kernel

/-- R95: lane 3 alone asks, with lane 9 exited; and with every lane live. -/
def asks (l : Nat) : Lane := { lane l with preds := if l = 3 then 0x81 else 0x80, status := if l = 9 then .exited else .live }
def asking : Grp := { user with lanes := (List.range 64).map asks }
def sspawn : State := { on (coreOf [some asking]) with cur := { core := 0, slot := 0, mask := full &&& ~~~oneLane 9, first := 0 } }
def crowded : Grp := { asking with lanes := asking.lanes.map fun ln => { ln with status := .live } }
theorem witness_spawn :
    let i : Instr := .spawn ifP0 8 (.v 6) (.v 4)
    Runs i sspawn asking ∧ active i sspawn asking = oneLane 3 ∧ (laneAt asking 3).status = .live
      ∧ sspawn.cur.mask.getLsbD 3 = true ∧ (laneAt asking 9).status ≠ .live ∧ sspawn.cur.mask.getLsbD 9 = false
      ∧ (∀ j, j < 9 → (laneAt asking j).status = .live) ∧ voyageOf (coreAt sspawn 0) asking = none
      ∧ Runs i (on (coreOf [some crowded])) crowded ∧ active i (on (coreOf [some crowded])) crowded = oneLane 3
      ∧ ∀ k, k < 64 → (laneAt crowded k).status = .live := by
  unfold Runs
  decide +kernel
theorem witness_spawn_target : GoodTargets (active (.spawn ifP0 8 (.v 6) (.v 4)) sspawn asking)
    fun l => BitVec.ofNat 64 (opI (envOf sspawn asking l) 2 (.v 6)) := lanes_of_mask (by decide +kernel)

/-! ## Group operations -/

/-- A rendezvous at a PC, of a word, with the lanes of `arr` arrived, each of which supplied its number and 1. -/
def rdvOf (pc : Dword) (i : Instr) (cap arr : Mask) : Rdv :=
  { pc := pc, word := i, captured := cap, arrived := arr, guards := arr, excused := 0
    ops := (inOrder arr).map fun l => (l, l, 1, 0), base := 0, since := 0 }
def low8 : Mask := 0xFF
def always : Guard := Guard.always
def aVote : Instr := .vote always 1 .any 3 1
def meeting (r : Option Rdv) (m1 : Mask) : Grp :=
  { user with rdv := r, masks := user.masks.set 1 m1, lanes := (List.range 64).map fun l =>
      if (r.map (·.arrived.getLsbD l)).getD false then { lane l with wait := .rendezvous } else lane l }
def smeet (r : Option Rdv) (m1 set : Mask) : State :=
  { on (coreOf [some (meeting r m1)]) with cur := { core := 0, slot := 0, mask := set, first := 0 } }

/-- The operation opens its rendezvous; the last lanes join it. -/
theorem witness_arrival :
    groupWord aVote = some (1, fun e => ((getP e.lane 1).toNat, 0, 0))
      ∧ Runs aVote (smeet none full full) (meeting none full) ∧ (meeting none full).rdv = none
      ∧ (∀ l, (active aVote (smeet none full full) (meeting none full)).getLsbD l = true →
          inTxn (laneAt (meeting none full) l) = false)
      ∧ active aVote (smeet none full full) (meeting none full) &&& ~~~getM (meeting none full) 1 = 0
      ∧ (let r := rdvOf 0x1000 aVote full low8
         Runs aVote (smeet (some r) full (~~~low8)) (meeting (some r) full)
           ∧ r.pc = curPc (smeet (some r) full (~~~low8))) := by
  refine ⟨rfl, ?_, rfl, lanes_of_mask (by decide +kernel), by decide +kernel, ?_⟩ <;> unfold Runs <;> decide +kernel

/-- A guard's lane that is no member; another rendezvous pending, with the set's lanes in it or out of it. -/
theorem witness_arrival_traps :
    (Runs aVote (smeet none low8 full) (meeting none low8)
      ∧ active aVote (smeet none low8 full) (meeting none low8) &&& ~~~getM (meeting none low8) 1 ≠ 0)
    ∧ (let r := rdvOf 0x3000 aVote full low8
       let s := smeet (some r) full (~~~low8)
       Runs aVote s (meeting (some r) full) ∧ r.pc ≠ curPc s ∧ active aVote s (meeting (some r) full) &&& r.captured ≠ 0)
    ∧ (let r := rdvOf 0x3000 aVote low8 low8
       let s := smeet (some r) full (~~~low8)
       Runs aVote s (meeting (some r) full) ∧ r.pc ≠ curPc s ∧ active aVote s (meeting (some r) full) &&& r.captured = 0) := by
  unfold Runs
  decide +kernel

/-- The words whose completion the statements give, each met by every lane. -/
def metWords : List Instr :=
  [.shfl always 1 .s64 .xor 7 3 (.v 2) (.int 1), .slide always 1 true .e16 7 (.v 6) (.int 1) (.int 0), aVote,
   .ballot always 1 2 1, .ballotR always 1 (.v 8) 1, .mskopAnd always 1 2 1 3, .mskopOr always 1 2 1 3, .mskopXor always 1 2 1 3,
   .mskopAndn always 1 2 1 3, .mskopNot always 1 2 1, .mskopLd always 1 2 (.s 4), .mskopSt always 1 8 6, .mskopLive always 1 5,
   .mskopArrv always 1 5, .ballotR always 1 (.s 8) 1, .gred always 1 .i32 .add .rne true (.s 8) (.v 4),
   .gred always 1 .i32 .add .rne true (.v 8) (.v 4), .gred always 1 .n64 .max .rne false (.v 8) (.v 4),
   .gscan always 1 .i32 .add true .rne true 8 (.v 4), .tbar always 1 3 (.int 2), .cbar always 1 2 (.int 2), .rolesw 1 8 10]
theorem witness_completions : ∀ i ∈ metWords,
    Complete (smeet (some (rdvOf 0x1000 i full full)) full full) 0 0 (meeting (some (rdvOf 0x1000 i full full)) full)
      (rdvOf 0x1000 i full full) := by
  unfold Complete
  decide +kernel

/-- A rendezvous that lanes have not reached, at its limit. -/
def late : Grp := { meeting (some { rdvOf 0x1000 aVote full low8 with base := 0x100 }) full with rdvz := 0x100 }
theorem witness_timeout : let s := on (coreOf [some late])
    grpAt s 0 0 = some late ∧ (late.rdv.map fun r => r.base + (s.clock - r.since)).getD 0 ≥ late.rdvz.toNat ∧ running late = true
      ∧ ∀ r, late.rdv = some r → r.captured.getLsbD 9 = true ∧ r.arrived.getLsbD 9 = false ∧ r.excused.getLsbD 9 = false
        ∧ (laneAt late 9).status = .live := by
  refine ⟨by decide +kernel, by decide +kernel, by decide +kernel, fun r hr => ?_⟩
  obtain rfl : { rdvOf 0x1000 aVote full low8 with base := 0x100 } = r := Option.some.inj hr
  decide +kernel

theorem witness_ballot : let r := rdvOf 0x1000 aVote full full
    Joined r ∧ (∀ l, l < 64 → ((oneLane 1).getLsbD l = true ↔ takesPart r l = true ∧ gave r l = 1))
      ∧ lowest (r.arrived &&& r.guards) = some 0
      ∧ ∀ l, l < 64 → (full.getLsbD l = true ↔ (laneAt (meeting (some r) full) l).status = .live) := by
  refine ⟨⟨0, by decide, by decide +kernel⟩, by decide +kernel, by decide +kernel, by decide +kernel⟩

theorem witness_reduction_types : (RedTy.n64, IntTy.n64) ∈ [(RedTy.i32, IntTy.i32), (.n32, .n32), (.i64, .i64), (.n64, .n64)] := by
  decide


/-! ## Memory words -/

/-- The word of each shape, over every lane, at the addresses of V2. -/
def rlx : MemMod := { ord := .rlx, scope := .dev, evict := 4 }
def accessWords : List Instr :=
  [.ld always .w64 rlx 8 (.v 2) (.int 0) 0, .ld always .x8 rlx 8 (.v 2) (.v 4) 0x1FFF, .st always .w8 rlx (.v 4) (.v 2) (.int 0) 1,
   .st always .w128 rlx (.v 4) (.v 2) (.int 1) 0, .atom always .add rlx 8 (.v 2) (.v 4) 4, .atomW64 always .fadd rlx 8 (.v 2) (.flt 1) 8,
   .acas always .w64 rlx 8 (.v 2) (.v 6) 0, .lr always .w32 { rlx with ord := .acq } 8 (.v 2) 0, .sc always .w32 rlx 8 (.v 2) (.v 4) 0,
   .partn always .w32 rlx 4 (.v 2) (.v 6)]
def formOf (i : Instr) : AccForm :=
  (accForm i).getD { mod := rlx, va := fun _ => 0, bytes := 1, ty := .load, kind := fun _ => .lr, dst := fun _ => .none, val := fun _ => 0 }

/-- What an address of a page that no TLB entry restricts comes to. -/
def plainTarget (va : Nat) : Target := { place := .glob va, gr := 512, shr := false, nc := false, norepl := false }

/-- A core whose TLB maps the first 2 MiB for the grid without a record. -/
def page : Leaf := { flatLeaf with size := 2 ^ 21 }
def mapped : State := on { coreOf [some user] with tlb := [{ asid := 0, leaf := page }] }

theorem witness_accesses : ∀ i ∈ accessWords, accForm i ≠ none ∧ Runs i ss sup ∧ Runs i mapped user
    ∧ ∀ l, l < 64 → checkOf ss sup (formOf i) l = .ok (plainTarget (vaOf ss sup (formOf i) l))
      ∧ checkOf mapped user (formOf i) l = .ok (plainTarget (vaOf mapped user (formOf i) l)) := by
  unfold Runs
  decide +kernel

theorem witness_no_transaction : NoTxn sup full ∧ NoTxn user full :=
  ⟨lanes_of_mask (by decide +kernel), lanes_of_mask (by decide +kernel)⟩

/-- A translation that stands: the supervisor's, and one that the TLB holds. -/
theorem witness_settled : Settled ss sup 0x2000 .store ∧ Settled mapped user 0x2FC0 .store :=
  ⟨Or.inl rfl, Or.inr fun v hv => by
    obtain rfl : (0x2FC0 : Nat) = v := Option.some.inj (Eq.trans (by decide +kernel) hv)
    exact ⟨{ asid := 0, leaf := page }, by decide +kernel, Or.inl (by decide +kernel)⟩⟩

theorem witness_scalar_load :
    let i : Instr := .sld always .w64 rlx 8 4 (.int 1) 8
    Runs i ss sup ∧ lowest (active i ss sup) = some 0
      ∧ checkOf ss sup (sldForm .w64 rlx 8 4 (.int 1) 8) 0 = .ok (plainTarget 0x3010)
      ∧ lowest (active (.sld ifP0 .w64 rlx 8 4 (.int 1) 8) ss sup) = none := by
  unfold Runs
  decide +kernel

/-- Lane 0 misaligned, lane 5 below its address 0, lane 9 above the aperture: the first is check 1's. -/
def wild (l : Nat) : Lane :=
  { lane l with regs := putV (lane l).regs 2 (if l = 0 then 0x2001 else if l = 5 then 0x100000000000000 else if l = 9 then 0xFFFFFF0000001000 else 0x2000) 2 }
def straying : Grp := { sup with lanes := (List.range 64).map wild }
def strayed : State := on (coreOf [some straying])
theorem witness_checks :
    let i : Instr := .ld always .w64 rlx 8 (.v 2) (.int 0) 0
    let f := formOf i
    Runs i strayed straying ∧ (∀ l, l < 64 → ((oneLane 5).getLsbD l = true ↔
        (active i strayed straying).getLsbD l = true ∧ checkOf strayed straying f l = .bad { order := 1, cause := 0x0A }))
      ∧ (checkOf strayed straying f 0 = .bad { order := 2, cause := 0x0B }) ∧ checkOf strayed straying f 9 = .bad { order := 3, cause := 0x0C } := by
  unfold Runs
  decide +kernel

/-- A page table at 0x10000: of the last level, entry 2 maps 0x2000 without W, entry 3 is absent, the rest unmapped. -/
def tables : Memory :=
  writeBytes (writeBytes (writeBytes (writeBytes (writeBytes (writeBytes [] 0x10000 (leBytes 8 (0x11000 / 4 + 1)))
    0x11000 (leBytes 8 (0x12000 / 4 + 1))) 0x12000 (leBytes 8 (0x13000 / 4 + 1))) 0x13000 (leBytes 8 (0x14000 / 4 + 1)))
    0x14010 (leBytes 8 (0x5000 / 4 + 0x93))) 0x14018 (leBytes 8 0x100)
def aGrid (id : Nat) (r : List Byte) : Grid :=
  { id := BitVec.ofNat 64 id, record := r, stage := .running, places := [], pins := [], pinnedBytes := 0, chart := none,
    bound := 0, started := 0, alive := [] }
def aRecord (root : Nat) : List Byte := leBytes 8 0 ++ leBytes 8 root ++ List.replicate 496 0
def walking : State := { su with mem := tables, grids := [aGrid 7 (aRecord (3 * 2 ^ 44 + 0x10))] }
def walked : List Nat := [0x10000, 0x11000, 0x12000, 0x13000, 0x14010]
def aLeaf : Leaf := { page with va := 0x2000, size := 4096, pa := 0x5000, w := false, x := false }
theorem witness_leaves :
    (∀ a : Dword, a ∈ ([0x2000, 0x2FFF] : List Dword) → a.toNat < ownAperture ∧ ∃ lf, findLeaf walking 0 7 a.toNat = .leaf lf walked
      ∧ permits lf .load = true ∧ permits lf .store = false)
    ∧ findLeaf walking 0 7 0x3000 = .absent ∧ findLeaf walking 0 7 0x1FFF = .unmapped
    ∧ (∀ a ∈ ([0, 0x00FFFFFFFFFFFFFF, 0xFF00000000000000, 0xFFFFFFFFFFFFFFFF] : List Dword), a.extractLsb' 57 7 = (a.extractLsb' 56 1).signExtend 7)
    ∧ (∀ a ∈ ([0x0100000000000000, 0xFEFFFFFFFFFFFFFF] : List Dword), a.extractLsb' 57 7 ≠ (a.extractLsb' 56 1).signExtend 7)
    ∧ aperture su 0 user 0xFFFFFF0000000FFF ≠ none ∧ aperture su 0 user 0xFFFFFF0000001000 = none := by
  refine ⟨fun a ha => ?_, by decide +kernel, by decide +kernel, by simp, by simp, by decide +kernel, by decide +kernel⟩
  simp only [List.mem_cons, List.not_mem_nil, or_false] at ha
  obtain rfl | rfl := ha
  · exact ⟨by decide +kernel, aLeaf, by decide +kernel⟩
  · exact ⟨by decide +kernel, aLeaf, by decide +kernel⟩

theorem witness_wait_fence :
    (let i : Instr := .waitv always .eq .w32 true .dev (.v 8) (.v 2) (.int 0) 4
     Runs i ss sup ∧ Runs i mapped user ∧ lowest (active i ss sup) = some 0
       ∧ ∀ l, l < 64 → checkOf mapped user (waitForm .eq .w32 true .dev (.v 8) (.v 2) (.int 0) 4 (some 0)) l
         = .ok (plainTarget (0x2004 + 64 * l)))
    ∧ Runs (.fence always .rel .node 8) su user ∧ active (.fence always .rel .node 8) su user ≠ 0 ∧ teamAt su 0 0 = some (pad 0 7)
    ∧ Runs (.fence ifP0 .rel .node 8) su user ∧ active (.fence ifP0 .rel .node 8) su user = 0
    ∧ Runs (.xfence always .dev .matrix .copy) su user := by
  unfold Runs
  decide +kernel

/-- PREF at addresses that are good, misdirected, or in the aperture. -/
def hinting : Grp := { straying with hint := 0x00000001FFFFFFC3 }
def hinted : State := on (coreOf [some hinting])
theorem witness_prefetch :
    Runs (.pref always .lane 4 (.v 2) 8) hinted hinting
      ∧ checkAddr hinted 0 hinting (based (envOf hinted hinting 5) (.v 2) 8) 1 .load = .bad { order := 1, cause := 0x0A }
      ∧ ∀ l, l < 64 → Settled hinted hinting (based (envOf hinted hinting l) (.v 2) 8) .load :=
  ⟨by unfold Runs; decide +kernel, by decide +kernel, fun _ _ => Or.inl rfl⟩

/-! ## The ordering machine -/

/-- Access 9 of lane 3 of the group in slot 0: 8 bytes at 0x2008 of memory, to V8 and V9. -/
def access (kind : AccKind) : Acc :=
  { newAcc su user 3 rlx { va := 0x2008, al := 8, n := 8, ty := .load } (plainTarget 0x2008) with
    id := 9, kind := kind, val := 0x1122334455667788, dst := .v 8 2 }
/-- A store of its lane, buffered before it, of the bytes at 0x2009 and 0x200A. -/
def earlier : Acc := { access .store with id := 4, place := .glob 0x2009, va := 0x2009, n := 2, val := 0xBBAA, dst := .none }
def reserving : Grp := { user with lanes := user.lanes.map fun ln => { ln with resv := some (.glob 0x2000) } }
def some8 : Memory := writeBytes [] 0x2000 ((List.range 24).map fun i => BitVec.ofNat 8 (i + 0xF0))
def pending (a : Acc) (outb : List Acc) : State :=
  { on { coreOf [some reserving] with pend := [a], outb := outb } with mem := some8 }
def loadKinds : List AccKind := [.load true, .load false, .lr]
def atomicKinds : List AccKind := [.atom .add, .atom .minu, .atom .fadd, .acas 0, .acas 0xFFFEFDFCFBFAF9F8, .sc]

theorem witness_at_home : ∀ k ∈ loadKinds ++ atomicKinds ++ [AccKind.waitv .ne 0], ∀ o ∈ [[earlier], []],
    AtHome (pending (access k) o) 0 (access k) 0x2008 := by
  unfold AtHome
  decide +kernel

/-- What the load sees: its lane's newer store at 0x2009 and 0x200A, and memory beside it. -/
theorem witness_sees : let s := pending (access (.load false)) [earlier]
    Sees (coreAt s 0) s.mem (access (.load false)) 0x2009 0xAA ∧ Sees (coreAt s 0) s.mem (access (.load false)) 0x2008 0xF8
      ∧ readableNow s (some (.release 0)) none 0x2008 8 512 = true := by
  refine ⟨Or.inr ⟨[], earlier, [], 0x2009, rfl, rfl, ⟨0x2009, rfl, by decide, by decide⟩, by decide +kernel, by simp, by decide⟩,
    Or.inl ⟨by decide +kernel, fun st hst h => ?_⟩, by decide +kernel⟩
  have : st = earlier := List.mem_singleton.mp hst
  subst this
  obtain ⟨q, hq, hle, _⟩ := h
  have hq2 : (0x2009 : Nat) = q := by injection hq
  omega

theorem witness_atomic : ∀ k ∈ atomicKinds, let s := pending (access k) []
    (coreAt s 0).outb.any (accOverlap (access k)) = false ∧ writableNow s (some (.release 0)) none none 0x2008 8 512 = true
      ∧ grpAt s 0 0 = some reserving ∧ Memory.wf s.mem = true := by decide +kernel

/-- A store before it moves, and buffered; a release; a store to scratchpad, and one to an address that nothing backs. -/
def aStore : Acc := { access .store with dst := .none }
def inScratch : Acc := { aStore with place := .scr 0 0 0xFF8 }
def nowhere : Acc := { aStore with place := .glob 0x7000000000 }
theorem witness_buffer :
    (let s := pending aStore []
     (coreAt s 0).pend.find? (fun b => b.id = 9) = some aStore ∧ issuable 0 (coreAt s 0) aStore = true
       ∧ coveredBy (coreAt s 0) 0x2008 = none ∧ undrained (coreAt s 0) < 512 ∧ registers s aStore = false
       ∧ registers s { aStore with ord := .rel } = true ∧ readableNow s (some (.release 0)) none 0x2008 8 512 = true
       ∧ (homeOf s 0x2008 512).owner = none ∧ (homeOf s 0x2008 512).isOpen = true)
    ∧ (let s := pending inScratch []
       issuable 0 (coreAt s 0) inScratch = true ∧ releaseReady (coreAt s 0) inScratch = true ∧ teamAt s 0 0 = some (pad 0 7)
         ∧ backingOf (pad 0 7) 0xFF8 = .plain)
    ∧ (let s := pending aStore [aStore]
       (coreAt s 0).outb.find? (fun b => b.id = 9) = some aStore ∧ heldByRelease s 0 aStore = false ∧ backed s 0x2008 = true)
    ∧ (let s := pending nowhere [nowhere]
       heldByRelease s 0 nowhere = false ∧ regionOf 0x7000000000 = .nothing ∧ s.badPages.contains (0x7000000000 / 4096) = false) := by
  decide +kernel

/-- A grain with a write queued, its horizon passed. -/
def grain : Home :=
  { grain := 0x2000, size := 512, queue := [{ src := .acc 0 9, pa := 0x2008, bytes := leBytes 8 0x1122334455667788 }]
    horizon := 100, len := 2, latest := 0, wrote := true, owner := none, asked := false
    leases := [{ holder := .l1 0, expiry := 100 }, { holder := .l1 1, expiry := 101 }] }
def queued : State := { pending aStore [{ aStore with drained := true }] with homes := [grain] }
theorem witness_perform : queued.homes.find? (fun k => k.grain = 0x2000) = some grain ∧ grain.horizon = meridian queued
    ∧ helmHolds queued none 0x2008 8 true = false ∧ outsideHolds queued grain = false ∧ regionOf 0x2000 = .hbm
    ∧ (∃ l ∈ grain.leases, l.expiry ≤ meridian queued) ∧ ∃ l ∈ grain.leases, ¬l.expiry ≤ meridian queued := by
  decide +kernel

def askedOwner : Home := { grain with owner := some (.release 0), asked := true, queue := [] }
theorem witness_surrender : let s := { queued with homes := [askedOwner] }
    s.homes.find? (fun k => k.grain = 0x2000) = some askedOwner
      ∧ ∀ a ∈ (coreAt s 0).outb, a.registered = true → overlap (.glob askedOwner.grain) 512 a.place a.n = false := by
  decide +kernel

theorem witness_walk : grpAt walking 0 0 = some user ∧ gridRoot walking user.grid = 3 * 2 ^ 44 + 0x10
    ∧ ((gridOf walking user.grid).map (·.pins)).getD [] = [] ∧ (coreAt walking 0).tlb = []
    ∧ walkFrom walking 0x2FFF 5 (rootTable (gridRoot walking user.grid)) = .leaf aLeaf walked
    ∧ Memory.wf walking.mem = true := by decide +kernel

/-- Two lanes parked on words of a grain, one of which the wake releases; a poll that is due. -/
def wake : Wake := { grain := 0x2000, size := 32, bytes := List.replicate 15 0 ++ List.replicate 17 1 }
def parked (id : Nat) (cc : WCond) (w : Watch) : Acc := { access (.waitv cc 0) with id := id, watch := w }
def watching : State :=
  { on { coreOf [some user] with pend := [parked 9 .eq .entry, parked 10 .ne .entry], wakes := [wake] } with mem := some8 }
theorem witness_wake : (coreAt watching 0).wakes.find? (fun k => k.grain = 0x2000) = some wake
    ∧ (coreAt watching 0).pend.Pairwise (fun a b => a.id ≠ b.id) ∧ wakeBytes wake (parked 10 .ne .entry) 0x0100000000000000
    ∧ waitHolds .ne 0x0100000000000000 0 = true ∧ waitHolds .eq 0x0100000000000000 0 = false :=
  ⟨by decide +kernel, by decide +kernel, ⟨0x2008, rfl, by decide, by decide, by decide +kernel⟩, by decide, by decide⟩

theorem witness_poll : let a := parked 9 .ne (.poll 1600 32)
    let s := pending a []
    a.spared = (0, 0) ∧ (coreAt s 0).pend = [a] ∧ readableNow s (some (.release 0)) none 0x2008 8 512 = true
      ∧ waitHolds .ne (readLe s.mem 0x2008 8) 0 = true ∧ 1600 ≤ s.clock := by decide +kernel

/-! ## Windows, barriers, handles, engines -/

/-- A group with scalar registers from S8 on: 0x4000, 0x200, 0x400, 0x600; S14:15 and S16:17 name scratchpad, S18:19 a
global address, S20 the word 6. -/
def scalars (g : Grp) (l : List (Nat × Nat)) : Grp :=
  { g with sregs := l.foldl (fun m p => sset m p.1 (BitVec.ofNat 32 p.2)) [] }
def binder : Grp :=
  scalars user [(8, 0x4000), (10, 0x200), (11, 0x400), (12, 0x600), (14, 0x10), (15, 0xFFFFFF00), (16, 0xFF8), (17, 0xFFFFFF00),
    (18, 0x3000), (20, 6)]
/-- Two blocks mapped and dirty, at 0x4000 and 0x4200, over offset 0x200 on; two further ones invalid. -/
def aWindow : Window :=
  { va := 0x4000, off := 0x200, len := 0x600, blocks := [.valid 0x4000 0x0003, .valid 0x4200 0x8000, .invalid] }
def windowed : Team := { pad 0 7 with wins := [some aWindow, none, none, none], bytes := writeBytes [] 0x200 (List.replicate 64 0xAB) }
def teamOn (tm : Team) (g : Grp) : Core := { coreOf [some g] with teams := [tm, pad 256 0], tlb := [{ asid := 0, leaf := page }] }
def mapping (tm : Team) : State := on (teamOn tm binder)

theorem witness_window_words :
    (∀ i ∈ ([.wmap always 1 8 10 11, .wmap always 0 8 10 12, .wflush always false 0, .wflush always true 0, .wdrop always 0] : List Instr),
      Runs i (mapping windowed) binder ∧ active i (mapping windowed) binder ≠ 0)
    ∧ teamAt (mapping windowed) 0 0 = some windowed ∧ windowed.wins.length = 4 := by
  unfold Runs
  decide +kernel
theorem witness_once : NoTxn binder full := lanes_of_mask (by decide +kernel)

/-- R182's limits at their edges: a range that fills the allotment, one byte block more, an overlap with slot 0's. -/
theorem witness_map_limits :
    (let ok (tm : Team) (w va off len : Nat) : Bool := va % 512 = 0 && off % 512 = 0 && len % 512 = 0 && len ≠ 0
        && off + len ≤ tm.shared && canonical (va + len - 1)
        && [0, 1, 2, 3].all fun v => v = w || match tm.wins.getD v none with
          | some wn => off + len ≤ wn.off || wn.off + wn.len ≤ off
          | none => true
     ok windowed 1 0x4000 0x800 0x800 = true ∧ ok windowed 1 0x4000 0 0x200 = true ∧ ok windowed 0 0x4000 0x200 0x600 = true
       ∧ ok windowed 1 0x4000 0x800 0xA00 = false ∧ ok windowed 1 0x4000 0x600 0x200 = false
       ∧ ok windowed 1 0x4100 0x800 0x200 = false ∧ ok windowed 1 0x4000 0x800 0 = false) := by decide +kernel

theorem witness_blocks_apart : BlocksApart aWindow := by
  have hb (n : Nat) (p : Nat) (e : BitVec 16) (hv : validBlock aWindow n p e) : (n = 0 ∧ p = 0x4000) ∨ (n = 1 ∧ p = 0x4200) := by
    match n, hv with
    | 0, hv => left; simp [validBlock, aWindow] at hv; omega
    | 1, hv => right; simp [validBlock, aWindow] at hv; omega
    | 2, hv => simp [validBlock, aWindow] at hv
    | n + 3, hv => simp [validBlock, aWindow] at hv
  refine ⟨fun b pa d h => ?_, fun b b' pa pa' d d' hne h h' => ?_⟩
  · rcases hb b pa d h with h1 | h1 <;> omega
  · rcases hb b pa d h with h1 | h1 <;> rcases hb b' pa' d' h' with h2 | h2 <;> omega

/-- A load waits for the invalid block; another agent has asked for the first block's grain. -/
def touching : State :=
  on { teamOn windowed binder with pend := [{ access (.load false) with place := .scr 0 0 0x600 }] }
def asked : State := { mapping windowed with homes := [{ freshHome 0x4000 512 with owner := some (.window 0 0 0 0), asked := true }] }
theorem witness_window_blocks :
    (windowOf touching 0 0 0 = some aWindow ∧ aWindow.blocks.getD 2 .invalid = .invalid ∧ blockTouched touching 0 0 0x600 = true
      ∧ teamLeaf touching 0 7 0x4400 = some (plainTarget 0x4400) ∧ backed touching 0x4400 = true
      ∧ writableNow touching none none (some (.fill 0 0 0 2)) 0x4400 512 512 = true ∧ Memory.wf windowed.bytes = true)
    ∧ windowOf asked 0 0 0 = some aWindow ∧ aWindow.blocks.getD 0 .invalid = .valid 0x4000 0x0003
    ∧ ∃ a ∈ blockGrains 0x4000 (blockGr asked 0x4000), (homeOf asked a 512).asked = true := by decide +kernel

/-- A barrier record of COUNT 1, PHASE 1, ARMED, at offset 0x10, and of COUNT 0x7FFF_FFFF at 0xFF8. -/
def recorded : Team := { pad 0 7 with bytes := writeBytes (writeBytes [] 0x10 (leBytes 8 0x500000001)) 0xFF8 (leBytes 8 0x7FFFFFFF) }
def barring : State := mapping recorded
theorem witness_barrier_words :
    (∀ r ∈ ([14, 16] : List SReg), ∀ i ∈ ([.bari always (.s r), .barx always (.s r) (.s 20), .barw always (.s r) (.int 1),
        .bart always 2 (.s r) (.int 0)] : List Instr),
      Runs i barring binder ∧ lowest (active i barring binder) = some 0)
    ∧ (∀ ty ∈ [AccessType.store, .load], barCheck barring binder (opI (envOf barring binder 0) 2 (.s 14)) ty
        = .ok { place := .scr 0 0 0x10, gr := 512, shr := false, nc := false, norepl := false })
    ∧ teamAt barring 0 0 = some recorded ∧ Memory.wf recorded.bytes = true
    ∧ (∀ off ∈ [0x10, 0xFF8], backingOf recorded off = .plain) := by
  unfold Runs
  decide +kernel

/-- One lane alone at a barrier: lane 3. -/
def oneBarring : Grp := { binder with lanes := (List.range 64).map asks }
theorem witness_one_lane : let s := on (teamOn recorded oneBarring)
    ∀ i ∈ ([.barw ifP0 (.s 14) (.int 1), .barw ifP0 (.s 14) (.int 0), .bart ifP0 2 (.s 14) (.int 0)] : List Instr),
      Runs i s oneBarring ∧ active i s oneBarring = oneLane 3 := by
  unfold Runs
  decide +kernel

/-- Handles: H2 is pending of kind 1 with 5 steps, H3 complete; lane 5 waits for H2, lane 6 for H3. -/
def handled : Grp :=
  { binder with
    handles := (List.replicate 16 (0 : Word)).set 2 0x511 |>.set 3 0x712
    lanes := binder.lanes.set 5 { lane 5 with wait := .hwait 2 none false } |>.set 6 { lane 6 with wait := .hwait 3 none false } }
theorem witness_handles : let s := on (teamOn recorded handled)
    (∀ h ∈ ([2, 3] : List HReg), ∀ i ∈ ([.hwait always none h, .hwait always (some (.v 8)) h, .hwait always (some (.s 8)) h,
        .htest always 1 h, .hcan always h] : List Instr), Runs i s handled ∧ active i s handled ≠ 0)
      ∧ (handled.handles.getD 2 0).toNat % 4 = 1 ∧ (handled.handles.getD 3 0).toNat % 4 ≠ 1 := by
  unfold Runs
  decide +kernel

/-- An iterator record at 0x4000: 2 rows of 3 integers at 0xFF00_0000 of the aperture, saturating; and one with an extent
of 0. -/
def iterBytes (e0 : Nat) : List Byte :=
  leBytes 8 0xFFFFFF0000000010 ++ leBytes 4 e0 ++ leBytes 4 4 ++ leBytes 4 2 ++ leBytes 4 16 ++ leBytes 4 1 ++ leBytes 4 0
    ++ leBytes 4 1 ++ leBytes 4 0 ++ leBytes 4 0x80 ++ List.replicate 20 0
def anIter : Iter :=
  { addr := 0xFFFFFF0000000010, extent := [3, 2, 1, 1], stride := [4, 16, 0, 0], sat := true, rm := .rne, ty := 0 }
/-- The state after a record has been read. -/
def afterRead (r : Snap) : State := match r with
  | .ok _ s => s
  | .fault .. | .wait .. => su
def iterating (e0 : Nat) : State := { mapping recorded with mem := writeBytes [] 0x4000 (iterBytes e0) }
theorem witness_iterators : Runs (.tldi always 1 8) (iterating 3) binder ∧ decodeIter (iterBytes 3) = some anIter
    ∧ decodeIter (iterBytes 0) = none
    ∧ (∀ e ∈ [3, 0], ∃ s1, snapRead binder 0 16 16 4 0x4000 (iterating e) = .ok (iterBytes e) s1 ∧ curGrp s1 = some binder
      ∧ s1.cur = (iterating e).cur) := by
  refine ⟨by unfold Runs; decide +kernel, by decide +kernel, by decide +kernel,
    fun e he => ⟨afterRead (snapRead binder 0 16 16 4 0x4000 (iterating e)), ?_⟩⟩
  simp only [List.mem_cons, List.not_mem_nil, or_false] at he
  obtain rfl | rfl := he <;> decide +kernel

/-- A sweep at its first element and at its last. -/
def sweeper : Grp := { handled with iters := [some anIter, none] }
def sweep (next : Nat) : Job :=
  { id := 9, slot := 0, team := 0, grid := 7, word := 0, kind := .sweep 2 .add anIter 0x7FFFFFFF false, next := next, extra := []
    paused := false, cancelled := false }
def sweeping (next : Nat) : State := on { teamOn recorded sweeper with jobs := [sweep next] }
theorem witness_sweeps :
    (∀ i ∈ ([.tswp always .add 3 0 20, .tswp always .add 2 0 20, .tswp always .add 3 1 20] : List Instr),
      Runs i (sweeping 0) sweeper ∧ active i (sweeping 0) sweeper ≠ 0)
    ∧ (∀ n ∈ [0, 5], (coreAt (sweeping n) 0).jobs.find? (fun y => y.id = 9) = some (sweep n) ∧ sweeper.frozen = false)
    ∧ checkAddr (sweeping 0) 0 sweeper (elementAddr anIter 0).toNat 4 .atomic
      = .ok { place := .scr 0 0 0x10, gr := 512, shr := false, nc := false, norepl := false }
    ∧ checkAddr (sweeping 5) 0 sweeper (elementAddr anIter 5).toNat 4 .atomic
      = .ok { place := .scr 0 0 0x28, gr := 512, shr := false, nc := false, norepl := false } := by
  unfold Runs
  decide +kernel

/-- A course record at 0x4000: 8 plain bytes from scratchpad offset 0x100 to offset 0x200, counted at the barrier at 0x10;
and one with an unknown format. -/
def courseBytes (ctrl : Nat) : List Byte × List Byte :=
  (leBytes 8 0xFFFFFF0000000100 ++ leBytes 8 0xFFFFFF0000000200 ++ leBytes 8 0xFFFFFF0000000010 ++ List.replicate 16 0
    ++ leBytes 4 ctrl ++ leBytes 4 0, leBytes 16 (1 * 2 ^ 64 + 1 * 2 ^ 32 + 8))
def aCourse : Course := decodeCourse ((courseBytes 0x01).1 ++ (courseBytes 0x01).2)
def copier : Grp := scalars binder [(8, 0x4000), (10, 0x20), (11, 0xFFFFFF00)]
def copying (ctrl : Nat) : State :=
  { on (teamOn recorded copier) with mem := writeBytes (writeBytes [] 0x4000 (courseBytes ctrl).1) 0x4030 (courseBytes ctrl).2 }
def headRead (k : Nat) : State := afterRead (snapRead copier 0 16 16 3 0x4000 (copying k))
def allRead (k : Nat) : State := afterRead (snapRead copier 0 16 16 1 0x4030 (headRead k))
theorem witness_copies :
    (∀ i ∈ ([.cpy always 8, .cpyg always 8 10] : List Instr), Runs i (copying 1) copier ∧ lowest (active i (copying 1) copier) = some 0)
    ∧ (∀ k ∈ [1, 0xF1], snapRead copier 0 16 16 3 0x4000 (copying k) = .ok (courseBytes k).1 (headRead k)
        ∧ snapRead copier 0 16 16 1 0x4030 (headRead k) = .ok (courseBytes k).2 (allRead k)
        ∧ courseOk (allRead k) copier ((courseBytes k).1 ++ (courseBytes k).2)
            (decodeCourse ((courseBytes k).1 ++ (courseBytes k).2)) false = decide (k = 1)
        ∧ curGrp (allRead k) = some copier ∧ (allRead k).cur = (copying k).cur)
    ∧ indexList copier 0 8 0xFFFFFF0000000020 (allRead 1) = .ok (List.replicate 32 0) (allRead 1) ∧ crsTarget aCourse = 0 := by
  unfold Runs
  decide +kernel

def copyJob (n : Nat) : Job := { sweep n with kind := .cpy 0x4000 0 aCourse none }
def copyingUnit (n : Nat) : State := on { teamOn recorded copier with jobs := [copyJob n] }
theorem witness_copy_unit : ∀ n ∈ [0, 7], let s := copyingUnit n
    let u := unitOf aCourse none n
    (coreAt s 0).jobs.find? (fun y => y.id = 9) = some (copyJob n) ∧ n < copyUnits aCourse ∧ copyUnits aCourse = 8
      ∧ aperture s 0 copier aCourse.bar = some (.scr 0 0 0x10) ∧ (match readParts s (.turn (.copyWrite 0 9 n) 0) 0 copier u.parts with
        | .ok r => decide (r.vals = [0] ∧ r.bad = none)
          && match engWrite r.state (.turn (.copyWrite 0 9 n) 0) 0 copier u.dst (leBytes u.bytes (unitValue u r.vals)) with
            | .ok _ => true
            | _ => false
        | _ => false) = true
      ∧ (∀ p ∈ u.parts, ownAperture ≤ p.1) ∧ ownAperture ≤ u.dst := by
  intro n hn
  simp only [List.mem_cons, List.not_mem_nil, or_false] at hn
  obtain rfl | rfl := hn
  · exact ⟨by decide +kernel, by decide +kernel, by decide +kernel, by decide +kernel, by decide +kernel, by decide +kernel, by decide +kernel⟩
  · exact ⟨by decide +kernel, by decide +kernel, by decide +kernel, by decide +kernel, by decide +kernel, by decide +kernel, by decide +kernel⟩

/-! ## The matrix engine -/

/-- S8: 0, S9: 0x800, S10: 0, S12 to S15: a table at 0 of rows of 32 bytes with one block and no barrier; V8 names row l
or none. -/
def tabled (l : Nat) : Lane := { lane l with regs := putV (lane l).regs 8 (if l % 2 = 0 then l else 0xFFFFFFFF) 1 }
def miner : Grp :=
  { scalars user [(9, 0x800), (13, 0x00020001), (14, 0xFFFFFFFF), (20, 1), (21, 2)] with
    lanes := (List.range 64).map tabled, handles := (List.replicate 16 (0 : Word)).set 2 0x511 }
/-- 256 bytes of the E4M3 code of 1. -/
def ones : Memory := (List.range 256).map fun i => (i, 0x38)
def engine (owner : Option Nat) (ws : List Nat) (launch : Option Dword) : Core :=
  { coreOf [some miner, none, some miner] with
    owner := owner, waiters := ws, launch := launch, teams := [{ pad 0 7 with bytes := ones }, pad 256 0] }
def acceptedWords : List Instr :=
  [.mma always 3 127 .e4m3 .e5m2 .g32 .g32 true 8 9 (.int 1), .mmag always 3 5 .e4m3 .e4m3 .g32 .g32 false 8 9 12,
   .mzero always 3 120 (.int 8), .mstz always 3 .e4m3 .rne true 5 8 (.int 0)]
def turnedAway : List Instr :=
  [.mma always 3 127 .e4m3 .e5m2 .g32 .g32 true 8 9 (.int 2), .mma always 3 127 .e4m3 .e4m3 .g32 .g32 true 20 9 (.int 1),
   .mmag always 3 5 .e4m3 .e4m3 .g32 .g32 false 8 9 8, .mzero always 3 120 (.int 9), .mzero always 3 120 (.int 0),
   .mldz always 3 .f32 5 8 (.int 0), .mstz always 3 .e4m3 .rne true 5 21 (.int 0)]

theorem witness_engine_owner :
    (∀ x ∈ [engine (some 0) [] none, engine none [] (some 7), engine none [] none, engine (some 2) [0] (some 7),
        engine (some 2) (List.range' 1 16) (some 7)],
      Runs (.macq always) (on x) miner ∧ Runs (.mrel always) (on x) miner ∧ active (.macq always) (on x) miner ≠ 0)
    ∧ (let x := engine none [2, 0] (some 8)
       x.owner = none ∧ x.waiters = [2, 0] ∧ x.mops = [] ∧ grpAt (on x) 0 2 = some miner ∧ x.grantAt + 512 ≤ (on x).clock
         ∧ x.launch ≠ some miner.grid ∧ x.cleared = false) := by
  unfold Runs
  decide +kernel
theorem witness_engine_lanes : NoTxn miner full := lanes_of_mask (by decide +kernel)

theorem witness_matrix_words : ∀ i ∈ acceptedWords ++ turnedAway, let s := on (engine (some 0) [] (some 7))
    Runs i s miner ∧ lowest (active i s miner) = some 0 ∧ (matrixForm s miner 0 4096 i).isSome = true
      ∧ ((teamAt s 0 miner.team).map (·.shared)).getD 0 = 4096 := by
  unfold Runs
  decide +kernel

/-- The row that lane l names. -/
def rowOf (l : Nat) : Option Nat :=
  if (guarded always miner full).getLsbD l then
    (let u := getV (laneAt miner l) ((laneAt miner l).base + 8) 1
     if u = 0xFFFFFFFF then none else some u)
  else none
theorem rows_fit : ∀ l, l < 64 → (rowOf l).all (fun u => decide (u * 32 + 32 ≤ 4096)) = true := by decide +kernel

/-- The limits at their edges: what fits exactly, and a block, a tile, a row more. -/
theorem witness_matrix_limits : let form := matrixForm (on (engine (some 0) [] (some 7))) miner 0 4096
    (∀ i ∈ acceptedWords, ∃ f, form i = some f ∧ f.limits) ∧ ∀ i ∈ turnedAway, ∃ f, form i = some f ∧ ¬f.limits := by
  constructor <;> intro i hi
  · simp only [acceptedWords, List.mem_cons, List.not_mem_nil, or_false] at hi
    obtain rfl | rfl | rfl | rfl := hi
    · exact ⟨_, rfl, by decide +kernel⟩
    · refine ⟨_, rfl, by decide +kernel, by decide +kernel, by decide +kernel, by decide +kernel, by decide +kernel, by decide +kernel,
        by decide +kernel, by decide +kernel, by decide +kernel, fun l u hl hu => ?_⟩
      have h := rows_fit l hl
      have hu2 : rowOf l = some u := hu
      rw [hu2] at h
      have h2 : u * 32 ≤ 4064 := by simpa using h
      have e1 : getS miner 12 1 = 0 := by decide +kernel
      have e2 : getS miner 13 1 / 2 ^ 16 * 16 = 32 := by decide +kernel
      have e3 : rowLen .e4m3 .g32 (getS miner 13 1 % 2 ^ 16) = 32 := by decide +kernel
      exact (show getS miner 12 1 + u * (getS miner 13 1 / 2 ^ 16 * 16) + rowLen .e4m3 .g32 (getS miner 13 1 % 2 ^ 16) ≤ 4096 by
        rw [e1, e2, e3]; omega)
    · exact ⟨_, rfl, by decide +kernel⟩
    · exact ⟨_, rfl, by unfold moveLimits; decide +kernel⟩
  · simp only [turnedAway, List.mem_cons, List.not_mem_nil, or_false] at hi
    obtain rfl | rfl | rfl | rfl | rfl | rfl | rfl := hi
    · exact ⟨_, rfl, by decide +kernel⟩
    · exact ⟨_, rfl, by decide +kernel⟩
    · exact ⟨_, rfl, fun h => absurd h.2.2.1 (by decide +kernel)⟩
    · exact ⟨_, rfl, by decide +kernel⟩
    · exact ⟨_, rfl, by decide +kernel⟩
    · exact ⟨_, rfl, by unfold moveLimits; decide +kernel⟩
    · exact ⟨_, rfl, by unfold moveLimits; decide +kernel⟩

/-- An operation at the head of the engine: handle H2, tile 5, before its step `n`. -/
def oper (k : MKind) (n : Nat) (latch : List (List Byte)) : MOp :=
  { slot := 0, team := 0, grid := 7, h := 2, word := 0, tile := 5, kind := k, fzm := false, steps := n, latched := n, latch := latch
    cancelled := false }
def stepping (m : MOp) : State :=
  on { engine (some 0) [] (some 7) with mops := [m], tiles := [(4096 * 5 + 64 * 3 + 7, 0x3F000000)] }
def anMma (ovw : Bool) : MKind := .mma .e4m3 .e4m3 .g32 .g32 ovw 0 0 1
def rows : List (Option Nat) := (List.range 64).map fun l => if l % 2 = 0 then some l else none
def aMmag : MKind := .mmag .e4m3 .e4m3 .g32 .g32 true 0 0 32 2 0xFFFFFFFF rows
def steppedKinds : List MKind :=
  [anMma true, anMma false, .mzero 2, .mldz .f16 0 0, .mstz .e4m3 .rne false 0 0, aMmag]
theorem witness_head : ∀ k ∈ steppedKinds, ∀ l ∈ ([[], [List.replicate 1024 0x38]] : List (List (List Byte))),
    HeadOp (stepping (oper k 0 l)) 0 (oper k 0 l) [] miner { pad 0 7 with bytes := ones } := by
  have h : ∀ k ∈ steppedKinds, ∀ l ∈ ([[], [List.replicate 1024 0x38]] : List (List (List Byte))),
      let s := stepping (oper k 0 l)
      0 < s.cores.length ∧ (coreAt s 0).mops = [oper k 0 l] ∧ grpAt s 0 0 = some miner ∧ miner.frozen = false
        ∧ teamAt s 0 0 = some { pad 0 7 with bytes := ones } ∧ Memory.wf ones = true
        ∧ Sparse.wfFrom 0 (coreAt s 0).tiles = true ∧ armedFor s 0 5 = false := by decide +kernel
  intro k hk l hl
  obtain ⟨h1, h2, h3, h4, h5, h6, h7, h8⟩ := h k hk l hl
  exact ⟨h1, h2, h3, h4, h5, fun w => by
    rcases w with _ | _ | _ | _ | w <;> rfl, h6, h7, (by decide : 2 < 16), h8⟩

/-- R69: elements of value 1, in both panels; the sum of 32 products, over +0 and over 0.5. -/
theorem witness_elements : ∀ k, k < 32 → elemQ ones 0 1 .e4m3 .g32 3 k = some 1 ∧ elemQ ones 0 1 .e4m3 .g32 7 k = some 1 := by
  decide +kernel
theorem witness_sum : codeVal fmt32 (tileWord (stepping (oper (anMma false) 0 [])) 0 5 3 7).toNat = some (1 / 2)
    ∧ (1 / 2 : ℚ) + stepSum (fun _ => 1) (fun _ => 1) ≠ 0 ∧ |(1 / 2 : ℚ) + stepSum (fun _ => 1) (fun _ => 1)| ≤ largest fmt32 := by
  decide +kernel

theorem witness_moves : moveLimits (stBytes .e4m3) 0 0 4096 ∧ rows.getD 1 none = none ∧ rows.length = 64 := by
  unfold moveLimits
  decide +kernel

/-! ## Transactions -/

/-- An open transaction: one record of two bytes at 0x2000, stores of 0 at 0x2001 and of 0x55 at 0x2040. -/
def tx : Txn :=
  { restart := 0x900, handler := 0xA00, d := 8, regs := [1, 2], preds := 0x81, depth := 2, base := 0, cab := [{ pc := 0x40, base := 0 }]
    spill := 1, reads := [{ pa := 0x2000, bytes := [(0x2000, 0xF0), (0x2002, 0xF2)], gr := 512 }]
    writes := [(0x2040, 0x55)], masked := [(0x2001, 1, 512), (0x2040, 1, 512)], anchor := none }
def inside (l : Nat) : Lane :=
  if l = 3 then { asks 3 with lsw := 0x90C00003, txn := some tx, txnStart := 36 } else asks l
def opening : Grp := { user with lanes := (List.range 64).map inside, tretry := 0x00400008 }
def transacting : State := { on (coreOf [some opening]) with mem := some8, ticket := 40 }

theorem witness_tbegin : Runs (.tbegin 8 2 6) su user ∧ badPc (relative { Lane.empty with pc := curPc su } 6).toNat = false
    ∧ ∀ l, l < 64 → inTxn (laneAt user l) = false ∧ (laneAt user l).pc = curPc su
      ∧ tryOf (laneAt user l) < max (user.tretry.toNat % 16) 1 := by
  unfold Runs
  decide +kernel

theorem witness_inside : Inside (laneAt opening 3) tx := ⟨rfl, by decide +kernel, by decide +kernel⟩
theorem witness_transaction_words :
    (∀ i ∈ ([.tabort ifP0 false 5, .tabort ifP0 true 15] : List Instr), Runs i transacting opening
      ∧ active i transacting opening = oneLane 3)
    ∧ Runs .tend transacting opening ∧ ((inOrder full).filter fun l => inTxn (laneAt opening l)) = [3]
    ∧ Runs (.tstat always (.v 8) 2) transacting opening := by
  unfold Runs
  decide +kernel

/-- R309: the lane has been open for exactly LIFE ticks. -/
theorem witness_expired : grpAt transacting 0 0 = some opening ∧ running opening = true ∧ opening.tretry.toNat / 2 ^ 16 = 64
    ∧ (laneAt opening 3).wait = .ready ∧ (laneAt opening 3).txnStart.toNat + 64 = meridian transacting := by decide +kernel

def anchored : State := { transacting with anchors := [{ k := 5, holder := none, waiters := [(0, 0, 3), (1, 2, 4)] }] }
theorem witness_anchor : anchorAt anchored 5 = { k := 5, holder := none, waiters := [(0, 0, 3), (1, 2, 4)] } := by decide

/-- Lane 3 holds ticket 40; its record holds, or memory has changed under it. -/
def ticketed40 : State := { transacting with tickets := [{ num := 40, who := .lane 0 0 3, last := 40, ended := false }] }
def stale : State := { ticketed40 with mem := sset some8 0x2002 0 }
theorem witness_may_commit : ∀ m ∈ [some8, sset some8 0x2002 0], MayCommit { ticketed40 with mem := m } 40 0 0 3 opening tx := by
  intro m _
  refine ⟨Nat.one_pos, rfl, by decide, rfl, witness_inside, ?_, ⟨40, rfl⟩, ?_, rfl, rfl, ?_, ?_⟩
  · exact fun a ha => absurd ha (by simp [ticketed40, transacting, on, coreOf, coreAt, Core.reset])
  · intro h hh
    exact (List.eq_of_mem_replicate hh) ▸ rfl
  · exact fun h hh => absurd hh (by simp [ticketed40, transacting, on, State.reset])
  · exact fun m' hm' => by
      simp only [tx, List.mem_cons, List.not_mem_nil, or_false] at hm'
      obtain rfl | rfl := hm' <;> rfl
theorem witness_records : (∀ r ∈ tx.reads, Holds some8 r) ∧ ¬∀ r ∈ tx.reads, Holds (sset some8 0x2002 0) r := by
  unfold Holds
  decide +kernel
theorem witness_no_locks : ∀ x, heldByOther ticketed40 (some (0, 0, 3)) (anchorOf x) = false := fun _ => rfl

/-! ## Helm cores -/

/-- A helm core at depth `n`, with a checkpoint where that is not 0; at depth 1 a byte of 0 and one of 0x55 are written. -/
def helmAt (n : Nat) (ticket : Option Nat) : Helm :=
  { Helm.reset with
    regs := { pc := 0x4000, x := (List.range 32).map fun i => BitVec.ofNat 64 (7 * i), f := List.replicate 32 0 }, depth := n
    checkpoint := if n = 0 then none else some { Helm.reset.regs with pc := 0x3000 }, rd := 10, cause := 3
    writes := [(0x2001, 0), (0x2002, 0x55)], rsig := [0x2000], wsig := [0x2000], ticket := ticket }
def helmTurn (n : Nat) (ticket : Option Nat) : State :=
  { transacting with helms := [helmAt n ticket, Helm.reset], ticket := 41 }
theorem witness_helm : ∀ n ∈ [0, 1, 6, 7], (helmTurn n none).helms[(helmTurn n none).cur.core]? = some (helmAt n none)
    ∧ (n ≠ 0 → (helmAt n none).checkpoint = some { Helm.reset.regs with pc := 0x3000 }) := by decide +kernel
/-- A store on its way; an external interrupt pending, enabled for the mode it is handed to, or masked (log 8). -/
def helmStoring : Helm := { helmAt 0 none with outb := [{ id := 3, pa := 0x2000, bytes := [1], gr := 512, since := 9, drained := false }] }
def helmIrq (n : Nat) (mie : Dword) : Helm := { helmAt n none with irqs := [5], csrs := [(0x300, mie), (0x304, 0x200)] }
theorem witness_helm_store : let s : State := { helmTurn 0 none with helms := [helmStoring, Helm.reset] }
    s.helms[s.cur.core]? = some helmStoring ∧ helmStoring.depth = 0 ∧ helmStoring.outb ≠ [] ∧ (helmAt 0 none).outb = [] := by decide +kernel
theorem witness_helm_interrupt : irqReady (helmIrq 0 8) = true ∧ (helmIrq 0 8).checkpoint = none ∧ irqReady (helmIrq 1 8) = true
    ∧ irqReady (helmIrq 1 0) = false ∧ (helmIrq 1 0).ticket = none := by decide +kernel
theorem witness_helm_commit :
    let s : State := { helmTurn 1 (some 40) with tickets := [{ num := 40, who := .helm 0, last := 40, ended := false }] }
    s.helms[0]? = some (helmAt 1 (some 40)) ∧ (helmAt 1 (some 40)).writes.Pairwise (fun a b => a.1 < b.1) ∧ Memory.wf s.mem = true
      ∧ (helmAt 1 (some 40)).checkpoint.isSome ∧ s.homes = [] ∧ s.hostLines = [] ∧ s.directory = [] ∧ s.anchors = [] ∧ s.helms[1]? = some Helm.reset := by decide +kernel

/-! ## Control registers, traps, the supervisor -/

/-- A supervisor whose S8 names slot 1, S9 no slot, and S10:11 hold 0x20000; and its core beside a user group. -/
def keeper : Grp := scalars sup [(8, 16), (9, 0x7F), (10, 0x20000), (12, 5), (13, 0x40), (14, 0x1000), (15, 0x20), (16, 3)]
def besideCore (g : Grp) : Core := { coreOf [some keeper, some g] with mailbox := [leBytes 2 1 ++ List.replicate 62 0xAA], head := 3, tail := 7 }
def beside (g : Grp) : State := on (besideCore g)
theorem witness_keeper_lanes : NoTxn keeper full := lanes_of_mask (by decide +kernel)

def userRegs : List UReg :=
  [.lsw, .ftz, .fair, .rdvz, .dmr, .dmrc, .dmra, .hint, .spill, .tretry, .mer, .grid, .place, .vdep, .varr, .vhar, .vmus, .vber, .vgen]
theorem witness_control_registers : ∀ r ∈ userRegs,
    Runs (.crd always (.v 8) (.user r)) su user ∧ Runs (.cwr always (.user r) (.v 2)) su user
      ∧ lowest (active (.cwr always (.user r) (.v 2)) su user) = some 0
      ∧ Runs (.crd always (.v 8) (.sv r)) su user ∧ Runs (.cwr always (.sv r) (.v 2)) su user := by
  unfold Runs
  decide +kernel
theorem witness_supervisor_registers : ∀ r ∈ ([.tring, .stage, .sv .vdep, .sv .vber] : List CReg),
    Runs (.cwr always r (.v 2)) ss sup ∧ lowest (active (.cwr always r (.v 2)) ss sup) = some 0
      ∧ Runs (.crd always (.v 8) r) su user ∧ sup.supervisor = true ∧ user.supervisor = false := by
  unfold Runs
  decide +kernel

/-- A group that holds a cause; one whose record the core has written; a ring of 16 records with one place left. -/
def aCause : TrapRec := mkRec user 1 (oneLane 3) 0x1000 0x123456789ABCDEF0 0x77 0x16 1
def caused : Grp := { user with causes := [aCause, aCause], tack := some (TackState.mk full 3 false) }
def stopped : Grp := { user with stop := some { aCause with pc := 0x1000 } }
def ringed : State :=
  on { besideCore stopped with records := [aCause], tring := BitVec.ofNat 64 (0x30000 + 4), tail := 0xFFFFFFFF, head := 0xFFFFFFF0 }
theorem witness_traps :
    (grpAt (beside caused) 0 1 = some caused ∧ running caused = true)
    ∧ ((coreAt ringed 0).records = [aCause] ∧ writesLanded (coreAt ringed 0) aCause.slot = true
      ∧ (0xFFFFFFFF + 2 ^ 32 - 0xFFFFFFF0) % 2 ^ 32 < 2 ^ 4
      ∧ (let pa := 0x30000 + 64 * (0xFFFFFFFF % 16)
         backed ringed pa = true ∧ writableNow ringed none none none pa 64 512 = true))
    ∧ (∀ skip ∈ [true, false], Runs (.sretResume always skip 20 8) (beside stopped) keeper)
    ∧ active (.sretResume always true 20 8) (beside stopped) keeper ≠ 0
    ∧ recordHeld (coreAt (beside stopped) 0) 1 = false ∧ recordHeld (coreAt ringed 0) 1 = true := by
  unfold Runs
  decide +kernel
theorem witness_names : Names (beside stopped) keeper 8 1 stopped ∧ NamesNone (beside stopped) keeper 9 := by
  refine ⟨by unfold Names; decide +kernel, ?_⟩
  intro k t h
  have h2 : getS keeper 9 1 % 16 < 12 := h.2.1
  exact absurd h2 (by decide +kernel)

/-- Lanes at two PCs, one of which has waited as long as cr.fair allows. -/
def hungry (l : Nat) : Lane := { lane l with pc := if l < 8 then 0x1000 else 0x1008, starve := if l = 9 then 256 else 0 }
def starved : Grp := { user with lanes := (List.range 64).map hungry }
theorem witness_tack : let s := on (coreOf [some starved])
    grpAt s 0 0 = some starved ∧ running starved = true ∧ starving starved = true
      ∧ lastOf starved (maskOf fun m => (lanesOf (readyMask starved)).any fun j => leadOf starved (samePc starved (readyMask starved) j) = some m)
        = some 8 := by decide +kernel

/-- A repeated IADD before its second issue of four, and before its last. -/
def repeating (n : Nat) : Grp := { user with rep := some { count := 4, next := n, d := .s1, a := .s0, b := .s0, c := .s0, set := full, word := some 0x0070180404000000 } }
def repeated (n : Nat) : State :=
  { on { coreOf [some (repeating n)] with tlb := [{ asid := 0, leaf := page }] } with mem := writeBytes [] 0x1000 (leBytes 8 0x0070180404000000) }
theorem witness_repeat : ∀ n ∈ [1, 3], (repeating n).causes = [] ∧ running (repeating n) = true ∧ lowest full = some 0
    ∧ ∃ i, decode (stepWord 0x0070180404000000 1 0 0 0 n) = some i ∧ laneWise i = true
    ∧ (∀ u ∈ i.uses, regBusy (coreAt (repeated n) 0) 0 (repeating n) full u = false)
    ∧ (let need := unitNeed (repeated n) 0 (repeating n) full (stepWord 0x0070180404000000 1 0 0 0 n) i
       unitFree (unitsAt (coreAt (repeated n) 0) 0) 1600 need = true ∧ slotsFree (unitsAt (coreAt (repeated n) 0) 0) 1600 0 need = true
       ∧ ∃ g1, grpAt (enter (repeated n) 0 0 full false need) 0 0 = some g1 ∧ RunsAlu i (enter (repeated n) 0 0 full false need) g1) := by
  intro n hn
  simp only [List.mem_cons, List.not_mem_nil, or_false] at hn
  obtain rfl | rfl := hn
  · refine ⟨rfl, rfl, by decide +kernel, .iadd always .i32 false (.v 4) (.v 1) (.v 2), by decide +kernel, by decide, by decide +kernel,
      by decide +kernel, by decide +kernel, _, rfl, ?_⟩
    unfold RunsAlu Runs
    decide +kernel
  · refine ⟨rfl, rfl, by decide +kernel, .iadd always .i32 false (.v 6) (.v 1) (.v 2), by decide +kernel, by decide, by decide +kernel,
      by decide +kernel, by decide +kernel, _, rfl, ?_⟩
    unfold RunsAlu Runs
    decide +kernel

/-- The supervisor's words, beside a group that waits for its system call. -/
def calls : Grp := { user with sysc := some 20, lanes := user.lanes.map fun ln => { ln with wait := .sysc } }
def svWords : List Instr :=
  [.sretReply always 20 8 10, .sretReply always 20 9 10, .sretResume always true 20 8, .sretDrop always 20 8, .sretDrop always 20 9,
   .mboxWait always 20, .mboxPop always 20 13, .mboxPop always 20 14, .mboxPop always 20 15, .mboxStat always 20, .ctxsG always 20 8 10,
   .ctxsG always 20 9 10, .ctxsT always 20 9 10, .ctxsT always 20 16 10, .ctxlG always 20 16 10, .ctxlT always 20 12 10, .tinvAll always, .tinvPage always 10]
theorem witness_supervisor_words : ∀ i ∈ svWords, supervisorWord i = true
    ∧ (Runs i (beside calls) keeper ∧ active i (beside calls) keeper ≠ 0) ∧ Runs i (on (coreOf [some binder])) binder := by
  unfold Runs
  decide +kernel
theorem witness_sysc : Runs (.sysc always 9 20 8) (on (coreOf [some binder])) binder ∧ binder.sysc = none
    ∧ mailRoom (coreAt (on (coreOf [some binder])) 0) 1 = true ∧ Runs (.sysc always 9 20 8) ss sup := by
  unfold Runs
  decide +kernel
theorem witness_mailbox : Pad (beside calls) 0 256 0x40 (pad 256 0)
    ∧ (coreAt (beside calls) 0).mailbox ≠ [] ∧ getS keeper 13 1 % 64 = 0 ∧ getS keeper 13 1 + 64 ≤ 4096
    ∧ (getS keeper 14 1 % 64 = 0 ∧ 4096 < getS keeper 14 1 + 64) ∧ getS keeper 15 1 % 64 ≠ 0 :=
  ⟨⟨by decide, by decide +kernel, by decide, fun w b => by
    rw [(by decide +kernel : backingOf (pad 256 0) 0x40 = .plain)]; exact nofun⟩, by decide +kernel, by decide +kernel, by decide +kernel,
    by decide +kernel, by decide +kernel⟩

/-- The supervisor beside team 0 with a group, and team 5 with none; grid 7 runs. -/
def context (g : Grp) : State :=
  { on { coreOf [some g, some user] with teams := [pad 0 7, pad 5 7, pad 256 0] } with grids := [aGrid 7 (aRecord 0)] }
def ctxKeeper (a img : Nat) : Grp := scalars sup [(8, a), (10, img)]
theorem witness_context_saves :
    (∀ img ∈ [0x20000, 0x20001], Runs (.ctxsG always 20 8 10) (context (ctxKeeper 16 img)) (ctxKeeper 16 img)
      ∧ active (.ctxsG always 20 8 10) (context (ctxKeeper 16 img)) (ctxKeeper 16 img) ≠ 0
      ∧ grpAt (context (ctxKeeper 16 img)) 0 1 = some user)
    ∧ (∀ n ∈ [0, 5, 7, 128], Runs (.ctxsT always 20 8 10) (context (ctxKeeper n 0x20000)) (ctxKeeper n 0x20000))
    ∧ (let x := coreAt (context keeper) 0
       anyGroup x 0 = true ∧ anyGroup x 5 = false ∧ teamAt (context keeper) 0 5 = some (pad 5 7) ∧ teamAt (context keeper) 0 7 = none) := by
  unfold Runs
  decide +kernel
theorem witness_context_names : Names (context (ctxKeeper 16 0x20000)) (ctxKeeper 16 0x20000) 8 1 user := by
  unfold Names
  decide +kernel

/-- A group image at 0x20000: format 0x10000, 8 registers, 16 scalars, grid 7, group 4 of team 0; and a team image: 4096
bytes, grid 7. Every other byte is 0. -/
def groupAt : Memory := [(0x20002, 1), (0x20004, 8), (0x20006, 16), (0x20008, 7), (0x2001A, 4), (0x22508, 0xAB)]
def teamAtRest : Memory := [(0x20002, 2), (0x20005, 0x10), (0x20008, 7), (0x20019, 5), (0x20407, 0xCD)]
def loading (a : Nat) (m : Memory) : State :=
  { on { coreOf [some (ctxKeeper a 0x20000)] with teams := [pad 0 7, pad 256 0] } with mem := m, grids := [aGrid 7 (aRecord 0)] }
theorem witness_context_loads :
    (Runs (.ctxlG always 20 8 10) (loading 3 groupAt) (ctxKeeper 3 0x20000)
      ∧ active (.ctxlG always 20 8 10) (loading 3 groupAt) (ctxKeeper 3 0x20000) ≠ 0
      ∧ freeSlotIn (coreAt (loading 3 groupAt) 0) 3 = some 24 ∧ (coreAt (loading 3 groupAt) 0).groups.length = 96)
    ∧ Runs (.ctxlT always 20 8 10) (loading 5 teamAtRest) (ctxKeeper 5 0x20000) := by
  unfold Runs
  decide +kernel

/-- What the images hold: they can be read, and are loaded. -/
theorem witness_context_refusals :
    (∃ hd, imageRead (loading 3 groupAt) 0x20000 0x2500 = some hd ∧ groupRefusal (loading 3 groupAt) 0 hd 3 = none)
    ∧ ∃ hd, imageRead (loading 5 teamAtRest) 0x20000 0x400 = some hd ∧ teamRefusal (loading 5 teamAtRest) 0 5 hd = none := by
  have h1 : (imageRead (loading 3 groupAt) 0x20000 0x2500).map (fun hd => decide (groupRefusal (loading 3 groupAt) 0 hd 3 = none))
      = some true := by decide +kernel
  have h2 : (imageRead (loading 5 teamAtRest) 0x20000 0x400).map (fun hd => decide (teamRefusal (loading 5 teamAtRest) 0 5 hd = none))
      = some true := by decide +kernel
  obtain ⟨a, ha, ha2⟩ := Option.map_eq_some_iff.mp h1
  obtain ⟨b, hb, hb2⟩ := Option.map_eq_some_iff.mp h2
  exact ⟨⟨a, ha, of_decide_eq_true ha2⟩, ⟨b, hb, of_decide_eq_true hb2⟩⟩

/-! ## Team barriers, roles, time limits -/

/-- A group with a complete rendezvous of a word, at which every lane supplied `n` and 2; beside it a group that waits at
the same barrier. -/
def metAt (i : Instr) (n e : Nat) : Rdv := { rdvOf 0x1000 i full full with ops := (List.range 64).map fun l => (l, n, e, 0) }
def barring2 (i : Instr) (n e : Nat) : Grp :=
  { user with rdv := some (metAt i n e), lanes := (List.range 64).map fun l => { lane l with wait := .rendezvous } }
def tbarI : Instr := .tbar always 1 3 (.int 2)
def cbarI : Instr := .cbar always 1 2 (.int 2)
def waiting (i : Instr) : Grp :=
  { user with index := 1, bars := [rdvOf 0x1000 i full full], lanes := (List.range 64).map fun l => { lane l with wait := .barrier false } }
/-- Barrier 3 of the team, and cluster barrier 2, empty or with one of two arrivals. -/
def barTeam (arrived : Nat) : Team :=
  let b : Barrier := { expect := 2, arrived := arrived, phase := false, all := false }
  { pad 0 7 with bars := (List.replicate 16 Barrier.zero).set 3 b, cbars := (List.replicate 8 Barrier.zero).set 2 b }
def barredAt (i : Instr) (n e arrived : Nat) : State :=
  { on { coreOf [some (barring2 i n e), some (waiting i)] with teams := [barTeam arrived, pad 256 0] } with grids := [aGrid 7 (aRecord 0)] }
theorem witness_team_barriers : ∀ i ∈ [tbarI, cbarI], ∀ n ∈ [2, 32, 33, 384, 385], ∀ a ∈ [0, 1],
    Complete (barredAt i n 0 a) 0 0 (barring2 i n 0) (metAt i n 0) ∧ teamAt (barredAt i n 0 a) 0 0 = some (barTeam a)
      ∧ lowest ((metAt i n 0).arrived &&& (metAt i n 0).guards) = some 0 ∧ gave (metAt i n 0) 0 = n
      ∧ (coreAt (barredAt i n 0 a) 0).groups.length = 96
      ∧ lanesDone (coreAt (barredAt i n 0 a) 0) 0 full false true = true ∧ member (barredAt i n 0 a) (barTeam a) 0 = some (0, barTeam a) := by
  unfold Complete
  decide +kernel

/-- Role words: 8 registers, 256, 264, 4, a reserved bit; entries that are good and bad. -/
def roleI : Instr := .rolesw 1 8 10
theorem witness_roles : ∀ n ∈ [0x30008, 0x50100, 0x108, 4, 0x208, 0x80008], ∀ e ∈ [0x2000, 0x2001],
    Complete (barredAt roleI n e 0) 0 0 (barring2 roleI n e) (metAt roleI n e) ∧ gave (metAt roleI n e) 0 = n
      ∧ gave2 (metAt roleI n e) 0 = e ∧ badPc 0x2000 = false ∧ badPc 0x2001 = true
      ∧ (∀ l, l < 64 → (laneAt (barring2 roleI n e) l).status = .live → full.getLsbD l = true)
      ∧ (coreAt (barredAt roleI n e 0) 0).pend = [] := by
  unfold Complete
  decide +kernel

/-- R147: 1600 clocks have passed, which is the limit. -/
def limited : Grp := { barring2 tbarI 2 0 with rdvz := 1600 }
theorem witness_time_limit : Complete (on (coreOf [some limited])) 0 0 limited (metAt tbarI 2 0)
    ∧ limited.rdvz.toNat = (metAt tbarI 2 0).base + ((on (coreOf [some limited])).clock - (metAt tbarI 2 0).since) := by
  unfold Complete
  decide +kernel

def grower : Grp := { user with alloc := 8, growth := some 64, lanes := (List.range 64).map fun l => { lane l with wait := .grow } }
theorem witness_growth : let s := on (coreOf [some grower])
    grpAt s 0 0 = some grower
      ∧ (coreAt s 0).ages.find? (fun i => decide (i / 8 = 0) && ((grpAt s 0 i).map (·.growth.isSome)).getD false) = some 0
      ∧ 64 / 8 - grower.alloc / 8 ≤ freeUnits (coreAt s 0) 0 := by decide +kernel

/-! ## Voyages -/

/-- Bytes put into a record. -/
def splice (r : List Byte) (o : Nat) (bs : List Byte) : List Byte := r.take o ++ bs ++ r.drop (o + bs.length)
/-- A launch record of a voyage grid: entry 0x1000, a chart at 0x1F0000, two clusters of two cores, 64 registers, 32 scalars. -/
def voyageRecord : List Byte :=
  splice (leBytes 8 0x1000 ++ leBytes 8 (10 * 2 ^ 60) ++ leBytes 8 0x1F0000
    ++ leBytes 6 0x100010002 ++ leBytes 2 0x102 ++ leBytes 2 0x0801 ++ leBytes 2 64 ++ leBytes 2 32 ++ List.replicate 474 0) 64 (leBytes 4 9)
def aVoyager (f pc : Nat) : Voyager :=
  { pc := BitVec.ofNat 64 pc, depth := 2, preds := 0x81, base := 4, cab := [], live := 3, spill := 0, fibre := BitVec.ofNat 32 f
    gen := 1, origin := 1, resv := none, regs := [7, 8, BitVec.ofNat 32 f] }
/-- Two segments, held by cluster cores 0 and 1, or one held by both. -/
def aChart (shared : Bool) : Chart :=
  { gen := 0xFFFF, muster := 40, spare := 0, harbour := 0x100000, fpc := 64, hstride := 0x5000
    segs := if shared then [{ start := 0x1000, len := 0x2000, holders := [0, 1], select := 0, nfixed := 2 }]
      else [{ start := 0x1000, len := 0x1000, holders := [0], select := 0, nfixed := 1 },
        { start := 0x2000, len := 0x1000, holders := [1], select := 0, nfixed := 1 }] }
def aVoyage (ch : Chart) : Voyage :=
  { grid := 7, team := 0, chart := ch, next := none, seg := some 0, credits := [0, 2], held := [], flight := [], berth := [], due := [] }
def sailTeam (cc : Nat) : Team := { pad 0 7 with ccore := cc, place := [0, 1] }
def sailing (v : Voyage) : State :=
  { State.reset with
    clock := 1600
    cores := [0, 1].map fun c => { coreOf [some sup] with
      teams := [sailTeam c, pad 256 0], tlb := [{ asid := 0, leaf := page }], voyage := some (if c = 0 then v else { aVoyage v.chart with seg := some 1, credits := [2, 0] }) }
    grids := [{ aGrid 7 voyageRecord with pins := [page], alive := [(0, 0, 1), (0, 1, 1)] }] }
def sailGrid : Grid := { aGrid 7 voyageRecord with pins := [page], alive := [(0, 0, 1), (0, 1, 1)] }
def heldThere (f tr : Nat) : HeldVoyager := { v := aVoyager f 0x2000, train := tr, dest := 1, waits := [9] }
def leaving : Voyage := { aVoyage (aChart false) with held := [heldThere 5 3, heldThere 6 4, heldThere 7 3] }
theorem witness_voyager_send : AtVoyage (sailing leaving) 0 leaving (sailTeam 0) sailGrid
    ∧ (leaving.held[0]? = some (heldThere 5 3) ∧ leaving.held[1]? = some (heldThere 6 4))
    ∧ (coreAt (sailing leaving) 0).pend ++ (coreAt (sailing leaving) 0).outb = [] ∧ (sailTeam 0).place[1]? = some 1
    ∧ (coreAt (sailing leaving) 1).voyage = some { aVoyage (aChart false) with seg := some 1, credits := [2, 0] }
    ∧ (leaving.held.filter fun g => g.train = 3 && g.dest = 1).length ≤ leaving.credits.getD 1 0 := by
  refine ⟨⟨?_, ?_, ?_, ?_, ?_⟩, ?_⟩ <;> decide +kernel

/-- Two trains on their way; a berth that one of them fills. -/
def fly (f tr : Nat) : Flying := { v := aVoyager f 0x1000, from_ := 1, train := tr }
def moored (n : Nat) : List Berthed := (List.range n).map fun f => { v := aVoyager f 0x1000, since := 60, credit := if f = 0 then none else some 1 }
def arriving (n : Nat) : Voyage := { aVoyage (aChart false) with flight := [fly 70 1, fly 71 1, fly 72 2], berth := moored n }
theorem few_of_a_pc (bs : List Berthed) (h : bs.length < 64) (pc : Dword) : (bs.filter fun b => b.v.pc = pc).length < 64 :=
  Nat.lt_of_le_of_lt (List.length_filter_le _ _) h
theorem witness_voyager_delivery : ∀ n ∈ [0, 61, 62], AtVoyage (sailing (arriving n)) 0 (arriving n) (sailTeam 0) sailGrid
    ∧ (∀ i ∈ [0, 1], (arriving n).flight[i]? = some (fly (70 + i) 1) ∧ ∀ g ∈ (arriving n).flight.take i, g.from_ = 1 → g.train = 1)
    ∧ ((arriving n).berth ++ [Berthed.mk (aVoyager 70 0x1000) 100 (some 1), Berthed.mk (aVoyager 71 0x1000) 100 (some 1)]).length = n + 2
    ∧ (∀ b ∈ (arriving n).berth, b.v.pc = 0x1000) := by
  intro n hn
  simp only [List.mem_cons, List.not_mem_nil, or_false] at hn
  obtain rfl | rfl | rfl := hn <;> refine ⟨⟨?_, ?_, ?_, ?_, ?_⟩, ?_⟩ <;> decide +kernel

/-- A harbour list with two entries, the older one of fibre 7. -/
def harboured : State :=
  let v := { aVoyage (aChart false) with berth := moored 15 }
  let s := sailing v
  { s with mem := writeBytes (writeBytes (writeBytes [] (0x100000 + 256 * 7) (voyagerBytes s (sailTeam 0) (aVoyager 7 0x1000)))
      0x104000 (leBytes 16 (5 + 3 * 2 ^ 64))) (0x104000 + 64 + 12) (leBytes 4 7) }
theorem witness_harbour : let v := { aVoyage (aChart false) with berth := moored 15 }
    AtVoyage harboured 0 v (sailTeam 0) sailGrid ∧ harbourList v.chart 0 0 = 0x104000
      ∧ (v.berth.filter fun b => b.credit = none).length < 256 - (2 - 1) * (240 / (2 - 1))
      ∧ gridRead harboured 0 7 0x104000 16 = some (leBytes 16 (5 + 3 * 2 ^ 64))
      ∧ gridRead harboured 0 7 (0x104000 + 64 + 4 * (3 % max 1 v.chart.fpc)) 4 = some (leBytes 4 7)
      ∧ gridRead harboured 0 7 (harbourSlot v.chart 0 7) 256 = some (voyagerBytes harboured (sailTeam 0) (aVoyager 7 0x1000))
      ∧ (match withTurn harboured (.turn (.harbourDrain 0) 0) (gridRanges harboured 0 7 0x104000 (64 + 4 * v.chart.fpc)) with
        | .ok s0 => decide (s0.mem = harboured.mem)
        | _ => false) = true := by
  refine ⟨⟨?_, ?_, ?_, ?_, ?_⟩, ?_⟩ <;> decide +kernel

/-- A berth whose oldest voyager has waited 40 ticks; a due batch; a chart sent; a core that can be taken out of service. -/
def waited : Voyage := { aVoyage (aChart false) with berth := moored 3 }
theorem witness_muster_timeout : AtVoyage (sailing waited) 0 waited (sailTeam 0) sailGrid
    ∧ (waited.berth.find? fun b => b.v.pc = 0x1000) = some (Berthed.mk (aVoyager 0 0x1000) 60 none) ∧ 60 + waited.chart.muster ≤ meridian (sailing waited)
    ∧ (waited.berth.filter fun b => b.v.pc = 0x1000).length ≤ 64 := by
  refine ⟨⟨?_, ?_, ?_, ?_, ?_⟩, ?_⟩ <;> decide +kernel
def mustering : Voyage := { aVoyage (aChart false) with due := [moored 3, moored 64] }
theorem witness_muster : let x := coreAt (sailing mustering) 0
    AtVoyage (sailing mustering) 0 mustering (sailTeam 0) sailGrid ∧ freeIndex x 0 = some 0
      ∧ placeFor x (recRegs sailGrid.record / 8) = some 1 ∧ groupsAlive (sailing mustering) 0 (sailTeam 0) false < 32 ∧ x.groups.length = 96 := by
  refine ⟨⟨?_, ?_, ?_, ?_, ?_⟩, ?_⟩ <;> decide +kernel
def adopting : Voyage := { aVoyage (aChart false) with next := some (aChart true) }
theorem witness_chart_adopt : AtVoyage (sailing adopting) 0 adopting (sailTeam 0) sailGrid ∧ adopting.next = some (aChart true) := by
  refine ⟨⟨?_, ?_, ?_, ?_, ?_⟩, ?_⟩ <;> decide +kernel
def losing : Voyage := aVoyage (aChart true)
theorem witness_holder_loss : AtVoyage (sailing losing) 0 losing (sailTeam 0) sailGrid ∧ (heldSeg losing.chart 0).isSome ∧ losing.next = none
    ∧ (∀ sg ∈ (chartWithout 0 losing.chart).segs, sg.holders ≠ [])
    ∧ (match withTurn (sailing losing) (.turn (.holderLoss 0) 0) (gridRanges (sailing losing) 0 7 (harbourList losing.chart 0 0) (64 + 4 * losing.chart.fpc)
        ++ gridRanges (sailing losing) 0 7 (recChart voyageRecord) 448) with
      | .ok s0 => decide (s0.mem = (sailing losing).mem)
      | _ => false) = true := by
  refine ⟨⟨?_, ?_, ?_, ?_, ?_⟩, ?_⟩ <;> decide +kernel

/-! ## The mailbox, its firmware and the system calls -/

/-- A record: KIND, PART 0 and SLOT 1, OP or MSG, grid 7, then its words. -/
def mail (kind op : Nat) (rest : List Byte) : List Byte :=
  leBytes 2 kind ++ (if kind = 4 then leBytes 2 op else leBytes 2 0x100) ++ leBytes 4 op ++ leBytes 8 7 ++ rest
    ++ List.replicate (48 - rest.length) 0
def caller7 : Grp := { calls with index := 1 }
def faulted7 : Grp := { stopped with index := 1 }
def later : List Byte := mail 1 0 []
/-- A core whose supervisor runs beside a group in slot 1, with `r` the oldest of two records. -/
def mailed (g : Grp) (r : List Byte) : State :=
  { on { besideCore g with mailbox := [r, later], tlb := [{ asid := 3, leaf := page }, { asid := 4, leaf := { page with va := 2 ^ 21 } }] } with
    grids := [{ aGrid 7 (aRecord (3 * 2 ^ 44)) with pins := [page] }]
    binds := [[{ grid := 7, cluster := 1, place := ⟨0, 0, 0, false, 0⟩ }, { grid := 8, cluster := 0, place := ⟨0, 0, 0, false, 0⟩ }], []] }
theorem witness_mailbox_post : let s := on { besideCore user with posts := [mail 1 3 [], mail 1 0 []], mailbox := List.replicate 23 (mail 1 0 []) ++ List.replicate 8 (mail 2 0 []) }
    0 < s.cores.length ∧ (coreAt s 0).posts = [mail 1 3 [], mail 1 0 []] ∧ (coreAt s 0).mailbox.length < 32 ∧ fieldAt (mail 1 3 []) 0 2 = 1
      ∧ ((coreAt s 0).mailbox.filter fun q => fieldAt q 0 2 = 1).length < 24 := by decide +kernel
theorem heads_mailed (g : Grp) (r : List Byte) : Heads (mailed g r) 0 r [later] :=
  ⟨by simp [mailed, on], ⟨keeper, rfl, rfl, rfl⟩, rfl⟩
theorem witness_replies : ∀ op ∈ [0, 1, 2, 3], let r := mail 2 op (leBytes 8 0x123456789A ++ leBytes 8 (if op = 3 then 0x5000 else 0))
    fieldAt r 0 2 = 2 ∧ fieldAt r 4 4 = op ∧ grpAt (mailed caller7 r) 0 1 = some caller7 ∧ caller7.sysc = some 20
      ∧ grpAt (mailed faulted7 r) 0 1 = some faulted7 ∧ faulted7.stop.isSome ∧ recordHeld (coreAt (mailed faulted7 r) 0) 1 = false
      ∧ caller7.grid = BitVec.ofNat 64 (fieldAt r 8 8) ∧ 1 = 8 * fieldAt r 2 1 + fieldAt r 3 1 % 8 ∧ caller7.dropped = false
      ∧ (coreAt (mailed faulted7 r) 0).pend ++ (coreAt (mailed faulted7 r) 0).outb = [] := by decide +kernel
theorem witness_invalidate : let s := mailed caller7 []
    backed s 0x5000 = true ∧ (linesOf 0x5000 4).any (linePoisoned s) = false ∧ Memory.wf s.mem = true
      ∧ writableNow s none none (some (.turn (.invalidate 0) 0)) 0x5000 4 512 = true := by decide +kernel
theorem witness_task_end : ∀ p ∈ [(2, 2), (4, 1), (4, 2)], let r := mail p.1 p.2 (leBytes 8 6)
    (∃ gr, gridOf (mailed caller7 r) (BitVec.ofNat 64 (fieldAt r 8 8)) = some gr ∧ gr.stage = .running)
      ∧ fieldAt r 0 2 = p.1 ∧ (p.1 = 4 → fieldAt r 2 2 = p.2) := by
  intro p hp
  simp only [List.mem_cons, List.not_mem_nil, or_false] at hp
  obtain rfl | rfl | rfl := hp <;> exact ⟨⟨_, rfl, rfl⟩, by decide +kernel⟩
/-- A record that keeps the launch checks, or breaks one, at 0x8000. -/
def goodRecord : List Byte :=
  leBytes 8 0x1000 ++ leBytes 8 (10 * 2 ^ 60 + 3 * 2 ^ 44 + 0x10) ++ leBytes 8 0 ++ leBytes 6 0x100010002 ++ leBytes 2 0x102 ++ leBytes 2 0x0501 ++ leBytes 2 64
    ++ leBytes 2 32 ++ leBytes 2 0 ++ leBytes 4 512 ++ leBytes 1 2 ++ leBytes 19 0 ++ leBytes 4 9 ++ leBytes 4 8 ++ List.replicate 440 0
def launching (r : List Byte) (good : Bool) (full : Bool) : State :=
  { mailed caller7 r with
    mem := writeBytes [] 0x8000 (if good then goodRecord else splice goodRecord 30 [0])
    queues := (List.replicate 8 []).set 5 (List.replicate (if full then 64 else 63) (4, [])) }
theorem witness_launch_request : ∀ good ∈ [true, false], ∀ out ∈ [0, 0x9004], let r := mail 3 0 [] |>.take 8 |> (· ++ leBytes 8 0x8000 ++ leBytes 8 out ++ List.replicate 40 0)
    let s := launching r good false
    fieldAt r 0 2 = 3 ∧ fieldAt r 8 8 = 0x8000 ∧ fieldAt r 16 8 = out ∧ grpAt s 0 0 = some keeper
      ∧ (∃ tg, checkAddr s 0 keeper 0x8000 64 .load = .ok tg ∧ True) ∧ (match engRead s (.turn (.launchRequest 0) 0) 0 keeper 0x8000 512 with
        | .ok q => decide (q.bytes = (if good then goodRecord else splice goodRecord 30 [0]) ∧ q.bad = none ∧ q.state.sent = [] ∧ backed q.state 0x9004 = true
          ∧ writableNow q.state none none none 0x9004 8 512 = true ∧ Memory.wf q.state.mem = true)
        | _ => false) = true
      ∧ recordOk (if good then goodRecord else splice goodRecord 30 [0]) = good ∧ (queueAt s 5).length < 64 ∧ recPrio goodRecord = 5 := by
  intro good hg out ho
  simp only [List.mem_cons, List.not_mem_nil, or_false] at hg ho
  obtain rfl | rfl := hg <;> obtain rfl | rfl := ho <;>
    exact ⟨by decide +kernel, by decide +kernel, by decide +kernel, by decide +kernel, ⟨plainTarget 0x8000, by decide +kernel, trivial⟩, by decide +kernel, by decide +kernel⟩

/-- A call with its arguments from word 0 on, in a grid whose memory holds 16 bytes at 0x6000; file 0 has the first 4 of them
as its path and 8 bytes of data. -/
def callOf (n : Nat) (args : List Nat) : List Byte := mail 1 n (args.flatMap (leBytes 4))
def served (r : List Byte) (flags : Nat) : State :=
  { mailed caller7 r with
    mem := writeBytes [] 0x6000 ((List.range 16).map fun i => BitVec.ofNat 8 (0x41 + i))
    files := [{ path := (List.range 4).map fun i => BitVec.ofNat 8 (0x41 + i), data := (List.range 8).map fun i => BitVec.ofNat 8 i }]
    handles := [{ num := 1, file := 0, flags := flags }, { num := 0, file := 0, flags := 1 }] }
/-- Four bytes that a call's read gives, where it meets no poison and no wait. -/
def engBytes (s : State) (src : Source) (va : Nat) : Option (List Byte) := match engRead s src 0 caller7 va 4 with
  | .ok q => if q.bad = none then some q.bytes else none
  | _ => none
theorem witness_system_calls : ∀ n ∈ [0, 1, 2, 3, 4, 5, 6, 7], ∀ h ∈ [0, 1, 5], let r := callOf n [h, 2, 0, 4, 0x6002, 0, 0x20, 0xFFFFFF00]
    let s := served r 3
    fieldAt r 0 2 = 1 ∧ fieldAt r 4 4 = n ∧ grpAt s 0 1 = some caller7 ∧ caller7.grid = BitVec.ofNat 64 (fieldAt r 8 8)
      ∧ 1 = 8 * fieldAt r 2 1 + fieldAt r 3 1 % 8 ∧ caller7.supervisor = false
      ∧ resolveDest s 0 caller7 (fieldAt r 32 8) (fieldAt r 28 4) (fieldAt r 40 8) = .ok (some (.virt 0x6002)) (.scr 0 0 0x20)
      ∧ (s.handles.find? fun x => x.num = 1) = some (Handle.mk 1 0 3) ∧ (h = 5 → ∀ x ∈ s.handles, x.num ≠ h)
      ∧ engBytes s (.turn (.fwrite 0) 0) 0x6002 = some ((List.range 4).map fun i => BitVec.ofNat 8 (0x43 + i)) := by decide +kernel
/-- A handle that may not read or write; a range that leaves the file; the leaf that FREAD pins; FSTAT's 64 bytes. -/
theorem witness_file_handles : ∀ off ∈ [2, 4, 5], let r := callOf 3 [1, off, 0, 4, 0x6002, 0, 0x20, 0xFFFFFF00]
    (served r 0).handles.find? (fun x => x.num = 1) = some (Handle.mk 1 0 0) ∧ (fileData (served r 3) (Handle.mk 1 0 3)).length = 8
      ∧ fieldAt r 20 8 + fieldAt r 28 4 = off + 4
      ∧ (match findLeaf (served r 3) 0 caller7.grid (4096 * 6) with | .leaf lf used => decide (lf = page ∧ used = []) | _ => false) = true
      ∧ (match engWrite (freeBytes (served r 3) 64).2 (.turn (.fstat 0) 0) 0 caller7 0x6000 (freeBytes (served r 3) 64).1 with | .ok _ => true | _ => false) = true := by
  decide +kernel
theorem witness_paths : ∀ p ∈ [0x6000, 0x6001], ∀ flags ∈ [0, 4], let r := callOf 1 [p, 0, 4, flags]
    fieldAt r 16 8 = p ∧ fieldAt r 24 4 = 4 ∧ fieldAt r 28 4 / 4 % 2 = flags / 4
      ∧ engBytes (served r 3) (.turn (.fopen 0) 0) p = some ((List.range 4).map fun i => BitVec.ofNat 8 (p - 0x6000 + 0x41 + i))
      ∧ fileOf (served r 3) ((List.range 4).map fun i => BitVec.ofNat 8 (p - 0x6000 + 0x41 + i)) = if p = 0x6000 then some 0 else none := by
  decide +kernel

/-! ## Launching -/

/-- LNCH on a record that keeps the checks, breaks one, or finds its queue full. -/
def lnchI : Instr := .lnch always 20 8
def lnchGrp : Grp := scalars binder [(8, 0x8000), (9, 0)]
def lnchAt (good full : Bool) : State :=
  { on (teamOn recorded lnchGrp) with
    mem := writeBytes [] 0x8000 (if good then goodRecord else splice goodRecord 30 [0])
    queues := (List.replicate 8 []).set 5 (List.replicate (if full then 64 else 63) (4, [])) }
theorem witness_launch : ∀ good ∈ [true, false], ∀ full_ ∈ [true, false], let s := lnchAt good full_
    RunsOnce lnchI s lnchGrp ∧ lowest (active lnchI s lnchGrp) = some 0
      ∧ (match snapRead lnchGrp 0 64 64 8 (getS lnchGrp 8 2) s with
        | .ok bs s1 => decide (bs = (if good then goodRecord else splice goodRecord 30 [0]) ∧ curGrp s1 = some lnchGrp ∧ s1.cur = s.cur)
            && decide (64 ≤ (queueAt s1 5).length) = full_
        | _ => false) = true
      ∧ lnchGrp.lanes.length = 64 ∧ recordOk (if good then goodRecord else splice goodRecord 30 [0]) = good := by
  intro good hg full_ hf
  simp only [List.mem_cons, List.not_mem_nil, or_false] at hg hf
  obtain rfl | rfl := hg <;> obtain rfl | rfl := hf <;>
    exact ⟨⟨by unfold Runs; decide +kernel, lanes_of_mask (by decide +kernel), by decide +kernel⟩, by decide +kernel⟩

/-- A record of class 5 in its queue, with `n` dependences; a grid that waits for dependence 1 of 2, whose word is 5. -/
def floatingAt (die : Fin 2) (r : Fin 4) : Placement := { die := die, col := 0, row := 0, floating := true, region := r }
def corner : Placement := { die := 1, col := 6, row := 0, floating := false, region := 0 }
def depRecord (n cond v : Nat) : List Byte :=
  splice (splice (splice goodRecord 45 [BitVec.ofNat 8 n, 0, BitVec.ofNat 8 (4 * cond)]) 128 (if n = 0 then leBytes 16 0 else leBytes 8 0x2000 ++ leBytes 8 6))
    144 (if n < 2 then leBytes 16 0 else leBytes 8 0x2008 ++ leBytes 8 v)
def toTake (n : Nat) : State := { su with queues := (List.replicate 8 []).set 5 [(12, depRecord n 0 5), (13, goodRecord)], mem := tables }
theorem witness_record_taken : ∀ n ∈ [0, 2], (∀ q ∈ [6, 7], queueAt (toTake n) q = []) ∧ queueAt (toTake n) 5 = [(12, depRecord n 0 5), (13, goodRecord)]
    ∧ placesOk (depRecord n 0 5) [corner, floatingAt 0 2] = false ∧ placesOk (depRecord n 0 5) [corner] = true
    ∧ recNdep (depRecord n 0 5) = n ∧ gridOf (toTake n) 12 = none ∧ (toTake n).grids = [] := by
  decide +kernel
def heldOn (cond v : Nat) (met : List Nat) : State :=
  { su with
    mem := writeBytes tables 0x5008 (leBytes 8 5)
    grids := [{ aGrid 12 (depRecord 2 cond v) with stage := .held met, places := [corner] }] }
theorem witness_dependence : ∀ met ∈ ([[], [0]] : List (List Nat)), ∀ cond ∈ [0, 1, 2, 3], ∀ v ∈ [4, 5, 6], let s := heldOn cond v met
    gridOf s (BitVec.ofNat 64 12) = some { aGrid 12 (depRecord 2 cond v) with stage := .held met, places := [corner] }
      ∧ 1 < recNdep (depRecord 2 cond v) ∧ 1 ∉ met ∧ met.length < recNdep (depRecord 2 cond v)
      ∧ firmAddr s (recRoot (depRecord 2 cond v)) (recDepAddr (depRecord 2 cond v) 1) = some 0x5008
      ∧ backed s 0x5008 = true ∧ (linesOf 0x5008 8).any (linePoisoned s) = false ∧ readableNow s none none 0x5008 8 512 = true
      ∧ readLe s.mem 0x5008 8 = 5 ∧ recDcond (depRecord 2 cond v) 1 = cond
      ∧ recDepVal (depRecord 2 cond v) 1 = v := by
  decide +kernel

theorem witness_dependences_met : let s := heldOn 0 5 [1, 0]
    gridOf s (BitVec.ofNat 64 12) = some { aGrid 12 (depRecord 2 0 5) with stage := .held [1, 0], places := [corner] }
      ∧ [1, 0].length = recNdep (depRecord 2 0 5) := by decide +kernel

/-- A floating cluster of two groups for region 1 of die 0, and a core there with room for it. -/
def floatRecord : List Byte := splice goodRecord 30 [1, 1, 2]
def floatGrid : Grid := { aGrid 12 floatRecord with places := [floatingAt 0 1], bound := 3, started := 1 }
def floats (n : Nat) : List Floating := (List.range n).map fun q => { grid := 12, cluster := q, prio := if q = 1 then 6 else 5 }
def starting : State :=
  { State.reset with
    cores := (List.range 4).map fun c => { coreOf [some sup, some user] with teams := [pad 0 7, { pad 2 7 with shared := 1000 }, pad 256 0], ages := if c = 2 then [0, 1] else [1, 0] }
    grids := [floatGrid], regions := (List.replicate 8 []).set 1 (floats 3) }
def startedCore : Core := (startTeam floatGrid 1 [2] 0 (coreAt starting 2)).getD (Core.reset 0)
theorem witness_team_start : gridOf starting (BitVec.ofNat 64 12) = some floatGrid ∧ (∀ b ∈ starting.binds.getD 0 [], ¬(b.grid = 12 ∧ b.cluster = 1))
    ∧ ((floats 3).find? fun f => (floats 3).all fun e => e.prio ≤ f.prio) = some { grid := 12, cluster := 1, prio := 6 }
    ∧ startTeam floatGrid 1 [2] 0 (coreAt starting 2) = some startedCore ∧ (coreAt starting 2).groups.length = 96 ∧ floatGrid.chart = none := by
  decide +kernel
/-- One group in the lowest partition that has room; team 0 is another grid's. A bound cluster on cores 0 and 1. -/
def lone : State := { starting with grids := [{ floatGrid with record := splice goodRecord 30 [1, 1, 1] }] }
theorem witness_team_start_group : let r := splice goodRecord 30 [1, 1, 1]
    let x := coreAt lone 2
    gridOf lone (BitVec.ofNat 64 12) = some { floatGrid with record := r } ∧ recGpt r = 1 ∧ x.groups.length = 96 ∧ (∀ t ∈ x.teams, t.num ≠ 1)
      ∧ ((x.teams.filter fun t => t.num < 128).map (·.shared)).sum + recShared r ≤ 1310720
      ∧ recRegs r / 8 ≤ freeUnits x 1 ∧ grpIn x 8 = none ∧ (∀ b ∈ lone.binds.getD 0 [], ¬(b.grid = 12 ∧ b.cluster = 1))
      ∧ (lone.regions.getD (4 * 0 + 2 % 8 / 2) []).find? (fun f => (lone.regions.getD (4 * 0 + 2 % 8 / 2) []).all fun e => e.prio ≤ f.prio)
        = some { grid := 12, cluster := 1, prio := 6 } := by
  decide +kernel
def bindOf : Bind := { grid := 12, cluster := 1, place := { die := 0, col := 0, row := 0, floating := false, region := 0 } }
def bound : State := { starting with binds := [[bindOf], []] }
theorem witness_bound_start : gridOf bound (BitVec.ofNat 64 12) = some floatGrid
    ∧ (bound.binds.getD 0 []).find? (fun b => b.grid = 12 ∧ b.cluster = 1) = some bindOf
    ∧ (match startCluster bound floatGrid 1 (rectCores bindOf.place (recCw floatRecord) (recCh floatRecord)) with
      | some s1 => (gridOf s1 12).isSome
      | none => false) = true := by decide +kernel
def stealing (v n : Nat) : State := { starting with regions := (List.replicate 8 []).set v (floats n) }
theorem witness_steal : ∀ p ∈ ([(1, 0), (0, 1)] : List (Fin 4 × Nat)), ∀ n ∈ [2, 3], let s := stealing p.2 n
    let fs := s.regions.getD p.2 []
    s.regions.length = 8 ∧ s.regions.getD p.1.val [] = [] ∧ fs.length = n
      ∧ (fs.drop (n - n / 2)).any (regionRoom s 0 p.1.val) = true ∧ (p.1.val = p.2 + 1 ∨ (p.2 = p.1.val + 1 ∧ p.1.val = 0)) := by
  decide +kernel

/-- A grid whose work is over, or which was ended, with DONE at 0x2010 and one team left. -/
def doneRecord : List Byte := splice (splice goodRecord 56 (leBytes 8 0x2010)) 448 (leBytes 8 0x1234)
def overGrid (st : GridStage) : Grid := { aGrid 12 doneRecord with stage := st, bound := 2, started := 2 }
def finishing (st : GridStage) : State :=
  { on { coreOf [some sup] with teams := [pad 0 12, pad 1 7, pad 256 0] } with mem := tables, grids := [overGrid st] }
theorem witness_grid_complete : ∀ st ∈ [GridStage.running, .ending 4], let s := finishing st
    gridOf s (BitVec.ofNat 64 12) = some (overGrid st) ∧ gridOver s (overGrid st) = true ∧ recDone doneRecord = 0x2010
      ∧ (match firmStore (overCores s (dropTeams 12)) (.grid 12 0) (recRoot doneRecord) 0x2018 8 4 with
        | .ok s2 => (match firmStore s2 (.grid 12 1) (recRoot doneRecord) 0x2010 8 (recDonev doneRecord) with
          | .ok _ => true
          | .error _ => false)
        | .error _ => false) = true := by decide +kernel
theorem witness_grid_complete_silent : let s : State := { finishing .running with grids := [{ overGrid .running with record := goodRecord }] }
    gridOf s (BitVec.ofNat 64 12) = some { overGrid .running with record := goodRecord } ∧ recDone goodRecord = 0
      ∧ gridOver s { overGrid .running with record := goodRecord } = true := by decide +kernel
/-- Page 0x10 is leased, page 3 is listed, and the list is full or not. -/
def pages (n : Nat) : State := { su with grids := [{ aGrid 12 [] with pins := [{ aLeaf with pa := 0x10000 }] }], badPages := 3 :: List.replicate n 9 }
theorem witness_bad_page : (∃ g ∈ (pages 0).grids, ∃ lf ∈ g.pins, lf.pa < 4096 * 0x10 + 4096 ∧ 4096 * 0x10 < lf.pa + lf.size)
    ∧ 3 ∈ (pages 0).badPages ∧ (∀ p ∈ [0xF, 0x11], (¬∃ g ∈ (pages 0).grids, ∃ lf ∈ g.pins, lf.pa < 4096 * p + 4096 ∧ 4096 * p < lf.pa + lf.size)
      ∧ p ∉ (pages 0).badPages) ∧ (pages 0).badPages.length < 4096 := by decide +kernel
theorem witness_bad_pages_full : 4096 ≤ (pages 4095).badPages.length := by
  change 4096 ≤ (3 :: List.replicate 4095 9).length
  rw [List.length_cons, List.length_replicate]

/-! ## Inbound requests and host ports -/

/-- Port 0 is up as a CXL device port (role 2), and the table of its requester 3 maps 0x4000 to 0x6000, readable and writable. -/
def upPort (role : Nat) : Dword := BitVec.ofNat 64 (0x0000C35000250200 + role * 4 + 1)
def ported : State :=
  { su with
    ports := [upPort 2, 0x0000C35000000103, 0x0000C3500000010B, 0x0000000000000305], roles := [2, 0, 2, 0]
    contexts := [{ port := 1, rid := 3, root := 0x20 }, { port := 0, rid := 3, root := 0x10 }], mem := writeBytes tables 0x14020 (leBytes 8 (0x6000 / 4 + 0x97)), nextId := 50 }
def asker : Requester := { port := 0, rid := 3 }
def ioPage : Leaf := { page with va := 0x4000, size := 4096, pa := 0x6000, x := false }
def inbound (id : Nat) (p : Nat) (st : InState) (land : Option Nat) : Inbound :=
  { id := id, port := p, ro := false, place := .glob 0x6010, bytes := leBytes 4 0x11223344, gr := 512
    route := sliceDie (homeNow ported 0x6010), state := st, land := land }
theorem witness_untranslated : portState ported 0 = 2 ∧ (∀ a ∈ [0x3000, 0x1FFF], landingTag a = none ∧ ioLeaf ported 0 3 a true = none ∧ ioLeaf ported 0 3 a false = none)
    ∧ ioLeaf ported 0 3 0x2000 true = none ∧ (ioLeaf ported 0 3 0x2000 false).isSome ∧ ioLeaf ported 0 4 0x2000 false = none ∧ ported.inbound = [] := by
  decide +kernel
theorem witness_bus : onBus ported 0 0xFFFFFFFFFF ∧ ¬onBus ported 0 0x10000000000 ∧ onBus { ported with roles := [1, 0, 1, 0] } 0 0x10000000000 :=
  ⟨.inr (by decide), (by rintro (h | h); exacts [absurd h (by decide +kernel), absurd h (by decide)]), .inl rfl⟩
theorem witness_inbound_write : ∀ ro ∈ [true, false], ∀ n ∈ [1, 8, 496], let s := { ported with inbound := if ro then [inbound 40 0 .queued none] else [inbound 40 1 .queued none] }
    Arrives s asker 0x4010 n true ioPage 0x6010 ∧ 0x6010 % ioPage.gr + n ≤ ioPage.gr ∧ readableNow s none none 0x6010 1 ioPage.gr = true ∧ s.landings = [] ∧ n ≤ 512
      ∧ (ro = true ∨ ∀ w ∈ s.inbound, ¬w.port = 0) := by
  intro ro hr n hn
  simp only [List.mem_cons, List.not_mem_nil, or_false] at hr hn
  obtain rfl | rfl := hr <;> obtain rfl | rfl | rfl := hn <;>
    exact ⟨⟨by decide +kernel, .inr (by decide), by decide, by decide, by decide +kernel, by decide +kernel, by decide +kernel, by decide +kernel⟩, by decide +kernel⟩
theorem witness_inbound_read : Arrives ported asker 0x4FFF 1 false ioPage 0x6FFF ∧ Arrives ported asker 0x4000 4096 false ioPage 0x6000
    ∧ readableNow ported none none 0x6FFF 1 ioPage.gr = true ∧ (linesOf 0x6FFF 1).any (linePoisoned ported) = false
    ∧ ported.inbound = [] := by
  refine ⟨⟨?_, .inr ?_, ?_, ?_, ?_, ?_, ?_, ?_⟩, ⟨?_, .inr ?_, ?_, ?_, ?_, ?_, ?_, ?_⟩, ?_⟩ <;> decide +kernel
def aLanding : Landing :=
  { id := 6, grid := 7, dest := .virt 0x4010, len := 64, landed := 60, bar := .scr 0 0 0x10, handle := 1, data := List.replicate 64 0, pins := [], got := [(16, 4)] }
def acks (st : InState) (land : Option Nat) : State :=
  { ported with inbound := [inbound 39 0 .queued none, inbound 40 0 st land, inbound 41 0 .held none], landings := [aLanding]
                cores := [{ coreOf [some { user with lanes := user.lanes.map fun ln => { ln with wait := .barw (.scr 0 0 0x10) } }] with
                  teams := [{ pad 0 7 with bytes := writeBytes [] 0x10 (leBytes 8 0x400000001) }, pad 256 0] }] }
theorem witness_write_ack :
    (∀ p ∈ ([(.held, none), (.performed, none), (.performed, some 6)] : List (InState × Option Nat)),
      (acks p.1 p.2).inbound.find? (fun v => v.id = 40) = some (inbound 40 0 p.1 p.2))
    ∧ backed (acks .held none) 0x6010 = true ∧ readableNow (acks .held none) none none 0x6010 1 512 = true
    ∧ (∀ v ∈ (acks .held none).inbound, v.port = 0 → v.id < 40 → v.route = (inbound 40 0 .held none).route ∧ v.state ≠ .held)
    ∧ (acks .performed (some 6)).landings.find? (fun l => l.id = 6) = some aLanding ∧ aLanding.bar = .scr 0 0 0x10 := by
  decide +kernel
theorem witness_byte_barrier : Pad (acks .performed (some 6)) 0 0 0x10 { pad 0 7 with bytes := writeBytes [] 0x10 (leBytes 8 0x400000001) } := by
  refine ⟨by decide +kernel, by decide +kernel, by decide +kernel, fun w b => ?_⟩
  have h : backingOf { pad 0 7 with bytes := writeBytes [] 0x10 (leBytes 8 0x400000001) } 0x10 = .plain := by decide +kernel
  rw [h]
  exact Backing.noConfusion
theorem witness_post_slot : let s := { ported with inbound := [inbound 40 1 .held none, { inbound 41 0 .performed none with route := 0 }] }
    portState s 0 = 2 ∧ portRole s 0 = 2 ∧ (∀ w ∈ s.inbound, w.port = 0 → w.route = 0 / 88 ∧ w.state = .performed)
      ∧ mailRoom (coreAt s 0) 1 = true ∧ (coreAt s 0).posts = [] := by decide +kernel
theorem witness_interrupt : ∀ h ∈ [0, 63], ∀ v ∈ [1, 2047], ported.helms[h]? = some Helm.reset ∧ 1 ≤ v ∧ v ≤ 2047 := by decide +kernel

/-- Lines that a host holds, asked back; requests of a load and a store, through port 0 and port 1. -/
def hostLine (line p : Nat) (h : HostHold) : HostLine := { line := line, port := p, hold := h, asked := true }
def outReq (id acc : Nat) : Outstanding := { id := id, src := .acc 0 acc, port := some 0, since := 0, block := 0, via := none, data := if acc = 9 then [] else leBytes 8 7, pa := 0x10000000240 }
def hosted : State :=
  { ported with
    clock := 1750, ports := ported.ports.set 0 (BitVec.ofNat 64 0x0000000000250209)
    hostLines := [hostLine 0x2000 0 .shared, hostLine 0x2040 0 .exclusive, hostLine 0x2040 1 .shared, hostLine 0x2080 1 .exclusive]
    homes := [{ freshHome 0x10000000200 512 with horizon := 109 }], hostCache := [0x10000000200, 0x10000000240]
    outstanding := [outReq 60 9, outReq 61 10, { outReq 62 11 with port := some 1 }]
    cores := [{ coreOf [some user] with
      pend := [{ access (.load true) with place := .glob 0x10000000000 }], outb := [{ aStore with id := 10, place := .glob 0x10000000240 }, { aStore with id := 11, place := .glob 0x10000000280 }] }] }
theorem witness_birsp : ∀ l ∈ [hostLine 0x2000 0 .shared, hostLine 0x2040 0 .exclusive],
    hosted.hostLines.find? (fun x => x.port = 0 && x.line = l.line) = some l ∧ l.asked = true := by decide +kernel
theorem witness_host_wf : Memory.wf hosted.mem = true := by decide +kernel
theorem witness_host_snoop : hosted.homes.find? (fun h => h.grain ≤ 0x10000000240 && 0x10000000240 < h.grain + h.size)
    = some { freshHome 0x10000000200 512 with horizon := 109 } ∧ 0x10000000240 ∈ hosted.hostCache ∧ 0x10000000240 % 64 = 0 ∧ 109 ≤ meridian hosted := by decide +kernel
theorem witness_requests : (∀ i ∈ [60, 61], hosted.outstanding.find? (fun x => x.id = i) = some (outReq i (i - 51))
      ∧ (outReq i (i - 51)).since + max 1 (portField hosted 0 32 16) * 1750 ≤ hosted.clock)
    ∧ (coreAt hosted 0).outb.find? (fun x => x.id = 10) = some { aStore with id := 10, place := .glob 0x10000000240 }
    ∧ (coreAt hosted 0).outb.find? (fun x => x.id = 11) = some { aStore with id := 11, place := .glob 0x10000000280 }
    ∧ cachedHere hosted 0x10000000240 aStore.n = true ∧ cachedHere hosted 0x10000000280 aStore.n = false
    ∧ hosted.outstanding.find? (fun x => x.id = 62 && x.port.isSome) = some { outReq 62 11 with port := some 1 }
    ∧ (coreAt hosted 0).pend.find? (fun x => x.id = 10) = none
    ∧ (coreAt hosted 0).pend.find? (fun x => x.id = 9) = some { access (.load true) with place := .glob 0x10000000000 }
    ∧ grpAt hosted 0 0 = some user ∧ portState hosted 0 = 2 ∧ hosted.ports.length = 4 ∧ hosted.roles.length = 4 := by decide +kernel
theorem witness_training : (portState ported 1 = 1 ∧ portRole ported 1 = 0) ∧ (portState ported 2 = 1 ∧ portRole ported 2 = 2)
    ∧ portState ported 3 = 3 := by decide +kernel

/-! ## The fabric, losses, errors and registers -/

/-- Endpoint 5 with fabric ports 0 and 3 up, port 1 in training, port 2 failed. -/
def meshed : State :=
  { su with
    fab := 0x03E880000005
    fports := [0x201, 0x103, 0x301, 0x201] ++ List.replicate 8 0
    mem := some8, shared := [(0x2000, 4096)], exports := [(9, 0x2000, 4096), (8, 0x2000, 512)], directory := [{ grain := 0x2000, ends := [9, 3] }]
    copies := [{ grain := 0x1000000000000 + 7 * 2 ^ 44, ends := [] }, { grain := 0x1000000000000 + 8 * 2 ^ 44, ends := [] }]
    homes := [{ freshHome (0x1000000000000 + 7 * 2 ^ 44) 512 with horizon := 100 }]
    poison := [0x9000], badPages := [77], counts := [(1, 0xFFFFFFFFFFFFFFFF), (0x9005, 4)] }
def oneUp : State := { meshed with fports := 0x201 :: List.replicate 11 1 }
theorem witness_fabric_ports : meshed.fports.length = 12 ∧ (fportField meshed 1 0 1 = 1 ∧ fportField meshed 1 8 4 = 1)
    ∧ (fportField meshed 0 8 4 = 2 ∧ ∃ j : Fin 12, j ≠ 0 ∧ fportField meshed j 8 4 = 2)
    ∧ (fportField oneUp 0 8 4 = 2 ∧ ∀ j : Fin 12, j ≠ 0 → fportField oneUp j 8 4 ≠ 2) := by decide +kernel
theorem witness_epid : let s := { meshed with fab := 0x03E800000000 }
    fabField s 31 1 = 0 ∧ ∃ i : Fin 12, fportField s i 8 4 = 2 := by decide +kernel
theorem witness_remote : ∀ n ∈ [1, 4, 8, 16], Remote meshed 9 0x2210 n ∧ readableNow meshed none none 0x2210 n 512 = true
    ∧ writableNow meshed none none none 0x2210 n 512 = true ∧ (linesOf 0x2210 n).any (linePoisoned meshed) = false
    ∧ 0x2210 % n = 0 ∧ 0x2210 % 32 + n ≤ 32 := by
  intro n hn
  simp only [List.mem_cons, List.not_mem_nil, or_false] at hn
  obtain rfl | rfl | rfl | rfl := hn <;>
    exact ⟨⟨by decide +kernel, by decide +kernel, ⟨0, by decide +kernel⟩, by decide +kernel, by decide, by decide, by decide, by decide, by decide +kernel⟩, by decide +kernel⟩
theorem witness_remote_hold : Remote meshed 8 0x2008 1 ∧ (∃ r ∈ meshed.shared, r.1 ≤ 0x2008 ∧ 0x2008 < r.1 + r.2) ∧ (homeOf meshed 0x2008 512).isOpen = true
    ∧ meshed.hostLines = [] ∧ Memory.wf meshed.mem = true := by
  exact ⟨⟨by decide +kernel, by decide +kernel, ⟨0, by decide +kernel⟩, by decide +kernel, by decide, by decide, by decide, by decide, by decide +kernel⟩, by decide +kernel⟩
theorem witness_fabric_copies : let n := 0x1000000000000 + 7 * 2 ^ 44
    (∃ k ∈ meshed.copies, k.grain = n) ∧ n % 512 = 0 ∧ ∀ h ∈ meshed.homes, h.grain < n + 512 → n < h.grain + h.size → h.horizon ≤ meridian meshed := by decide +kernel
theorem witness_losses : (∀ d : Fin 2, d.val ∉ meshed.lostDies) ∧ ((9 : Nat) ∉ meshed.lostEnds ∧ fabField meshed 0 10 ≠ 9) := by decide +kernel
/-- A record that waits for the orphan area, of 16 places at 0x30000, of which one is left. -/
def anOrphan : List Byte := orphanRecord 0x2000 1 0 (.die 1) 7 [(8, [0xAA, 0xBB])]
def orphaned (recs : List (List Byte)) : State :=
  { meshed with losses := [(true, 9), (false, 1)], orphans := recs, orph := 0x30004, orphTail := 0xFFFFFFFF, orphHead := 0xFFFFFFF0 }
theorem witness_orphan : anOrphan.length = 640 ∧ (0xFFFFFFFF + 2 ^ 32 - 0xFFFFFFF0) % 2 ^ 32 < 2 ^ 4 ∧ Memory.wf (orphaned [anOrphan]).mem = true := by decide +kernel

/-- Logs that are empty, hold a corrected error, or an uncorrected one; an armed error. -/
def logged (els : Dword) (armed : Bool) (u k : Nat) : State :=
  { both user with
    logs := if els = 0 then [] else [{ unit := u, kind := k, els := els, ela := 0x1234 }]
    einj := if armed then 0x8000010000000000 + BitVec.ofNat 64 (u + k * 2 ^ 24 + 0x6 * 2 ^ 32) else 0 }
theorem witness_errors : (∀ p ∈ [(175, 2), (239, 10), (256, 7), (639, 8), (100, 5)], holdsArray p.1 p.2 ∧ p.2 ∉ [4, 6, 9, 11, 12]
      ∧ ∀ armed ∈ [true, false], (logged 0 armed p.1 p.2).einj.getLsbD 63 = armed
        ∧ (armed = true → ((logged 0 armed p.1 p.2).einj.extractLsb' 40 2).toNat = 1
          ∧ ((logged 0 armed p.1 p.2).einj.extractLsb' 24 8).toNat = p.2 ∧ ((logged 0 armed p.1 p.2).einj.extractLsb' 0 10).toNat = p.1))
    ∧ grpAt (logged 0 false 0 1) 0 1 = some user ∧ 8 * ((0x0710 : BitVec 16).toNat % 16) + (0x0710 : BitVec 16).toNat / 16 % 8 = 1
    ∧ (∀ u ∈ [0, 88, 175], u / 88 ∉ (logged 0 false u 11).lostDies) := by
  unfold holdsArray
  decide +kernel
/-- An error that stands in its array; a log that an error reached in an earlier clock, or in this one; a replay that has failed 15 times. -/
def planted1 : State := { logged 0 false 256 7 with planted := [{ unit := 256, kind := 7, owner := 0, addr := 0x1234, flips := 1, bit := 4 }] }
theorem witness_planted : planted1.planted = [{ unit := 256, kind := 7, owner := 0, addr := 0x1234, flips := 1, bit := 4 }] := rfl
theorem witness_quiet : (∀ n ∈ [0, 0x8000000000000001, 0xC000000000000001], ∀ p ∈ [(175, 2), (239, 10), (256, 7), (768, 11)],
    let s := logged (BitVec.ofNat 64 n) false p.1 p.2
    (logOf s p.1 p.2).els.toNat = n ∧ (logOf s p.1 p.2).last ≠ s.clock ∧ s.planted = []) ∧ holdsArray 768 11 := by
  unfold holdsArray
  decide +kernel
theorem witness_replays : let s := { logged 0 false 88 11 with replays := [(88 + 1024 * 3, 15), (88 + 1024 * 4, 14)] }
    (sget s.replays (88 + 1024 * 3)).toNat = 15 ∧ (sget s.replays (88 + 1024 * 4)).toNat < 15 ∧ holdsArray 88 11 ∧ 88 / 88 ∉ s.lostDies := by
  unfold holdsArray
  decide +kernel
def fallen : State := { on { coreOf [some { sup with stop := some aCause }, some user] with teams := [pad 0 7, pad 256 9] } with grids := [aGrid 7 [], aGrid 9 []] }
theorem witness_supervisor_stop : ∃ g, grpAt fallen 0 0 = some g ∧ g.supervisor = true ∧ g.stop = some aCause := ⟨_, rfl, rfl, rfl⟩
theorem witness_registers : (∀ i ∈ [1, 3], (0x0001234500000005 : Dword).getLsbD i = false) ∧ (0x0001234500000005 : Dword).getLsbD 63 = false
    ∧ meshed.fltTail < 2 ^ 32 ∧ meshed.fltHead < 2 ^ 32 ∧ meshed.updated + 1750000000 ≤ { meshed with clock := 1750000000 }.clock := by decide +kernel

/-! ## Steps and the machine's form -/

/-- IADD V3, V1, V2 at 0x1000, or a word that no form has; a helm core with HTEND at its pc. -/
def aWord : Nat := 0x0070180404000100
def iaddI : Instr := .iadd always .i32 true (.v 3) (.v 1) (.v 2)
def running1 (w : Nat) (a : Act) : State :=
  { on { coreOf [some user] with tlb := [{ asid := 0, leaf := page }] } with
    mem := writeBytes (writeBytes [] 0x1000 (leBytes 8 w)) 0x4000 (leBytes 4 0x100B)
    helms := [helmAt 1 none], tape := [{ dt := 3, act := a }, { dt := 1, act := .idle }] }
def nowOf (w : Nat) (a : Act) : State := { running1 w a with tape := [{ dt := 1, act := .idle }], clock := 1603 }
theorem witness_issues : ∀ w ∈ [aWord, 2 ^ 56 * 0x3F], Issues (nowOf w (.issue 0 0)) 0 0 user 0 ∧ FetchesAt (nowOf w (.issue 0 0)) 0 user (laneAt user 0).pc w := by
  intro w hw
  simp only [List.mem_cons, List.not_mem_nil, or_false] at hw
  obtain rfl | rfl := hw <;>
    refine ⟨⟨?_, ?_, ?_, ?_, ?_, ?_, ?_, ?_⟩, ?_, ?_, plainTarget 0x1000, 0x1000, ?_⟩ <;> decide +kernel
theorem witness_word : decode aWord = some iaddI ∧ decode (2 ^ 56 * 0x3F) = none ∧ iaddI.inScal user.scal = true
    ∧ (∀ u ∈ iaddI.uses, regBusy (coreAt (running1 aWord .idle) 0) 0 user (nextSet user) u = false)
    ∧ wordHold (coreAt (running1 aWord .idle) 0) 0 user (nextSet user) iaddI (mailRoom (coreAt (running1 aWord .idle) 0) 1) = none := by decide +kernel
theorem witness_turn : ∀ w ∈ [aWord, 2 ^ 56 * 0x3F], let s := running1 w (.issue 0 0)
    let now := nowOf w (.issue 0 0)
    s.tape = Turn.mk 3 (.issue 0 0) :: now.tape ∧ dueNow s = none ∧ nextDue s 3 = none ∧ s.planted = [] ∧ s.einj.getLsbD 63 = false
      ∧ (∀ j ∈ groupsBefore (coreAt now 0) 0, (planGroup now 0 j).issues = false) ∧ slotsFree (unitsAt (coreAt now 0) 0) now.clock 0 .none = true
      ∧ (let n := unitNeed now 0 user (nextSet user) w iaddI
         unitFree (unitsAt (coreAt now 0) 0) now.clock n = true ∧ slotsFree (unitsAt (coreAt now 0) 0) now.clock 0 n = true)
      ∧ entriesShort now 0 user (activeLanes w iaddI user (nextSet user)) iaddI = false := by decide +kernel
/-- A write whose home is due now, and one that comes due before the turn. -/
def dueAtHome (t : Nat) : State :=
  { running1 aWord .idle with homes := [{ freshHome 0x2000 512 with queue := [{ src := .remote 3, pa := 0x2000, bytes := [1] }], horizon := t }] }
theorem witness_due : dueNow (dueAtHome 100) = some (.perform 0x2000) ∧ dueNow (dueAtHome 101) = none ∧ nextDue (dueAtHome 101) 20 = some 1616 := by
  decide +kernel
theorem witness_fence_turn : let i : Instr := .xfence always .dev .lane .copy
    xfenceWaits (coreAt (nowOf 0 .idle) 0) 0 user (nextSet user) always .dev .lane (user.fence.getD (nowOf 0 .idle).nextId) = false ∧ i.wf = true := by
  decide +kernel
theorem witness_helm_word : (nowOf 0 (.helm 0)).helms[0]? = some (helmAt 1 none) ∧ helmFetch (nowOf 0 (.helm 0)) 0 (helmAt 1 none) = .word 0x100B
    ∧ decodeHelm 0x100B = some .htend := by decide +kernel
/-- A memory of the canonical form from which the machine steps; words for the round trip. -/
theorem witness_canonical : Memory.wf (running1 aWord .idle).mem = true := by decide +kernel
theorem witness_steps : ∃ t, step (running1 aWord .idle) = .next t := ⟨_, rfl⟩
theorem witness_encodings : iaddI.wf = true ∧ iaddI.encode = some aWord ∧ (Instr.htabort 5).encodeHelm = some 0x50200B
    ∧ decode aWord = some iaddI ∧ decodeHelm 0x50200B = some (.htabort 5) := by decide +kernel
/-- The word that withFetchWord places is the one that the machine runs first from reset (log 13). -/
theorem test_first_word : turnOf (State.reset.withFetchWord 64 0x6770000000000000) = { dt := 0, act := .issue 0 0 }
    ∧ (match planIssue (enterTurn (State.reset.withFetchWord 64 0x6770000000000000) { dt := 0, act := .issue 0 0 }) 0 0 with
      | .run i _ => decide (i = .nop always)
      | _ => false) = true := by decide +kernel

/-! ## The worked examples of the spec: a word's result, and the LSW, of lane 0 -/

/-- V2:3, V4:5 and V6:7 hold the operands; the result is V8:9, P1 and the LSW. -/
def given (a b c : Nat) : Grp :=
  { user with lanes := [{ lane 0 with regs := putV (putV (putV [] 2 a 2) 4 b 2) 6 c 2 }] }
def result (i : Instr) (a b c : Nat) : Nat × Bool × Nat :=
  match exec i { on (coreOf [some (given a b c)]) with cur := { core := 0, slot := 0, mask := 1, first := 0 } } with
  | .next t => match grpAt t 0 0 with
    | some g => ((sget (laneAt g 0).regs 8).toNat + 2 ^ 32 * (sget (laneAt g 0).regs 9).toNat, (laneAt g 0).preds.getLsbD 1, (laneAt g 0).lsw.toNat)
    | none => (0, false, 0)
  | _ => (0, false, 0)
/-- Bit 5 of the LSW is SAT, bits 0 and 2 are NX and OF (R108). -/
theorem test_integer_table :
    result (.iadd always .i32 true (.v 8) (.v 2) (.v 4)) 0x7FFFFFF0 31 0 = (0x7FFFFFFF, false, 32)
    ∧ result (.iadd always .i32 false (.v 8) (.v 2) (.v 4)) 0x7FFFFFF0 31 0 = (0x8000000F, false, 0)
    ∧ result (.isub always .n32 true (.v 8) (.v 2) (.v 4)) 3 5 0 = (0, false, 32)
    ∧ result (.iabs always .i32 false (.v 8) (.v 2)) 0x80000000 0 0 = (0x80000000, false, 0)
    ∧ result (.iabs always .i32 true (.v 8) (.v 2)) 0x80000000 0 0 = (0x7FFFFFFF, false, 32)
    ∧ result (.imulh always .n32 (.v 8) (.v 2) (.v 4)) 0x9E3779B1 3 0 = (1, false, 0)
    ∧ result (.iaddc always .n32 (.v 8) (.v 2) (.v 4) (.v 6) 1) 0xFFFFFFFF 0 1 = (0, true, 0)
    ∧ result (.lea always .n32 (.v 8) (.v 2) (.v 4) 3) 0x4000001000 0xFFFFFFFF 0 = (0x4800000FF8, false, 0)
    ∧ result (.lea always .i32 (.v 8) (.v 2) (.v 4) 3) 0x4000001000 0xFFFFFFFF 0 = (0x4000000FF8, false, 0) := by decide +kernel
theorem test_bit_fields :
    result (.bfx always .i32 (.v 8) (.v 2) (.int 4) (.int 8)) 0xFA0 0 0 = (0xFFFFFFFA, false, 0)
    ∧ result (.bfx always .n32 (.v 8) (.v 2) (.int 4) (.int 8)) 0xFA0 0 0 = (0xFA, false, 0)
    ∧ result (.bfx always .i32 (.v 8) (.v 2) (.int 4) (.int 8)) 0xF0A0 0 0 = (0xA, false, 0)
    ∧ result (.bfi always .n32 (.v 8) (.v 2) (.v 4) (.v 6)) 3 0xFFFFFFFF (30 + 8 * 256) = (0xFFFFFFFF, false, 0)
    ∧ result (.bperm always .n32 (.v 8) (.v 2) (.v 4) (.v 6)) 0x44332211 0x88776655 0xF456 = (0xFF556677, false, 0)
    ∧ result (.bperm always .n32 (.v 8) (.v 2) (.v 4) (.v 6)) 0x44332211 0x88776655 0xC456 = (0x556677, false, 0) := by decide +kernel
/-- 460, 464 and 470 in F32. -/
theorem test_conversions :
    result (.cvt always .e4m3 .f32 true .rne (.v 8) (.v 2)) 0x43E60000 0 0 = (0x7E, false, 1)
    ∧ result (.cvt always .e4m3 .f32 false .rne (.v 8) (.v 2)) 0x43E80000 0 0 = (0x7E, false, 1)
    ∧ result (.cvt always .e4m3 .f32 true .rne (.v 8) (.v 2)) 0x43EB0000 0 0 = (0x7E, false, 5)
    ∧ result (.cvt always .e4m3 .f32 false .rne (.v 8) (.v 2)) 0x43EB0000 0 0 = (0x7F, false, 5) := by decide +kernel
theorem test_packed_and_strings :
    result (.padd2 always .i16 true (.v 8) (.v 2) (.v 4)) 0x7FF00005 0x0020FFF0 0 = (0x7FFFFFF5, false, 32)
    ∧ result (.seqm always (.v 8) (.v 2) (.v 4)) 0x64006261 0x64006361 0 = (0x4D, false, 0)
    ∧ result (.sfold always false (.v 8) (.v 2)) 0x31634241 0 0 = (0x31636261, false, 0)
    ∧ result (.scmp always (.v 8) (.v 2) (.v 4) (.v 6) 1) 0x64636261 0x65636261 10 = (0xFFFFFFFF, true, 0) := by decide +kernel
/-- A page that joins the list of bad pages, and one that a lease holds. -/
theorem test_bad_pages : (evBadPageAppend 0x11 (pages 0)).map (·.badPages) = some [3, 0x11] ∧ evBadPageAppend 0x10 (pages 0) = none := by decide +kernel

/-! ## Calls that spill, returns that refill, and their traps -/

/-- Lane 3 alone runs its words: it has these records in its cabinet, and `n` in its spill area of 16 slots at 0x8000. -/
def deep (rs : List Ret) (n depth sp : Nat) : Grp :=
  { user with
    spill := BitVec.ofNat 64 sp
    lanes := (List.range 64).map fun l => if l = 3 then { asks 3 with cab := rs, spill := n, depth := depth } else asks l }
def records (n : Nat) : List Ret := (List.range n).map fun k => { pc := BitVec.ofNat 64 (0x5000 + 8 * k), base := 4 * k }
def deepAt (g : Grp) : State :=
  { on { coreOf [some g] with tlb := [{ asid := 0, leaf := page }] } with
    mem := writeBytes (writeBytes [] 0x8000 (leBytes 9 (0x6000 + 8 * 2 ^ 64))) 0x8010 (leBytes 9 (0x6008 + 12 * 2 ^ 64))
    cur := { core := 0, slot := 0, mask := full &&& ~~~oneLane 9, first := 0 } }
theorem settled_page (s : State) (g : Grp) (va : Nat) (ty : AccessType) (h : windowVa s s.cur.core g va = some va)
    (e : (coreAt s s.cur.core).tlb.find? (fun e => e.asid = rootAsid (gridRoot s g.grid) && leafCovers e.leaf va)
      = some { asid := 0, leaf := page }) : Settled s g va ty :=
  Or.inr fun v hv => by
    rw [h] at hv
    obtain rfl := Option.some.inj hv
    exact ⟨_, e, Or.inl rfl⟩
theorem witness_spill : let g := deep (records 4) 1 5 0x8008
    (∀ i ∈ ([.call ifP0 0 4 5, .callx ifP0 0 (.v 6) 4] : List Instr), Runs i (deepAt g) g ∧ active i (deepAt g) g = oneLane 3)
      ∧ ¬spillShort g (laneAt g 3) ∧ (laneAt g 3).base + 4 * 4 < g.alloc
      ∧ ∀ j, j < 2 → checkAddr (deepAt g) 0 g (0x8010 + 16 * j) 16 .store = .ok (plainTarget (0x8010 + 16 * j))
        ∧ spillSlot g (laneAt g 3) (1 + j) = 0x8010 + 16 * j := by
  unfold Runs spillShort
  decide +kernel
theorem witness_spill_settled : let g := deep (records 4) 1 5 0x8008
    Settled (deepAt g) g 0x8010 .store ∧ Settled (deepAt g) g 0x8020 .store :=
  ⟨settled_page _ _ _ _ (by decide +kernel) (by decide +kernel), settled_page _ _ _ _ (by decide +kernel) (by decide +kernel)⟩

/-- One record in the spill area, and two. -/
theorem witness_refill : ∀ n ∈ [1, 2], let g := deep [] n n 0x8008
    Runs (.ret ifP0 0) (deepAt g) g ∧ active (.ret ifP0 0) (deepAt g) g = oneLane 3
      ∧ (∀ k, k < n → checkAddr (deepAt g) 0 g (0x8000 + 16 * k) 16 .load = .ok (plainTarget (0x8000 + 16 * k))
        ∧ spillSlot g (laneAt g 3) k = 0x8000 + 16 * k ∧ (recordIn (deepAt g).mem (0x8000 + 16 * k)).pc.toNat % 8 = 0
        ∧ coveredBy (coreAt (deepAt g) 0) (0x8000 + 16 * k) = none ∧ regionOf (0x8000 + 16 * k) = .hbm
        ∧ backed (deepAt g) (0x8000 + 16 * k) = true ∧ (linesOf (0x8000 + 16 * k) 16).any (linePoisoned (deepAt g)) = false
        ∧ readableNow (deepAt g) (some (.release 0)) none (0x8000 + 16 * k) 16 512 = true) := by
  unfold Runs
  decide +kernel
/-- Where the traps arise: the base 8 of 8, depth 65535 and 0, no spill slot, a bad target and a bad return PC. -/
theorem witness_call_traps : let three (p : Nat → Bool) : Prop := ∀ l, l < 64 → ((oneLane 3).getLsbD l = true ↔ l = 3 ∧ p l = true)
    (∀ g ∈ [{ deep [] 0 0 0x8008 with alloc := 16 }, deep (records 2) 65533 65535 0x8008, deep (records 4) 0 4 0, deep (records 4) 15 19 0x8008,
        deep [] 0 0 0x8008], Runs (.call ifP0 0 4 5) (deepAt g) g ∧ active (.call ifP0 0 4 5) (deepAt g) g = oneLane 3
          ∧ Runs (.ret ifP0 0) (deepAt g) g ∧ active (.ret ifP0 0) (deepAt g) g = oneLane 3)
      ∧ 16 ≤ (laneAt (deep [] 0 0 0x8008) 3).base + 4 * 4 ∧ spillShort (deep (records 4) 0 4 0) (laneAt (deep (records 4) 0 4 0) 3)
      ∧ spillShort (deep (records 4) 15 19 0x8008) (laneAt (deep (records 4) 15 19 0x8008) 3)
      ∧ Runs (.callx ifP0 0 (.v 2) 4) (deepAt (deep [{ pc := 0x5001, base := 0 }] 0 1 0)) (deep [{ pc := 0x5001, base := 0 }] 0 1 0)
      ∧ (laneAt (deep [{ pc := 0x5001, base := 0 }] 0 1 0) 3).cab.getLast? = some { pc := 0x5001, base := 0 }
      ∧ three fun _ => true := by
  unfold Runs spillShort
  decide +kernel

/-! ## Transfers in voyage mode, and words inside a transaction -/

/-- A group of the voyage grid at cluster core 0, whose segment is 0x1000 to 0x2000: lane 3 alone runs its words, in a
transaction or not; every lane stands at `pc`. -/
def aboard (pc : Dword) (open_ : Bool) : Grp :=
  { opening with lanes := (List.range 64).map fun l =>
      let ln := if open_ then inside l else asks l
      { ln with pc := pc, status := if l = 9 then .exited else .live } }
def sailsWith (g : Grp) : State :=
  let s := sailing (aVoyage (aChart false))
  { s with
    cores := s.cores.set 0 { coreAt s 0 with groups := [some g] ++ List.replicate 95 none, ages := [0] }
    cur := { core := 0, slot := 0, mask := full &&& ~~~oneLane 9, first := 3 } }
/-- BRA and TRAV by 5 words, to the local segment; by 0x200 words, to the one that cluster core 1 holds; by 0x400, to none. -/
def sails : List Instr :=
  [.bra ifP0 3 5, .bra ifP0 3 0x200, .trav ifP0 3 (.hold (.int 0)) 0x200, .trav ifP0 3 (.hold (.int 1)) 0x200, .trav ifP0 3 (.core (.int 1)) 0x200,
   .trav ifP0 3 (.core (.int 0)) 0x200, .bra ifP0 3 0x400, .bra ifP0 32 0x200]
theorem witness_voyage_transfers : (∀ o ∈ [false, true], AtVoyage (sailsWith (aboard 0x1000 o)) 0 (aVoyage (aChart false)) (sailTeam 0) sailGrid
      ∧ ∀ i ∈ sails, Runs i (sailsWith (aboard 0x1000 o)) (aboard 0x1000 o)
        ∧ active i (sailsWith (aboard 0x1000 o)) (aboard 0x1000 o) = oneLane 3)
    ∧ (aboard 0x1000 false).grid = 7 ∧ (aboard 0x1000 false).team = 0 ∧ (aboard 0x1000 false).rep = none ∧ (aboard 0x1000 false).tack = none
    ∧ inTxn (laneAt (aboard 0x1000 false) 3) = false ∧ (laneAt (aboard 0x1000 true) 3).txn = some tx := by
  refine ⟨fun o ho => ?_, by decide +kernel⟩
  simp only [List.mem_cons, List.not_mem_nil, or_false] at ho
  obtain rfl | rfl := ho <;> refine ⟨⟨?_, ?_, ?_, ?_, ?_⟩, ?_⟩ <;> first | (unfold Runs; decide +kernel) | decide +kernel
theorem witness_voyage_holders : let ch := aChart false
    let mine : Segment := { start := 0x1000, len := 0x1000, holders := [0], select := 0, nfixed := 1 }
    let away : Segment := { start := 0x2000, len := 0x1000, holders := [1], select := 0, nfixed := 1 }
    (aVoyage ch).seg = some 0 ∧ ch.segs[0]? = some mine ∧ segmentOf ch 0x1028 = some mine ∧ segmentOf ch 0x2000 = some away ∧ inSegment mine 0x1028
      ∧ ¬inSegment mine 0x2000 ∧ chooseHolder 0 (sailTeam 0).place away 0 = 1 ∧ away.holders[0]? = some 1 ∧ away.holders[1]? = none
      ∧ (∀ sg ∈ ch.segs, ¬inSegment sg 0x3000)
      ∧ (let g := { aboard 0x1000 false with alloc := 8 }
         Runs (.bra ifP0 32 0x200) (sailsWith g) g ∧ g.alloc < (laneAt g 3).base + 32) := by
  unfold inSegment Runs
  decide +kernel
/-- The last word of the segment, for a word that goes on and a transfer whose guard is false in every lane but lane 3. -/
theorem witness_fall : let g := aboard 0x1FF8 false
    curGrp (sailsWith g) = some g ∧ (∀ i ∈ ([.iadd always .i32 false (.v 8) (.v 2) (.v 4), .nop always] : List Instr),
      windowLanes i.uses g (active i (sailsWith g) g) = 0)
      ∧ ∀ j, j < 64 → ((full &&& ~~~oneLane 9).getLsbD j = true ↔ j ≠ 9 ∧ (laneAt g j).pc.toNat + 8 = 0x1000 + 0x1000) := by
  decide +kernel

/-- Lane 3 of `opening` runs alone; the TLB maps the first 2 MiB, and behind them pages of a host and of another package. -/
def inTx (g : Grp) (tm : Team) : State :=
  { on { coreOf [some g] with
      teams := [tm, pad 256 0]
      tlb := [{ asid := 0, leaf := page }, { asid := 0, leaf := { page with va := 2 ^ 21, pa := 2 ^ 40 } },
        { asid := 0, leaf := { page with va := 2 ^ 22, pa := 2 ^ 48 } }] } with
    mem := some8, cur := { core := 0, slot := 0, mask := oneLane 3, first := 3 } }
/-- The opening group with an address in V2:3 of lane 3, and another transaction. -/
def openAt (va : Nat) (t : Txn) : Grp :=
  { opening with lanes := opening.lanes.set 3 { inside 3 with txn := some t, regs := putV (inside 3).regs 2 va 2 } }
def txWords : List Instr :=
  [.ld always .w64 rlx 8 (.v 2) (.int 0) 0, .ld always .x8 { rlx with ord := .acq } 8 (.v 2) (.int 0) 0, .st always .w8 rlx (.v 4) (.v 2) (.int 0) 0]
/-- 0x2000, of which the transaction has stored the second byte; bytes of its own; addresses of a host, of another package, of
the scratchpad and of a window block. -/
theorem witness_transactional_accesses :
    (∀ p ∈ [(0x2000, 0x2000), (0x2008, 0x2008), (2 ^ 21, 2 ^ 40), (2 ^ 22, 2 ^ 48)], ∀ i ∈ txWords, accForm i ≠ none
      ∧ (let g := openAt p.1 tx
         Runs i (inTx g (pad 0 7)) g ∧ active i (inTx g (pad 0 7)) g = oneLane 3 ∧ g.lanes.length = 64
           ∧ checkOf (inTx g (pad 0 7)) g (formOf i) 3 = .ok (plainTarget p.2)
           ∧ coveredBy (coreAt (inTx g (pad 0 7)) 0) p.2 = none ∧ recordsUsed (coreAt (inTx g (pad 0 7)) 0) < 4096
           ∧ sectorsUsed (coreAt (inTx g (pad 0 7)) 0) < 1024))
    ∧ regionOf (2 ^ 40) = .host 0 ∧ regionOf (2 ^ 48) = .fabric 0
    ∧ ownOf tx 0x2000 8 = [(0x2001, 0)] ∧ ownOf tx 0x2040 1 = [(0x2040, 0x55)] ∧ Memory.wf tx.writes = true
    ∧ (let g := openAt 0xFFFFFF0000000010 tx
       ∀ i ∈ txWords.drop 2, Runs i (inTx g (pad 0 7)) g ∧ checkOf (inTx g (pad 0 7)) g (formOf i) 3
        = .ok { place := .scr 0 0 0x10, gr := 512, shr := false, nc := false, norepl := false })
    ∧ (let g := openAt 0x4010 tx
       ∀ i ∈ txWords, Runs i (inTx g windowed) g ∧ checkOf (inTx g windowed) g (formOf i) 3 = .ok (plainTarget 0x4010)
        ∧ coveredBy (coreAt (inTx g windowed) 0) 0x4010 ≠ none) := by
  unfold Runs
  decide +kernel
theorem witness_one_inside : ∀ i ∈ txWords, OneInside i (inTx (openAt 0x2000 tx) (pad 0 7)) (openAt 0x2000 tx) 3 tx := by
  intro i hi
  simp only [txWords, List.mem_cons, List.not_mem_nil, or_false] at hi
  obtain rfl | rfl | rfl := hi <;>
    exact ⟨by unfold Runs; decide +kernel, rfl, by decide +kernel, by decide, by decide +kernel, by decide, rfl, by decide +kernel, by decide +kernel⟩
/-- No record free, and no sector. -/
def manyReads : Txn := { tx with reads := List.replicate 4096 { pa := 0x2000, bytes := [(0x2000, 0xF0)], gr := 512 } }
def manyWrites : Txn := { tx with masked := (List.range 1024).map fun k => (0x8000 + 32 * k, 1, 512) }
theorem sectors_many : sectorsOf manyWrites.masked = (List.range 1024).map fun k => 0x400 + k := by
  have h : (manyWrites.masked.flatMap fun m => (List.range m.2.1).map fun i => (m.1 + i) / 32) = (List.range 1024).map fun k => 0x400 + k := by
    decide +kernel
  unfold sectorsOf
  rw [h]
  exact List.dedup_eq_self.mpr ((List.nodup_range).map (fun a b h => by simpa using h))
theorem witness_capacity : 4096 ≤ recordsUsed (coreAt (inTx (openAt 0x2000 manyReads) (pad 0 7)) 0)
    ∧ 1024 ≤ sectorsUsed (coreAt (inTx (openAt 0x2000 manyWrites) (pad 0 7)) 0) ∧ 0x2000 / 32 ∉ sectorsOf manyWrites.masked := by
  refine ⟨by decide +kernel, ?_, by rw [sectors_many]; simp; omega⟩
  have hs : (sectorsOf manyWrites.masked).length = 1024 := by rw [sectors_many]; simp
  have hl : { inside 3 with txn := some manyWrites, regs := putV (inside 3).regs 2 0x2000 2 } ∈ (openAt 0x2000 manyWrites).lanes :=
    List.mem_set (by decide) _
  have hg : some (openAt 0x2000 manyWrites) ∈ (coreAt (inTx (openAt 0x2000 manyWrites) (pad 0 7)) 0).groups := List.mem_cons_self
  have h : ∀ x : Core, ∀ g ∈ x.groups, ∀ gr, g = some gr → ∀ ln ∈ gr.lanes, ∀ t, ln.txn = some t →
      (sectorsOf t.masked).length ≤ sectorsUsed x := by
    intro x g hg gr he ln hl t ht
    subst he
    refine Nat.le_trans ?_ (List.le_sum_of_mem (List.mem_map_of_mem hg))
    refine Nat.le_trans ?_ (List.le_sum_of_mem (List.mem_map_of_mem hl))
    simp [ht]
  exact Nat.le_trans (Nat.le_of_eq hs.symm) (h _ _ hg _ rfl _ hl _ rfl)

/-- A transactional load of 8 bytes at its home, of which the transaction holds the first. -/
def txLoad : Acc := { access (.load false) with txn := true, ord := .rlx, scope := .lane, own := [(0x2008, 0x11)] }
def txPending : State := { on { coreOf [some opening] with pend := [txLoad] } with mem := some8 }
theorem witness_transactional_load : AtHome txPending 0 txLoad 0x2008 ∧ grpAt txPending 0 0 = some opening
    ∧ readableNow txPending (some (.release 0)) none 0x2008 8 512 = true ∧ txLoad.spared = (0, 0) ∧ txLoad.lane = 3 := by
  unfold AtHome
  decide +kernel

/-! ## Later clauses: writes of results, vector barriers, images that cannot be read, registers, ports, copies, logs -/

/-- A group whose exchange network has held a result long enough. -/
theorem witness_written_result : ∀ o : RdvOut, let g : Grp := { user with outs := [o] }
    let u : State := { on (coreOf [some g]) with clock := o.writeAt }
    grpAt u 0 0 = some g ∧ g.lanes.length = 64 ∧ g.outs.find? (fun p => decide (p.writeAt ≤ u.clock)) = some o :=
  fun o => ⟨rfl, rfl, by simp⟩

/-- Float reductions of integers 1, 2 and 3, of infinities, and of a NaN. -/
theorem witness_float_sums : [0x3F800000, 0x40000000, 0x40400000].map (codeVal fmt32) = [(1 : ℚ), 2, 3].map some
    ∧ fpRead fmt32 0x7F800000 = .inf false ∧ fpRead fmt32 0xFF800000 = .inf true ∧ isNaNCode fmt32 0x7FC00001 = true
    ∧ (RedTy.f32 = .f32 ∧ fmt32 = fmt32 ∧ fz32 user = fz32 user) := by decide +kernel

/-- Two lanes at each of 32 records of the scratchpad, whose addresses V2:3 holds. -/
def barred : Grp :=
  { user with lanes := (List.range 64).map fun l => { lane l with regs := putV (lane l).regs 2 (0xFFFFFF0000000000 + 8 * (l / 2)) 2 } }
theorem witness_lane_bars : ∀ p ∈ ([(.bari always (.v 2), .store), (.barx always (.v 2) (.int 1), .store), (.barw always (.v 2) (.int 1), .load),
      (.bart always 2 (.v 2) (.int 0), .load)] : List (Instr × AccessType)), LaneBars p.1 (.v 2) p.2 (on (teamOn recorded barred)) barred 0 0 (fun l => 8 * (l / 2)) recorded := by
  intro p hp
  simp only [List.mem_cons, List.not_mem_nil, or_false] at hp
  obtain rfl | rfl | rfl | rfl := hp <;>
    refine ⟨⟨by unfold Runs; decide +kernel, lanes_of_mask (by decide +kernel), by decide +kernel⟩, ⟨_, rfl⟩, lanes_of_mask fun l hl _ => ?_, by decide, by decide +kernel, by decide +kernel⟩ <;>
    exact ⟨by omega, by
      have h : backingOf recorded (8 * (l / 2)) = .plain := (by decide +kernel : ∀ l, l < 64 → backingOf recorded (8 * (l / 2)) = .plain) l hl
      rw [h]; exact nofun, (by decide +kernel : ∀ l, l < 64 → barCheck (on (teamOn recorded barred)) barred (opI (envOf (on (teamOn recorded barred)) barred l) 2 (Reg.v 2).op) _
        = .ok { place := .scr 0 0 (8 * (l / 2)), gr := 512, shr := false, nc := false, norepl := false }) l hl⟩

/-- CPYG over a course that it may not have, and over one that it may. -/
theorem witness_gather_course : ∀ k ∈ [1, 0xF1],
    courseOk (allRead k) copier ((courseBytes k).1 ++ (courseBytes k).2) (decodeCourse ((courseBytes k).1 ++ (courseBytes k).2)) true = decide (k = 1) := by
  decide +kernel

/-- An image whose first grain another core owns; images that leave the address space, or are misaligned. -/
def imgKeeper (a img : Nat) : Grp := scalars sup [(8, a), (10, img % 2 ^ 32), (11, img / 2 ^ 32)]
def ownedImage (a img : Nat) : State :=
  { loading a groupAt with
    cores := [{ coreOf [some (imgKeeper a img)] with teams := [pad 0 7, pad 256 0] }]
    homes := [{ freshHome 0x20000 512 with owner := some (.release 9) }] }
theorem witness_unreadable_image : ∀ p ∈ [(3, 0x20000), (5, 0x20000), (3, 0x20001), (3, 2 ^ 56 - 256), (5, 2 ^ 56 - 256)],
    Runs (.ctxlG always 20 8 10) (ownedImage p.1 p.2) (imgKeeper p.1 p.2) ∧ Runs (.ctxlT always 20 8 10) (ownedImage p.1 p.2) (imgKeeper p.1 p.2)
      ∧ active (.ctxlG always 20 8 10) (ownedImage p.1 p.2) (imgKeeper p.1 p.2) ≠ 0
      ∧ getS (imgKeeper p.1 p.2) 10 2 = p.2 := by
  unfold Runs
  decide +kernel
theorem witness_image_waits : imageRead (ownedImage 3 0x20000) 0x20000 0x2500 = none ∧ imageRead (ownedImage 5 0x20000) 0x20000 0x400 = none := by
  decide +kernel

/-- The supervisor's view of every register, and of HEAD and TAIL. -/
theorem witness_supervisor_views : ∀ r ∈ userRegs, Runs (.cwr always (.sv r) (.v 2)) ss sup
    ∧ lowest (active (.cwr always (.sv r) (.v 2)) ss sup) = some 0 := by
  unfold Runs
  decide +kernel
theorem witness_trap_pointers : Runs (.cwr always .trptr (.v 2)) ss sup ∧ Runs (.cwr always .trptr (.v 2)) su user
    ∧ (coreAt ss 0).tail < 2 ^ 32 ∧ (coreAt ss 0).head < 2 ^ 32 := by
  unfold Runs
  decide +kernel

/-- A release whose lane has no earlier access pending. -/
theorem witness_release_buffer : let a := { aStore with ord := .rel }
    isRelease a = true ∧ ∀ b ∈ before a.id (coreAt (pending a []) 0).pend, sameLane a b = false := by decide +kernel

/-- A snooped line of host memory, of which no atomic waits; requests that have not failed. -/
theorem witness_snooped : lineActing hosted 0x10000000240 = false ∧ readableNow hosted none none 0x10000000240 64 512 = true
    ∧ (∀ h ∈ hosted.homes, h.grain < 0x10000000240 + 64 → 0x10000000240 < h.grain + h.size → h.horizon ≤ meridian hosted)
    ∧ (∀ i ∈ [60, 61, 62], (hosted.outstanding.find? fun x => x.id = i && x.port.isSome && !x.failed && !x.complete)
        = hosted.outstanding.find? fun x => x.id = i)
    ∧ (outReq 61 10).data ≠ [] ∧ (outReq 60 9).data = [] ∧ (outReq 60 9).failed = false ∧ (outReq 60 9).complete = false := by decide +kernel

/-- A lane that watches bytes of a fabric copy. -/
def watched : State :=
  { meshed with cores := [{ coreOf [some user] with
      pend := [{ parked 9 .eq .entry with place := .glob (0x1000000000000 + 7 * 2 ^ 44 + 8) }] }] }
theorem witness_watched_copy : let n := 0x1000000000000 + 7 * 2 ^ 44
    (∃ k ∈ watched.copies, k.grain = n) ∧ ∃ a ∈ (coreAt watched 0).pend, a.place = .glob (n + 8) ∧ a.watch = .entry ∧ n < n + 8 + a.n := by
  decide +kernel

/-- A link that has failed. -/
theorem witness_failed_link : let s := { logged 0 false 88 11 with replays := [(88 + 1024 * 3, 16)] }
    16 ≤ (sget s.replays (88 + 1024 * 3)).toNat ∧ holdsArray 88 11 ∧ (logOf s 88 11).els = 0 ∧ s.planted = [] := by
  unfold holdsArray
  decide +kernel

/-- Operands of the special functions and of the conversions: every code below stands in V2. -/
theorem witness_codes : ∀ c ∈ [0, 0x80000000, 0x7F800000, 0xFF800000, 0x3F800000, 0x40000000, 0x00800000, 0x7E800000, 0xC0000000, 0x7FC00001, 0x3FC00000],
    let s := on (coreOf [some (given c 0 0)])
    opF (envOf s (given c 0 0) 0) fmt32 (.v 2) = c ∧ fz32 (given c 0 0) = false ∧ fz64 (given c 0 0) = false := by decide +kernel
theorem witness_values : codeVal fmt32 0x40000000 = some 2 ∧ codeVal fmt32 0xC0000000 = some (-2) ∧ codeVal fmt32 0x3FC00000 = some (3 / 2)
    ∧ isNaNCode fmt32 0x7FC00001 = true ∧ fpRead fmt32 0x7F800000 = .inf false := by decide +kernel
theorem witness_conversions : cvtOk .e4m3 .f32 true .rne (.v 2) = true ∧ cvtOk .i32 .f32 false .rtz (.v 2) = true
    ∧ cvtOk .f64 .n64 false .rdn (.v 2) = true ∧ cvtOk .i8 .f64 false .rne (.v 2) = true := by decide +kernel

/-! ## The RISC-V base of a helm core: words and values of the RISC-V manuals (log 8) -/

/-- CLZ x10, x11; CZERO.EQZ x10, x11, x12; CBO.ZERO (x10); C.NOT x8; FADD.S f10, f11, f12. -/
theorem test_helm_words : decodeBase 0x60059513 = some (.unary .clz false 10 11, 4)
    ∧ decodeBase 0x0EC5D533 = some (.alu .czeroEqz false 10 11 (.reg 12), 4) ∧ decodeBase 0x0045200F = some (.block 4 10, 4)
    ∧ decodeBase 0x9C75 = some (.alu .xor false 8 8 (.imm 0xFFFFFFFFFFFFFFFF), 2)
    ∧ decodeBase 0x00C5F553 = some (.float (.arith .add .s 10 11 12 0 7), 4) := by decide +kernel
/-- 1 / 3 and 1 / 0 in single precision; a NaN as a word; a reserved rounding mode. -/
theorem test_helm_float : arithValue .div fmt32 .rne 0x3F800000 0x40400000 0 = (0x3EAAAAAB, flNX)
    ∧ arithValue .div fmt32 .rne 0x3F800000 0 0 = (0x7F800000, flDZ) ∧ toIntValue fmt32 .rtz true 32 0x7FC00000 = (0x7FFFFFFF, flNV)
    ∧ roundMode 0xA0 7 = none := by decide +kernel

end Sys2Proof.Tests
end

namespace Sys2Proof

/-! ## The fields of a packed word -/

section Fields

theorem packTop_neg (b : Bool) : (if b then 2 ^ 55 else 0 : Nat) = b.toNat * 2 ^ 55 := by cases b <;> rfl

/-- The guard of a word whose bits [55:52] hold it. -/
theorem fGuard_eq {w : Nat} {g : Guard} (h : w / 2 ^ 52 % 16 = g.neg.toNat * 8 + g.p.val) : fGuard w = g := by
  obtain ⟨neg, p⟩ := g
  have hp := p.isLt
  cases neg <;>
    (simp only [fGuard, Guard.mk.injEq, decide_eq_true_eq, decide_eq_false_iff_not, Fin.ext_iff, Bool.toNat_false,
      Bool.toNat_true] at h ⊢; omega)

variable {w : Nat} {M : Fin 128} {g : Guard} {d a b c : Fin 512}

theorem packX_fields {x3 x2 x1 x0 : Fin 16}
    (hw : packX M g d a b c x3 x2 x1 x0 = w) :
    fPair w = false ∧ fMajor w = M.val ∧ fGuard w = g ∧ fD w = d ∧ fA w = a ∧ fB w = b ∧ fC w = c
      ∧ fX3 w = x3 ∧ fX2 w = x2 ∧ fX1 w = x1 ∧ fX0 w = x0 ∧ w < 2 ^ 64 := by
  subst hw
  have hn := g.neg.toNat_le
  refine ⟨?_, ?_, fGuard_eq ?_, ?_, ?_, ?_, ?_, ?_, ?_, ?_, ?_, ?_⟩ <;>
    simp only [packX, packTop, packTop_neg, fPair, fMajor, fD, fA, fB, fC, fX3, fX2, fX1, fX0, Fin.ext_iff,
      decide_eq_false_iff_not] <;> omega

theorem packI_fields {m : Fin 4} {imm : Fin (2 ^ 32)}
    (hw : packI M g d a m imm = w) :
    fPair w = false ∧ fMajor w = M.val ∧ fGuard w = g ∧ fD w = d ∧ fA w = a ∧ fMod w = m ∧ fImm w = imm
      ∧ w < 2 ^ 64 := by
  subst hw
  have hn := g.neg.toNat_le
  refine ⟨?_, ?_, fGuard_eq ?_, ?_, ?_, ?_, ?_, ?_⟩ <;>
    simp only [packI, packTop, packTop_neg, fPair, fMajor, fD, fA, fMod, fImm, Fin.ext_iff,
      decide_eq_false_iff_not] <;> omega

theorem packM_fields {off : Fin (2 ^ 13)} {kind : Fin 16} {ord : Fin 4} {scope evict : Fin 8}
    (hw : packM M g d a b off kind ord scope evict = w) :
    fPair w = false ∧ fMajor w = M.val ∧ fGuard w = g ∧ fD w = d ∧ fA w = a ∧ fB w = b ∧ fOff w = off
      ∧ fX2 w = kind ∧ fOrd w = ord ∧ fScope w = scope ∧ fEvict w = evict ∧ w < 2 ^ 64 := by
  subst hw
  have hn := g.neg.toNat_le
  refine ⟨?_, ?_, fGuard_eq ?_, ?_, ?_, ?_, ?_, ?_, ?_, ?_, ?_, ?_⟩ <;>
    simp only [packM, packTop, packTop_neg, fPair, fMajor, fD, fA, fB, fOff, fX2, fOrd, fScope, fEvict, Fin.ext_iff,
      decide_eq_false_iff_not] <;> omega

theorem packB_fields {extra : Fin 2048} {off : Fin (2 ^ 32)}
    (hw : packB M g d extra off = w) :
    fPair w = false ∧ fMajor w = M.val ∧ fGuard w = g ∧ fD w = d ∧ fExtra w = extra ∧ fImm w = off ∧ w < 2 ^ 64 := by
  subst hw
  have hn := g.neg.toNat_le
  refine ⟨?_, ?_, fGuard_eq ?_, ?_, ?_, ?_, ?_⟩ <;>
    simp only [packB, packTop, packTop_neg, fPair, fMajor, fD, fExtra, fImm, Fin.ext_iff,
      decide_eq_false_iff_not] <;> omega

theorem packSel_fields {hi : Fin 4096} {sel : Fin 16}
    (hw : packSel M g d a b c hi sel = w) :
    fPair w = false ∧ fMajor w = M.val ∧ fGuard w = g ∧ fD w = d ∧ fA w = a ∧ fB w = b ∧ fHi12 w = hi ∧ fX0 w = sel
      ∧ w < 2 ^ 64 := by
  subst hw
  have hn := g.neg.toNat_le
  refine ⟨?_, ?_, fGuard_eq ?_, ?_, ?_, ?_, ?_, ?_, ?_⟩ <;>
    simp only [packSel, packTop, packTop_neg, fPair, fMajor, fD, fA, fB, fHi12, fX0, Fin.ext_iff,
      decide_eq_false_iff_not] <;> omega

theorem Kind.ofCode_code (k : Kind) : Kind.ofCode k.code = some k := by cases k <;> rfl
theorem GSize.ofCode_code (s : GSize) : GSize.ofCode s.code = some s := by cases s <;> rfl

theorem packMma_fields {h : HReg} {t : Tile} {ka kb : Kind} {ga gb : GSize} {ovw : Bool}
    (hw : packMma M g h t ka kb ga gb ovw a b c = w) :
    fPair w = false ∧ fMajor w = M.val ∧ fGuard w = g ∧ fD w = tileCode t ∧ fA w = a ∧ fB w = b ∧ fC w = c
      ∧ fX3 w = h ∧ fKindA w = some ka ∧ fKindB w = some kb ∧ fSizeA w = some ga ∧ fSizeB w = some gb
      ∧ (decide (w % 4 = 1)) = ovw ∧ w < 2 ^ 64 := by
  subst hw
  have hn := g.neg.toNat_le
  have ho := ovw.toNat_le
  have hovw : (decide (ovw.toNat = 1)) = ovw := by cases ovw <;> rfl
  refine ⟨?_, ?_, fGuard_eq ?_, ?_, ?_, ?_, ?_, ?_, ?_, ?_, ?_, ?_, ?_, ?_⟩
  case refine_9 => exact (congrArg Kind.ofCode (Fin.ext (by simp only [packMma, packTop, packTop_neg]; omega))).trans ka.ofCode_code
  case refine_10 => exact (congrArg Kind.ofCode (Fin.ext (by simp only [packMma, packTop, packTop_neg]; omega))).trans kb.ofCode_code
  case refine_11 => exact (congrArg GSize.ofCode (Fin.ext (by simp only [packMma, packTop, packTop_neg]; omega))).trans ga.ofCode_code
  case refine_12 => exact (congrArg GSize.ofCode (Fin.ext (by simp only [packMma, packTop, packTop_neg]; omega))).trans gb.ofCode_code
  case refine_13 =>
    refine Eq.trans (decide_eq_decide.mpr ?_) hovw
    simp only [packMma, packTop, packTop_neg]; omega
  all_goals
    simp only [packMma, packTop, packTop_neg, tileCode, fPair, fMajor, fD, fA, fB, fC, fX3, Fin.ext_iff,
      decide_eq_false_iff_not]; omega
end Fields
end Sys2Proof

namespace Sys2Proof
/-! ## Codes read back -/

section Codes

@[simp] theorem IntTy.ofCode_code (t : IntTy) : IntTy.ofCode t.code = some t := by cases t <;> rfl
@[simp] theorem Ty32.ofCode_code (t : Ty32) : Ty32.ofCode t.code = some t := by cases t <;> rfl
@[simp] theorem Ty16.ofCode_code (t : Ty16) : Ty16.ofCode t.code = some t := by cases t <;> rfl
@[simp] theorem Ty8.ofCode_code (t : Ty8) : Ty8.ofCode t.code = some t := by cases t <;> rfl
@[simp] theorem SignTy.ofCode_code (t : SignTy) : SignTy.ofCode t.code = some t := by cases t <;> rfl
@[simp] theorem NarrowTy.ofCode_code (t : NarrowTy) : NarrowTy.ofCode t.code = some t := by cases t <;> rfl
@[simp] theorem FTy.ofCode_code (t : FTy) : FTy.ofCode t.code = some t := by cases t <;> rfl
@[simp] theorem CvtTy.ofCode_code (t : CvtTy) : CvtTy.ofCode t.code = some t := by cases t <;> rfl
@[simp] theorem PackPair.ofCodes_code (p : PackPair) : PackPair.ofCodes p.dst p.src = some p := by cases p <;> rfl
@[simp] theorem UnpackPair.ofCodes_code (p : UnpackPair) : UnpackPair.ofCodes p.dst p.src = some p := by cases p <;> rfl
@[simp] theorem RedTy.ofCode_code (t : RedTy) : RedTy.ofCode t.code = some t := by cases t <;> rfl
@[simp] theorem Rm.ofCode_code (r : Rm) : Rm.ofCode r.code = some r := by cases r <;> rfl
@[simp] theorem Icc.ofCode_code (c : Icc) : Icc.ofCode c.code = some c := by cases c <;> rfl
@[simp] theorem Fcc.ofCode_code (c : Fcc) : Fcc.ofCode c.code = some c := by cases c <;> rfl
@[simp] theorem LdWidth.ofCode_code (w : LdWidth) : LdWidth.ofCode w.code = some w := by cases w <;> rfl
@[simp] theorem StWidth.ofCode_code (w : StWidth) : StWidth.ofCode w.code = some w := by cases w <;> rfl
@[simp] theorem Ordering4.ofCode_code (o : Ordering4) : Ordering4.ofCode o.code = o := by cases o <;> rfl
@[simp] theorem Scope.ofCode_code (s : Scope) : Scope.ofCode s.code = some s := by cases s <;> rfl
@[simp] theorem AtomOp.ofCode_code (o : AtomOp) : AtomOp.ofCode o.code = some o := by cases o <;> rfl
@[simp] theorem WCond.ofCode_code (c : WCond) : WCond.ofCode c.code = c := by cases c <;> rfl
@[simp] theorem Path.ofCode_code (p : Path) : Path.ofCode p.code = some p := by cases p <;> rfl
@[simp] theorem PrefScope.ofCode_code (s : PrefScope) : PrefScope.ofCode s.code = some s := by cases s <;> rfl
@[simp] theorem ShflMode.ofCode_code (m : ShflMode) : ShflMode.ofCode m.code = m := by cases m <;> rfl
@[simp] theorem SegSize.ofCode_code (s : SegSize) : SegSize.ofCode s.code = some s := by cases s <;> rfl
@[simp] theorem SlideWidth.ofCode_code (w : SlideWidth) : SlideWidth.ofCode w.code = some w := by cases w <;> rfl
@[simp] theorem VoteMode.ofCode_code (m : VoteMode) : VoteMode.ofCode m.code = some m := by cases m <;> rfl
@[simp] theorem RedOp.ofCode_code (o : RedOp) : RedOp.ofCode o.code = some o := by cases o <;> rfl
@[simp] theorem RepStep.ofCode_code (s : RepStep) : RepStep.ofCode s.code = s := by cases s <;> rfl
@[simp] theorem MoviExt.ofCode_code (e : MoviExt) : MoviExt.ofCode e.code = some e := by cases e <;> rfl
@[simp] theorem SweepOp.ofCode_code (o : SweepOp) : SweepOp.ofCode o.code = some o := by cases o <;> rfl
@[simp] theorem LdFmt.ofCode_code (f : LdFmt) : LdFmt.ofCode f.code = some f := by cases f <;> rfl
@[simp] theorem StFmt.ofCode_code (f : StFmt) : StFmt.ofCode f.code = some f := by cases f <;> rfl
theorem UReg.ofIndex_index (r : UReg) : UReg.ofIndex r.index = some r := by cases r <;> rfl
@[simp] theorem CReg.ofIndex_code (r : CReg) : CReg.ofIndex r.code.val = some r := by
  cases r with
  | user r =>
    have := r.index_lt
    simp [CReg.code, CReg.index, CReg.ofIndex, show r.index < 1024 by omega, r.ofIndex_index]
  | sv r =>
    have := r.index_lt
    simp [CReg.code, CReg.index, CReg.ofIndex, show 1024 + r.index < 2048 by omega, r.ofIndex_index]
  | _ => simp [CReg.code, CReg.index, CReg.ofIndex]

@[simp] theorem Operand.ofCode_code (o : Operand) : Operand.ofCode o.code = o := by
  cases o with
  | v n => simp [Operand.code, Operand.ofCode, n.isLt]
  | s n =>
    have := n.isLt
    simp [Operand.code, Operand.ofCode, show 256 + n.val < 448 by omega]
  | int n =>
    have := n.isLt
    simp [Operand.code, Operand.ofCode, show ¬ 448 + n.val < 256 by omega, show 448 + n.val < 480 by omega]
  | flt n =>
    have := n.isLt
    simp [Operand.code, Operand.ofCode, show ¬ 480 + n.val < 256 by omega, show ¬ 480 + n.val < 448 by omega,
      show 480 + n.val < 504 by omega]
  | ident c => cases c <;> simp [Operand.code, Operand.ofCode, IdentConst.code, IdentConst.ofIndex]

@[simp] theorem Reg.ofCode_code (r : Reg) : Reg.ofCode r.code = some r := by
  cases r with
  | v n => simp [Reg.code, Reg.op, Operand.code, Reg.ofCode, n.isLt]
  | s n =>
    have := n.isLt
    simp [Reg.code, Reg.op, Operand.code, Reg.ofCode, show 256 + n.val < 448 by omega]

@[simp] theorem vOf_vCode (v : VReg) : vOf (vCode v) = some v := by simp [vOf, vCode, v.isLt]
@[simp] theorem sOf_sCode (s : SReg) : sOf (sCode s) = some s := by
  have := s.isLt
  simp [sOf, sCode, show 256 + s.val < 448 by omega]
@[simp] theorem liveOf_liveCode (n : Fin 33) : liveOf (liveCode n) = some n := by simp [liveOf, liveCode, n.isLt]
@[simp] theorem tileOf_tileCode (t : Tile) : tileOf (tileCode t) = t := by
  have := t.isLt
  simp [tileOf, tileCode, Nat.mod_eq_of_lt this]

@[simp] theorem nibHi_nib31 (hi : Fin 8) (lo : Bool) : nibHi (nib31 hi lo) = hi := by
  have := lo.toNat_le
  simp only [nibHi, nib31, Fin.ext_iff]; omega
@[simp] theorem nibLo_nib31 (hi : Fin 8) (lo : Bool) : nibLo (nib31 hi lo) = lo := by
  cases lo <;> simp [nibLo, nib31]
@[simp] theorem nibTop_nib13 (hi : Bool) (lo : Fin 8) : nibTop (nib13 hi lo) = hi := by
  have := lo.isLt
  cases hi
  · exact decide_eq_false (by simp only [nib13, Bool.toNat_false]; omega)
  · exact decide_eq_true (by simp only [nib13, Bool.toNat_true]; omega)
@[simp] theorem nibLow3_nib13 (hi : Bool) (lo : Fin 8) : nibLow3 (nib13 hi lo) = lo := by
  have := hi.toNat_le
  simp only [nibLow3, nib13, Fin.ext_iff]; omega
@[simp] theorem nibHi2_nib22 (hi lo : Fin 4) : nibHi2 (nib22 hi lo) = hi := by
  simp only [nibHi2, nib22, Fin.ext_iff]; omega
@[simp] theorem nibLo2_nib22 (hi lo : Fin 4) : nibLo2 (nib22 hi lo) = lo := by
  simp only [nibLo2, nib22, Fin.ext_iff]; omega
@[simp] theorem nibLo_bit16 (b : Bool) : nibLo (bit16 b) = b := by cases b <;> rfl
@[simp] theorem bit16_val_eq_one (b : Bool) : decide ((bit16 b).val = 1) = b := by cases b <;> rfl
@[simp] theorem bit4_eq_one (b : Bool) : decide (bit4 b = 1) = b := by cases b <;> rfl
@[simp] theorem nibLow3_up16 (p : Fin 8) : nibLow3 (up16 p) = p := by
  simp only [nibLow3, up16, Fin.ext_iff]; omega
@[simp] theorem nibLo2_up16' (p : Fin 4) : nibLo2 (up16' p) = p := by
  simp only [nibLo2, up16', Fin.ext_iff]; omega
@[simp] theorem low3_up512 (p : Fin 8) : low3 (up512 p) = p := by
  simp only [low3, up512, Fin.ext_iff]; omega

theorem fin_mod_self {n : Nat} (x : Fin n) (h : x.val % n < n) : (⟨x.val % n, h⟩ : Fin n) = x :=
  Fin.ext (Nat.mod_eq_of_lt x.isLt)

theorem Sel.ofCodes_code (s : Sel) : Sel.ofCodes s.mode s.code = some s := by
  cases s <;> simp [Sel.mode, Sel.code, Sel.ofCodes]

/-- The mode of a TRAV stands above its selector code. -/
theorem sel_mode_above (m : Fin 4) (c : Fin 512) (h : (m.val * 512 + c.val) / 512 < 4) :
    (⟨(m.val * 512 + c.val) / 512, h⟩ : Fin 4) = m := Fin.ext (by dsimp only; omega)

/-- XFENCE's two paths stand in bits [8:6] and [5:3] of its B field. -/
theorem path_high (p q : Fin 8) (h : (p.val * 64 + q.val * 8) / 64 < 8) :
    (⟨(p.val * 64 + q.val * 8) / 64, h⟩ : Fin 8) = p := Fin.ext (by dsimp only; omega)
theorem path_low (p q : Fin 8) (h : (p.val * 64 + q.val * 8) / 8 % 8 < 8) :
    (⟨(p.val * 64 + q.val * 8) / 8 % 8, h⟩ : Fin 8) = q := Fin.ext (by dsimp only; omega)

/-- The count and the four steps of a REP stand apart in its immediate (R43). -/
theorem repImm_fields (n : Fin 65) (d a b c : RepStep) :
    (repImm n d a b c).val % 128 = n.val ∧ (repImm n d a b c).val / 2 ^ 14 % 4 = d.code.val
      ∧ (repImm n d a b c).val / 2 ^ 12 % 4 = a.code.val ∧ (repImm n d a b c).val / 2 ^ 10 % 4 = b.code.val
      ∧ (repImm n d a b c).val / 2 ^ 8 % 4 = c.code.val := by
  simp only [repImm]; omega

/-! ## Pair halves -/

@[simp] theorem HalfOp.ofCodes_code (o : HalfOp) : HalfOp.ofCodes o.code o.modifier = some o := by
  cases o with
  | imin2 t | imax2 t => cases t <;> rfl
  | fadd2 rm | fmul2 rm => cases rm <;> rfl
  | padd2h sat => cases sat <;> rfl
  | _ => rfl

theorem HalfOp.code_lt (o : HalfOp) : o.code < 32 := by cases o <;> simp [HalfOp.code]
theorem HalfOp.modifier_lt (o : HalfOp) : o.modifier < 64 := by
  cases o with
  | imin2 t | imax2 t => cases t <;> decide
  | fadd2 rm | fmul2 rm => cases rm <;> decide
  | padd2h sat => cases sat <;> decide
  | _ => decide

theorem HalfWord.encode_lt (h : HalfWord) : h.encode < 2 ^ 31 := by
  have ho := h.op.code_lt
  have hm := h.op.modifier_lt
  simp only [HalfWord.encode]; omega

@[simp] theorem HalfWord.ofBits_encode (h : HalfWord) : HalfWord.ofBits h.encode = some h := by
  obtain ⟨op, ⟨g, d, a⟩⟩ := h
  have ho := op.code_lt
  have hm := op.modifier_lt
  have hop : op.code * 2 ^ 26 + g.val * 2 ^ 23 + d.val * 2 ^ 15 + a.code.val * 2 ^ 6 + op.modifier = (HalfWord.mk op ⟨g, d, a⟩).encode := rfl
  have e1 : (HalfWord.mk op ⟨g, d, a⟩).encode / 2 ^ 26 % 32 = op.code := by omega
  have e2 : (HalfWord.mk op ⟨g, d, a⟩).encode % 64 = op.modifier := by omega
  have e3 : (HalfWord.mk op ⟨g, d, a⟩).encode / 2 ^ 23 % 8 = g.val := by omega
  have e4 : (HalfWord.mk op ⟨g, d, a⟩).encode / 2 ^ 15 % 128 = d.val := by omega
  have e5 : (HalfWord.mk op ⟨g, d, a⟩).encode / 2 ^ 6 % 512 = a.code.val := by omega
  simp only [HalfWord.ofBits, e1, e2, e3, e4, e5, HalfOp.ofCodes_code, Option.map_some, Fin.eta, Operand.ofCode_code]

/-- Both halves of a pair word are read back, and the word is one (R39). -/
theorem parse_packPair (h o : HalfWord) : packPair h o < 2 ^ 64 ∧ parse (packPair h o) = some (pairInstr h o) := by
  have h1 := h.encode_lt
  have h2 := o.encode_lt
  have hp : fPair (packPair h o) = true := decide_eq_true (by simp only [packPair]; omega)
  have e1 : packPair h o / 2 ^ 32 % 2 ^ 31 = h.encode := by simp only [packPair]; omega
  have e2 : packPair h o / 2 % 2 ^ 31 = o.encode := by simp only [packPair]; omega
  refine ⟨by simp only [packPair]; omega, ?_⟩
  simp only [parse, hp, if_true, parsePair, e1, e2, HalfWord.ofBits_encode, Option.bind_eq_bind, Option.bind_some]

end Codes
end Sys2Proof

namespace Sys2Proof

section Forms

/-- The decoder's candidate for an instruction's word is that instruction: every field of the word is read back, and
with it every operand and modifier. -/
theorem parse_encode {i : Instr} {w : Nat} (h : i.encode = some w) : w < 2 ^ 64 ∧ parse w = some i := by
  cases i
  case iadd | isub | iaddc | imul | imulh | imad | imadw | ineg | iabs | imin | imax | iclamp | lea =>
    have F := packX_fields (Option.some.inj h)
    simp [-Nat.reducePow, F, parse, parseInteger, fSat, dReg, aOp, bOp, cOp]
  case and | or | xor | andn | shl | shr | sar | rol | funnel | popc | clz | ctz | brev | bfx | bfi | bperm | sel | mov =>
    have F := packX_fields (Option.some.inj h)
    simp [-Nat.reducePow, F, parse, parseLogic, dReg, aOp, bOp, cOp]
  case movi =>
    have F := packI_fields (Option.some.inj h)
    simp [-Nat.reducePow, F, parse, parseLogic, dReg, fOff32]
  case fadd | fsub | fmul | ffma | fmin | fmax | frnd | ffrac | dadd | dsub | dmul | dfma | dmin | dmax | drnd | cvt | cvtp
      | cvtpUnpk | frcp | frsq | fsqrt | fexp2 | flog2 | fsin | fcos | ftanh | fsgm | ferf =>
    have F := packX_fields (Option.some.inj h)
    simp [-Nat.reducePow, F, parse, parseFloat, fSat, fRm, dReg, aOp, bOp, cOp]
  case dp2 | dp4 | padd2 | psub2 | pmax2 | pmin2 | shrnd | pack | sad4 | hash | crc | scmp | seqm | sfold | icmp | fcmp
      | dcmp | plop | pmov | pmovPw | pmovNz | pmovBit =>
    have F := packX_fields (Option.some.inj h)
    simp [-Nat.reducePow, F, parse, parsePacked, fSat, dReg, aOp, bOp, cOp]
  case iadd2 | isub2 | imin2 | imax2 | and2 | or2 | xor2 | shl2 | shr2 | sar2 | mov2 | fadd2 | fmul2 | fmin2 | fmax2
      | padd2h =>
    obtain rfl := Option.some.inj h
    exact parse_packPair _ _
  case shfl | slide | vote | ballot | ballotR | gred | gscan | mskopAnd | mskopOr | mskopXor | mskopAndn | mskopNot
      | mskopLd | mskopSt | mskopLive | mskopArrv | tbar | cbar | rolesw =>
    have F := packX_fields (Option.some.inj h)
    simp [-Nat.reducePow, F, parse, parseGroup, fMask, dReg, aOp, bOp, cOp]
  case bra | call | trav =>
    have F := packB_fields (Option.some.inj h)
    simp [-Nat.reducePow, F, parse, parseControl, fOff32, fin_mod_self, sel_mode_above, Sel.ofCodes_code]
  case brx | callx | travx | ret | exit | yield | bkpt | spawn | nop =>
    have F := packSel_fields (Option.some.inj h)
    simp [-Nat.reducePow, F, parse, parseControl, aReg, bOp, fin_mod_self, Sel.ofCodes_code]
  case rep =>
    have F := packI_fields (Option.some.inj h)
    simp [-Nat.reducePow, F, parse, parseControl, repImm_fields]
  case ld | st | sld | atom | atomW64 | pref | fence | xfence =>
    have F := packM_fields (Option.some.inj h)
    simp [-Nat.reducePow, F, parse, parseMemory, fKind, fMem, fOff13, aReg, bOp, path_high, path_low]
  case acas g wd m d a b off =>
    cases wd <;>
    · have F := packM_fields (Option.some.inj h)
      simp [-Nat.reducePow, F, parse, parseMemory, fKind, fMem, fOff13, aReg, bOp, bit16, AWidth.bit]
  case lr g wd m d a off =>
    cases wd <;>
    · have F := packM_fields (Option.some.inj h)
      simp [-Nat.reducePow, F, parse, parseMemory, fKind, fMem, fOff13, aReg, AWidth.bit]
  case sc g wd m d a b off =>
    cases wd <;>
    · have F := packM_fields (Option.some.inj h)
      simp [-Nat.reducePow, F, parse, parseMemory, fKind, fMem, fOff13, aReg, bOp, AWidth.bit]
  case partn g wd m d a b =>
    cases wd <;>
    · have F := packM_fields (Option.some.inj h)
      simp [-Nat.reducePow, F, parse, parseMemory, fKind, fMem, aReg, bOp, AWidth.bit]
  case waitv g cc wd acq s d a b off =>
    have F := packM_fields (Option.some.inj h)
    cases wd <;> cases cc <;>
      simp [-Nat.reducePow, F, parse, parseMemory, fKind, fOff13, dReg, aReg, bOp, AWidth.bit, WCond.code, nib13, nibLo2,
        WCond.ofCode, AWidth.ofBit]
  case wmap | wflush | wdrop | cpy | cpyg | bari | barx | barw | bart | htest | hcan | tswp | tldi =>
    have F := packX_fields (Option.some.inj h)
    simp [-Nat.reducePow, F, parse, parseEngine, aReg, bOp, fin_mod_self]
  case hwait g d x =>
    cases d <;>
    · have F := packX_fields (Option.some.inj h)
      simp [-Nat.reducePow, F, parse, parseEngine, dReg]
  case macq | mrel | mzero | mldz | mstz | tend | tabort | tstat =>
    have F := packX_fields (Option.some.inj h)
    simp [-Nat.reducePow, F, parse, parseMatrix, dReg, bOp]
  case mma | mmag =>
    have F := packMma_fields (Option.some.inj h)
    simp [-Nat.reducePow, F, parse, parseMatrix, cOp]
  case tbegin =>
    have F := packB_fields (Option.some.inj h)
    simp [-Nat.reducePow, F, parse, parseMatrix, fOff32]
  case sysc | crd | cwr =>
    have F := packI_fields (Option.some.inj h)
    simp [-Nat.reducePow, F, parse, parseSystem, fOff32, dReg, aOp]
  case lnch | sretReply | sretDrop | mboxWait | mboxPop | mboxStat | ctxsG | ctxsT | ctxlG | ctxlT | tinvAll
      | tinvPage =>
    have F := packX_fields (Option.some.inj h)
    simp [-Nat.reducePow, F, parse, parseSystem]
  case sretResume g k d a =>
    have F := packX_fields (Option.some.inj h)
    cases k <;> simp [-Nat.reducePow, F, parse, parseSystem, nib22, bit4]
  -- a step of the machine and a helm word have no vector word
  all_goals nomatch h

/-- What the decoder reads from a word is the candidate, if it is well formed and has that word (R49). -/
theorem decode_eq_some_iff {i : Instr} {w : Nat} :
    decode w = some i ↔ parse w = some i ∧ i.encode = some w ∧ i.wf = true := by
  unfold decode
  cases hp : parse w with
  | none => simp
  | some j =>
    by_cases hj : j.encode = some w ∧ j.wf = true
    · simp only [hj, if_true, Option.some.injEq, and_self]
      exact ⟨fun e => e ▸ ⟨rfl, hj⟩, fun e => e.1⟩
    · simp only [hj, if_false, Option.some.injEq, reduceCtorEq, false_iff, not_and]
      rintro rfl hw
      exact fun h => hj ⟨hw, h⟩

/-! ## Helm words (R313) -/

theorem decodeHelm_encodeHelm {i : Instr} {w : Nat} (h : i.encodeHelm = some w) : w < 2 ^ 32 ∧ decodeHelm w = some i := by
  cases i
  case htbegin rd =>
    obtain rfl := Option.some.inj h
    have e1 : (rd.val * 2 ^ 7 + 0x0B) / 2 ^ 12 % 8 = 0 := by omega
    have e2 : (rd.val * 2 ^ 7 + 0x0B) / 2 ^ 7 % 32 = rd.val := by omega
    exact ⟨by omega, by simp only [decodeHelm, e1, e2]; exact if_pos rfl⟩
  case htend =>
    obtain rfl := Option.some.inj h
    have e1 : 0x100B / 2 ^ 12 % 8 = 1 := by omega
    exact ⟨by omega, by simp only [decodeHelm, e1]; exact if_pos rfl⟩
  case htabort u =>
    obtain rfl := Option.some.inj h
    have e1 : (u.val * 2 ^ 20 + 0x200B) / 2 ^ 12 % 8 = 2 := by omega
    have e2 : (u.val * 2 ^ 20 + 0x200B) / 2 ^ 20 % 16 = u.val := by omega
    exact ⟨by omega, by simp only [decodeHelm, e1, e2]; exact if_pos rfl⟩
  case htstat rd =>
    obtain rfl := Option.some.inj h
    have e1 : (0x3000 + rd.val * 2 ^ 7 + 0x0B) / 2 ^ 12 % 8 = 3 := by omega
    have e2 : (0x3000 + rd.val * 2 ^ 7 + 0x0B) / 2 ^ 7 % 32 = rd.val := by omega
    exact ⟨by omega, by simp only [decodeHelm, e1, e2]; exact if_pos rfl⟩
  all_goals nomatch h

theorem encodeHelm_of_decodeHelm {i : Instr} {w : Nat} (h : decodeHelm w = some i) : i.encodeHelm = some w := by
  unfold decodeHelm at h
  extract_lets cand at h
  split at h
  · obtain rfl := Option.some.inj h; assumption
  · nomatch h

end Forms

/-- Settles O56: every field of a packed word is read back, so the candidate of an instruction's word is the instruction;
and the decoder accepts a candidate only where it has the word and is well formed. -/
theorem decodeReadsBackEveryWord : Obligations.DecodeReadsBackEveryWord := by
  refine ⟨fun i w hwf h => ?_, fun i w h => decodeHelm_encodeHelm h, fun i w => ⟨fun h => ?_, encodeHelm_of_decodeHelm⟩⟩
  · obtain ⟨hlt, hp⟩ := parse_encode h
    exact ⟨hlt, decode_eq_some_iff.mpr ⟨hp, h, hwf⟩⟩
  · exact (decode_eq_some_iff.mp h).2

end Sys2Proof

/-! ## A word whose mask register has an outstanding write (R134, R145) -/

namespace Sys2Proof.Machine

/-- A result of an earlier group operation that the exchange network writes to M1 at clock 1000. -/
def maskWriteDue : RdvOut := { writeAt := 1000, dest := none, res := [], mask := some (1, 0), arrived := 0, goto := 0 }

/-- VOTE.ALL of P0 over M1, to P0. -/
def voteOverM1 : Instr := .vote Guard.always 1 .all 0 0

/-- Its word. -/
def voteWord : Nat := 0x5A70000000001000

/-- The supervisor group with that write outstanding: M1 may not be read before it. -/
def groupWithMaskWrite : Grp := { Grp.supervisorReset with outs := [maskWriteDue] }

/-- A package of one core, whose group stands at `voteWord` and has its turn now. -/
def stateWithMaskWrite : State :=
  { State.reset with
    tape := [{ dt := 0, act := .issue 0 0 }]
    cores := [{ Core.reset 0 with groups := [some groupWithMaskWrite] }]
    helms := []
    mem := writeBytes [] 0 (leBytes 8 voteWord) }

/-- The state in which its turn is taken. -/
def turnWithMaskWrite : State := { stateWithMaskWrite with tape := [] }

/-- The first free name of an access after a step. -/
def nextIdAfter : Host.Outcome State Fault Refusal → Option Nat
  | .next t => some t.nextId
  | _ => none

open Sys2Proof.Claims

/-- The word waits: the turn leaves the state as it was, and no access name is taken. -/
theorem nextIdAfter_step_maskWrite : nextIdAfter (step stateWithMaskWrite) = some 0 := by decide +kernel

/-- The word's meaning, had it issued, would have taken one. -/
theorem nextIdAfter_issue_maskWrite :
    nextIdAfter (afterAct stateWithMaskWrite (afterIssue turnWithMaskWrite 0 0
      (exec voteOverM1 (enter turnWithMaskWrite 0 0 (nextSet groupWithMaskWrite)
        (isTransfer voteOverM1 && decide (activeLanes voteWord voteOverM1 groupWithMaskWrite (nextSet groupWithMaskWrite) ≠ 0))
        (unitNeed turnWithMaskWrite 0 groupWithMaskWrite (nextSet groupWithMaskWrite) voteWord voteOverM1))))) = some 1 := by
  decide +kernel

theorem issues_maskWrite : Issues turnWithMaskWrite 0 0 groupWithMaskWrite 0 where
  grp := rfl
  core := by decide
  going := rfl
  calm := rfl
  one := rfl
  fair := by decide +kernel
  ready := by decide +kernel
  lead := by decide +kernel

theorem fetchesAt_maskWrite :
    FetchesAt turnWithMaskWrite 0 groupWithMaskWrite (laneAt groupWithMaskWrite 0).pc voteWord :=
  ⟨by decide +kernel, by decide +kernel, leafTarget flatLeaf 0, 0, by decide +kernel⟩

end Sys2Proof.Machine

namespace Sys2Proof

open Sys2Proof.Machine Sys2Proof.Claims

/-- Refutes O58: its hypotheses ask for no outstanding write of a register that the word names, but not of a mask register. A
VOTE over M1 while the exchange network holds a write of M1 meets them all, and waits (R134, R145): the step leaves the
group as it was, and `exec` is not run. -/
theorem not_stepRunsTheDecodedInstruction : ¬ Obligations.StepRunsTheDecodedInstruction := by
  rintro ⟨-, -, -, h⟩
  obtain ⟨-, hturn⟩ := h stateWithMaskWrite 0 [] (by decide +kernel)
  obtain ⟨hissue, -, -⟩ := hturn (by decide +kernel)
  have hword := (hissue 0 0 groupWithMaskWrite 0 voteWord rfl issues_maskWrite fetchesAt_maskWrite
    (by decide +kernel) (by decide +kernel)).2 voteOverM1 (by decide +kernel) (by decide +kernel)
    (by decide +kernel) (by decide +kernel) (by decide +kernel) (by decide +kernel)
    (fun _ _ _ _ hx => nomatch hx) (by decide +kernel)
  have hid : some 0 = some 1 :=
    (nextIdAfter_step_maskWrite.symm.trans (congrArg nextIdAfter hword)).trans nextIdAfter_issue_maskWrite
  exact absurd hid (by decide)

end Sys2Proof

/-! ## The helpers of R73 as operations of bit vectors -/

namespace Sys2Proof.Machine

open Sys2Proof.Claims

theorem uval_eq (n v : Nat) : uval n v = (BitVec.ofNat n v).toNat := rfl

theorem sval_eq {n : Nat} (hn : 0 < n) (v : Nat) : sval n v = (BitVec.ofNat n v).toInt := by
  obtain ⟨k, rfl⟩ := Nat.exists_eq_succ_of_ne_zero hn.ne'
  have hp : 2 ^ (k + 1) = 2 * 2 ^ k := by rw [Nat.pow_succ, Nat.mul_comm]
  simp only [sval, BitVec.toInt_eq_toNat_cond, BitVec.toNat_ofNat, Nat.succ_eq_add_one, Nat.add_sub_cancel, hp,
    Nat.mul_lt_mul_left (Nat.zero_lt_two)]
  push_cast
  rw [pow_succ']

/-- The value of a pattern is that of the bit vector that it is. -/
theorem ival_eq {n : Nat} (hn : 0 < n) (signed : Bool) (v : Nat) :
    ival signed n v = elemVal signed (BitVec.ofNat n v) := by
  cases signed
  · exact congrArg Int.ofNat (uval_eq n v)
  · exact sval_eq hn v

theorem wrapI_eq (n : Nat) (x : Int) : wrapI n x = (BitVec.ofInt n x).toNat := by
  simp [wrapI, BitVec.toNat_ofInt]

theorem width_pos (t : IntTy) : 0 < IntTy.width t := by cases t <;> decide

theorem tval_eq (t : IntTy) (v : Nat) : tval t v = valOf t (BitVec.ofNat _ v) := ival_eq (width_pos t) _ v

/-- Narrowing is that of the statements, which clamp by `max` and `min`. -/
theorem narrowI_eq (sat signed : Bool) (n : Nat) (x : Int) :
    narrowI sat signed n x = ((narrowed sat signed n x).toNat, narrowFlag sat signed n x) := by
  have hlo : minOf signed n = lowOf signed n := rfl
  have hhi : maxOf signed n = highOf signed n := rfl
  have hle : lowOf signed n ≤ highOf signed n := by
    have h1 : (0 : Int) < 2 ^ (n - 1) := by positivity
    have h2 : (0 : Int) < 2 ^ n := by positivity
    cases signed
    · simp only [lowOf, highOf, Bool.false_eq_true, if_false]; omega
    · simp only [lowOf, highOf, if_true]; omega
  cases sat
  · simp [narrowI, narrowed, narrowFlag, wrapI_eq]
  · simp only [narrowI, narrowed, narrowFlag, satI, hlo, hhi, wrapI_eq, if_true, true_and]
    split
    · next h => rw [min_eq_left (by omega), max_eq_left (by omega), if_pos (by omega)]
    · split
      · next h => rw [min_eq_right (by omega), max_eq_right (by omega), if_pos (by omega)]
      · next h => rw [min_eq_left (by omega), max_eq_right (by omega), if_neg (by omega)]

/-! ## Logic, shifts and elements -/

theorem aluAdd_wrap (a b : Nat) : aluAdd .i32 false a b = ((BitVec.ofNat 32 a + BitVec.ofNat 32 b).toNat, 0) := by
  simp only [aluAdd, tnarrow, narrowI, tval_eq, wrapI_eq]
  simp [valOf, IntTy.signed, IntTy.width, BitVec.ofInt_add]

theorem aluSub_wrap (a b : Nat) : aluSub .i32 false a b = ((BitVec.ofNat 32 a - BitVec.ofNat 32 b).toNat, 0) := by
  have hsub : BitVec.ofInt 32 ((BitVec.ofNat 32 a).toInt - (BitVec.ofNat 32 b).toInt)
      = BitVec.ofNat 32 a - BitVec.ofNat 32 b :=
    BitVec.eq_of_toInt_eq (by rw [BitVec.toInt_ofInt, BitVec.toInt_sub])
  rw [← hsub, ← wrapI_eq]
  simp only [aluSub, tnarrow, narrowI, tval_eq]
  rfl

theorem aluAnd_eq (w a b : Nat) : aluAnd w a b = (BitVec.ofNat w a &&& BitVec.ofNat w b).toNat := rfl
theorem aluOr_eq (w a b : Nat) : aluOr w a b = (BitVec.ofNat w a ||| BitVec.ofNat w b).toNat := rfl
theorem aluXor_eq (w a b : Nat) : aluXor w a b = (BitVec.ofNat w a ^^^ BitVec.ofNat w b).toNat := rfl

theorem ofNat_toNat_mod32 (b : Nat) : (BitVec.ofNat 32 b).toNat % 32 = b % 32 := by
  rw [BitVec.toNat_ofNat]; omega

theorem aluShl_eq (w a b : Nat) : aluShl w a b = (BitVec.ofNat w a <<< (b % w)).toNat := by
  simp [aluShl, uval, Nat.shiftLeft_eq]

theorem aluShr_eq (w a b : Nat) : aluShr w a b = (BitVec.ofNat w a >>> (b % w)).toNat := by
  simp [aluShr, uval, Nat.shiftRight_eq_div_pow]

theorem aluSar_eq {w : Nat} (hw : 0 < w) (a b : Nat) :
    aluSar w a b = ((BitVec.ofNat w a).sshiftRight (b % w)).toNat := by
  have hk : (0 : Int) ≤ 2 ^ (b % w) := by positivity
  rw [aluSar, wrapI_eq, sval_eq hw, Int.fdiv_eq_ediv_of_nonneg _ hk, BitVec.sshiftRight, Int.shiftRight_eq_div_pow]
  norm_cast

theorem half16_eq (a i : Nat) (hi : i < 2) : BitVec.ofNat 16 (half16 a i) = elem16 (BitVec.ofNat 32 a) i := by
  apply BitVec.eq_of_toNat_eq
  simp only [half16, elem16, BitVec.toNat_ofNat, BitVec.extractLsb'_toNat, Nat.shiftRight_eq_div_pow]
  obtain rfl | rfl : i = 0 ∨ i = 1 := by omega
  · norm_num
  · norm_num; omega

theorem ofElems16_eq (f : Nat → BitVec 16) : ofElems16 f = (f 0).toNat + (f 1).toNat * 2 ^ 16 := by
  rw [ofElems16, BitVec.toNat_append, ← Nat.shiftLeft_add_eq_or_of_lt (f 0).isLt, Nat.shiftLeft_eq, Nat.add_comm]

/-- PADD2 by the elements as bit vectors. -/
theorem aluPadd2_eq (sat : Bool) (a b : Nat) :
    let s (i : Nat) : Int := (elem16 (BitVec.ofNat 32 a) i).toInt + (elem16 (BitVec.ofNat 32 b) i).toInt
    aluPadd2 .i16 sat a b = (ofElems16 fun i => narrowed sat true 16 (s i),
      narrowFlag sat true 16 (s 0) ||| narrowFlag sat true 16 (s 1)) := by
  intro s
  have hs (i : Nat) (hi : i < 2) :
      ival (Ty16.signed .i16) 16 (half16 a i) + ival (Ty16.signed .i16) 16 (half16 b i) = s i := by
    rw [ival_eq (by decide), ival_eq (by decide), half16_eq a i hi, half16_eq b i hi]; rfl
  simp only [aluPadd2, elem2, hs 0 (by decide), hs 1 (by decide), narrowI_eq, ofElems16_eq]
  rfl

end Sys2Proof.Machine

/-! ## Pair words (R41) -/

namespace Sys2Proof.Machine

open Sys2Proof.Claims

theorem getV_one (ln : Lane) (p : Nat) : getV ln p 1 = (sget ln.regs p).toNat := rfl

/-- The old D of a half, one register, is its own low 32 bits. -/
theorem oldD_toNat (e : Env) (h : HalfWord) : (oldD e h).toNat = getV e.lane (e.lane.base + h.args.d.val) 1 := by
  rw [oldD, getV_one, BitVec.ofNat_toNat, BitVec.setWidth_eq]

/-- A half computes what the statements say of it, in the bits that its register takes. -/
theorem halfRes_eq (e : Env) (op : HalfOp) (h : HalfArgs) :
    BitVec.ofNat 32 (halfRes e op h).1 = BitVec.ofNat 32 (halfValue e { op := op, args := h }).1
      ∧ (halfRes e op h).2 = (halfValue e { op := op, args := h }).2 := by
  have hd := oldD_toNat e { op := op, args := h }
  cases op with
  | iadd2 => simp only [halfRes, halfValue, aluAdd_wrap]; exact ⟨rfl, trivial⟩
  | isub2 => simp only [halfRes, halfValue, aluSub_wrap]; exact ⟨rfl, trivial⟩
  | imin2 t => cases t <;> simp only [halfRes, halfValue, aluMin, tval_eq, wrapI_eq] <;> exact ⟨rfl, trivial⟩
  | imax2 t => cases t <;> simp only [halfRes, halfValue, aluMax, tval_eq, wrapI_eq] <;> exact ⟨rfl, trivial⟩
  | and2 | or2 | xor2 => exact ⟨rfl, rfl⟩
  | shl2 => simp only [halfRes, halfValue, op32, aluShl_eq, ofNat_toNat_mod32]; exact ⟨rfl, trivial⟩
  | shr2 => simp only [halfRes, halfValue, op32, aluShr_eq, ofNat_toNat_mod32]; exact ⟨rfl, trivial⟩
  | sar2 =>
    simp only [halfRes, halfValue, op32, aluSar_eq (w := 32) (by decide), ofNat_toNat_mod32]
    exact ⟨rfl, trivial⟩
  | mov2 => exact ⟨(BitVec.eq_of_toNat_eq (by simp [halfValue, op32, halfRes])), rfl⟩
  | fadd2 rm | fmul2 rm | fmin2 | fmax2 => simp only [halfRes, halfValue, hd, and_self]
  | padd2h sat => simp only [halfRes, halfValue, aluPadd2_eq]; exact ⟨rfl, rfl⟩

/-- A register takes the low 32 bits of what is written to it. -/
theorem putV_one_congr (regs : Sparse 32) (p : Nat) {v w : Nat} (h : BitVec.ofNat 32 v = BitVec.ofNat 32 w) :
    putV regs p v 1 = putV regs p w 1 := by
  simp only [putV, h]

theorem putHalf_eq_afterHalf (e : Env) (h : HalfWord) (ln : Lane) : putHalf e h ln = afterHalf e h ln := by
  obtain ⟨hval, hfl⟩ := halfRes_eq e h.op h.args
  have hg : guardTrue (halfGuard h.args) e.lane = getP e.lane h.args.g := by simp [guardTrue, halfGuard]
  simp only [putHalf, afterHalf, hg, written, addFlags, wrV, putV_one_congr _ _ hval, hfl]

/-- A pair word runs as its two halves, and is no transfer. -/
theorem exec_eq_pairWord {i : Instr} {h1 h2 : HalfWord} (h : halvesOf i = some (h1, h2)) (s : State) :
    exec i s = pairWord i h1 h2 s ∧ leavesPc i = false := by
  cases i
  case iadd2 | isub2 | imin2 | imax2 | and2 | or2 | xor2 | shl2 | shr2 | sar2 | mov2 | fadd2 | fmul2 | fmin2 | fmax2
      | padd2h => cases h; exact ⟨rfl, rfl⟩
  all_goals exact nomatch h

theorem mirrorCount_frame (m : Mask) (g : Grp) :
    mirrorCount m g = { g with dmra := (mirrorCount m g).dmra, dmrc := (mirrorCount m g).dmrc } := by
  unfold mirrorCount
  dsimp only
  split <;> rfl

/-- Inside its windows and its segment, and with no comparison that differs, a pair word puts both halves. -/
theorem pairWord_next {i : Instr} {h1 h2 : HalfWord} {s : State} {g : Grp} (hg : curGrp s = some g)
    (hw1 : halfWindow g s.cur.mask h1 = 0) (hw2 : halfWindow g s.cur.mask h2 = 0)
    (hf : fallLanes (coreAt s s.cur.core) g s.cur.mask 0 (leavesPc i) = 0)
    (hm1 : mirrorFails s g (halfLanes g s.cur.mask h1) = false)
    (hm2 : mirrorFails s g (halfLanes g s.cur.mask h2) = false) :
    pairWord i h1 h2 s = .next (setCurGrp s (finishGrp s.cur.mask
      (mirrorCount (halfLanes g s.cur.mask h2) (mirrorCount (halfLanes g s.cur.mask h1)
        (mapLanes s.cur.mask (fun l ln => putHalf (envOf s g l) h2 (putHalf (envOf s g l) h1 ln)) g))))) := by
  simp only [halfWindow, halfLanes, BitVec.ofNat_eq_ofNat] at hw1 hw2 hf hm1 hm2
  simp [pairWord, hg, halfGuard, hw1, hw2, hf, hm1, hm2, halfLanes]

end Sys2Proof.Machine

namespace Sys2Proof

open Sys2Proof.Machine Sys2Proof.Claims

/-- Settles O8: both halves compute from the lane before either, each as its full form. -/
theorem pairWordHalvesReadBeforeWriting : Obligations.PairWordHalvesReadBeforeWriting := by
  intro i h1 h2 s g hi m hg hlen hw1 hw2 hf hm1 hm2
  obtain ⟨hexec, hleaves⟩ := exec_eq_pairWord hi s
  rw [hexec, pairWord_next hg hw1 hw2 (hleaves ▸ hf) hm1 hm2]
  refine ⟨_, rfl, ?_, fun l => ?_⟩
  · rw [mirrorCount_frame, mirrorCount_frame _ (mapLanes _ _ _)]
    rfl
  · rw [laneAt_mirrorCount, laneAt_mirrorCount]
    by_cases hl : l < g.lanes.length
    · simp only [laneAt_mapLanes _ _ _ _ hl, putHalf_eq_afterHalf, m]
    · have hbit : m.getLsbD l = false := BitVec.getLsbD_of_ge _ _ (by omega)
      rw [laneAt_out g l (by omega), laneAt_out _ l (by simp; omega), hbit]
      rfl

end Sys2Proof

/-! ## The sticky flags (R65, R108): every computation sets flags among bits 5:0 of the lane status word -/

namespace Sys2Proof.Machine

/-- Flags at the sticky places alone. -/
def Sticky (fl : Flags) : Prop := fl &&& 0xFFFFFFC0 = 0

@[simp] theorem sticky_zero : Sticky 0 := by unfold Sticky; decide
@[simp] theorem sticky_zero_lit : Sticky 0#32 := sticky_zero
@[simp] theorem sticky_flNX : Sticky flNX := by unfold Sticky; decide
@[simp] theorem sticky_flUF : Sticky flUF := by unfold Sticky; decide
@[simp] theorem sticky_flOF : Sticky flOF := by unfold Sticky; decide
@[simp] theorem sticky_flDZ : Sticky flDZ := by unfold Sticky; decide
@[simp] theorem sticky_flNV : Sticky flNV := by unfold Sticky; decide
@[simp] theorem sticky_flSAT : Sticky flSAT := by unfold Sticky; decide

@[simp] theorem sticky_or {a b : Flags} (ha : Sticky a) (hb : Sticky b) : Sticky (a ||| b) := by
  unfold Sticky at *
  rw [BitVec.and_comm, BitVec.and_or_distrib_left, BitVec.and_comm _ a, BitVec.and_comm _ b, ha, hb]
  rfl

@[simp] theorem sticky_flIf {f : Flags} (c : Bool) (h : Sticky f) : Sticky (flIf c f) := by
  cases c
  · exact sticky_zero
  · exact h

theorem sticky_ite {α : Type} {c : Prop} [Decidable c] {x y : α × Flags} (hx : Sticky x.2) (hy : Sticky y.2) :
    Sticky (if c then x else y).2 := by
  split
  · exact hx
  · exact hy

/-! ### Integer -/

@[simp] theorem sticky_narrowI (sat signed : Bool) (n : Nat) (x : Int) : Sticky (narrowI sat signed n x).2 := by
  unfold narrowI satI
  split
  · split
    · simp
    · split <;> simp
  · simp

@[simp] theorem sticky_elem2 {f : Nat → Nat × Flags} (h : ∀ i, Sticky (f i).2) : Sticky (elem2 f).2 :=
  sticky_or (h 0) (h 1)

@[simp] theorem sticky_two {x y : Nat × Flags} (w : Nat) (hx : Sticky x.2) (hy : Sticky y.2) : Sticky (two w x y).2 :=
  sticky_or hx hy

/-! ### Rounding and exact arithmetic -/

@[simp] theorem sticky_fpRound (f : Fmt) (rm : Rm) (flush sat neg : Bool) (m : Nat) (e : Int) (sticky : Bool) :
    Sticky (fpRound f rm flush sat neg m e sticky).2 := by
  unfold fpRound
  dsimp only
  exact sticky_ite (by simp) (sticky_ite (by simp) (by simp))

@[simp] theorem sticky_fpRoundZ (f : Fmt) (rm : Rm) (flush sat neg : Bool) (m : Nat) (e : Int) :
    Sticky (fpRoundZ f rm flush sat neg m e).2 := by
  unfold fpRoundZ; split <;> simp

@[simp] theorem sticky_fpDeliver (f : Fmt) (rm : Rm) (flush sat : Bool) (v e : Int) (zneg : Bool) :
    Sticky (fpDeliver f rm flush sat v e zneg).2 := by
  unfold fpDeliver; split <;> simp

@[simp] theorem sticky_fpAddV (f : Fmt) (rm : Rm) (flush : Bool) (a b : FVal) : Sticky (fpAddV f rm flush a b).2 := by
  unfold fpAddV
  dsimp only
  split
  case h_3 => split <;> simp
  all_goals simp

@[simp] theorem sticky_fpMulV (f : Fmt) (rm : Rm) (flush : Bool) (a b : FVal) : Sticky (fpMulV f rm flush a b).2 := by
  unfold fpMulV
  dsimp only
  split
  case h_4 | h_5 => split <;> simp
  all_goals simp

@[simp] theorem sticky_fpFmaV (f : Fmt) (rm : Rm) (flush : Bool) (a b c : FVal) :
    Sticky (fpFmaV f rm flush a b c).2 := by
  unfold fpFmaV
  dsimp only
  refine sticky_ite sticky_flNV ?_
  split
  case h_6 => exact sticky_ite (by simp) (by simp)
  all_goals simp

@[simp] theorem sticky_fpMinMaxV (f : Fmt) (max : Bool) (a b : FVal) : Sticky (fpMinMaxV f max a b).2 := by
  unfold fpMinMaxV
  dsimp only
  split
  · simp
  · split
    · simp
    · split <;> simp

@[simp] theorem sticky_fpRndV (f : Fmt) (rm : Rm) (a : FVal) : Sticky (fpRndV f rm a).2 := by
  cases a <;> simp [fpRndV]

@[simp] theorem sticky_fpFracV (f : Fmt) (a : FVal) : Sticky (fpFracV f a).2 := by
  unfold fpFracV
  split
  case h_3 => split <;> simp
  all_goals simp

@[simp] theorem sticky_fpCond (f : Fmt) (fz : Bool) (cc : Fcc) (a b : Nat) : Sticky (fpCond f fz cc a b).2 :=
  sticky_flIf _ sticky_flNV

@[simp] theorem sticky_fpAdd (f : Fmt) (rm : Rm) (fz : Bool) (a b : Nat) : Sticky (fpAdd f rm fz a b).2 :=
  sticky_fpAddV ..
@[simp] theorem sticky_fpSub (f : Fmt) (rm : Rm) (fz : Bool) (a b : Nat) : Sticky (fpSub f rm fz a b).2 :=
  sticky_fpAddV ..
@[simp] theorem sticky_fpMul (f : Fmt) (rm : Rm) (fz : Bool) (a b : Nat) : Sticky (fpMul f rm fz a b).2 :=
  sticky_fpMulV ..
@[simp] theorem sticky_fpFma (f : Fmt) (rm : Rm) (fz : Bool) (a b c : Nat) : Sticky (fpFma f rm fz a b c).2 :=
  sticky_fpFmaV ..
@[simp] theorem sticky_fpMin (f : Fmt) (fz : Bool) (a b : Nat) : Sticky (fpMin f fz a b).2 := sticky_fpMinMaxV ..
@[simp] theorem sticky_fpMax (f : Fmt) (fz : Bool) (a b : Nat) : Sticky (fpMax f fz a b).2 := sticky_fpMinMaxV ..
@[simp] theorem sticky_fpRnd (f : Fmt) (rm : Rm) (fz : Bool) (a : Nat) : Sticky (fpRnd f rm fz a).2 := sticky_fpRndV ..
@[simp] theorem sticky_fpFrac (f : Fmt) (fz : Bool) (a : Nat) : Sticky (fpFrac f fz a).2 := sticky_fpFracV ..

/-! ### Conversions -/

@[simp] theorem sticky_cvtFF (fs fd : Fmt) (rm : Rm) (fzS fzD sat : Bool) (a : Nat) :
    Sticky (cvtFF fs fd rm fzS fzD sat a).2 := by
  unfold cvtFF
  split
  case h_2 =>
    split
    · simp
    · split <;> simp
  all_goals simp

@[simp] theorem sticky_cvtFI (fs : Fmt) (rm : Rm) (fz : Bool) (lo hi : Int) (a : Nat) :
    Sticky (cvtFI fs rm fz lo hi a).2 := by
  unfold cvtFI
  split
  case h_3 =>
    dsimp only
    exact sticky_ite (by simp) (sticky_ite (by simp) (by simp))
  all_goals simp

@[simp] theorem sticky_cvtIF (fd : Fmt) (rm : Rm) (fz sat : Bool) (v : Int) : Sticky (cvtIF fd rm fz sat v).2 :=
  sticky_fpRoundZ ..

@[simp] theorem sticky_aluCvt (dst src : CvtTy) (sat : Bool) (rm : Rm) (fz32 fz64 : Bool) (a : Nat) :
    Sticky (aluCvt dst src sat rm fz32 fz64 a).2 := by
  unfold aluCvt
  dsimp only
  split <;> split <;> simp

@[simp] theorem sticky_aluCvtp (p : PackPair) (sat : Bool) (rm : Rm) (fz32 : Bool) (a b : Nat) :
    Sticky (aluCvtp p sat rm fz32 a b).2 := by
  cases p <;> simp [aluCvtp]

@[simp] theorem sticky_aluCvtpUnpk (p : UnpackPair) (rm : Rm) (fz32 : Bool) (a : Nat) :
    Sticky (aluCvtpUnpk p rm fz32 a).2 := by
  cases p <;> simp [aluCvtpUnpk]

@[simp] theorem sticky_fElem1 {f : Fmt → Nat → Nat × Flags} (t : FTy) (a : Nat) (h : ∀ m x, Sticky (f m x).2) :
    Sticky (fElem1 t f a).2 := by
  cases t <;> simp [fElem1, h]

@[simp] theorem sticky_fElem2 {f : Fmt → Nat → Nat → Nat × Flags} (t : FTy) (a b : Nat)
    (h : ∀ m x y, Sticky (f m x y).2) : Sticky (fElem2 t f a b).2 := by
  cases t <;> simp [fElem2, h]

@[simp] theorem sticky_fElem3 {f : Fmt → Nat → Nat → Nat → Nat × Flags} (t : FTy) (a b c : Nat)
    (h : ∀ m x y z, Sticky (f m x y z).2) : Sticky (fElem3 t f a b c).2 := by
  cases t <;> simp [fElem3, h]

/-! ### Special functions -/

@[simp] theorem sticky_spDeliver (fn : Nat) (rm : Rm) (fz neg : Bool) (v : Nat) (e : Int) (arg : Nat) :
    Sticky (spDeliver fn rm fz neg v e arg).2 := by
  unfold spDeliver
  dsimp only
  split <;> exact sticky_fpRound ..

@[simp] theorem sticky_spJustBelowOne (rm : Rm) (fz neg : Bool) : Sticky (spJustBelowOne rm fz neg).2 :=
  sticky_fpRound ..

@[simp] theorem sticky_fRcp (rm : Rm) (fz : Bool) (a : Nat) : Sticky (fRcp rm fz a).2 := by
  unfold fRcp
  split
  case h_3 => exact sticky_ite (by simp) (by simp)
  all_goals simp

@[simp] theorem sticky_fRsq (rm : Rm) (fz : Bool) (a : Nat) : Sticky (fRsq rm fz a).2 := by
  unfold fRsq
  split
  case h_2 => exact sticky_ite (by simp) (by simp)
  case h_3 => exact sticky_ite (by simp) (sticky_ite (by simp) (by simp))
  all_goals simp

@[simp] theorem sticky_fSqrt (rm : Rm) (fz : Bool) (a : Nat) : Sticky (fSqrt rm fz a).2 := by
  unfold fSqrt
  split
  case h_2 => exact sticky_ite (by simp) (by simp)
  case h_3 => exact sticky_ite (by simp) (sticky_ite (by simp) (by simp))
  all_goals simp

@[simp] theorem sticky_fExp2 (rm : Rm) (fz : Bool) (a : Nat) : Sticky (fExp2 rm fz a).2 := by
  unfold fExp2
  split
  case h_3 => exact sticky_ite sticky_zero (sticky_ite (sticky_fpRound ..) (sticky_spDeliver ..))
  all_goals simp

@[simp] theorem sticky_fLog2 (rm : Rm) (fz : Bool) (a : Nat) : Sticky (fLog2 rm fz a).2 := by
  unfold fLog2
  split
  case h_2 => exact sticky_ite (by simp) (by simp)
  case h_3 =>
    dsimp only
    refine sticky_ite sticky_flDZ (sticky_ite sticky_flNV ?_)
    split
    · exact sticky_fpRoundZ ..
    · exact sticky_spDeliver ..
  all_goals simp

@[simp] theorem sticky_fSin (rm : Rm) (fz : Bool) (a : Nat) : Sticky (fSin rm fz a).2 := by
  unfold fSin
  split
  case h_3 => exact sticky_ite sticky_zero (sticky_spDeliver ..)
  all_goals simp

@[simp] theorem sticky_fCos (rm : Rm) (fz : Bool) (a : Nat) : Sticky (fCos rm fz a).2 := by
  unfold fCos
  split
  case h_3 => exact sticky_ite sticky_zero (sticky_spDeliver ..)
  all_goals simp

@[simp] theorem sticky_fTanh (rm : Rm) (fz : Bool) (a : Nat) : Sticky (fTanh rm fz a).2 := by
  unfold fTanh
  split
  case h_3 => exact sticky_ite sticky_zero (sticky_ite (sticky_spJustBelowOne ..) (sticky_spDeliver ..))
  all_goals simp

@[simp] theorem sticky_fSgm (rm : Rm) (fz : Bool) (a : Nat) : Sticky (fSgm rm fz a).2 := by
  unfold fSgm
  split
  case h_3 =>
    exact sticky_ite sticky_zero (sticky_ite (sticky_spJustBelowOne ..) (sticky_ite (sticky_fpRound ..)
      (sticky_ite (sticky_spDeliver ..) (sticky_spDeliver ..))))
  all_goals simp

@[simp] theorem sticky_fErf (rm : Rm) (fz : Bool) (a : Nat) : Sticky (fErf rm fz a).2 := by
  unfold fErf
  split
  case h_3 =>
    exact sticky_ite sticky_zero (sticky_ite (sticky_spJustBelowOne ..)
      (sticky_ite (sticky_fpRound ..) (sticky_fpRound ..)))
  all_goals simp

end Sys2Proof.Machine

/-! ## The form of an arithmetic word: a destination, and what a lane takes -/

namespace Sys2Proof.Machine

open Sys2Proof.Claims

/-- The word computes `f` in each lane, for destination `d`: its registers stand in the word, its flags are sticky, and a
predicate that it gives is one that it names. -/
structure AluForm (i : Instr) (d : Option (Reg × Nat)) (f : Env → Res) : Prop where
  exec_eq : ∀ s, exec i s = aluWord i d f s
  dest_mem : ∀ r k, d = some (r, k) → Use.d k r ∈ i.uses
  sticky : ∀ e, Sticky (f e).flags
  names : ∀ e p b, (f e).pred = some (p, b) → writesPred i p = true

/-- A word that gives a value with its flags. -/
theorem AluForm.ofPair {i : Instr} {r : Reg} {k : Nat} {v : Env → Nat × Flags}
    (hexec : ∀ s, exec i s = aluWord i (some (r, k)) (fun e => .ofPair (v e)) s) (hd : Use.d k r ∈ i.uses)
    (hs : ∀ e, Sticky (v e).2) : AluForm i (some (r, k)) fun e => .ofPair (v e) where
  exec_eq := hexec
  dest_mem := fun _ _ h => by cases h; exact hd
  sticky := hs
  names := fun _ _ _ h => nomatch h

/-- A word that gives a value alone. -/
theorem AluForm.ofNat {i : Instr} {r : Reg} {k : Nat} {v : Env → Nat}
    (hexec : ∀ s, exec i s = aluWord i (some (r, k)) (fun e => .ofNat (v e)) s) (hd : Use.d k r ∈ i.uses) :
    AluForm i (some (r, k)) fun e => .ofNat (v e) where
  exec_eq := hexec
  dest_mem := fun _ _ h => by cases h; exact hd
  sticky := fun _ => sticky_zero
  names := fun _ _ _ h => nomatch h

/-- A word that gives a value and a predicate. -/
theorem AluForm.withPred {i : Instr} {r : Reg} {k : Nat} {p : PReg} {v : Env → Nat} {b : Env → Bool}
    (hexec : ∀ s, exec i s = aluWord i (some (r, k)) (fun e => .withPred p (v e) (b e)) s) (hd : Use.d k r ∈ i.uses)
    (hp : writesPred i p = true) : AluForm i (some (r, k)) fun e => .withPred p (v e) (b e) where
  exec_eq := hexec
  dest_mem := fun _ _ h => by cases h; exact hd
  sticky := fun _ => sticky_zero
  names := fun _ _ _ h => by cases h; exact hp

/-- A word that gives a predicate alone. -/
theorem AluForm.ofPred {i : Instr} {p : PReg} {b : Env → Bool × Flags}
    (hexec : ∀ s, exec i s = aluWord i none (fun e => .ofPred p (b e)) s) (hs : ∀ e, Sticky (b e).2)
    (hp : writesPred i p = true) : AluForm i none fun e => .ofPred p (b e) where
  exec_eq := hexec
  dest_mem := fun _ _ h => nomatch h
  sticky := hs
  names := fun _ _ _ h => by cases h; exact hp

/-- Every arithmetic word but PMOV PW has such a form (R106). -/
theorem aluForm_of_laneWise {i : Instr} (h : laneWise i = true) :
    (∃ gd a, i = .pmovPw gd a) ∨ ∃ d f, AluForm i d f := by
  cases i
  case pmovPw gd a => exact .inl ⟨gd, a, rfl⟩
  case iadd | isub | imul | imad | ineg | iabs | dp2 | dp4 | shrnd =>
    exact .inr ⟨_, _, .ofPair (fun _ => rfl) List.mem_cons_self fun _ => sticky_narrowI ..⟩
  case padd2 | psub2 | pack =>
    exact .inr ⟨_, _, .ofPair (fun _ => rfl) List.mem_cons_self fun _ => sticky_elem2 fun _ => sticky_narrowI ..⟩
  case imulh | imadw | imin | imax | iclamp | lea | and | or | xor | andn | shl | shr | sar | rol | funnel | popc | clz
      | ctz | brev | bfx | bfi | bperm | sel | mov | movi | pmax2 | pmin2 | sad4 | hash | crc | seqm | sfold | pmov =>
    exact .inr ⟨_, _, .ofNat (fun _ => rfl) List.mem_cons_self⟩
  case fadd | fsub | fmul | ffma | fmin | fmax | frnd | ffrac | dadd | dsub | dmul | dfma | dmin | dmax | drnd | cvt | cvtp
      | cvtpUnpk | frcp | frsq | fsqrt | fexp2 | flog2 | fsin | fcos | ftanh | fsgm | ferf =>
    exact .inr ⟨_, _, .ofPair (fun _ => rfl) List.mem_cons_self fun _ => by simp⟩
  case iaddc | scmp =>
    exact .inr ⟨_, _, .withPred (fun _ => rfl) List.mem_cons_self (decide_eq_true rfl)⟩
  case icmp | plop | pmovNz | pmovBit =>
    exact .inr ⟨_, _, .ofPred (fun _ => rfl) (fun _ => sticky_zero) (decide_eq_true rfl)⟩
  case fcmp | dcmp => exact .inr ⟨_, _, .ofPred (fun _ => rfl) (fun _ => sticky_fpCond ..) (decide_eq_true rfl)⟩
  all_goals exact nomatch h

end Sys2Proof.Machine

/-! ## What an arithmetic word leaves as it was (R37, R106, R107) -/

namespace Sys2Proof.Machine

open Sys2Proof.Claims

/-! ### One lane -/

/-- A lane before and after an arithmetic word: only its registers, its predicates and its flags change, each where the word
says so. -/
structure LaneFrame (i : Instr) (old new : Lane) : Prop where
  shape : new = { old with regs := new.regs, preds := new.preds, lsw := new.lsw }
  reg : ∀ n, writesVReg i n = false → sget new.regs (old.base + n) = sget old.regs (old.base + n)
  below : ∀ p, p < old.base → sget new.regs p = sget old.regs p
  pred : ∀ q, writesPred i q = false → getP new q = getP old q
  kept : old.lsw &&& ~~~new.lsw = 0
  sticky : new.lsw &&& 0xFFFFFFC0 = old.lsw &&& 0xFFFFFFC0

theorem LaneFrame.refl (i : Instr) (ln : Lane) : LaneFrame i ln ln where
  shape := rfl
  reg _ _ := rfl
  below _ _ := rfl
  pred _ _ := rfl
  kept := BitVec.and_not_self ..
  sticky := rfl

theorem LaneFrame.base_eq {i : Instr} {old new : Lane} (h : LaneFrame i old new) : new.base = old.base := by
  rw [h.shape]

/-- What is kept of flags that are kept is kept. -/
theorem flags_kept_trans {a b c : Word} (hab : a &&& ~~~b = 0) (hbc : b &&& ~~~c = 0) : a &&& ~~~c = 0 := by
  ext l hl
  have h1 := congrArg (fun x => BitVec.getLsbD x l) hab
  have h2 := congrArg (fun x => BitVec.getLsbD x l) hbc
  simp [hl] at h1 h2 ⊢
  exact fun ha => h2 (h1 ha)

theorem LaneFrame.trans {i : Instr} {a b c : Lane} (hab : LaneFrame i a b) (hbc : LaneFrame i b c) : LaneFrame i a c where
  shape := by rw [hbc.shape, hab.shape]
  reg n hn := by
    have h := hbc.reg n hn
    rw [hab.base_eq] at h
    exact h.trans (hab.reg n hn)
  below p hp := (hbc.below p (hab.base_eq ▸ hp)).trans (hab.below p hp)
  pred q hq := (hbc.pred q hq).trans (hab.pred q hq)
  kept := flags_kept_trans hab.kept hbc.kept
  sticky := hbc.sticky.trans hab.sticky

/-- A destination's registers are among those that the word writes by name. -/
theorem outside_of_writesVReg {i : Instr} {r : Fin 256} {k n : Nat} (hd : Use.d k (.v r) ∈ i.uses)
    (hn : writesVReg i n = false) : n < r.val ∨ r.val + k ≤ n := by
  have h := List.any_eq_false.mp hn _ hd
  have hout : ¬ (r.val ≤ n ∧ n < r.val + k) := fun hin => h (decide_eq_true hin)
  omega

theorem outside_of_writesSReg {i : Instr} {r : Fin 192} {k n : Nat} (hd : Use.d k (.s r) ∈ i.uses)
    (hn : writesSReg i n = false) : n < r.val ∨ r.val + k ≤ n := by
  have h := List.any_eq_false.mp hn _ hd
  have hout : ¬ (r.val ≤ n ∧ n < r.val + k) := fun hin => h (decide_eq_true hin)
  omega

theorem laneFrame_wrV {i : Instr} {r : Fin 256} {k : Nat} (ln : Lane) (v : Nat) (hd : Use.d k (.v r) ∈ i.uses)
    (hw : Sparse.wfFrom 0 ln.regs = true) : LaneFrame i ln (wrV ln r.val k v) where
  shape := rfl
  reg n hn := sget_putV_outside _ _ _ _ _ hw (by have := outside_of_writesVReg hd hn; omega)
  below p hp := sget_putV_outside _ _ _ _ _ hw (by omega)
  pred _ _ := rfl
  kept := BitVec.and_not_self ..
  sticky := rfl

theorem laneFrame_addFlags (i : Instr) (ln : Lane) {fl : Flags} (h : Sticky fl) : LaneFrame i ln (addFlags ln fl) where
  shape := rfl
  reg _ _ := rfl
  below _ _ := rfl
  pred _ _ := rfl
  kept := by
    ext l hl
    simp [addFlags]
    exact fun hon hoff => absurd hoff (by simp [hon])
  sticky := by
    have hand : fl &&& 0xFFFFFFC0 = 0 := h
    rw [addFlags, BitVec.and_comm, BitVec.and_or_distrib_left, BitVec.and_comm _ fl, hand, BitVec.and_comm]
    exact BitVec.or_zero

/-- A predicate that is not written keeps its value. -/
theorem getP_setP_ne (ln : Lane) {p q : PReg} (b : Bool) (h : q ≠ p) : getP (setP ln p b) q = getP ln q := by
  have hne : q.val ≠ p.val := fun he => h (Fin.ext he)
  have hbit : (BitVec.ofNat 8 (2 ^ p.val)).getLsbD q.val = false := by
    rw [BitVec.getLsbD_ofNat, Nat.testBit_two_pow_of_ne (Ne.symm hne), Bool.and_false]
  have hq : q.val < 8 := q.isLt
  unfold setP getP
  split
  · rfl
  · cases b
    · simp only [Bool.false_eq_true, if_false, BitVec.getLsbD_and, BitVec.getLsbD_not, hbit]
      simp [hq]
    · simp only [if_true, BitVec.getLsbD_or, hbit, Bool.or_false]

theorem laneFrame_setP {i : Instr} {p : PReg} (ln : Lane) (b : Bool) (h : writesPred i p = true) :
    LaneFrame i ln (setP ln p b) where
  shape := by unfold setP; split <;> rfl
  reg _ _ := by rw [setP_regs]
  below _ _ := by rw [setP_regs]
  pred q hq := getP_setP_ne ln b (by rintro rfl; simp [h] at hq)
  kept := by rw [setP_lsw]; exact BitVec.and_not_self ..
  sticky := by rw [setP_lsw]

/-! ### What a lane takes -/

variable {i : Instr} {d : Option (Reg × Nat)} {f : Env → Res}

/-- The predicate that a lane takes. -/
theorem AluForm.laneFrame_putPredOnly (h : AluForm i d f) (e : Env) (ln : Lane) :
    LaneFrame i ln (putPredOnly (f e) ln) := by
  unfold putPredOnly
  split
  · next p b hp => exact laneFrame_setP ln b (h.names e p b hp)
  · exact .refl i ln

/-- Flags, then the predicate. -/
theorem AluForm.laneFrame_putRes_none (h : AluForm i d f) (e : Env) (ln : Lane) :
    LaneFrame i ln (putRes none (f e) ln) :=
  (laneFrame_addFlags i ln (h.sticky e)).trans (h.laneFrame_putPredOnly e (addFlags ln (f e).flags))

/-- The destination in a vector register, the flags, the predicate. -/
theorem AluForm.laneFrame_putRes_v {n : Fin 256} {k : Nat} (h : AluForm i (some (.v n, k)) f) (e : Env) (ln : Lane)
    (hw : Sparse.wfFrom 0 ln.regs = true) : LaneFrame i ln (putRes (some (.v n, k)) (f e) ln) :=
  (laneFrame_wrV ln (f e).val (h.dest_mem _ _ rfl) hw).trans (h.laneFrame_putRes_none e (wrV ln n.val k (f e).val))

end Sys2Proof.Machine

/-! ### The group -/

namespace Sys2Proof.Machine

open Sys2Proof.Claims

/-- A word puts its results in lanes and in scalar registers alone. -/
theorem putAll_frame (s : State) (gm : Mask) (d : Option (Reg × Nat)) (f : Env → Res) (g : Grp) :
    putAll s gm d f g = { g with lanes := (putAll s gm d f g).lanes, sregs := (putAll s gm d f g).sregs } := by
  unfold putAll
  split
  · dsimp only; split <;> rfl
  · rfl

@[simp] theorem length_putAll (s : State) (gm : Mask) (d : Option (Reg × Nat)) (f : Env → Res) (g : Grp) :
    (putAll s gm d f g).lanes.length = g.lanes.length := by
  unfold putAll
  split
  · dsimp only
    split
    · rfl
    · exact length_mapLanes ..
  · exact length_mapLanes ..

/-- A lane of a word with a scalar destination: the lowest takes the flags (R37). -/
theorem laneAt_putAll_s (s : State) (gm : Mask) (n : Fin 192) (k : Nat) (f : Env → Res) (g : Grp) (l : Nat)
    (h : l < g.lanes.length) :
    laneAt (putAll s gm (some (.s n, k)) f g) l =
      if gm.getLsbD l then
        (if lowest gm = some l then putRes none (f (envOf s g l)) (laneAt g l)
         else putPredOnly (f (envOf s g l)) (laneAt g l))
      else laneAt g l := by
  unfold putAll
  dsimp only
  cases hlow : lowest gm with
  | none =>
    have hoff : gm.getLsbD l = false := by
      by_contra hon
      have hmem := (mem_lanesOf gm l).mpr (by simpa using hon)
      rw [List.head?_eq_none_iff.mp hlow] at hmem
      exact absurd hmem List.not_mem_nil
    simp [hoff]
  | some l0 =>
    simp only [laneAt_putS, laneAt_mapLanes _ _ _ _ h, Option.some.injEq, eq_comm (a := l0)]

/-- The scalar registers after a word with a scalar destination. -/
theorem sregs_putAll_s (s : State) (gm : Mask) (n : Fin 192) (k : Nat) (f : Env → Res) (g : Grp) :
    (putAll s gm (some (.s n, k)) f g).sregs =
      match lowest gm with
      | some l0 => putV g.sregs n.val (f (envOf s g l0)).val k
      | none => g.sregs := by
  unfold putAll
  dsimp only
  cases lowest gm <;> rfl

theorem AluForm.laneFrame_putAll {i : Instr} {d : Option (Reg × Nat)} {f : Env → Res} (h : AluForm i d f) (s : State)
    (gm : Mask) {g : Grp} (hregs : RegsOk g) (l : Nat) :
    LaneFrame i (laneAt g l) (laneAt (putAll s gm d f g) l)
      ∧ (gm.getLsbD l = false → laneAt (putAll s gm d f g) l = laneAt g l) := by
  by_cases hl : l < g.lanes.length
  · by_cases hon : gm.getLsbD l = true
    · refine ⟨?_, fun hoff => absurd hon (by simp [hoff])⟩
      match d with
      | none =>
        rw [laneAt_putAll_none _ _ _ _ _ hl, if_pos hon]
        exact h.laneFrame_putRes_none _ _
      | some (.v n, k) =>
        rw [laneAt_putAll_v _ _ _ _ _ _ _ hl, if_pos hon]
        exact h.laneFrame_putRes_v _ _ (hregs.2 l)
      | some (.s n, k) =>
        rw [laneAt_putAll_s _ _ _ _ _ _ _ hl, if_pos hon]
        split
        · exact h.laneFrame_putRes_none _ _
        · exact h.laneFrame_putPredOnly _ _
    · have heq : laneAt (putAll s gm d f g) l = laneAt g l := by
        match d with
        | none => rw [laneAt_putAll_none _ _ _ _ _ hl, if_neg hon]
        | some (.v n, k) => rw [laneAt_putAll_v _ _ _ _ _ _ _ hl, if_neg hon]
        | some (.s n, k) => rw [laneAt_putAll_s _ _ _ _ _ _ _ hl, if_neg hon]
      exact ⟨heq ▸ .refl i _, fun _ => heq⟩
  · have heq : laneAt (putAll s gm d f g) l = laneAt g l := by
      rw [laneAt_out g l (by omega), laneAt_out _ l (by simp; omega)]
    exact ⟨heq ▸ .refl i _, fun _ => heq⟩

theorem AluForm.sget_putAll {i : Instr} {d : Option (Reg × Nat)} {f : Env → Res} (h : AluForm i d f) (s : State)
    (gm : Mask) {g : Grp} (hregs : RegsOk g) {n : Nat} (hn : writesSReg i n = false) :
    sget (putAll s gm d f g).sregs n = sget g.sregs n := by
  match d with
  | none | some (.v _, _) => rfl
  | some (.s r, k) =>
    rw [sregs_putAll_s]
    split
    · exact sget_putV_outside _ _ _ _ _ hregs.1 (outside_of_writesSReg (h.dest_mem _ _ rfl) hn)
    · rfl

/-- A word of such a form that runs, with the counters of mirror mode. -/
theorem AluForm.exec_next {i : Instr} {d : Option (Reg × Nat)} {f : Env → Res} (h : AluForm i d f) {s : State} {g : Grp}
    (hrun : RunsAlu i s g) :
    exec i s = .next (setCurGrp s (finishGrp s.cur.mask
      (if scalarUnit i.uses then putAll s (active i s g) d f g
       else mirrorCount (active i s g) (putAll s (active i s g) d f g)))) := by
  obtain ⟨⟨hcur, hwin, hfall⟩, hmir, -⟩ := hrun
  rw [h.exec_eq]
  exact aluWord_next d f hcur hwin hfall hmir

/-- A group before and after an arithmetic word. -/
structure GrpFrame (i : Instr) (act : Mask) (g g' : Grp) : Prop where
  shape : g' = { g with lanes := g'.lanes, sregs := g'.sregs, dmrc := g'.dmrc, dmra := g'.dmra }
  sreg : ∀ n, writesSReg i n = false → sget g'.sregs n = sget g.sregs n
  lane : ∀ l, LaneFrame i (laneAt g l) (laneAt g' l)
  off : ∀ l, act.getLsbD l = false → laneAt g' l = laneAt g l

theorem GrpFrame.mirrorCount {i : Instr} {act : Mask} {g g' : Grp} (h : GrpFrame i act g g') (m : Mask) :
    GrpFrame i act g (mirrorCount m g') where
  shape := by rw [mirrorCount_frame, h.shape]
  sreg n hn := by rw [mirrorCount_frame]; exact h.sreg n hn
  lane l := by rw [laneAt_mirrorCount]; exact h.lane l
  off l hl := by rw [laneAt_mirrorCount]; exact h.off l hl

theorem AluForm.grpFrame {i : Instr} {d : Option (Reg × Nat)} {f : Env → Res} (h : AluForm i d f) (s : State)
    (gm : Mask) {g : Grp} (hregs : RegsOk g) : GrpFrame i gm g (putAll s gm d f g) where
  shape := by rw [putAll_frame]
  sreg _ hn := h.sget_putAll s gm hregs hn
  lane l := (h.laneFrame_putAll s gm hregs l).1
  off l := (h.laneFrame_putAll s gm hregs l).2

/-! ### PMOV PW (R104) -/

/-- PMOV PW gives each of its lanes the predicates of its operand. -/
def putPw (s : State) (gm : Mask) (a : Operand) (g : Grp) : Grp :=
  mapLanes gm (fun l ln => withPw (opI (envOf s g l) 1 a) ln) g

theorem exec_pmovPw {gd : Guard} {a : Operand} {s : State} {g : Grp} (hrun : RunsAlu (.pmovPw gd a) s g) :
    exec (.pmovPw gd a) s = .next (setCurGrp s (finishGrp s.cur.mask
      (mirrorCount (active (.pmovPw gd a) s g) (putPw s (active (.pmovPw gd a) s g) a g)))) := by
  obtain ⟨⟨hcur, hwin, hfall⟩, hmir, -⟩ := hrun
  have hexec : exec (.pmovPw gd a) s = execPmovPw gd a s := rfl
  rw [hexec, execPmovPw, withWord_next _ hcur hwin hfall]
  exact congrArg _ (if_neg (Bool.eq_false_iff.mp hmir))

theorem laneFrame_withPw (gd : Guard) (a : Operand) (v : Nat) (ln : Lane) : LaneFrame (.pmovPw gd a) ln (withPw v ln) where
  shape := rfl
  reg _ _ := rfl
  below _ _ := rfl
  pred _ hq := nomatch hq
  kept := BitVec.and_not_self ..
  sticky := rfl

theorem grpFrame_putPw (gd : Guard) (a : Operand) (s : State) (gm : Mask) (g : Grp) :
    GrpFrame (.pmovPw gd a) gm g (putPw s gm a g) where
  shape := rfl
  sreg _ _ := rfl
  lane l := by
    by_cases hl : l < g.lanes.length
    · rw [putPw, laneAt_mapLanes _ _ _ _ hl]
      split
      · exact laneFrame_withPw ..
      · exact .refl ..
    · rw [laneAt_out g l (by omega), laneAt_out _ l (by simp [putPw]; omega)]
      exact .refl ..
  off l hoff := by
    by_cases hl : l < g.lanes.length
    · rw [putPw, laneAt_mapLanes _ _ _ _ hl, hoff]; rfl
    · rw [laneAt_out g l (by omega), laneAt_out _ l (by simp [putPw]; omega)]

/-- An arithmetic word that runs changes its group within the frame. -/
theorem exec_laneWise {i : Instr} {s : State} {g : Grp} (hi : laneWise i = true) (hrun : RunsAlu i s g)
    (hregs : RegsOk g) :
    ∃ g', exec i s = .next (setCurGrp s (finishGrp s.cur.mask g')) ∧ GrpFrame i (active i s g) g g' := by
  obtain ⟨gd, a, rfl⟩ | ⟨d, f, hform⟩ := aluForm_of_laneWise hi
  · exact ⟨_, exec_pmovPw hrun, (grpFrame_putPw gd a s _ g).mirrorCount _⟩
  · refine ⟨_, hform.exec_next hrun, ?_⟩
    have hframe := hform.grpFrame s (active i s g) hregs
    split
    · exact hframe
    · exact hframe.mirrorCount _

end Sys2Proof.Machine

namespace Sys2Proof

open Sys2Proof.Machine Sys2Proof.Claims

/-- Settles O9: every arithmetic word has a destination and a result of each lane, which changes nothing else. -/
theorem arithmeticWordsChangeOnlyTheirDestination : Obligations.ArithmeticWordsChangeOnlyTheirDestination := by
  intro i s g hi hrun hregs
  obtain ⟨g', hexec, hframe⟩ := exec_laneWise hi hrun hregs
  refine ⟨g', hexec, hframe.shape, hframe.sreg, fun l => ?_⟩
  obtain ⟨hshape, hreg, hbelow, hpred, hkept, hsticky⟩ := hframe.lane l
  exact ⟨hshape, hframe.off l, hreg, hbelow, hpred, hkept, hsticky⟩

end Sys2Proof

/-! ## Scalar destinations, WINDOW and the mirror counters (R37, R78, R138, R140) -/

namespace Sys2Proof.Machine

open Sys2Proof.Claims

/-! ### One lane of a set -/

theorem mapFrom_single {α : Type} (f : α → α) (i n : Nat) (xs : List α) :
    mapFrom (fun l x => if l = i + n then f x else x) i xs = modAt f n xs := by
  induction xs generalizing i n with
  | nil => simp [mapFrom, modAt]
  | cons x xs ih =>
    cases n with
    | zero =>
      have hid (j : Nat) (ys : List α) (hj : i < j) : mapFrom (fun l x => if l = i + 0 then f x else x) j ys = ys := by
        induction ys generalizing j with
        | nil => rfl
        | cons y ys ihy => rw [mapFrom, if_neg (by omega), ihy (j + 1) (by omega)]
      rw [mapFrom, if_pos (Nat.add_zero i).symm, hid (i + 1) xs (by omega), modAt]
    | succ n =>
      have hshift : i + (n + 1) = i + 1 + n := by omega
      rw [mapFrom, if_neg (by omega), hshift, ih (i + 1) n, modAt]

theorem mapFrom_congr {α β : Type} {f f' : Nat → α → β} (h : ∀ l x, f l x = f' l x) (i : Nat) (xs : List α) :
    mapFrom f i xs = mapFrom f' i xs := by
  rw [funext fun l => funext (h l)]

theorem mapFrom_id {α : Type} {f : Nat → α → α} (h : ∀ l x, f l x = x) (i : Nat) (xs : List α) :
    mapFrom f i xs = xs := by
  induction xs generalizing i with
  | nil => rfl
  | cons x xs ih => rw [mapFrom, h, ih]

/-- A change of the lanes of a set that leaves each as it is. -/
theorem mapLanes_id {f : Nat → Lane → Lane} (h : ∀ l ln, f l ln = ln) (m : Mask) (g : Grp) : mapLanes m f g = g := by
  rw [mapLanes, mapFrom_id fun l x => by rw [h, ite_self]]

/-- A change of one lane of a set. -/
theorem mapLanes_single {f : Nat → Lane → Lane} {f0 : Lane → Lane} {m : Mask} {l0 : Nat} (hmem : m.getLsbD l0 = true)
    (h0 : ∀ ln, f l0 ln = f0 ln) (h : ∀ l ln, l ≠ l0 → f l ln = ln) (g : Grp) : mapLanes m f g = modLane g l0 f0 := by
  have hf (l : Nat) (ln : Lane) : (if m.getLsbD l = true then f l ln else ln) = if l = 0 + l0 then f0 ln else ln := by
    rw [Nat.zero_add]
    by_cases hl : l = l0
    · rw [hl, if_pos hmem, if_pos rfl, h0]
    · rw [if_neg hl, h l ln hl, ite_self]
  rw [mapLanes, mapFrom_congr hf, mapFrom_single, modLane]

theorem addFlags_zero (ln : Lane) : addFlags ln 0 = ln := by
  rw [addFlags, show ln.lsw ||| 0 = ln.lsw from BitVec.or_zero]

/-- A word with a scalar destination and no predicate: the lowest lane's flags, and its value (R37). -/
theorem putAll_s_lowest (s : State) {gm : Mask} {l0 : Nat} (hlow : lowest gm = some l0) (n : Fin 192) (k : Nat)
    {f : Env → Res} (hp : ∀ e, (f e).pred = none) (g : Grp) :
    putAll s gm (some (.s n, k)) f g =
      putS (modLane g l0 fun ln => addFlags ln (f (envOf s g l0)).flags) n.val k (f (envOf s g l0)).val := by
  rw [putAll, hlow]
  dsimp only
  rw [mapLanes_single (lowest_mem hlow)]
  · intro ln
    simp only [if_pos, putRes, hp]
  · intro l ln hl
    rw [if_neg hl, putPredOnly, hp]

theorem putAll_s_none (s : State) {gm : Mask} (hlow : lowest gm = none) (n : Fin 192) (k : Nat) (f : Env → Res)
    (g : Grp) : putAll s gm (some (.s n, k)) f g = g := by
  rw [putAll, hlow]

theorem modAt_id {α : Type} {f : α → α} (h : ∀ x, f x = x) (n : Nat) (xs : List α) : modAt f n xs = xs := by
  induction xs generalizing n with
  | nil => simp [modAt]
  | cons x xs ih => cases n <;> simp [modAt, h, ih]

theorem modLane_addFlags_zero (g : Grp) (l : Nat) : (modLane g l fun ln => addFlags ln 0) = g := by
  rw [modLane, modAt_id addFlags_zero]

/-! ### The forms of MOV and IADD -/

theorem aluForm_mov (gd : Guard) (t : IntTy) (d : Reg) (a : Operand) :
    AluForm (.mov gd t d a) (some (d, regs12 t.w64)) fun e => .ofNat (opI e (regs12 t.w64) a) :=
  .ofNat (fun _ => rfl) List.mem_cons_self

theorem aluForm_iadd (gd : Guard) (t : IntTy) (sat : Bool) (d : Reg) (a b : Operand) :
    AluForm (.iadd gd t sat d a b) (some (d, regs12 t.w64)) fun e =>
      .ofPair (aluAdd t sat (opI e (regs12 t.w64) a) (opI e (regs12 t.w64) b)) :=
  .ofPair (fun _ => rfl) List.mem_cons_self fun _ => sticky_narrowI ..

/-- A saturated sum is the nearest value of its type (R52, R110). -/
theorem aluAdd_sat (t : IntTy) (e : Env) (a b : Operand) :
    aluAdd t true (opI e (regs12 t.w64) a) (opI e (regs12 t.w64) b) =
      (patOf t (clampTo t (valOf t (opB t e a) + valOf t (opB t e b))),
        satFlag t (valOf t (opB t e a) + valOf t (opB t e b))) := by
  simp only [aluAdd, tnarrow, tval_eq, narrowI_eq]
  refine Prod.ext rfl ?_
  simp only [narrowFlag, satFlag, true_and, ite_not]
  rfl

theorem mirrorCount_off (m : Mask) {g : Grp} (h : g.dmr.toNat % 4 = 0) : mirrorCount m g = g := if_pos h

theorem dmr_putAll (s : State) (gm : Mask) (d : Option (Reg × Nat)) (f : Env → Res) (g : Grp) :
    (putAll s gm d f g).dmr = g.dmr := by rw [putAll_frame]

/-- A word that runs, without mirror mode. -/
theorem AluForm.exec_unmirrored {i : Instr} {d : Option (Reg × Nat)} {f : Env → Res} (h : AluForm i d f) {s : State}
    {g : Grp} (hrun : RunsAlu i s g) (hdmr : g.dmr.toNat % 4 = 0) :
    exec i s = .next (setCurGrp s (finishGrp s.cur.mask (putAll s (active i s g) d f g))) := by
  rw [h.exec_next hrun, mirrorCount_off _ (by rw [dmr_putAll]; exact hdmr), ite_self]

/-! ### WINDOW (R78) -/

/-- Every arithmetic word stands in the frame of vector words. -/
theorem exec_eq_withWord {i : Instr} (h : laneWise i = true) (s : State) : ∃ body, exec i s = withWord i s body := by
  obtain ⟨gd, a, rfl⟩ | ⟨d, f, hform⟩ := aluForm_of_laneWise h
  · have hexec : exec (.pmovPw gd a) s = execPmovPw gd a s := rfl
    exact ⟨_, by rw [hexec, execPmovPw]⟩
  · exact ⟨_, hform.exec_eq s⟩

theorem withWord_window {i : Instr} {s : State} {g : Grp} (body : Grp → Mask → State) (hg : curGrp s = some g)
    (hw : windowLanes i.uses g (active i s g) ≠ 0) :
    withWord i s body = .next (takeTrap s s.cur.core s.cur.slot
      (mkRec g s.cur.slot (windowLanes i.uses g (active i s g)) (curPc s) 0 0 0x02 0)) := by
  simp only [withWord, hg, trap]
  exact if_pos hw

/-- An operand's registers lie within the allotment unless it is a vector register that ends above it. -/
theorem useFits_eq_false_iff (g : Grp) (ln : Lane) (u : Use) :
    useFits g ln u = false ↔ ∃ n : Fin 256, u.op = .v n ∧ g.alloc < ln.base + n.val + u.n := by
  unfold useFits
  cases hop : u.op with
  | v n => simp
  | _ => simp

/-- The lanes that raise WINDOW. -/
theorem getLsbD_windowLanes (us : List Use) (g : Grp) (m : Mask) {l : Nat} (hl : l < 64) :
    (windowLanes us g m).getLsbD l = true ↔ m.getLsbD l = true
      ∧ ∃ u ∈ us, ∃ n : Fin 256, u.op = .v n ∧ g.alloc < (laneAt g l).base + n.val + u.n := by
  simp only [windowLanes, getLsbD_maskOf, hl, decide_true, Bool.true_and, Bool.and_eq_true, Bool.not_eq_true',
    List.all_eq_false, Bool.not_eq_true, useFits_eq_false_iff]

/-! ### The mirror counters (R138, R140) -/

/-- A quad is active where one of its four lanes is in the set. -/
theorem quadActive_eq (m : Mask) (q : Nat) :
    quadActive m q = (List.range 4).any fun k => m.getLsbD (4 * q + k) := by
  have hbit (k : Nat) : m.getLsbD (4 * q + k) = decide (m.toNat / 2 ^ (4 * q) / 2 ^ k % 2 = 1) := by
    rw [← BitVec.testBit_toNat, Nat.testBit_eq_decide_div_mod_eq, Nat.pow_add, Nat.div_div_eq_div_mul]
  rw [Bool.eq_iff_iff, quadActive]
  simp only [decide_eq_true_eq, List.any_eq_true, List.mem_range, hbit]
  constructor
  · intro h
    by_contra hno
    have hk (k : Nat) (hk : k < 4) : ¬ m.toNat / 2 ^ (4 * q) / 2 ^ k % 2 = 1 := fun h1 => hno ⟨k, hk, h1⟩
    have h0 := hk 0 (by decide)
    have h1 := hk 1 (by decide)
    have h2 := hk 2 (by decide)
    have h3 := hk 3 (by decide)
    omega
  · rintro ⟨k, hk, h1⟩ h0
    interval_cases k <;> omega

theorem activeQuads_eq (m : Mask) : activeQuads m = (List.range 16).countP (quadActive m) := by
  rw [activeQuads, List.countP_eq_length_filter]

/-- Under MODE 1 the quads whose partner is idle are checked. -/
theorem checkedQuads_one (m : Mask) : checkedQuads 1 m =
    (List.range 16).countP fun q => quadActive m q && !quadActive m (if q % 2 = 0 then q + 1 else q - 1) := by
  rw [checkedQuads, List.countP_eq_length_filter]
  simp

/-- Under MODE 2 and 3 every active quad is. -/
theorem checkedQuads_full {mode : Nat} (m : Mask) (h : 2 ≤ mode) :
    checkedQuads mode m = (List.range 16).countP (quadActive m) := by
  rw [checkedQuads, List.countP_eq_length_filter]
  simp [h]

theorem mirrorCount_on (m : Mask) {g : Grp} (h : g.dmr.toNat % 4 ≠ 0) :
    (mirrorCount m g).dmra = g.dmra + BitVec.ofNat 64 (activeQuads m)
      ∧ (mirrorCount m g).dmrc = g.dmrc + BitVec.ofNat 64 (checkedQuads (g.dmr.toNat % 4) m) := by
  simp only [mirrorCount, if_neg h, and_self]

/-- MOV to a vector register stands in the vector pipes. -/
theorem scalarUnit_mov_v (gd : Guard) (t : IntTy) (n : Fin 256) (a : Operand) :
    scalarUnit (Instr.mov gd t (.v n) a).uses = false := rfl

end Sys2Proof.Machine

namespace Sys2Proof

open Sys2Proof.Machine Sys2Proof.Claims

/-- R37 for MOV and IADD. -/
theorem scalar_writes (gd : Guard) (t : IntTy) (n : Fin 192) (a b : Operand) (s : State) (g : Grp)
    (hdmr : g.dmr.toNat % 4 = 0) :
    (RunsAlu (.mov gd t (.s n) a) s g →
      (∀ l0, lowest (active (.mov gd t (.s n) a) s g) = some l0 → exec (.mov gd t (.s n) a) s =
        .next (setCurGrp s (finishGrp s.cur.mask
          (putS g n.val (regs12 t.w64) (opI (envOf s g l0) (regs12 t.w64) a)))))
      ∧ (lowest (active (.mov gd t (.s n) a) s g) = none →
        exec (.mov gd t (.s n) a) s = .next (setCurGrp s (finishGrp s.cur.mask g))))
    ∧ (RunsAlu (.iadd gd t true (.s n) a b) s g →
      (∀ l0, lowest (active (.iadd gd t true (.s n) a b) s g) = some l0 →
        let e := envOf s g l0
        let sum := valOf t (opB t e a) + valOf t (opB t e b)
        exec (.iadd gd t true (.s n) a b) s = .next (setCurGrp s (finishGrp s.cur.mask
          (putS (modLane g l0 fun ln => { ln with lsw := ln.lsw ||| satFlag t sum }) n.val (regs12 t.w64)
            (patOf t (clampTo t sum))))))
      ∧ (lowest (active (.iadd gd t true (.s n) a b) s g) = none →
        exec (.iadd gd t true (.s n) a b) s = .next (setCurGrp s (finishGrp s.cur.mask g)))) := by
  refine ⟨fun hrun => ⟨fun l0 hlow => ?_, fun hlow => ?_⟩, fun hrun => ⟨fun l0 hlow => ?_, fun hlow => ?_⟩⟩
  · rw [(aluForm_mov gd t (.s n) a).exec_unmirrored hrun hdmr, putAll_s_lowest s hlow n _ fun _ => rfl]
    simp only [Res.ofNat, modLane_addFlags_zero]
  · rw [(aluForm_mov gd t (.s n) a).exec_unmirrored hrun hdmr, putAll_s_none s hlow]
  · rw [(aluForm_iadd gd t true (.s n) a b).exec_unmirrored hrun hdmr, putAll_s_lowest s hlow n _ fun _ => rfl]
    simp only [aluAdd_sat]
    rfl
  · rw [(aluForm_iadd gd t true (.s n) a b).exec_unmirrored hrun hdmr, putAll_s_none s hlow]

/-- R78 for every arithmetic word. -/
theorem window_traps {i : Instr} {s : State} {g : Grp} (hi : laneWise i = true) (hg : curGrp s = some g) {m : Mask}
    (hm : ∀ l, l < 64 → (m.getLsbD l = true ↔ (active i s g).getLsbD l = true
      ∧ ∃ u ∈ i.uses, ∃ n : Fin 256, u.op = .v n ∧ g.alloc < (laneAt g l).base + n.val + u.n)) (h0 : m ≠ 0) :
    exec i s = .next (takeTrap s s.cur.core s.cur.slot (mkRec g s.cur.slot m (curPc s) 0 0 0x02 0)) := by
  have hwin : windowLanes i.uses g (active i s g) = m := by
    apply BitVec.eq_of_getLsbD_eq
    intro l hl
    rw [Bool.eq_iff_iff, getLsbD_windowLanes _ _ _ hl, hm l hl]
  obtain ⟨body, hexec⟩ := exec_eq_withWord hi s
  rw [hexec, withWord_window body hg (hwin ▸ h0), hwin]

/-- R138 and R140 for MOV to a vector register. -/
theorem mirror_counts {gd : Guard} {t : IntTy} {n : Fin 256} {a : Operand} {s : State} {g : Grp}
    (hrun : RunsAlu (.mov gd t (.v n) a) s g) :
    let act := active (.mov gd t (.v n) a) s g
    ∃ g', exec (.mov gd t (.v n) a) s = .next (setCurGrp s (finishGrp s.cur.mask g'))
      ∧ (g.dmr.toNat % 4 = 0 → g'.dmra = g.dmra ∧ g'.dmrc = g.dmrc)
      ∧ (g.dmr.toNat % 4 ≠ 0 → g'.dmra = g.dmra + BitVec.ofNat 64 (activeQuads act)
        ∧ g'.dmrc = g.dmrc + BitVec.ofNat 64 (checkedQuads (g.dmr.toNat % 4) act)) := by
  intro act
  refine ⟨_, (aluForm_mov gd t (.v n) a).exec_next hrun, ?_⟩
  rw [scalarUnit_mov_v]
  refine ⟨fun hoff => ?_, fun hon => mirrorCount_on act hon⟩
  rw [if_neg Bool.false_ne_true, mirrorCount_off _ (by rw [dmr_putAll]; exact hoff)]
  exact ⟨rfl, rfl⟩

/-- Settles O10: the lowest lane's value and flags; the lanes that `windowLanes` names; the counters by quads. -/
theorem scalarWritesWindowTrapsAndMirrorCounts : Obligations.ScalarWritesWindowTrapsAndMirrorCounts := by
  refine ⟨?_, fun i s g hi hg m hm h0 => window_traps hi hg hm h0, ?_⟩
  · rintro gd t n a b s g x y rfl rfl hdmr
    exact scalar_writes gd t n a b s g hdmr
  · intro gd t n a s g i busy partner act lone hrun
    obtain ⟨g', hexec, hoff, hon⟩ := mirror_counts hrun
    have hbusy : busy = quadActive (active i s g) := funext fun q => (quadActive_eq _ q).symm
    have hact : activeQuads (active i s g) = act := by rw [activeQuads_eq, ← hbusy]
    refine ⟨g', hexec, hoff, fun h1 => ?_, fun h2 => ?_⟩
    · obtain ⟨ha, hc⟩ := hon (by omega)
      rw [ha, hc, h1, checkedQuads_one, ← hbusy, hact]
      exact ⟨rfl, rfl⟩
    · obtain ⟨ha, hc⟩ := hon (by omega)
      rw [ha, hc, checkedQuads_full _ h2, ← hbusy, hact]
      exact ⟨rfl, rfl⟩

end Sys2Proof

/-! ## A complete group operation: the exchange network takes it, and writes its result (R145, R154) -/

namespace Sys2Proof.Machine

open Sys2Proof.Claims

/-- A change of a core that leaves its groups. -/
theorem grpAt_modCore {s : State} {c k : Nat} {f : Core → Core} (h : ∀ x, (f x).groups = x.groups) :
    grpAt (modCore s c f) c k = grpAt s c k := by
  by_cases hc : c < s.cores.length
  · simp only [grpAt, grpIn, modCore, coreAt_setCore _ _ _ hc, h]
  · simp only [grpAt, modCore, setCore, coreAt, List.set_eq_of_length_le (Nat.le_of_not_lt hc)]

/-- Every captured lane that is live has arrived. -/
theorem rdvMet_of_complete {s : State} {c k : Nat} {g : Grp} {r : Rdv} (h : Complete s c k g r) : rdvMet g r = true := by
  obtain ⟨-, -, -, -, -, -, -, hmet⟩ := h
  apply decide_eq_true
  apply BitVec.eq_of_getLsbD_eq
  intro l hl
  have hl' := hmet l hl
  by_cases hcap : r.captured.getLsbD l = true
  · rcases hl' hcap with harr | hexc | hlive
    · simp [harr]
    · simp [hexc]
    · simp [liveMask, lanesWhere, hlive]
  · simp [hcap]

/-- A complete rendezvous of a word that only has a result takes the exchange network. -/
theorem exec_rendezvousComplete_met {s : State} {c k : Nat} {g : Grp} {r : Rdv} {i : Instr} (h : Complete s c k g r)
    (hw : r.word = some i) (hi : completeNow s c k g r i = some (completeRdv s c k (rdvResult r g))) :
    exec (.rendezvousComplete c k) s = .next (setGrp (exchangeTaken s c k) c k
      (some { g with rdv := none, outs := g.outs ++ [{ rdvResult r g with writeAt := exchangeEnd s c k }] })) := by
  have hmet := rdvMet_of_complete h
  obtain ⟨hg, hrdv, -, hstop, hfrozen, hdropped, houts, -⟩ := h
  have hdue : dueOut s g = none := List.find?_eq_none.mpr fun o ho => by simpa using houts o ho
  have hrun : running g = true := by simp [running, hstop, hfrozen, hdropped]
  have hword : rdvWord s c g r = some i := by simp [rdvWord, hw]
  have hr : { r with word := some i } = r := by rw [← hw]
  have hev : evRendezvousComplete c k s = some (completeRdv s c k (rdvResult r g)) := by
    simp only [evRendezvousComplete, hg, hdue, hrdv, hmet, hrun, hword, hr, hi, Bool.not_true, Bool.or_false,
      Bool.false_eq_true, if_false]
  have hgrp : grpAt (takeExchange s c k).1 c k = some g := by
    rw [← hg]
    exact grpAt_modCore fun _ => rfl
  have hexec : exec (.rendezvousComplete c k) s = stepOr s (evRendezvousComplete c k s) := rfl
  rw [hexec, hev, stepOr, Option.getD_some, completeRdv, modGrp_some _ hgrp]
  rfl

/-- A result whose clock has come is written. -/
theorem exec_rendezvousComplete_due {u : State} {c k : Nat} {h : Grp} {o : RdvOut} (hg : grpAt u c k = some h)
    (ho : h.outs.find? (fun p => decide (p.writeAt ≤ u.clock)) = some o) :
    exec (.rendezvousComplete c k) u = .next (setGrp u c k (some { writeOut o h with outs := h.outs.erase o })) := by
  have hexec : exec (.rendezvousComplete c k) u = stepOr u (evRendezvousComplete c k u) := rfl
  have hdue : dueOut u h = some o := ho
  simp only [hexec, evRendezvousComplete, hg, hdue, stepOr, Option.getD_some]

/-! ### Results on their registers -/

theorem nodup_lanesOf (m : Mask) : (lanesOf m).Nodup := List.nodup_range.filter _

/-- One change for each of several lanes. -/
theorem laneAt_foldl_modLane (f : Nat → Lane → Lane) (ls : List Nat) (hls : ls.Nodup) (g : Grp) {l : Nat}
    (hl : l < g.lanes.length) :
    laneAt (ls.foldl (fun g j => modLane g j (f j)) g) l = if l ∈ ls then f l (laneAt g l) else laneAt g l := by
  induction ls generalizing g with
  | nil => simp
  | cons j js ih =>
    obtain ⟨hj, hjs⟩ := List.nodup_cons.mp hls
    rw [List.foldl_cons, ih hjs _ (by simpa using hl), laneAt_modLane _ _ _ _ hl]
    by_cases hlj : l = j
    · subst hlj
      simp [hj]
    · simp [hlj]

theorem foldl_modLane_frame (f : Nat → Lane → Lane) (ls : List Nat) (g : Grp) :
    ls.foldl (fun g j => modLane g j (f j)) g
      = { g with lanes := (ls.foldl (fun g j => modLane g j (f j)) g).lanes } := by
  induction ls generalizing g with
  | nil => rfl
  | cons j js ih => rw [List.foldl_cons, ih]; rfl

theorem foldl_modLane_length (f : Nat → Lane → Lane) (ls : List Nat) (g : Grp) :
    (ls.foldl (fun g j => modLane g j (f j)) g).lanes.length = g.lanes.length := by
  induction ls generalizing g with
  | nil => rfl
  | cons j js ih => rw [List.foldl_cons, ih, length_modLane]

/-- The participants of a rendezvous. -/
theorem getLsbD_partsOf (r : Rdv) (l : Nat) : (partsOf r).getLsbD l = takesPart r l := by
  rw [partsOf, BitVec.getLsbD_and, takesPart]

/-- A group operation that gives every participant a result in a vector register. -/
theorem completes_vector {s : State} {c k : Nat} {g : Grp} {r : Rdv} {i : Instr} {n : Fin 256} {w : Nat}
    {v : Nat → Nat × Flags} (h : Complete s c k g r) (hw : r.word = some i)
    (hi : completeNow s c k g r i = some (completeRdv s c k (rdvResult r g)))
    (hres : rdvResult r g = outRes r (some (.v n, w)) fun l => .ofPair (v l)) :
    Completes s c k g r (fun l ln => written ln n.val w (v l).1 (v l).2) id := by
  refine ⟨_, rfl, exec_rendezvousComplete_met h hw hi, fun u h hg hlen ho => ⟨_, exec_rendezvousComplete_due hg ho, ?_⟩⟩
  rw [hres]
  have hput : putResults (some (.v n, w)) (resultsOf r fun l => .ofPair (v l)) h =
      (lanesOf (partsOf r)).foldl (fun g j => modLane g j fun ln => written ln n.val w (v j).1 (v j).2) h := by
    rw [putResults, resultsOf, List.foldl_map]
    · rfl
    · exact fun _ _ hne => nomatch hne
  refine ⟨?_, fun l hl => ?_⟩
  · simp only [writeOut, outRes, outOf, hput]
    rw [foldl_modLane_frame]
    rfl
  · simp only [writeOut, outRes, outOf, hput]
    rw [laneAt_mapLanes _ _ _ _ (by rw [foldl_modLane_length]; omega),
      laneAt_foldl_modLane _ _ (nodup_lanesOf _) _ (by omega)]
    simp only [mem_lanesOf, getLsbD_partsOf, released]

/-- A group operation that writes its result once to a scalar register, with the flags of the lowest participant (R37). -/
theorem completes_scalar {s : State} {c k : Nat} {g : Grp} {r : Rdv} {i : Instr} {n : Fin 192} {w l0 : Nat}
    {v : Nat × Flags} (h : Complete s c k g r) (hw : r.word = some i)
    (hi : completeNow s c k g r i = some (completeRdv s c k (rdvResult r g)))
    (hres : rdvResult r g = outRes r (some (.s n, w)) fun _ => .ofPair v) (hlow : lowest (r.arrived &&& r.guards) = some l0) :
    Completes s c k g r (fun l ln => if l = l0 then { ln with lsw := ln.lsw ||| v.2 } else ln)
      (putS · n.val w v.1) := by
  have hhead : (resultsOf r fun _ => .ofPair v).head? = some (l0, .ofPair v) := by
    rw [resultsOf, List.head?_map]
    exact congrArg _ hlow
  have hpart : takesPart r l0 = true := (getLsbD_partsOf r l0).symm.trans (lowest_mem hlow)
  refine ⟨_, rfl, exec_rendezvousComplete_met h hw hi, fun u h hg hlen ho =>
    ⟨mapLanes r.arrived (fun _ ln => { ln with wait := .ready, pc := r.pc + 8 })
      (modLane h l0 fun ln => { ln with lsw := ln.lsw ||| v.2 }), ?_, rfl, fun l hl => ?_⟩⟩
  · rw [exec_rendezvousComplete_due hg ho, hres]
    simp only [writeOut, outRes, outOf, putResults, hhead]
    rfl
  · rw [laneAt_mapLanes _ _ _ _ (by simp; omega), laneAt_modLane _ _ _ _ (by omega)]
    by_cases hll : l = l0
    · subst hll
      simp only [hpart, released, if_true]
    · simp only [hll, released, if_false, ite_self]

end Sys2Proof.Machine

/-! ## Integer reductions (R154) -/

namespace Sys2Proof.Machine

open Sys2Proof.Claims

/-! ### The contributions -/

theorem supplied_fst (r : Rdv) (l : Nat) : (supplied r l).1 = gave r l := by
  unfold supplied gave
  cases r.ops.find? fun o => o.1 = l <;> rfl

/-- The participants that a condition names, in lane order. -/
def partsBelow (r : Rdv) (below : Nat → Bool) : List Nat :=
  (List.range 64).filter fun l => takesPart r l && below l

/-- The contributions of a mask are what its participants gave. -/
theorem contributions_eq (r : Rdv) {m : Mask} {below : Nat → Bool} (h : ∀ l, l < 64 → m.getLsbD l = below l) :
    contributions r m = (partsBelow r below).map (gave r) := by
  have hlanes : lanesOf (partsOf r &&& m) = partsBelow r below :=
    List.filter_congr fun l hl => by
      rw [BitVec.getLsbD_and, getLsbD_partsOf, h l (List.mem_range.mp hl)]
  rw [contributions, hlanes]
  exact List.map_congr_left fun l _ => supplied_fst r l

theorem getLsbD_full {l : Nat} (h : l < 64) : full.getLsbD l = true := by
  have hfull : full = BitVec.allOnes 64 := by decide
  rw [hfull, BitVec.getLsbD_allOnes, decide_eq_true h]

theorem contributions_full (r : Rdv) : contributions r full = (partsBelow r fun _ => true).map (gave r) :=
  contributions_eq r fun _ hl => getLsbD_full hl

theorem contributions_upTo (r : Rdv) (l : Nat) (ex : Bool) :
    contributions r (upTo l ex) = (partsBelow r fun j => j < l || (!ex && j = l)).map (gave r) :=
  contributions_eq r fun j hj => by rw [upTo, getLsbD_maskOf, decide_eq_true hj, Bool.true_and]

/-! ### The integer operations -/

/-- What an integer reduction of R154 makes of the values `vs`, by bit vectors. -/
def intRed (t : IntTy) (op : RedOp) (sat : Bool) (vs : List Nat) : Nat × Flags :=
  let ints := vs.map fun v => valOf t (BitVec.ofNat _ v)
  let bits : List (BitVec (IntTy.width t)) := vs.map fun v => BitVec.ofNat _ v
  match op with
  | .add => (patOf t (if sat then clampTo t ints.sum else ints.sum), if sat then satFlag t ints.sum else 0)
  | .min => (patOf t (ints.foldl min (mostOf t)), 0)
  | .max => (patOf t (ints.foldl max (leastOf t)), 0)
  | .and => ((bits.foldl (· &&& ·) (BitVec.allOnes _)).toNat, 0)
  | .or => ((bits.foldl (· ||| ·) 0).toNat, 0)
  | .xor => ((bits.foldl (· ^^^ ·) 0).toNat, 0)

/-- A bitwise operation on patterns is the one on bit vectors. -/
theorem foldl_bitwise {w : Nat} {f : Nat → Nat → Nat} {fb : BitVec w → BitVec w → BitVec w}
    (hf : ∀ (x : BitVec w) (b : Nat), f x.toNat b = (fb x (BitVec.ofNat w b)).toNat) (x : BitVec w) (vs : List Nat) :
    vs.foldl f x.toNat = ((vs.map (BitVec.ofNat w)).foldl fb x).toNat := by
  induction vs generalizing x with
  | nil => rfl
  | cons v vs ih => rw [List.foldl_cons, hf, ih, List.map_cons, List.foldl_cons]

theorem ofNat_toNat_self {w : Nat} (x : BitVec w) : BitVec.ofNat w x.toNat = x := by
  rw [BitVec.ofNat_toNat, BitVec.setWidth_eq]

theorem tnarrow_eq (t : IntTy) (sat : Bool) (x : Int) :
    tnarrow t sat x = (patOf t (if sat then clampTo t x else x), if sat then satFlag t x else 0) := by
  rw [tnarrow, narrowI_eq]
  cases sat
  · rfl
  · simp only [narrowFlag, satFlag, true_and, ite_not, if_true]
    rfl

/-- The reduction of an integer type. -/
theorem redVal_int {rt : RedTy} {t : IntTy}
    (ht : (rt, t) ∈ [(RedTy.i32, IntTy.i32), (.n32, .n32), (.i64, .i64), (.n64, .n64)]) (g : Grp) (op : RedOp) (rm : Rm)
    (sat : Bool) (vs : List Nat) : redVal g rt op rm sat vs = intRed t op sat vs := by
  have hint : redInt rt = t ∧ rt.float = false := by
    simp only [List.mem_cons, Prod.mk.injEq, List.not_mem_nil, or_false] at ht
    rcases ht with ⟨rfl, rfl⟩ | ⟨rfl, rfl⟩ | ⟨rfl, rfl⟩ | ⟨rfl, rfl⟩ <;> exact ⟨rfl, rfl⟩
  have hval : tval t = fun v => valOf t (BitVec.ofNat _ v) := funext (tval_eq t)
  have hones : 2 ^ IntTy.width t - 1 = (BitVec.allOnes (IntTy.width t)).toNat := (BitVec.toNat_allOnes).symm
  simp only [redVal, hint.1, hint.2, Bool.false_eq_true, if_false, hval]
  cases op with
  | add => exact tnarrow_eq ..
  | min | max => simp only [wrapI_eq]; rfl
  | and =>
    rw [hones]
    exact congrArg (·, 0) (foldl_bitwise (fun x b => by rw [aluAnd_eq, ofNat_toNat_self]) _ vs)
  | or => exact congrArg (·, 0) (foldl_bitwise (fun x b => by rw [aluOr_eq, ofNat_toNat_self]) (0 : BitVec _) vs)
  | xor => exact congrArg (·, 0) (foldl_bitwise (fun x b => by rw [aluXor_eq, ofNat_toNat_self]) (0 : BitVec _) vs)

/-! ### The words -/

/-- GRED and GSCAN only have a result. -/
theorem rdvResult_gred {r : Rdv} {gd : Guard} {m : MReg} {t : RedTy} {op : RedOp} {rm : Rm} {sat : Bool} {d : Reg}
    {a : Operand} (g : Grp) (hw : r.word = some (.gred gd m t op rm sat d a)) :
    rdvResult r g = outRes r (some (d, regs12 t.w64)) fun _ =>
      .ofPair (redVal g t op rm sat ((partsBelow r fun _ => true).map (gave r))) := by
  simp only [rdvResult, hw, contributions_full]

theorem rdvResult_gscan {r : Rdv} {gd : Guard} {m : MReg} {t : RedTy} {op : RedOp} {ex sat : Bool} {rm : Rm}
    {d : VReg} {a : Operand} (g : Grp) (hw : r.word = some (.gscan gd m t op ex rm sat d a)) :
    rdvResult r g = outRes r (some (.v d, regs12 t.w64)) fun l =>
      .ofPair (redVal g t op rm sat ((partsBelow r fun j => j < l || (!ex && j = l)).map (gave r))) := by
  simp only [rdvResult, hw, contributions_upTo]

variable {s : State} {c k : Nat} {g : Grp} {r : Rdv} {gd : Guard} {m : MReg} {t : RedTy} {op : RedOp} {rm : Rm}
  {ex sat : Bool} {a : Operand}

theorem completes_gred_v {n : Fin 256} (h : Complete s c k g r) (hw : r.word = some (.gred gd m t op rm sat (.v n) a)) :
    let v := redVal g t op rm sat ((partsBelow r fun _ => true).map (gave r))
    Completes s c k g r (fun _ ln => written ln n.val (regs12 t.w64) v.1 v.2) id :=
  completes_vector h hw rfl (rdvResult_gred g hw)

theorem completes_gred_s {n : Fin 192} {l0 : Nat} (h : Complete s c k g r)
    (hw : r.word = some (.gred gd m t op rm sat (.s n) a)) (hlow : lowest (r.arrived &&& r.guards) = some l0) :
    let v := redVal g t op rm sat ((partsBelow r fun _ => true).map (gave r))
    Completes s c k g r (fun l ln => if l = l0 then { ln with lsw := ln.lsw ||| v.2 } else ln)
      (putS · n.val (regs12 t.w64) v.1) :=
  completes_scalar h hw rfl (rdvResult_gred g hw) hlow

theorem completes_gscan {n : Fin 256} (h : Complete s c k g r) (hw : r.word = some (.gscan gd m t op ex rm sat n a)) :
    let v (l : Nat) := redVal g t op rm sat ((partsBelow r fun j => j < l || (!ex && j = l)).map (gave r))
    Completes s c k g r (fun l ln => written ln n.val (regs12 t.w64) (v l).1 (v l).2) id :=
  completes_vector h hw rfl (rdvResult_gscan g hw)

end Sys2Proof.Machine

/-! ## The finite values of a format in order (R53) -/

namespace Sys2Proof.Machine

open Sys2Proof.Claims

/-- A format whose top exponent holds the infinities and the NaNs, with room for fractions and for two finite exponents. -/
structure Ieee (f : Fmt) : Prop where
  top : f.top = .ieee
  mb : 1 ≤ f.mb
  eb : 2 ≤ f.eb

theorem ieee_fmt32 : Ieee fmt32 := ⟨rfl, by decide, by decide⟩
theorem ieee_fmt64 : Ieee fmt64 := ⟨rfl, by decide, by decide⟩

theorem Ieee.four_le {f : Fmt} (hf : Ieee f) : 4 ≤ 2 ^ f.eb :=
  Nat.pow_le_pow_right (n := 2) (by decide) hf.eb

theorem fmtMax_eq {f : Fmt} (hf : Ieee f) : fmtMax f = (2 ^ f.eb - 1) * 2 ^ f.mb - 1 := by rw [fmtMax, hf.top]

/-- Infinity stands next above the largest finite magnitude. -/
theorem fmtInf_eq {f : Fmt} (hf : Ieee f) : fmtInf f = fmtMax f + 1 := by
  have hpos : 0 < (2 ^ f.eb - 1) * 2 ^ f.mb := Nat.mul_pos (by have := hf.four_le; omega) (by positivity)
  rw [fmtInf, fmtMax_eq hf]
  omega

/-- The exponent of the subnormals' step. -/
def gridExp (f : Fmt) : Int := 1 - (f.bias : Int) - f.mb

/-- The value of a magnitude, which is a code without its sign. -/
def magVal (f : Fmt) (n : Nat) : ℚ :=
  if n / 2 ^ f.mb = 0 then (n % 2 ^ f.mb : Nat) * (2 : ℚ) ^ gridExp f
  else (2 ^ f.mb + n % 2 ^ f.mb : Nat) * (2 : ℚ) ^ (((n / 2 ^ f.mb : Nat) : Int) - f.bias - f.mb)

/-- The sign of a value. -/
def signQ (neg : Bool) : ℚ := if neg then -1 else 1

/-- On the grid of one exponent, magnitudes are multiples of its step, up to the first magnitude of the next. -/
theorem magVal_grid (f : Fmt) {j k : Nat} (hk : k ≤ 2 ^ (f.mb + 1)) (hj : j = 0 ∨ 2 ^ f.mb ≤ k) :
    magVal f (j * 2 ^ f.mb + k) = k * (2 : ℚ) ^ (gridExp f + j) := by
  have hpos : 0 < 2 ^ f.mb := by positivity
  have hsucc : 2 ^ (f.mb + 1) = 2 ^ f.mb + 2 ^ f.mb := by rw [Nat.pow_succ]; omega
  have hdm : (j * 2 ^ f.mb + k) / 2 ^ f.mb = j + k / 2 ^ f.mb ∧ (j * 2 ^ f.mb + k) % 2 ^ f.mb = k % 2 ^ f.mb := by
    rw [Nat.add_comm, Nat.add_mul_div_right _ _ hpos, Nat.add_mul_mod_self_right, Nat.add_comm]
    exact ⟨rfl, rfl⟩
  rw [magVal, hdm.1, hdm.2]
  rcases Nat.lt_or_ge k (2 ^ f.mb) with hlt | hge
  · obtain rfl : j = 0 := by omega
    rw [Nat.div_eq_of_lt hlt, Nat.mod_eq_of_lt hlt, if_pos rfl, Nat.cast_zero, add_zero]
  · rcases Nat.lt_or_ge k (2 ^ (f.mb + 1)) with hlt2 | hge2
    · have hdiv : k / 2 ^ f.mb = 1 := Nat.div_eq_of_lt_le (by omega) (by omega)
      have hmod : 2 ^ f.mb + k % 2 ^ f.mb = k := by rw [Nat.mod_eq_sub_mul_div, hdiv]; omega
      rw [hdiv, if_neg (by omega), hmod, gridExp]
      congr 2
      push_cast
      ring
    · obtain rfl : k = 2 ^ f.mb + 2 ^ f.mb := by omega
      have hdiv : (2 ^ f.mb + 2 ^ f.mb) / 2 ^ f.mb = 2 := by
        rw [Nat.add_div_right _ hpos, Nat.div_self hpos]
      have hmod : (2 ^ f.mb + 2 ^ f.mb) % 2 ^ f.mb = 0 := by rw [Nat.add_mod_right, Nat.mod_self]
      have hexp : ((j + 2 : Nat) : Int) - f.bias - f.mb = gridExp f + j + 1 := by rw [gridExp]; push_cast; ring
      rw [hdiv, hmod, if_neg (by omega), hexp, zpow_add_one₀ (by norm_num)]
      push_cast
      ring

/-- Every magnitude stands on the grid of an exponent, below the first of the next. -/
theorem exists_grid (f : Fmt) (n : Nat) :
    ∃ j k, n = j * 2 ^ f.mb + k ∧ k + 1 ≤ 2 ^ (f.mb + 1) ∧ (j = 0 ∨ 2 ^ f.mb ≤ k) := by
  have hpos : 0 < 2 ^ f.mb := by positivity
  have hsucc : 2 ^ (f.mb + 1) = 2 ^ f.mb + 2 ^ f.mb := by rw [Nat.pow_succ]; omega
  have hlt := Nat.mod_lt n hpos
  have hdm := Nat.div_add_mod' n (2 ^ f.mb)
  cases hj : n / 2 ^ f.mb with
  | zero =>
    rw [hj] at hdm
    exact ⟨0, n, by omega, by omega, .inl rfl⟩
  | succ j =>
    rw [hj, Nat.succ_mul] at hdm
    exact ⟨j, 2 ^ f.mb + n % 2 ^ f.mb, by omega, by omega, .inr (by omega)⟩

theorem magVal_strictMono (f : Fmt) : StrictMono (magVal f) := by
  refine strictMono_nat_of_lt_succ fun n => ?_
  obtain ⟨j, k, rfl, hk, hj⟩ := exists_grid f n
  rw [magVal_grid f (by omega) hj, Nat.add_assoc, magVal_grid f hk (by omega)]
  have hstep : (0 : ℚ) < 2 ^ (gridExp f + j) := by positivity
  push_cast
  linarith

theorem magVal_zero (f : Fmt) : magVal f 0 = 0 := by simp [magVal]

theorem magVal_nonneg (f : Fmt) (n : Nat) : 0 ≤ magVal f n :=
  magVal_zero f ▸ (magVal_strictMono f).monotone (Nat.zero_le n)

/-! ### Codes -/

/-- The magnitude of a code, and its sign bit. -/
def magOf (f : Fmt) (c : Nat) : Nat := c % 2 ^ (f.eb + f.mb)
def negOf (f : Fmt) (c : Nat) : Bool := c / 2 ^ (f.eb + f.mb) % 2 = 1

theorem magOf_lt (f : Fmt) (c : Nat) : magOf f c < 2 ^ (f.eb + f.mb) := Nat.mod_lt _ (by positivity)

theorem magOf_div (f : Fmt) (c : Nat) : magOf f c / 2 ^ f.mb = c / 2 ^ f.mb % 2 ^ f.eb := by
  rw [magOf, Nat.add_comm, Nat.pow_add, Nat.mod_mul_right_div_self]

theorem magOf_mod (f : Fmt) (c : Nat) : magOf f c % 2 ^ f.mb = c % 2 ^ f.mb := by
  rw [magOf, Nat.add_comm, Nat.pow_add, Nat.mod_mul_right_mod]

/-- A magnitude is finite where its exponent field is not all ones. -/
theorem mag_finite_iff {f : Fmt} (hf : Ieee f) (n : Nat) (hn : n < 2 ^ (f.eb + f.mb)) :
    n ≤ fmtMax f ↔ n / 2 ^ f.mb ≠ 2 ^ f.eb - 1 := by
  have hpos : 0 < 2 ^ f.mb := by positivity
  have heb := hf.four_le
  have htop : 0 < (2 ^ f.eb - 1) * 2 ^ f.mb := Nat.mul_pos (by omega) hpos
  have hdiv : n / 2 ^ f.mb < 2 ^ f.eb := by
    rw [Nat.div_lt_iff_lt_mul hpos, ← Nat.pow_add]
    exact hn
  have hle : n / 2 ^ f.mb < 2 ^ f.eb - 1 ↔ n < (2 ^ f.eb - 1) * 2 ^ f.mb := Nat.div_lt_iff_lt_mul hpos
  have hmax := fmtMax_eq hf
  omega

/-- A code's value as one of its magnitude and sign (R53). -/
theorem fpRead_eq {f : Fmt} (hf : Ieee f) (c : Nat) : fpRead f c =
    if magOf f c ≤ fmtMax f then
      (if magOf f c / 2 ^ f.mb = 0 then .fin (negOf f c) (magOf f c % 2 ^ f.mb) (gridExp f)
       else .fin (negOf f c) (2 ^ f.mb + magOf f c % 2 ^ f.mb) (((magOf f c / 2 ^ f.mb : Nat) : Int) - f.bias - f.mb))
    else if magOf f c % 2 ^ f.mb = 0 then .inf (negOf f c)
    else .nan (magOf f c % 2 ^ f.mb < 2 ^ (f.mb - 1)) := by
  have hfin := mag_finite_iff hf _ (magOf_lt f c)
  rw [magOf_div] at *
  rw [magOf_mod]
  simp only [fpRead, hf.top, negOf, gridExp]
  by_cases htop : c / 2 ^ f.mb % 2 ^ f.eb = 2 ^ f.eb - 1
  · have hinf : ¬ magOf f c ≤ fmtMax f := fun h => hfin.mp h htop
    simp only [htop, if_true, hinf, if_false]
  · simp only [htop, if_false, hfin.mpr htop, if_true]

/-- The value of a code is that of its magnitude under its sign. -/
theorem codeVal_eq {f : Fmt} (hf : Ieee f) (c : Nat) : codeVal f c =
    if magOf f c ≤ fmtMax f then some (signQ (negOf f c) * magVal f (magOf f c)) else none := by
  rw [codeVal, fpRead_eq hf]
  by_cases hfin : magOf f c ≤ fmtMax f
  · simp only [hfin, if_true, magVal, signQ]
    by_cases hsub : magOf f c / 2 ^ f.mb = 0
    · simp only [hsub, if_true, mul_assoc]
    · simp only [hsub, if_false, mul_assoc]
  · simp only [hfin, if_false]
    by_cases hinf : magOf f c % 2 ^ f.mb = 0
    · simp only [hinf, if_true]
    · simp only [hinf, if_false]

theorem codeVal_eq_some {f : Fmt} (hf : Ieee f) {c : Nat} {y : ℚ} (h : codeVal f c = some y) :
    ∃ n ≤ fmtMax f, y = signQ (negOf f c) * magVal f n := by
  rw [codeVal_eq hf] at h
  split at h
  · next hfin => exact ⟨_, hfin, (Option.some.inj h).symm⟩
  · exact nomatch h

theorem fmtMax_lt {f : Fmt} (hf : Ieee f) : fmtMax f < 2 ^ (f.eb + f.mb) := by
  have hmax := fmtMax_eq hf
  have hmul : (2 ^ f.eb - 1) * 2 ^ f.mb ≤ 2 ^ f.eb * 2 ^ f.mb := Nat.mul_le_mul_right _ (Nat.sub_le _ _)
  have hpos : 0 < 2 ^ f.eb * 2 ^ f.mb := by positivity
  rw [Nat.pow_add]
  omega

/-- A sign and a magnitude put together, and taken apart. -/
theorem magOf_fmtSigned (f : Fmt) (neg : Bool) {n : Nat} (h : n < 2 ^ (f.eb + f.mb)) : magOf f (fmtSigned f neg n) = n := by
  rw [magOf, fmtSigned]
  cases neg
  · simpa using Nat.mod_eq_of_lt h
  · simpa using Nat.mod_eq_of_lt h

theorem negOf_fmtSigned (f : Fmt) (neg : Bool) {n : Nat} (h : n < 2 ^ (f.eb + f.mb)) :
    negOf f (fmtSigned f neg n) = neg := by
  have hpos : 0 < 2 ^ (f.eb + f.mb) := by positivity
  rw [negOf, fmtSigned]
  cases neg
  · simp [Nat.div_eq_of_lt h]
  · simp [Nat.add_div_left _ hpos, Nat.div_eq_of_lt h]

theorem codeVal_fmtSigned {f : Fmt} (hf : Ieee f) (neg : Bool) {n : Nat} (h : n ≤ fmtMax f) :
    codeVal f (fmtSigned f neg n) = some (signQ neg * magVal f n) := by
  have hlt : n < 2 ^ (f.eb + f.mb) := Nat.lt_of_le_of_lt h (fmtMax_lt hf)
  rw [codeVal_eq hf, magOf_fmtSigned f neg hlt, negOf_fmtSigned f neg hlt, if_pos h]

/-- The largest finite value is that of the largest finite magnitude. -/
theorem largest_eq {f : Fmt} (hf : Ieee f) : largest f = magVal f (fmtMax f) := by
  have hpos : 0 < 2 ^ f.mb := by positivity
  have heb := hf.four_le
  have hsucc : 2 ^ (f.mb + 1) = 2 ^ f.mb + 2 ^ f.mb := by rw [Nat.pow_succ]; omega
  have hmax : fmtMax f = (2 ^ f.eb - 3) * 2 ^ f.mb + (2 ^ (f.mb + 1) - 1) := by
    have hsplit : (2 ^ f.eb - 1) * 2 ^ f.mb = (2 ^ f.eb - 3) * 2 ^ f.mb + 2 * 2 ^ f.mb := by
      rw [← Nat.add_mul]; congr 1; omega
    have hdef := fmtMax_eq hf
    omega
  rw [hmax, magVal_grid f (by omega) (by omega), largest, if_neg (by rw [hf.top]; decide)]
  have hexp : gridExp f + ((2 ^ f.eb - 3 : Nat) : Int) = ((2 ^ f.eb - 2 : Int) - f.bias) + -(f.mb : Int) := by
    rw [gridExp, Nat.cast_sub (by omega)]
    push_cast
    ring
  have hk : ((2 ^ (f.mb + 1) - 1 : Nat) : ℚ) = 2 * 2 ^ f.mb - 1 := by
    rw [Nat.cast_sub (Nat.one_le_two_pow)]
    push_cast
    ring
  have hinv : (2 : ℚ) ^ f.mb * 2 ^ (-(f.mb : Int)) = 1 := by
    rw [zpow_neg, zpow_natCast, mul_inv_cancel₀ (by positivity)]
  rw [hexp, hk, zpow_add₀ (by norm_num)]
  linear_combination (-2 * (2 : ℚ) ^ ((2 ^ f.eb - 2 : Int) - f.bias)) * hinv

end Sys2Proof.Machine

/-! ## Rounding is to a nearest neighbour (R63) -/

namespace Sys2Proof.Machine

open Sys2Proof.Claims

/-! ### The choice between two neighbours -/

/-- Which neighbour of `x` a mode takes: the upper one, in magnitude, where `up`. The lower one is the multiple `k` of the
step. -/
def Chosen (rm : Rm) (neg : Bool) (k : Nat) (lo hi x : ℚ) (up : Bool) : Prop :=
  match rm with
  | .rne => if up then hi - x < x - lo ∨ (hi - x = x - lo ∧ k % 2 = 1) else x - lo < hi - x ∨ (x - lo = hi - x ∧ k % 2 = 0)
  | .rna => if up then hi - x ≤ x - lo else x - lo < hi - x
  | .rtz => up = false
  | .rdn => up = (neg && decide (lo < x))
  | .rup => up = (!neg && decide (lo < x))

/-- An exact value is its lower neighbour. -/
theorem chosen_exact (rm : Rm) (neg : Bool) (k : Nat) {lo hi x : ℚ} (hx : x = lo) (hlt : lo < hi) :
    Chosen rm neg k lo hi x false := by
  subst hx
  have hgap : x - x < hi - x := by linarith
  cases rm with
  | rne => exact .inl hgap
  | rna => exact hgap
  | rtz => rfl
  | rdn | rup => simp [Chosen]

/-- Nothing exact is rounded up. -/
theorem Chosen.lt_of_up {rm : Rm} {neg : Bool} {k : Nat} {lo hi x : ℚ} (h : Chosen rm neg k lo hi x true)
    (hx : x < hi) : lo < x := by
  cases rm with
  | rne =>
    rcases h with hlt | ⟨heq, -⟩
    · linarith
    · linarith
  | rna =>
    have hle : hi - x ≤ x - lo := h
    linarith
  | rtz => exact nomatch h
  | rdn | rup => simp [Chosen] at h; exact h.2

/-- `roundsUp` chooses: `r` of the `2 * h` parts of the step lie above the lower neighbour. -/
theorem chosen_roundsUp (rm : Rm) (neg : Bool) (k : Nat) {r h : Nat} {lo hi x u : ℚ} (hu : 0 < u)
    (hlo : x - lo = r * u) (hhi : hi - x = (2 * h - r) * u) :
    Chosen rm neg k lo hi x (roundsUp rm neg k (decide (h < r)) (decide (r = h)) (decide (r ≠ 0))) := by
  have habove : hi - x < x - lo ↔ h < r := by
    rw [hlo, hhi, mul_lt_mul_iff_left₀ hu, ← Nat.cast_lt (α := ℚ)]
    constructor <;> intro <;> linarith
  have hbelow : x - lo < hi - x ↔ r < h := by
    rw [hlo, hhi, mul_lt_mul_iff_left₀ hu, ← Nat.cast_lt (α := ℚ)]
    constructor <;> intro <;> linarith
  have hmore : lo < x ↔ r ≠ 0 := by
    rw [← sub_pos, hlo, mul_pos_iff_of_pos_right hu, Nat.cast_pos, Nat.pos_iff_ne_zero]
  cases rm with
  | rne =>
    simp only [Chosen, roundsUp]
    rcases Nat.lt_trichotomy r h with hlt | heq | hgt
    · simp only [hlt.ne, hlt.not_gt, decide_false, Bool.false_and, Bool.or_false, Bool.false_eq_true, if_false]
      exact .inl (hbelow.mpr hlt)
    · have htie : hi - x = x - lo :=
        le_antisymm (not_lt.mp fun h' => heq.not_lt (hbelow.mp h')) (not_lt.mp fun h' => heq.not_gt (habove.mp h'))
      simp only [heq, lt_self_iff_false, decide_false, decide_true, Bool.true_and, Bool.false_or, decide_eq_true_eq]
      split
      · next hodd => exact .inr ⟨htie, hodd⟩
      · next hodd => exact .inr ⟨htie.symm, by omega⟩
    · simp only [hgt, decide_true, Bool.true_or, if_true]
      exact .inl (habove.mpr hgt)
  | rna =>
    simp only [Chosen, roundsUp]
    rcases Nat.lt_or_ge r h with hlt | hge
    · simp only [hlt.ne, hlt.not_gt, decide_false, Bool.or_false, Bool.false_eq_true, if_false]
      exact hbelow.mpr hlt
    · have hup : (decide (h < r) || decide (r = h)) = true := by
        rcases hge.lt_or_eq with h' | h' <;> simp [h']
      simp only [hup, if_true]
      exact not_lt.mp fun h' => absurd (hbelow.mp h') (Nat.not_lt.mpr hge)
  | rtz => rfl
  | rdn | rup => simp only [Chosen, roundsUp, hmore]

/-- What `roundAt` gives of an exact value: one of its neighbours on the grid of step 2^q, chosen by the mode. -/
theorem roundAt_spec (rm : Rm) (neg : Bool) (m : Nat) (e q : Int) :
    ∃ (k : Nat) (up : Bool), (roundAt rm neg m e false q).1 = (if up then k + 1 else k)
      ∧ (k : ℚ) * 2 ^ q ≤ m * 2 ^ e ∧ (m : ℚ) * 2 ^ e < ((k + 1 : Nat) : ℚ) * 2 ^ q
      ∧ Chosen rm neg k (k * 2 ^ q) (((k + 1 : Nat) : ℚ) * 2 ^ q) (m * 2 ^ e) up := by
  have hq : (0 : ℚ) < 2 ^ q := by positivity
  by_cases hqe : q ≤ e
  · have hexact : (m : ℚ) * 2 ^ e = ((m * 2 ^ (e - q).toNat : Nat) : ℚ) * 2 ^ q := by
      have hsum : e = ((e - q).toNat : Int) + q := by omega
      conv_lhs => rw [hsum, zpow_add₀ (by norm_num), zpow_natCast]
      push_cast
      ring
    have hlt : ((m * 2 ^ (e - q).toNat : Nat) : ℚ) * 2 ^ q < ((m * 2 ^ (e - q).toNat + 1 : Nat) : ℚ) * 2 ^ q :=
      mul_lt_mul_of_pos_right (by exact_mod_cast Nat.lt_succ_self _) hq
    exact ⟨m * 2 ^ (e - q).toNat, false, by simp [roundAt, hqe], hexact.ge, hexact ▸ hlt, chosen_exact _ _ _ hexact hlt⟩
  · obtain ⟨n, hn⟩ : ∃ n : Nat, (q - e).toNat = n + 1 := ⟨(q - e).toNat - 1, by omega⟩
    have hu : (0 : ℚ) < 2 ^ e := by positivity
    have hstep : (2 : ℚ) ^ q = 2 * 2 ^ n * 2 ^ e := by
      have hsum : q = ((n + 1 : Nat) : Int) + e := by omega
      rw [hsum, zpow_add₀ (by norm_num), zpow_natCast, pow_succ]
      ring
    set k := m / 2 ^ (n + 1) with hk
    set r := m % 2 ^ (n + 1) with hr
    have hm : (m : ℚ) = k * (2 * 2 ^ n) + r := by
      have hdm : m = k * 2 ^ (n + 1) + r := (Nat.div_add_mod' m _).symm
      rw [Nat.pow_succ, Nat.mul_comm (2 ^ n)] at hdm
      exact_mod_cast hdm
    have hrlt : (r : ℚ) < 2 * 2 ^ n := by
      have hlt : r < 2 ^ (n + 1) := Nat.mod_lt _ (by positivity)
      rw [Nat.pow_succ, Nat.mul_comm] at hlt
      exact_mod_cast hlt
    have hlo : (m : ℚ) * 2 ^ e - k * 2 ^ q = r * 2 ^ e := by rw [hm, hstep]; ring
    have hhi : ((k + 1 : Nat) : ℚ) * 2 ^ q - m * 2 ^ e = (2 * (2 ^ n : Nat) - r) * 2 ^ e := by
      rw [hm, hstep]; push_cast; ring
    have hbelow : 0 ≤ (r : ℚ) * 2 ^ e := by positivity
    have hroom : 0 < (2 * (2 ^ n : Nat) - (r : ℚ)) * 2 ^ e := mul_pos (by push_cast; linarith) hu
    refine ⟨k, _, ?_, by linarith, by linarith, chosen_roundsUp rm neg k hu hlo hhi⟩
    simp only [roundAt, if_neg hqe, hn, Nat.add_sub_cancel, ← hk, ← hr, Bool.and_false, Bool.or_false, Bool.not_false,
      Bool.and_true, gt_iff_lt]

/-! ### The neighbours of a value among the codes -/

/-- A value outside the open interval between two neighbours is no nearer than the nearer of them. -/
theorem min_le_abs_sub {lo hi x y : ℚ} (hlo : lo ≤ x) (hhi : x ≤ hi) (hy : y ≤ lo ∨ hi ≤ y) :
    min (x - lo) (hi - x) ≤ |y - x| := by
  rcases hy with hy | hy
  · rw [abs_of_nonpos (by linarith)]
    exact (min_le_left _ _).trans (by linarith)
  · rw [abs_of_nonneg (by linarith)]
    exact (min_le_right _ _).trans (by linarith)

theorem abs_lo_le {lo hi x y : ℚ} (hlo : lo ≤ x) (hhi : x ≤ hi) (hy : y ≤ lo ∨ hi ≤ y) (h : x - lo ≤ hi - x) :
    |lo - x| ≤ |y - x| := by
  rw [abs_of_nonpos (by linarith), neg_sub]
  exact (le_min le_rfl h).trans (min_le_abs_sub hlo hhi hy)

theorem abs_hi_le {lo hi x y : ℚ} (hlo : lo ≤ x) (hhi : x ≤ hi) (hy : y ≤ lo ∨ hi ≤ y) (h : hi - x ≤ x - lo) :
    |hi - x| ≤ |y - x| := by
  rw [abs_of_nonneg (by linarith)]
  exact (le_min h le_rfl).trans (min_le_abs_sub hlo hhi hy)

theorem abs_lo_lt {lo hi x y : ℚ} (hlo : lo ≤ x) (hy : y ≤ lo ∨ hi ≤ y) (hne : y ≠ lo)
    (h : x - lo < hi - x) : |lo - x| < |y - x| := by
  rw [abs_of_nonpos (by linarith), neg_sub]
  rcases hy with hy | hy
  · rw [abs_of_nonpos (by linarith)]
    linarith [lt_of_le_of_ne hy hne]
  · rw [abs_of_nonneg (by linarith)]
    linarith

theorem abs_hi_lt {lo hi x y : ℚ} (hhi : x ≤ hi) (hy : y ≤ lo ∨ hi ≤ y) (hne : y ≠ hi)
    (h : hi - x < x - lo) : |hi - x| < |y - x| := by
  rw [abs_of_nonneg (by linarith)]
  rcases hy with hy | hy
  · rw [abs_of_nonpos (by linarith)]
    linarith
  · rw [abs_of_nonneg (by linarith)]
    linarith [lt_of_le_of_ne hy hne.symm]

theorem signQ_mul_self (neg : Bool) : signQ neg * signQ neg = 1 := by cases neg <;> norm_num [signQ]

theorem abs_signQ_mul (neg : Bool) (x : ℚ) : |signQ neg * x| = |x| := by
  cases neg <;> simp [signQ]

theorem abs_signQ_mul_sub (neg : Bool) (x y : ℚ) : |signQ neg * x - signQ neg * y| = |x - y| := by
  rw [← mul_sub, abs_signQ_mul]

theorem signQ_mul_mul (neg : Bool) (x y : ℚ) : signQ neg * x * (signQ neg * y) = x * y := by
  rw [mul_mul_mul_comm, signQ_mul_self, one_mul]

/-- No signed magnitude lies strictly between two neighbours. -/
theorem signed_outside (f : Fmt) (s : Bool) (n j : Nat) :
    signQ s * magVal f j ≤ magVal f n ∨ magVal f (n + 1) ≤ signQ s * magVal f j := by
  have hle : signQ s * magVal f j ≤ magVal f j := by
    have := magVal_nonneg f j
    cases s <;> simp [signQ]
    linarith
  rcases Nat.lt_or_ge n j with hlt | hge
  · cases s with
    | false => exact .inr (by simpa [signQ] using (magVal_strictMono f).monotone hlt)
    | true =>
      refine .inl ?_
      have h1 := magVal_nonneg f j
      have h2 := magVal_nonneg f n
      simp only [signQ, if_true]
      linarith
  · exact .inl (hle.trans ((magVal_strictMono f).monotone hge))

/-- Every code's value, turned into the direction of a sign, lies outside the interval between two neighbours. -/
theorem exists_turned {f : Fmt} (hf : Ieee f) (neg : Bool) (n : Nat) {c : Nat} {y : ℚ} (hc : codeVal f c = some y) :
    ∃ z, y = signQ neg * z ∧ (z ≤ magVal f n ∨ magVal f (n + 1) ≤ z) := by
  obtain ⟨j, -, rfl⟩ := codeVal_eq_some hf hc
  have hsign : signQ (negOf f c) = signQ neg * signQ (neg ^^ negOf f c) := by
    cases neg <;> cases negOf f c <;> norm_num [signQ]
  exact ⟨signQ (neg ^^ negOf f c) * magVal f j, by rw [← mul_assoc, ← hsign], signed_outside f _ n j⟩

section
variable {lo hi x z : ℚ} {k r : Nat} {neg up : Bool}

/-- The neighbour that is taken. -/
def neighbour (lo hi : ℚ) (up : Bool) : ℚ := if up then hi else lo

theorem nearest_even (hlo : lo ≤ x) (hhi : x < hi) (hz : z ≤ lo ∨ hi ≤ z) (hne : z ≠ neighbour lo hi up)
    (hch : Chosen .rne neg k lo hi x up) (hr : r % 2 = (if up then k + 1 else k) % 2) :
    |neighbour lo hi up - x| < |z - x| ∨ (|neighbour lo hi up - x| = |z - x| ∧ r % 2 = 0) := by
  cases up with
  | false =>
    rcases hch with hlt | ⟨heq, heven⟩
    · exact .inl (abs_lo_lt hlo hz hne hlt)
    · exact (abs_lo_le hlo hhi.le hz heq.le).lt_or_eq.imp_right fun h => ⟨h, hr.trans heven⟩
  | true =>
    rcases hch with hlt | ⟨heq, hodd⟩
    · exact .inl (abs_hi_lt hhi.le hz hne hlt)
    · exact (abs_hi_le hlo hhi.le hz heq.le).lt_or_eq.imp_right fun h => ⟨h, hr.trans (by rw [if_pos rfl]; omega)⟩

theorem nearest_away (hlo0 : 0 ≤ lo) (hlo : lo ≤ x) (hhi : x < hi) (hz : z ≤ lo ∨ hi ≤ z)
    (hne : z ≠ neighbour lo hi up) (hch : Chosen .rna neg k lo hi x up) :
    |neighbour lo hi up - x| < |z - x| ∨ (|neighbour lo hi up - x| = |z - x| ∧ |x| < |neighbour lo hi up|) := by
  cases up with
  | false => exact .inl (abs_lo_lt hlo hz hne hch)
  | true =>
    refine (abs_hi_le hlo hhi.le hz hch).lt_or_eq.imp_right fun h => ⟨h, ?_⟩
    rw [neighbour, if_pos rfl, abs_of_nonneg (hlo0.trans hlo), abs_of_nonneg (by linarith)]
    exact hhi

theorem toward_zero (hlo0 : 0 ≤ lo) (hx0 : 0 < x) (hlo : lo ≤ x) (hhi : x < hi) (hz : z ≤ lo ∨ hi ≤ z) (hne : z ≠ lo) :
    |lo| ≤ |x| ∧ 0 ≤ lo * x ∧ (|z| ≤ |x| → 0 ≤ z * x → |z| < |lo|) := by
  rw [abs_of_pos hx0, abs_of_nonneg hlo0]
  refine ⟨hlo, mul_nonneg hlo0 hx0.le, fun hle hsame => ?_⟩
  have hz0 : 0 ≤ z := nonneg_of_mul_nonneg_left hsame hx0
  rw [abs_of_nonneg hz0] at hle ⊢
  exact lt_of_le_of_ne (hz.resolve_right (by linarith)) hne

/-- Toward −∞: the lower neighbour of a positive value, the upper one of a negative value that is not exact. -/
theorem downward (hlo : lo ≤ x) (hhi : x < hi) (hz : z ≤ lo ∨ hi ≤ z) (hne : z ≠ neighbour lo hi up)
    (hch : Chosen .rdn neg k lo hi x up) :
    signQ neg * neighbour lo hi up ≤ signQ neg * x
      ∧ (signQ neg * z ≤ signQ neg * x → signQ neg * z < signQ neg * neighbour lo hi up) := by
  have hup : up = (neg && decide (lo < x)) := hch
  cases neg with
  | false =>
    subst hup
    simp only [signQ, Bool.false_eq_true, if_false, one_mul]
    exact ⟨hlo, fun h => lt_of_le_of_ne (hz.resolve_right (by linarith)) hne⟩
  | true =>
    rw [Bool.true_and] at hup
    simp only [signQ, if_true, neg_one_mul, neg_le_neg_iff, neg_lt_neg_iff]
    by_cases hlt : lo < x
    · rw [decide_eq_true hlt] at hup
      subst hup
      exact ⟨hhi.le, fun h => lt_of_le_of_ne (hz.resolve_left (by linarith)) hne.symm⟩
    · rw [decide_eq_false hlt] at hup
      subst hup
      have heq : lo = x := le_antisymm hlo (not_lt.mp hlt)
      exact ⟨heq.ge, fun h => lt_of_le_of_ne (heq.trans_le h) hne.symm⟩

/-- Toward +∞ is toward −∞ of the other sign. -/
theorem upward (hlo : lo ≤ x) (hhi : x < hi) (hz : z ≤ lo ∨ hi ≤ z) (hne : z ≠ neighbour lo hi up)
    (hch : Chosen .rup neg k lo hi x up) :
    signQ neg * x ≤ signQ neg * neighbour lo hi up
      ∧ (signQ neg * x ≤ signQ neg * z → signQ neg * neighbour lo hi up < signQ neg * z) := by
  have hturn (y : ℚ) : signQ (!neg) * y = -(signQ neg * y) := by cases neg <;> simp [signQ]
  have h := downward (neg := !neg) (k := k) hlo hhi hz hne hch
  simpa only [hturn, neg_le_neg_iff, neg_lt_neg_iff] using h

end

/-- The chosen neighbour is the value rounded in the mode. -/
theorem roundsTo_of_chosen {f : Fmt} (hf : Ieee f) {rm : Rm} {neg : Bool} {n k r : Nat} {x : ℚ} {up : Bool}
    (hx0 : 0 < x) (hlo : magVal f n ≤ x) (hhi : x < magVal f (n + 1)) (hk : k % 2 = n % 2)
    (hch : Chosen rm neg k (magVal f n) (magVal f (n + 1)) x up)
    (hr : codeVal f r = some (signQ neg * magVal f (if up then n + 1 else n)))
    (hr2 : r % 2 = (if up then n + 1 else n) % 2) : RoundsTo f rm (signQ neg * x) r := by
  rw [apply_ite (magVal f)] at hr
  refine ⟨_, hr, fun c y hc hne => ?_⟩
  obtain ⟨z, rfl, hz⟩ := exists_turned hf neg n hc
  have hne' : z ≠ neighbour (magVal f n) (magVal f (n + 1)) up := fun h => hne (by rw [h, neighbour])
  have hlo0 := magVal_nonneg f n
  cases rm with
  | rne =>
    simp only [abs_signQ_mul_sub]
    have hpar : r % 2 = (if up then k + 1 else k) % 2 := by
      rw [hr2]
      cases up
      · exact hk.symm
      · rw [if_pos rfl, if_pos rfl]
        omega
    exact nearest_even hlo hhi hz hne' hch hpar
  | rna =>
    simp only [abs_signQ_mul_sub, abs_signQ_mul]
    exact nearest_away hlo0 hlo hhi hz hne' hch
  | rtz =>
    obtain rfl : up = false := hch
    simp only [abs_signQ_mul, signQ_mul_mul]
    exact toward_zero hlo0 hx0 hlo hhi hz hne'
  | rdn => exact downward hlo hhi hz hne' hch
  | rup => exact upward hlo hhi hz hne' hch

end Sys2Proof.Machine

/-! ## `fpRound` delivers the rounded value (R63) -/

namespace Sys2Proof.Machine

open Sys2Proof.Claims

/-- The exponent of the grid on which a value is rounded. -/
def roundExp (f : Fmt) (m : Nat) (e : Int) : Int := max (gridExp f) (Nat.log2 m + e - f.mb)

/-- Without flushing, what does not overflow keeps its sign and takes the magnitude that `roundAt` gives. -/
theorem fpRound_fst {f : Fmt} (rm : Rm) (neg : Bool) (m : Nat) (e : Int)
    (h : (roundExp f m e - gridExp f).toNat * 2 ^ f.mb + (roundAt rm neg m e false (roundExp f m e)).1 ≤ fmtMax f) :
    (fpRound f rm false false neg m e false).1 = fmtSigned f neg
      ((roundExp f m e - gridExp f).toNat * 2 ^ f.mb + (roundAt rm neg m e false (roundExp f m e)).1) := by
  have hq : (if (Nat.log2 m + e - f.mb : Int) < 1 - f.bias - f.mb then (1 - f.bias - f.mb : Int)
      else Nat.log2 m + e - f.mb) = roundExp f m e := by
    rw [roundExp, gridExp]
    split <;> omega
  have hj : roundExp f m e + f.mb + f.bias - 1 = roundExp f m e - gridExp f := by rw [gridExp]; omega
  simp only [fpRound, Bool.and_false, Bool.false_eq_true, if_false, hq, hj]
  rw [if_neg (Nat.not_lt.mpr h)]

/-- The powers of two about a value. -/
theorem log2_bounds {m : Nat} (hm : m ≠ 0) (e : Int) :
    (2 : ℚ) ^ ((Nat.log2 m : Int) + e) ≤ m * 2 ^ e ∧ (m : ℚ) * 2 ^ e < 2 ^ ((Nat.log2 m : Int) + e + 1) := by
  have hu : (0 : ℚ) < 2 ^ e := by positivity
  have hlo : (2 : ℚ) ^ Nat.log2 m ≤ m := by exact_mod_cast Nat.log2_self_le hm
  have hhi : (m : ℚ) < 2 ^ (Nat.log2 m + 1) := by exact_mod_cast Nat.lt_log2_self
  have hexp : (Nat.log2 m : Int) + e + 1 = ((Nat.log2 m + 1 : Nat) : Int) + e := by push_cast; ring
  rw [hexp, zpow_add₀ (by norm_num), zpow_add₀ (by norm_num), zpow_natCast, zpow_natCast]
  exact ⟨mul_le_mul_of_nonneg_right hlo hu.le, mul_lt_mul_of_pos_right hhi hu⟩

/-- Rounding takes a neighbour of the exact value among the magnitudes. -/
theorem fpRound_neighbour {f : Fmt} (hf : Ieee f) (rm : Rm) (neg : Bool) {m : Nat} (hm : m ≠ 0) (e : Int) :
    ∃ (n k : Nat) (up : Bool), magVal f n ≤ m * 2 ^ e ∧ (m : ℚ) * 2 ^ e < magVal f (n + 1) ∧ k % 2 = n % 2
      ∧ Chosen rm neg k (magVal f n) (magVal f (n + 1)) (m * 2 ^ e) up
      ∧ ((if up then n + 1 else n) ≤ fmtMax f →
        (fpRound f rm false false neg m e false).1 = fmtSigned f neg (if up then n + 1 else n)) := by
  obtain ⟨k, up, hK, hlo, hhi, hch⟩ := roundAt_spec rm neg m e (roundExp f m e)
  obtain ⟨hge, hlt⟩ := log2_bounds hm e
  obtain ⟨j, hj⟩ : ∃ j : Nat, roundExp f m e = gridExp f + j :=
    ⟨(roundExp f m e - gridExp f).toNat, by rw [roundExp]; omega⟩
  have hq : (0 : ℚ) < 2 ^ roundExp f m e := by positivity
  have hkmax : k + 1 ≤ 2 ^ (f.mb + 1) := by
    have htop : (2 : ℚ) ^ ((Nat.log2 m : Int) + e + 1) ≤ 2 ^ (((f.mb + 1 : Nat) : Int) + roundExp f m e) :=
      zpow_le_zpow_right₀ (by norm_num) (by rw [roundExp]; push_cast; omega)
    rw [zpow_add₀ (by norm_num) ((f.mb + 1 : Nat) : Int), zpow_natCast] at htop
    have hk : (k : ℚ) < 2 ^ (f.mb + 1) := lt_of_mul_lt_mul_right (by linarith) hq.le
    exact_mod_cast hk
  have hkmin : j = 0 ∨ 2 ^ f.mb ≤ k := by
    by_cases hj0 : j = 0
    · exact .inl hj0
    · have hexp : (Nat.log2 m : Int) + e = (f.mb : Int) + roundExp f m e := by
        rw [roundExp] at hj ⊢
        omega
      rw [hexp, zpow_add₀ (by norm_num), zpow_natCast] at hge
      have hk : (2 : ℚ) ^ f.mb < (k + 1 : Nat) := lt_of_mul_lt_mul_right (by linarith) hq.le
      exact .inr (Nat.lt_succ_iff.mp (by exact_mod_cast hk))
  have hvlo : magVal f (j * 2 ^ f.mb + k) = k * 2 ^ roundExp f m e := by
    rw [magVal_grid f (by omega) hkmin, hj]
  have hvhi : magVal f (j * 2 ^ f.mb + k + 1) = ((k + 1 : Nat) : ℚ) * 2 ^ roundExp f m e := by
    rw [Nat.add_assoc, magVal_grid f hkmax (by omega), hj]
  have hjn : (roundExp f m e - gridExp f).toNat = j := by omega
  have hup : j * 2 ^ f.mb + (if up then k + 1 else k) = if up then j * 2 ^ f.mb + k + 1 else j * 2 ^ f.mb + k := by
    split <;> omega
  refine ⟨j * 2 ^ f.mb + k, k, up, hvlo ▸ hlo, hvhi ▸ hhi, ?_, ?_, fun hfit => ?_⟩
  · obtain ⟨b, hb⟩ : 2 ∣ j * 2 ^ f.mb := Dvd.dvd.mul_left (dvd_pow_self 2 (by have := hf.mb; omega)) j
    omega
  · rw [hvlo, hvhi]
    exact hch
  · rw [← hup] at hfit ⊢
    rw [fpRound_fst rm neg m e (by rw [hjn, hK]; exact hfit), hjn, hK]

/-- A finite value of the format is its own rounding. -/
theorem fpRound_exact {f : Fmt} (hf : Ieee f) (rm : Rm) (neg : Bool) {m n : Nat} (hm : m ≠ 0) {e : Int}
    (hn : n ≤ fmtMax f) (hx : (m : ℚ) * 2 ^ e = magVal f n) :
    (fpRound f rm false false neg m e false).1 = fmtSigned f neg n := by
  obtain ⟨n', k, up, hlo, hhi, -, hch, hval⟩ := fpRound_neighbour hf rm neg hm e
  rw [hx] at hlo hhi hch
  obtain rfl : n' = n := by
    have h1 := (magVal_strictMono f).le_iff_le.mp hlo
    have h2 := (magVal_strictMono f).lt_iff_lt.mp hhi
    omega
  have hdown : up = false := by
    by_contra hup
    rw [Bool.not_eq_false] at hup
    rw [hup] at hch
    exact lt_irrefl _ (hch.lt_of_up hhi)
  rw [hdown] at hval
  exact hval hn

theorem fmtSigned_mod_two {f : Fmt} (hf : Ieee f) (neg : Bool) (n : Nat) : fmtSigned f neg n % 2 = n % 2 := by
  obtain ⟨b, hb⟩ : 2 ∣ 2 ^ (f.eb + f.mb) := dvd_pow_self 2 (by have := hf.mb; omega)
  rw [fmtSigned]
  split <;> omega

/-- R63 for `fpRound`: a value no larger than the largest finite one is rounded in the mode. -/
theorem fpRound_roundsTo {f : Fmt} (hf : Ieee f) (rm : Rm) (neg : Bool) {m : Nat} (hm : m ≠ 0) {e : Int}
    (hx : (m : ℚ) * 2 ^ e ≤ largest f) :
    RoundsTo f rm (signQ neg * (m * 2 ^ e)) (fpRound f rm false false neg m e false).1 := by
  obtain ⟨n, k, up, hlo, hhi, hk, hch, hval⟩ := fpRound_neighbour hf rm neg hm e
  have hx0 : (0 : ℚ) < m * 2 ^ e := by
    have hm0 : (0 : ℚ) < m := by exact_mod_cast Nat.pos_of_ne_zero hm
    positivity
  have hfit : (if up then n + 1 else n) ≤ fmtMax f := by
    rw [largest_eq hf] at hx
    cases up with
    | false => exact (magVal_strictMono f).le_iff_le.mp (hlo.trans hx)
    | true => exact (magVal_strictMono f).lt_iff_lt.mp ((hch.lt_of_up hhi).trans_le hx)
  rw [hval hfit]
  exact roundsTo_of_chosen hf hx0 hlo hhi hk hch (codeVal_fmtSigned hf neg hfit) (fmtSigned_mod_two hf neg _)

/-- The value of a scaled integer and a sign. -/
theorem natAbs_mul_zpow (v e : Int) : signQ (decide (v < 0)) * ((v.natAbs : ℚ) * 2 ^ e) = v * 2 ^ e := by
  rw [← mul_assoc]
  congr 1
  rw [Nat.cast_natAbs]
  rcases lt_or_ge v 0 with h | h
  · simp [signQ, h, abs_of_neg h]
  · simp [signQ, not_lt.mpr h, abs_of_nonneg h]

/-- An exact result is delivered rounded. -/
theorem fpDeliver_rounded {f : Fmt} (hf : Ieee f) (rm : Rm) {v e : Int} (hv : v ≠ 0) (zneg : Bool) :
    Rounded f rm (v * 2 ^ e) (fpDeliver f rm false false v e zneg).1 := by
  intro hmax _
  rw [← natAbs_mul_zpow] at hmax ⊢
  rw [fpDeliver, if_neg hv]
  have hu : (0 : ℚ) < 2 ^ e := by positivity
  rw [abs_signQ_mul, abs_of_nonneg (by positivity)] at hmax
  exact fpRound_roundsTo hf rm _ (Int.natAbs_ne_zero.mpr hv) hmax

end Sys2Proof.Machine

/-! ## Float ADD across the participants (R155) -/

namespace Sys2Proof.Machine

open Sys2Proof.Claims

/-! ### Reading codes -/

theorem fpReadF_false (f : Fmt) (c : Nat) : fpReadF f false c = fpRead f c := by
  unfold fpReadF
  cases fpRead f c <;> simp

/-- The NaN codes read as NaNs, flushed or not, and the signalling ones as signalling. -/
theorem isNaN_fpReadF {f : Fmt} (hf : Ieee f) (fz : Bool) (c : Nat) :
    (fpReadF f fz c).isNaN = isNaNCode f c ∧ (fpReadF f fz c).isSNaN = isSNaNCode f c := by
  have hfin := mag_finite_iff hf _ (magOf_lt f c)
  rw [magOf_div] at hfin
  have hread := fpRead_eq hf c
  rw [magOf_div, magOf_mod] at hread
  simp only [fpReadF, isSNaNCode, isNaNCode]
  by_cases htop : c / 2 ^ f.mb % 2 ^ f.eb = 2 ^ f.eb - 1
  · rw [if_neg fun h => hfin.mp h htop] at hread
    by_cases hinf : c % 2 ^ f.mb = 0
    · rw [if_pos hinf] at hread
      simp [hread, hinf, FVal.isNaN, FVal.isSNaN]
    · rw [if_neg hinf] at hread
      simp [hread, hinf, htop, FVal.isNaN, FVal.isSNaN]
  · rw [if_pos (hfin.mpr htop)] at hread
    split at hread <;> rw [hread] <;> dsimp only <;> split <;> simp [htop, FVal.isNaN, FVal.isSNaN]

theorem fpReadF_eq_inf (f : Fmt) (fz : Bool) (c : Nat) (s : Bool) : fpReadF f fz c = .inf s ↔ fpRead f c = .inf s := by
  unfold fpReadF
  cases fpRead f c with
  | fin n m e => dsimp only; split <;> simp
  | nan _ | inf _ => simp

/-- A code of a value reads as that value. -/
theorem fpRead_of_codeVal {f : Fmt} {c : Nat} {x : ℚ} (h : codeVal f c = some x) :
    ∃ n m e, fpRead f c = .fin n m e ∧ x = signQ n * (m * 2 ^ e) := by
  unfold codeVal at h
  split at h
  · next n m e hread => exact ⟨n, m, e, hread, by rw [← Option.some.inj h, mul_assoc]; rfl⟩
  · exact nomatch h

/-- A code is its sign bit over its magnitude. -/
theorem fmtSigned_magOf (f : Fmt) (c : Nat) : fmtSigned f (negOf f c) (magOf f c) = c % 2 ^ (1 + f.eb + f.mb) := by
  have hpow : 2 ^ (1 + f.eb + f.mb) = 2 ^ (f.eb + f.mb) * 2 := by rw [← Nat.pow_succ]; congr 1; omega
  rw [hpow, Nat.mod_mul, fmtSigned, magOf, negOf, Nat.add_comm]
  congr 1
  rcases Nat.mod_two_eq_zero_or_one (c / 2 ^ (f.eb + f.mb)) with h | h <;> simp [h]

/-! ### The exact sum -/

theorem scaleTo_mul_zpow (n : Bool) (m : Nat) {e q : Int} (h : q ≤ e) :
    (scaleTo n m e q : ℚ) * 2 ^ q = signQ n * (m * 2 ^ e) := by
  have hexp : e = ((e - q).toNat : Int) + q := by omega
  have hpow : (2 : ℚ) ^ e = 2 ^ (e - q).toNat * 2 ^ q := by
    conv_lhs => rw [hexp, zpow_add₀ (by norm_num), zpow_natCast]
  rw [hpow, scaleTo]
  cases n
  · simp [signQ, mul_assoc]
  · simp [signQ, mul_assoc]

/-- The least exponent of the finite values, and 0; the sum of their integers at exponent `q`. -/
def minExp (vs : List FVal) (q0 : Int) : Int := vs.foldl (fun q v => match v with | .fin _ _ e => min q e | _ => q) q0
def sumAt (q : Int) (vs : List FVal) (a0 : Int) : Int :=
  vs.foldl (fun a v => match v with | .fin n m e => a + scaleTo n m e q | _ => a) a0

theorem minExp_le (vs : List FVal) (q0 : Int) :
    minExp vs q0 ≤ q0 ∧ ∀ n m e, FVal.fin n m e ∈ vs → minExp vs q0 ≤ e := by
  induction vs generalizing q0 with
  | nil => exact ⟨le_rfl, fun _ _ _ h => nomatch h⟩
  | cons v vs ih =>
    cases v with
    | fin n m e =>
      obtain ⟨hle, hmem⟩ := ih (min q0 e)
      refine ⟨hle.trans (min_le_left _ _), fun n' m' e' h => ?_⟩
      rcases List.mem_cons.mp h with heq | h
      · cases heq
        exact hle.trans (min_le_right _ _)
      · exact hmem n' m' e' h
    | nan _ | inf _ =>
      obtain ⟨hle, hmem⟩ := ih q0
      exact ⟨hle, fun n' m' e' h => hmem n' m' e' ((List.mem_cons.mp h).resolve_left (fun heq => nomatch heq))⟩

/-- At an exponent below all of theirs, the values' integers sum to the values' sum. -/
theorem sumAt_mul_zpow {f : Fmt} {q : Int} {vs : List Nat} {xs : List ℚ} (hxs : vs.map (codeVal f) = xs.map some)
    (hq : ∀ n m e, FVal.fin n m e ∈ vs.map (fpRead f) → q ≤ e) (a : Int) :
    (sumAt q (vs.map (fpRead f)) a : ℚ) * 2 ^ q = a * 2 ^ q + xs.sum := by
  induction vs generalizing xs a with
  | nil =>
    obtain rfl : xs = [] := by simpa using hxs.symm
    simp [sumAt]
  | cons c cs ih =>
    cases xs with
    | nil => exact nomatch hxs
    | cons x xs =>
      rw [List.map_cons, List.map_cons, List.cons.injEq] at hxs
      obtain ⟨n, m, e, hread, rfl⟩ := fpRead_of_codeVal hxs.1
      have hqe : q ≤ e := hq n m e (by rw [← hread]; exact List.mem_cons_self)
      have hstep : sumAt q ((c :: cs).map (fpRead f)) a = sumAt q (cs.map (fpRead f)) (a + scaleTo n m e q) := by
        rw [List.map_cons, hread]; rfl
      rw [hstep, ih hxs.2 (fun n' m' e' h => hq n' m' e' (List.mem_cons_of_mem _ h)), List.sum_cons,
        ← scaleTo_mul_zpow n m hqe]
      push_cast
      ring

/-- A negative zero, among the codes. -/
theorem negZero_iff {f : Fmt} (hf : Ieee f) (c : Nat) :
    (match fpRead f c with | .fin n m _ => n && decide (m = 0) | _ => false) = true
      ↔ c % 2 ^ (1 + f.eb + f.mb) = 2 ^ (f.eb + f.mb) := by
  have hpos : 0 < 2 ^ f.mb := by positivity
  have hlt := magOf_lt f c
  have hdm := Nat.div_add_mod' (magOf f c) (2 ^ f.mb)
  have hzero : c % 2 ^ (1 + f.eb + f.mb) = 2 ^ (f.eb + f.mb) ↔ negOf f c = true ∧ magOf f c = 0 := by
    rw [← fmtSigned_magOf, fmtSigned]
    cases negOf f c
    · simpa using hlt.ne
    · simp
  rw [hzero, fpRead_eq hf]
  by_cases hfin : magOf f c ≤ fmtMax f
  · rw [if_pos hfin]
    by_cases hsub : magOf f c / 2 ^ f.mb = 0
    · rw [hsub, Nat.zero_mul, Nat.zero_add] at hdm
      rw [if_pos hsub]
      simp [hdm]
    · rw [if_neg hsub]
      have hm : magOf f c ≠ 0 := fun h => hsub (by rw [h, Nat.zero_div])
      simp [hm]
  · have hm : magOf f c ≠ 0 := by omega
    rw [if_neg hfin]
    by_cases hinf : magOf f c % 2 ^ f.mb = 0
    · rw [if_pos hinf]
      simp [hm]
    · rw [if_neg hinf]
      simp [hm]

/-! ### The rules of R155 -/

/-- What R155 says of the sum of the values of codes `vs`: a value and flags. -/
def SumsTo (f : Fmt) (rm : Rm) (fz : Bool) (vs : List Nat) (v : Nat) (fl : Flags) : Prop :=
  let inf (sign : Nat) : Prop := ∃ c ∈ vs, fpRead f c = .inf (sign = 1)
  let nan : Prop := ∃ c ∈ vs, isNaNCode f c = true
  ((∃ c ∈ vs, isNaNCode f c = true) ∨ (inf 0 ∧ inf 1) → v = defaultNaN f
    ∧ (fl = if (∃ c ∈ vs, isSNaNCode f c = true) ∨ (inf 0 ∧ inf 1) then flNV else 0))
  ∧ (∀ sign, sign < 2 → inf sign → ¬inf (1 - sign) → ¬nan → v = infinity f sign ∧ fl = 0)
  ∧ ∀ xs : List ℚ, fz = false → vs.map (codeVal f) = xs.map some →
    (xs.sum ≠ 0 → Rounded f rm xs.sum v)
    ∧ (xs.sum = 0 → fl = 0 ∧ v = if vs ≠ [] ∧ (rm = .rdn ∨ ∀ c ∈ vs, c % 2 ^ (1 + f.eb + f.mb) = 2 ^ (f.eb + f.mb))
      then 2 ^ (f.eb + f.mb) else 0)

variable {f : Fmt} {rm : Rm} {fz : Bool} {vs : List Nat}

/-- The tests of `fpSum`, on the codes. -/
theorem any_isNaN (hf : Ieee f) : ((vs.map (fpReadF f fz)).any FVal.isNaN = true) ↔ ∃ c ∈ vs, isNaNCode f c = true := by
  simp [(isNaN_fpReadF hf fz _).1]

theorem any_isSNaN (hf : Ieee f) :
    ((vs.map (fpReadF f fz)).any FVal.isSNaN = true) ↔ ∃ c ∈ vs, isSNaNCode f c = true := by
  simp [(isNaN_fpReadF hf fz _).2]

theorem any_inf (s : Bool) : ((vs.map (fpReadF f fz)).any (· = .inf s) = true) ↔ ∃ c ∈ vs, fpRead f c = .inf s := by
  simp [fpReadF_eq_inf]

/-- Finite values hold no NaN and no infinity. -/
theorem finite_of_codeVal {xs : List ℚ} (hxs : vs.map (codeVal f) = xs.map some) {c : Nat} (hc : c ∈ vs) :
    ∃ n m e, fpRead f c = .fin n m e := by
  have hmem : codeVal f c ∈ xs.map some := hxs ▸ List.mem_map_of_mem hc
  obtain ⟨x, -, hx⟩ := List.mem_map.mp hmem
  obtain ⟨n, m, e, hread, -⟩ := fpRead_of_codeVal hx.symm
  exact ⟨n, m, e, hread⟩

/-- The sum of `fpSum` where no operand is a NaN or an infinity. -/
theorem fpSum_finite (ws : List FVal) (hnan : ws.any FVal.isNaN = false) (hpos : ws.any (· = .inf false) = false)
    (hneg : ws.any (· = .inf true) = false) : fpSum f rm fz ws =
      fpDeliver f rm fz false (sumAt (minExp ws 0) ws 0) (minExp ws 0)
        (!ws.isEmpty && (rm = .rdn || ws.all fun v => match v with | .fin n m _ => n && m = 0 | _ => false)) := by
  simp only [fpSum, hnan, hpos, hneg, Bool.false_and, Bool.or_false, Bool.false_eq_true, if_false]
  rfl

/-- R155: a NaN, or infinities of both signs, give the default NaN. -/
theorem fpSum_nan (hf : Ieee f)
    (h : (∃ c ∈ vs, isNaNCode f c = true) ∨ ((∃ c ∈ vs, fpRead f c = .inf false) ∧ ∃ c ∈ vs, fpRead f c = .inf true)) :
    fpSum f rm fz (vs.map (fpReadF f fz)) = (defaultNaN f,
      if (∃ c ∈ vs, isSNaNCode f c = true)
        ∨ ((∃ c ∈ vs, fpRead f c = .inf false) ∧ ∃ c ∈ vs, fpRead f c = .inf true) then flNV else 0) := by
  have hdefault : fmtNaN f = defaultNaN f := by
    rw [fmtNaN, hf.top, defaultNaN, if_neg (by rw [hf.top]; decide)]
  rw [← any_isNaN (fz := fz) hf, ← any_inf (fz := fz), ← any_inf (fz := fz)] at h
  rw [fpSum, if_pos (by simpa only [Bool.or_eq_true, Bool.and_eq_true] using h), hdefault]
  simp only [flIf, Bool.or_eq_true, Bool.and_eq_true, any_isSNaN hf, any_inf]

/-- R155: an infinity of one sign alone is the sum. -/
theorem fpSum_inf (hf : Ieee f) (s : Bool) (hinf : ∃ c ∈ vs, fpRead f c = .inf s)
    (hno : ¬ ∃ c ∈ vs, fpRead f c = .inf !s) (hnan : ¬ ∃ c ∈ vs, isNaNCode f c = true) :
    fpSum f rm fz (vs.map (fpReadF f fz)) = (infinity f s.toNat, 0) := by
  rw [← any_isNaN (fz := fz) hf, Bool.not_eq_true] at hnan
  rw [← any_inf (fz := fz)] at hinf hno
  rw [Bool.not_eq_true] at hno
  cases s with
  | false =>
    rw [Bool.not_false] at hno
    simp only [fpSum, hnan, hinf, hno, Bool.and_false, Bool.or_false, Bool.false_eq_true, if_false, if_true]
    simp [fmtSigned, fmtInf, infinity]
  | true =>
    rw [Bool.not_true] at hno
    simp only [fpSum, hnan, hinf, hno, Bool.false_and, Bool.or_false, Bool.false_eq_true, if_false, if_true]
    simp [fmtSigned, fmtInf, infinity]

/-- The exact sum of finite operands, and the sign of a zero sum. -/
theorem fpSum_of_finite (hf : Ieee f) {xs : List ℚ} (hxs : vs.map (codeVal f) = xs.map some) :
    ∃ v q : Int, ∃ minus : Bool, fpSum f rm false (vs.map (fpReadF f false)) = fpDeliver f rm false false v q minus
      ∧ (v : ℚ) * 2 ^ q = xs.sum
      ∧ (minus = true ↔ vs ≠ [] ∧ (rm = .rdn ∨ ∀ c ∈ vs, c % 2 ^ (1 + f.eb + f.mb) = 2 ^ (f.eb + f.mb))) := by
  have hread : vs.map (fpReadF f false) = vs.map (fpRead f) := List.map_congr_left fun c _ => fpReadF_false f c
  have hnan : (vs.map (fpReadF f false)).any FVal.isNaN = false := by
    rw [hread, List.any_eq_false]
    intro w hw
    obtain ⟨c, hc, rfl⟩ := List.mem_map.mp hw
    obtain ⟨n, m, e, h⟩ := finite_of_codeVal hxs hc
    simp [h, FVal.isNaN]
  have hinf (s : Bool) : (vs.map (fpReadF f false)).any (· = .inf s) = false := by
    refine Bool.eq_false_iff.mpr fun hany => ?_
    obtain ⟨c, hc, h⟩ := (any_inf s).mp hany
    obtain ⟨n, m, e, h'⟩ := finite_of_codeVal hxs hc
    exact nomatch h.symm.trans h'
  have hexact := sumAt_mul_zpow hxs (minExp_le (vs.map (fpRead f)) 0).2 0
  rw [Int.cast_zero, zero_mul, zero_add] at hexact
  refine ⟨_, _, _, fpSum_finite _ hnan (hinf false) (hinf true), hread ▸ hexact, ?_⟩
  simp only [hread, Bool.and_eq_true, Bool.or_eq_true, Bool.not_eq_true', List.isEmpty_eq_false_iff,
    decide_eq_true_eq, List.all_eq_true, List.mem_map, forall_exists_index, and_imp, forall_apply_eq_imp_iff₂,
    negZero_iff hf, ne_eq, List.map_eq_nil_iff]

/-- R155: the exact sum, rounded once, with the rules for NaNs, infinities and zeros. -/
theorem fpSum_sumsTo (hf : Ieee f) (rm : Rm) (fz : Bool) (vs : List Nat) :
    SumsTo f rm fz vs (fpSum f rm fz (vs.map (fpReadF f fz))).1 (fpSum f rm fz (vs.map (fpReadF f fz))).2 := by
  refine ⟨fun h => ?_, fun sign hsign hinf hno hnonan => ?_, fun xs hfz hxs => ?_⟩
  · rw [fpSum_nan hf h]
    exact ⟨rfl, rfl⟩
  · obtain rfl | rfl : sign = 0 ∨ sign = 1 := by omega
    · rw [fpSum_inf hf false hinf hno hnonan]
      exact ⟨rfl, rfl⟩
    · rw [fpSum_inf hf true hinf hno hnonan]
      exact ⟨rfl, rfl⟩
  · subst hfz
    obtain ⟨v, q, minus, hsum, hexact, hminus⟩ := fpSum_of_finite (rm := rm) hf hxs
    have hzero : v = 0 ↔ xs.sum = 0 := by
      have hu : (0 : ℚ) < 2 ^ q := by positivity
      rw [← hexact, mul_eq_zero_iff_right hu.ne', Int.cast_eq_zero]
    rw [hsum, ← hexact]
    refine ⟨fun _ => ?_, fun hx => ?_⟩
    · exact fun hmax hne => fpDeliver_rounded hf rm (fun h => hne (by rw [h, Int.cast_zero, zero_mul])) _ hmax hne
    · rw [hexact] at hx
      rw [fpDeliver, if_pos (hzero.mpr hx)]
      refine ⟨rfl, ?_⟩
      simp only [fmtSigned, hminus, Nat.add_zero]

end Sys2Proof.Machine

/-! ## Float MIN and MAX (R116) -/

namespace Sys2Proof.Machine

open Sys2Proof.Claims

/-! ### What a read operand is, and its code -/

/-- `v` is the value of sign `s` and magnitude `n`, an infinity above the finite ones. -/
def Reads (f : Fmt) (v : FVal) (s : Bool) (n : Nat) : Prop :=
  (n ≤ fmtMax f ∧ ∃ m e, v = .fin s m e ∧ (m : ℚ) * 2 ^ e = magVal f n) ∨ (n = fmtMax f + 1 ∧ v = .inf s)

/-- The code of such a value is its sign over its magnitude. -/
theorem fpCode_of_reads {f : Fmt} (hf : Ieee f) {v : FVal} {s : Bool} {n : Nat} (h : Reads f v s n) :
    fpCode f v = fmtSigned f s n := by
  rcases h with ⟨hn, m, e, rfl, hx⟩ | ⟨rfl, rfl⟩
  · simp only [fpCode, fpRoundZ]
    split
    · next hm =>
      have hzero : magVal f n = magVal f 0 := by rw [← hx, hm, magVal_zero, Nat.cast_zero, zero_mul]
      rw [(magVal_strictMono f).injective hzero]
    · next hm => exact fpRound_exact hf .rne s hm hn hx
  · rw [fpCode, fmtInf_eq hf]

/-- The magnitude under which a code is read: none of a subnormal that is flushed. -/
def flushedMag (f : Fmt) (fz : Bool) (c : Nat) : Nat := if fz ∧ magOf f c / 2 ^ f.mb = 0 then 0 else magOf f c

theorem flushedCode_eq (f : Fmt) (fz : Bool) (c : Nat) : flushedCode f fz c = fmtSigned f (negOf f c) (flushedMag f fz c) := by
  rw [flushedCode, flushedMag, magOf_div]
  split
  · rw [fmtSigned, negOf]
    rcases Nat.mod_two_eq_zero_or_one (c / 2 ^ (f.eb + f.mb)) with h | h <;> simp [h]
  · exact (fmtSigned_magOf f c).symm

theorem flushedMag_lt (f : Fmt) (fz : Bool) (c : Nat) : flushedMag f fz c < 2 ^ (f.eb + f.mb) := by
  rw [flushedMag]
  split
  · positivity
  · exact magOf_lt f c

/-- A code that is no NaN reads as the value of its sign and magnitude (R66). -/
theorem reads_fpReadF {f : Fmt} (hf : Ieee f) (fz : Bool) {c : Nat} (hnan : isNaNCode f c = false) :
    Reads f (fpReadF f fz c) (negOf f c) (flushedMag f fz c) := by
  have hpos : 0 < 2 ^ f.mb := by positivity
  have hlt := Nat.mod_lt (magOf f c) hpos
  have hdm := Nat.div_add_mod' (magOf f c) (2 ^ f.mb)
  have hread := fpRead_eq hf c
  by_cases hfin : magOf f c ≤ fmtMax f
  · rw [if_pos hfin] at hread
    refine .inl ⟨by rw [flushedMag]; split <;> omega, ?_⟩
    by_cases hsub : magOf f c / 2 ^ f.mb = 0
    · rw [if_pos hsub] at hread
      rw [fpReadF, hread]
      cases fz with
      | true => exact ⟨0, gridExp f, by simp [hlt], by simp [flushedMag, hsub, magVal_zero]⟩
      | false => exact ⟨_, _, by simp; exact ⟨rfl, rfl⟩, by simp [flushedMag, magVal, hsub]⟩
    · rw [if_neg hsub] at hread
      rw [fpReadF, hread]
      exact ⟨_, _, by simp; exact ⟨rfl, rfl⟩, by simp [flushedMag, magVal, hsub]⟩
  · have hfrac : magOf f c % 2 ^ f.mb = 0 := by
      have hcode := (isNaN_fpReadF hf false c).1
      rw [hnan, fpReadF_false, hread, if_neg hfin] at hcode
      by_contra h
      rw [if_neg h] at hcode
      exact nomatch hcode
    rw [if_neg hfin, if_pos hfrac] at hread
    have htop : magOf f c / 2 ^ f.mb = 2 ^ f.eb - 1 := by
      by_contra h
      exact hfin ((mag_finite_iff hf _ (magOf_lt f c)).mpr h)
    have hmag : magOf f c = fmtMax f + 1 := by
      rw [hfrac, htop] at hdm
      rw [← fmtInf_eq hf, fmtInf]
      omega
    have hne : magOf f c / 2 ^ f.mb ≠ 0 := by
      have heb := hf.four_le
      omega
    exact .inr ⟨by rw [flushedMag, if_neg (fun h => hne h.2), hmag], (fpReadF_eq_inf f fz c _).mpr hread⟩

theorem fpCode_fpReadF {f : Fmt} (hf : Ieee f) (fz : Bool) {c : Nat} (hnan : isNaNCode f c = false) :
    fpCode f (fpReadF f fz c) = flushedCode f fz c := by
  rw [fpCode_of_reads hf (reads_fpReadF hf fz hnan), flushedCode_eq]

/-! ### The order -/

/-- The comparison of two finite values. -/
theorem fpCompare_fin (s s' : Bool) (m m' : Nat) (e e' : Int) :
    (fpCompare (.fin s m e) (.fin s' m' e') < 0 ↔ signQ s * ((m : ℚ) * 2 ^ e) < signQ s' * ((m' : ℚ) * 2 ^ e'))
      ∧ (fpCompare (.fin s m e) (.fin s' m' e') = 0 ↔ signQ s * ((m : ℚ) * 2 ^ e) = signQ s' * ((m' : ℚ) * 2 ^ e')) := by
  have hu : (0 : ℚ) < 2 ^ min e e' := by positivity
  rw [← scaleTo_mul_zpow s m (min_le_left e e'), ← scaleTo_mul_zpow s' m' (min_le_right e e'),
    mul_lt_mul_iff_left₀ hu, mul_left_inj' hu.ne', Int.cast_lt, Int.cast_inj]
  simp only [fpCompare]
  rcases lt_trichotomy (scaleTo s m e (min e e')) (scaleTo s' m' e' (min e e')) with h | h | h
  · simp [h, h.ne]
  · simp [h]
  · simp [h.not_gt, h.ne']

/-- The comparison of two operands is that of their signed magnitudes. -/
theorem fpCompare_of_reads {f : Fmt} {a b : FVal} {s s' : Bool} {n n' : Nat} (ha : Reads f a s n) (hb : Reads f b s' n') :
    (fpCompare a b < 0 ↔ signQ s * magVal f n < signQ s' * magVal f n')
      ∧ (fpCompare a b = 0 ↔ signQ s * magVal f n = signQ s' * magVal f n') := by
  have hmono := magVal_strictMono f
  have h0 := magVal_nonneg f
  rcases ha with ⟨hn, m, e, rfl, hx⟩ | ⟨rfl, rfl⟩
  · rcases hb with ⟨hn', m', e', rfl, hx'⟩ | ⟨rfl, rfl⟩
    · rw [← hx, ← hx']
      exact fpCompare_fin s s' m m' e e'
    · have hlt := hmono (Nat.lt_succ_of_le hn)
      have hn0 := h0 n
      cases s' <;> cases s <;> simp [fpCompare, signQ] <;> constructor <;> linarith
  · rcases hb with ⟨hn', m', e', rfl, hx'⟩ | ⟨rfl, rfl⟩
    · have hlt := hmono (Nat.lt_succ_of_le hn')
      have hn0 := h0 n'
      cases s <;> cases s' <;> simp [fpCompare, signQ] <;> constructor <;> linarith
    · have hpos : 0 < magVal f (fmtMax f + 1) := magVal_zero f ▸ hmono (Nat.succ_pos _)
      cases s <;> cases s' <;> simp [fpCompare, signQ] <;> constructor <;> linarith

end Sys2Proof.Machine

/-! ## R116 as an order of codes -/

namespace Sys2Proof.Machine

open Sys2Proof.Claims

theorem codeOrder_fmtSigned (f : Fmt) (s : Bool) {n : Nat} (h : n < 2 ^ (f.eb + f.mb)) :
    codeOrder f (fmtSigned f s n) = if s then -(n : Int) - 1 else n := by
  have hmag : fmtSigned f s n % 2 ^ (f.eb + f.mb) = n := magOf_fmtSigned f s h
  have hneg : (fmtSigned f s n / 2 ^ (f.eb + f.mb) % 2 = 1) ↔ s = true :=
    decide_eq_true_iff.symm.trans (iff_of_eq (congrArg (· = true) (negOf_fmtSigned f s h)))
  simp only [codeOrder, hmag, hneg]

/-- Codes of equal order are equal. -/
theorem fmtSigned_inj_of_codeOrder {f : Fmt} {s s' : Bool} {n n' : Nat} (h : n < 2 ^ (f.eb + f.mb))
    (h' : n' < 2 ^ (f.eb + f.mb)) (heq : codeOrder f (fmtSigned f s n) = codeOrder f (fmtSigned f s' n')) :
    fmtSigned f s n = fmtSigned f s' n' := by
  rw [codeOrder_fmtSigned f s h, codeOrder_fmtSigned f s' h'] at heq
  obtain ⟨rfl, rfl⟩ : s = s' ∧ n = n' := by cases s <;> cases s' <;> simp at heq ⊢ <;> omega
  rfl

theorem neg_of_reads {f : Fmt} {v : FVal} {s : Bool} {n : Nat} (h : Reads f v s n) : v.neg = s := by
  rcases h with ⟨-, m, e, rfl, -⟩ | ⟨-, rfl⟩ <;> rfl

/-- Signed magnitudes, −0 before +0, in order. -/
theorem signed_lt_iff (f : Fmt) (s s' : Bool) (n n' : Nat) :
    (signQ s * magVal f n < signQ s' * magVal f n'
        ∨ (signQ s * magVal f n = signQ s' * magVal f n' ∧ s = true ∧ s' = false))
      ↔ (if s then -(n : Int) - 1 else n) < (if s' then -(n' : Int) - 1 else n') := by
  have hlt := (magVal_strictMono f).lt_iff_lt (a := n) (b := n')
  have hgt := (magVal_strictMono f).lt_iff_lt (a := n') (b := n)
  have hn := magVal_nonneg f n
  have hn' := magVal_nonneg f n'
  cases s with
  | false =>
    cases s' with
    | false => simp [signQ, hlt]
    | true =>
      simp only [signQ, Bool.false_eq_true, if_false, if_true, false_and, and_false, or_false]
      exact iff_of_false (by linarith) (by omega)
  | true =>
    cases s' with
    | false =>
      simp only [signQ, Bool.false_eq_true, if_false, if_true, and_true]
      exact iff_of_true (lt_or_eq_of_le (by linarith)) (by omega)
    | true =>
      simp only [signQ, if_true, Bool.true_eq_false, and_false, or_false, neg_one_mul, neg_lt_neg_iff, hgt]
      omega

/-- Whether the first operand comes before the second: the test of `fpMinMaxV`, as the order of their codes. -/
theorem less_eq_codeOrder {f : Fmt} {a b : FVal} {s s' : Bool} {n n' : Nat} (ha : Reads f a s n) (hb : Reads f b s' n')
    (h : n < 2 ^ (f.eb + f.mb)) (h' : n' < 2 ^ (f.eb + f.mb)) :
    (decide (fpCompare a b < 0) || (decide (fpCompare a b = 0) && a.neg && !b.neg))
      = decide (codeOrder f (fmtSigned f s n) < codeOrder f (fmtSigned f s' n')) := by
  obtain ⟨hlt, heq⟩ := fpCompare_of_reads ha hb
  rw [Bool.eq_iff_iff, decide_eq_true_eq, codeOrder_fmtSigned f s h, codeOrder_fmtSigned f s' h', ← signed_lt_iff f s s',
    neg_of_reads ha, neg_of_reads hb]
  simp only [Bool.or_eq_true, Bool.and_eq_true, decide_eq_true_eq, hlt, heq, Bool.not_eq_true', and_assoc]

/-- R116: FMIN and FMAX take the smaller or the larger operand. -/
theorem fpMinMaxV_fst {f : Fmt} (hf : Ieee f) (fz larger : Bool) (a b : Nat) :
    (fpMinMaxV f larger (fpReadF f fz a) (fpReadF f fz b)).1 = extreme f fz larger a b := by
  have hnan : fmtNaN f = (2 ^ f.eb - 1) * 2 ^ f.mb + 2 ^ (f.mb - 1) := by rw [fmtNaN, hf.top]
  simp only [fpMinMaxV, extreme, (isNaN_fpReadF hf fz _).1]
  cases ha : isNaNCode f a with
  | true =>
    cases hb : isNaNCode f b with
    | true => exact hnan
    | false => exact fpCode_fpReadF hf fz hb
  | false =>
    cases hb : isNaNCode f b with
    | true => exact fpCode_fpReadF hf fz ha
    | false =>
      have hless := less_eq_codeOrder (reads_fpReadF hf fz ha) (reads_fpReadF hf fz hb) (flushedMag_lt f fz a)
        (flushedMag_lt f fz b)
      rw [← flushedCode_eq, ← flushedCode_eq] at hless
      simp only [Bool.and_self, Bool.false_eq_true, if_false, hless]
      cases larger with
      | true =>
        simp only [bne_iff_ne, ne_eq, decide_eq_true_eq, not_lt, if_true]
        split
        · exact fpCode_fpReadF hf fz ha
        · exact fpCode_fpReadF hf fz hb
      | false =>
        simp only [bne_iff_ne, ne_eq, decide_eq_false_iff_not, not_not, Bool.false_eq_true, if_false]
        by_cases hlt : codeOrder f (flushedCode f fz a) < codeOrder f (flushedCode f fz b)
        · rw [if_pos hlt, if_pos hlt.le, fpCode_fpReadF hf fz ha]
        · rw [if_neg hlt, fpCode_fpReadF hf fz hb]
          split
          · next hle =>
            have heq := le_antisymm hle (not_lt.mp hlt)
            rw [flushedCode_eq, flushedCode_eq] at heq ⊢
            exact (fmtSigned_inj_of_codeOrder (flushedMag_lt f fz a) (flushedMag_lt f fz b) heq).symm
          · rfl

/-! ### Across the participants -/

/-- The least or the greatest of several codes, as R116 takes it of two. -/
def mostOfCodes (f : Fmt) (fz larger : Bool) (vs : List Nat) : Nat :=
  match vs with
  | [] => infinity f (if larger then 1 else 0)
  | v :: rest => rest.foldl (extreme f fz larger) (extreme f fz larger v v)

/-- The fold of MIN or MAX keeps the extreme beside the flags. -/
theorem fpFold_fst {f : Fmt} (hf : Ieee f) (fz larger : Bool) (vs : List Nat) :
    (fpFold f fz larger vs).1 = mostOfCodes f fz larger vs := by
  have hop (a b : Nat) : (if larger then fpMax f fz a b else fpMin f fz a b).1 = extreme f fz larger a b := by
    rw [← fpMinMaxV_fst hf]
    cases larger <;> rfl
  have hfold (rest : List Nat) (p : Nat × Flags) :
      (rest.foldl (fun a x => let y := if larger then fpMax f fz a.1 x else fpMin f fz a.1 x; (y.1, a.2 ||| y.2)) p).1
        = rest.foldl (extreme f fz larger) p.1 := by
    induction rest generalizing p with
    | nil => rfl
    | cons x rest ih => rw [List.foldl_cons, List.foldl_cons, ih, ← hop]
  cases vs with
  | nil => cases larger <;> simp [fpFold, mostOfCodes, fmtSigned, fmtInf, infinity]
  | cons v rest => rw [fpFold, hfold, hop, mostOfCodes]

end Sys2Proof.Machine

/-! ## Reductions and scans of floats, and O21 -/

namespace Sys2Proof.Machine

open Sys2Proof.Claims

/-- The format and the flush bit of a float reduction. -/
def FloatRed (g : Grp) (rt : RedTy) (f : Fmt) (fz : Bool) : Prop :=
  (rt = .f32 ∧ f = fmt32 ∧ fz = fz32 g) ∨ (rt = .f64 ∧ f = fmt64 ∧ fz = fz64 g)

variable {g : Grp} {rt : RedTy} {f : Fmt} {fz : Bool}

theorem FloatRed.ieee (h : FloatRed g rt f fz) : Ieee f := by
  rcases h with ⟨-, rfl, -⟩ | ⟨-, rfl, -⟩
  · exact ieee_fmt32
  · exact ieee_fmt64

theorem redVal_add (h : FloatRed g rt f fz) (rm : Rm) (sat : Bool) (vs : List Nat) :
    redVal g rt .add rm sat vs = fpSum f rm fz (vs.map (fpReadF f fz)) := by
  rcases h with ⟨rfl, rfl, rfl⟩ | ⟨rfl, rfl, rfl⟩ <;> rfl

theorem redVal_extreme (h : FloatRed g rt f fz) (larger : Bool) (rm : Rm) (sat : Bool) (vs : List Nat) :
    (redVal g rt (if larger then .max else .min) rm sat vs).1 = mostOfCodes f fz larger vs := by
  rw [← fpFold_fst h.ieee]
  rcases h with ⟨rfl, rfl, rfl⟩ | ⟨rfl, rfl, rfl⟩ <;> cases larger <;> rfl

theorem redVal_sumsTo (h : FloatRed g rt f fz) (rm : Rm) (sat : Bool) (vs : List Nat) :
    SumsTo f rm fz vs (redVal g rt .add rm sat vs).1 (redVal g rt .add rm sat vs).2 := by
  rw [redVal_add h]
  exact fpSum_sumsTo h.ieee rm fz vs

end Sys2Proof.Machine

namespace Sys2Proof

open Sys2Proof.Machine Sys2Proof.Claims

/-- R154 for the integer types. -/
theorem integer_reductions {s : State} {c k : Nat} {g : Grp} {r : Rdv} {gd : Guard} {m : MReg} {n : Fin 256}
    {a : Operand} {t : IntTy} {rt : RedTy} {ex sat : Bool} (hC : Complete s c k g r)
    (ht : (rt, t) ∈ [(RedTy.i32, IntTy.i32), (.n32, .n32), (.i64, .i64), (.n64, .n64)]) (op : RedOp) :
    let res (below : Nat → Bool) := intRed t op sat ((partsBelow r below).map (gave r))
    (r.word = some (.gred gd m rt op .rne sat (.v n) a) → Completes s c k g r
      (fun _ ln => written ln n.val (regs12 t.w64) (res fun _ => true).1 (res fun _ => true).2) id)
    ∧ (∀ (sd : Fin 192) (l0 : Nat), r.word = some (.gred gd m rt op .rne sat (.s sd) a) →
      lowest (r.arrived &&& r.guards) = some l0 → Completes s c k g r
        (fun l ln => if l = l0 then { ln with lsw := ln.lsw ||| (res fun _ => true).2 } else ln)
        (putS · sd.val (regs12 t.w64) (res fun _ => true).1))
    ∧ (r.word = some (.gscan gd m rt op ex .rne sat n a) → Completes s c k g r
      (fun l ln => written ln n.val (regs12 t.w64) (res fun j => j < l || (!ex && j = l)).1
        (res fun j => j < l || (!ex && j = l)).2) id) := by
  have hw64 : rt.w64 = t.w64 := by
    simp only [List.mem_cons, Prod.mk.injEq, List.not_mem_nil, or_false] at ht
    rcases ht with ⟨rfl, rfl⟩ | ⟨rfl, rfl⟩ | ⟨rfl, rfl⟩ | ⟨rfl, rfl⟩ <;> rfl
  simp only [← redVal_int ht g op .rne sat, ← hw64]
  exact ⟨completes_gred_v hC, fun sd l0 hw hlow => completes_gred_s hC hw hlow, completes_gscan hC⟩

/-- The integer results, as the statement writes them out. -/
theorem intRed_eq (t : IntTy) (op : RedOp) (sat : Bool) (gave : Nat → Nat) (ls : List Nat) :
    let val (l : Nat) : Int := valOf t (BitVec.ofNat _ (gave l))
    let bits (l : Nat) : BitVec (IntTy.width t) := BitVec.ofNat _ (gave l)
    intRed t op sat (ls.map gave) =
      (match op with
        | .add => patOf t (if sat then clampTo t (ls.map val).sum else (ls.map val).sum)
        | .min => patOf t ((ls.map val).foldl min (mostOf t))
        | .max => patOf t ((ls.map val).foldl max (leastOf t))
        | .and => ((ls.map bits).foldl (· &&& ·) (BitVec.allOnes _)).toNat
        | .or => ((ls.map bits).foldl (· ||| ·) 0).toNat
        | .xor => ((ls.map bits).foldl (· ^^^ ·) 0).toNat,
       if op = .add ∧ sat then satFlag t (ls.map val).sum else 0) := by
  intro val bits
  have hval : (ls.map gave).map (fun v => valOf t (BitVec.ofNat _ v)) = ls.map val := List.map_map
  have hbits : (ls.map gave).map (fun v => BitVec.ofNat (IntTy.width t) v) = ls.map bits := List.map_map
  simp only [intRed, hval, hbits]
  cases op <;> simp

/-- R155 for float ADD. -/
theorem float_additions {s : State} {c k : Nat} {g : Grp} {r : Rdv} {gd : Guard} {m : MReg} {n : Fin 256} {a : Operand}
    {f : Fmt} {rt : RedTy} {rm : Rm} {fz ex : Bool} (hC : Complete s c k g r) (ht : FloatRed g rt f fz) :
    let mem (below : Nat → Bool) := (partsBelow r below).map (gave r)
    (r.word = some (.gred gd m rt .add rm false (.v n) a) → ∃ v fl, SumsTo f rm fz (mem fun _ => true) v fl
      ∧ Completes s c k g r (fun _ ln => written ln n.val (regs12 rt.w64) v fl) id)
    ∧ (∀ (sd : Fin 192) (l0 : Nat), r.word = some (.gred gd m rt .add rm false (.s sd) a) →
      lowest (r.arrived &&& r.guards) = some l0 → ∃ v fl, SumsTo f rm fz (mem fun _ => true) v fl
        ∧ Completes s c k g r (fun l ln => if l = l0 then { ln with lsw := ln.lsw ||| fl } else ln)
          (putS · sd.val (regs12 rt.w64) v))
    ∧ (r.word = some (.gscan gd m rt .add ex rm false n a) → ∃ (v : Nat → Nat) (fl : Nat → Flags),
      (∀ l, SumsTo f rm fz (mem fun j => j < l || (!ex && j = l)) (v l) (fl l))
      ∧ Completes s c k g r (fun l ln => written ln n.val (regs12 rt.w64) (v l) (fl l)) id) :=
  ⟨fun hw => ⟨_, _, redVal_sumsTo ht rm false _, completes_gred_v hC hw⟩,
    fun _ _ hw hlow => ⟨_, _, redVal_sumsTo ht rm false _, completes_gred_s hC hw hlow⟩,
    fun hw => ⟨_, _, fun _ => redVal_sumsTo ht rm false _, completes_gscan hC hw⟩⟩

/-- R154 for float MIN and MAX. -/
theorem float_extremes {s : State} {c k : Nat} {g : Grp} {r : Rdv} {gd : Guard} {m : MReg} {n : Fin 256} {a : Operand}
    {f : Fmt} {rt : RedTy} {fz ex : Bool} (hC : Complete s c k g r) (ht : FloatRed g rt f fz) (larger : Bool) :
    let mem (below : Nat → Bool) := (partsBelow r below).map (gave r)
    let op : RedOp := if larger then .max else .min
    (r.word = some (.gred gd m rt op .rne false (.v n) a) → ∃ fl, Completes s c k g r
      (fun _ ln => written ln n.val (regs12 rt.w64) (mostOfCodes f fz larger (mem fun _ => true)) fl) id)
    ∧ (r.word = some (.gscan gd m rt op ex .rne false n a) → ∃ fl : Nat → Flags, Completes s c k g r
      (fun l ln => written ln n.val (regs12 rt.w64)
        (mostOfCodes f fz larger (mem fun j => j < l || (!ex && j = l))) (fl l)) id) := by
  simp only [← redVal_extreme ht larger .rne false]
  exact ⟨fun hw => ⟨_, completes_gred_v hC hw⟩, fun hw => ⟨_, completes_gscan hC hw⟩⟩

/-- Settles O21: the operations on patterns are those on bit vectors; a float sum is exact until its one rounding, which takes
a neighbour of it among the codes; MIN and MAX go by the order of the codes. -/
theorem reductionsAndScans : Obligations.ReductionsAndScans := by
  refine ⟨fun s c k g r gd m n a t rt ex sat hC ht => ?_, fun s c k g r gd m n a f rt rm fz ex hC ht => ?_⟩
  · intro val bits mem sum res flag op
    have hres (below : Nat → Bool) :
        intRed t op sat ((partsBelow r below).map (gave r)) = (res op below, flag op below) :=
      intRed_eq t op sat (gave r) _
    obtain ⟨hv, hs, hscan⟩ := integer_reductions (gd := gd) (m := m) (n := n) (a := a) (ex := ex) (sat := sat) hC ht op
    simp only [hres] at hv hs hscan
    exact ⟨hv, hs, hscan⟩
  · intro w mem all_ upto sum most
    obtain ⟨hv, hs, hscan⟩ := float_additions (gd := gd) (m := m) (n := n) (a := a) (rm := rm) (ex := ex) hC ht
    exact ⟨hv, hs, hscan, fun larger => float_extremes hC ht larger⟩

end Sys2Proof

/-! ## What an arithmetic word writes (R37, R107) -/

namespace Sys2Proof.Machine

open Sys2Proof.Claims

/-- Flags, then the predicate. -/
theorem putRes_none (r : Res) (ln : Lane) : putRes none r ln = putPredOnly r (addFlags ln r.flags) := rfl

/-- The registers, the flags, then the predicate. -/
theorem putRes_v (n : Fin 256) (k : Nat) (r : Res) (ln : Lane) :
    putRes (some (.v n, k)) r ln = putPredOnly r (written ln n.val k r.val r.flags) := rfl

/-- A lane-wise word that runs. -/
theorem exec_of_aluWord {i : Instr} {d : Option (Reg × Nat)} {f : Env → Res} {s : State} {g : Grp}
    (hexec : exec i s = aluWord i d f s) (hrun : RunsAlu i s g) :
    ∃ g', exec i s = .next (setCurGrp s (finishGrp s.cur.mask g'))
      ∧ g' = { g with lanes := g'.lanes, sregs := g'.sregs, dmrc := g'.dmrc, dmra := g'.dmra }
      ∧ g'.sregs = (putAll s (active i s g) d f g).sregs
      ∧ ∀ l, laneAt g' l = laneAt (putAll s (active i s g) d f g) l := by
  obtain ⟨⟨hcur, hwin, hfall⟩, hmir, -⟩ := hrun
  refine ⟨_, hexec.trans (aluWord_next d f hcur hwin hfall hmir), ?_⟩
  split
  · exact ⟨by rw [putAll_frame], rfl, fun _ => rfl⟩
  · rw [mirrorCount_frame, putAll_frame]
    exact ⟨rfl, rfl, fun _ => rfl⟩

/-- A lane beyond the group is in no mask of its lanes. -/
theorem getLsbD_of_length_le {g : Grp} {l : Nat} (hlen : g.lanes.length = 64) (hl : ¬ l < g.lanes.length) (m : Mask) :
    m.getLsbD l = false :=
  BitVec.getLsbD_of_ge _ _ (by omega)

/-- A word that computes `f` in each lane writes what `f` gives, in a vector register or in a scalar one. -/
theorem writes_of_aluWord {i : Instr} {d : Reg} {k : Nat} {f : Env → Res} {v : Env → Nat} {fl : Env → Flags} {p : PReg}
    {b : Env → Bool} (hexec : ∀ s, exec i s = aluWord i (some (d, k)) f s) (hv : ∀ e, (f e).val = v e)
    (hfl : ∀ e, (f e).flags = fl e) (hp : ∀ e ln, putPredOnly (f e) ln = setP ln p (b e)) : Writes i d k v fl p b := by
  cases d with
  | v n =>
    intro s g hrun
    obtain ⟨g', hnext, hframe, hsregs, hlanes⟩ := exec_of_aluWord (hexec s) hrun
    refine ⟨g', hnext, ?_, fun l => ?_⟩
    · have hs : g'.sregs = g.sregs := hsregs
      rw [hs] at hframe
      exact hframe
    · rw [hlanes]
      by_cases hl : l < g.lanes.length
      · rw [laneAt_putAll_v _ _ _ _ _ _ _ hl, putRes_v, hp, hv, hfl]
      · rw [laneAt_out _ l (by simp; omega), laneAt_out g l (by omega), getLsbD_of_length_le hrun.2.2 hl]
        rfl
  | s n =>
    intro s g hrun
    obtain ⟨g', hnext, hframe, hsregs, hlanes⟩ := exec_of_aluWord (hexec s) hrun
    refine ⟨g', hnext, hframe, ?_, fun l => ?_⟩
    · rw [hsregs, sregs_putAll_s]
      simp only [hv]
      rfl
    · rw [hlanes]
      by_cases hl : l < g.lanes.length
      · rw [laneAt_putAll_s _ _ _ _ _ _ _ hl, putRes_none, hp, hp, hfl]
        simp only [apply_ite (setP · p (b (envOf s g l)))]
        rfl
      · rw [laneAt_out _ l (by simp; omega), laneAt_out g l (by omega), getLsbD_of_length_le hrun.2.2 hl]
        rfl

section
variable {i : Instr} {d : Reg} {k : Nat}

/-- A word that gives a value with its flags writes them. -/
theorem writes_pair {r : Env → Nat × Flags} {v : Env → Nat} {fl : Env → Flags}
    (hexec : ∀ s, exec i s = aluWord i (some (d, k)) (fun e => .ofPair (r e)) s) (hr : ∀ e, r e = (v e, fl e)) :
    Writes i d k v fl :=
  writes_of_aluWord hexec (fun e => congrArg Prod.fst (hr e)) (fun e => congrArg Prod.snd (hr e)) fun _ _ => rfl

/-- A word that gives a value alone writes it, and no flag. -/
theorem writes_nat {r v : Env → Nat} (hexec : ∀ s, exec i s = aluWord i (some (d, k)) (fun e => .ofNat (r e)) s)
    (hr : ∀ e, r e = v e) : Writes i d k v fun _ => 0 :=
  writes_of_aluWord hexec hr (fun _ => rfl) fun _ _ => rfl

/-- A word that gives a value and a predicate writes both. -/
theorem writes_withPred {p : PReg} {r : Env → Nat × Bool} {v : Env → Nat} {b : Env → Bool}
    (hexec : ∀ s, exec i s = aluWord i (some (d, k)) (fun e => .withPred p (r e).1 (r e).2) s)
    (hr : ∀ e, r e = (v e, b e)) : Writes i d k v (fun _ => 0) p b :=
  writes_of_aluWord hexec (fun e => congrArg Prod.fst (hr e)) (fun _ => rfl)
    fun e ln => congrArg (setP ln p) (congrArg Prod.snd (hr e))

end

end Sys2Proof.Machine

/-! ## Integer forms (R52, R110, R111) -/

namespace Sys2Proof.Machine

open Sys2Proof.Claims

/-- A bit vector is the pattern of its value, under either signedness. -/
@[simp] theorem ofInt_elemVal {w : Nat} (signed : Bool) (x : BitVec w) : BitVec.ofInt w (elemVal signed x) = x := by
  cases signed
  · exact (BitVec.ofInt_natCast ..).trans (ofNat_toNat_self x)
  · exact BitVec.ofInt_toInt

@[simp] theorem ofInt_valOf (t : IntTy) (x : BitVec (IntTy.width t)) : BitVec.ofInt (IntTy.width t) (valOf t x) = x :=
  ofInt_elemVal (IntTy.signed t) x

/-- The pattern of a difference, and of an absolute value. -/
theorem ofInt_sub (w : Nat) (x y : Int) : BitVec.ofInt w (x - y) = BitVec.ofInt w x - BitVec.ofInt w y := by
  rw [Int.sub_eq_add_neg, BitVec.ofInt_add, BitVec.ofInt_neg, BitVec.sub_eq_add_neg]

theorem ofInt_abs_toInt {w : Nat} (x : BitVec w) : BitVec.ofInt w |x.toInt| = x.abs := by
  rw [BitVec.abs]
  split
  · next hneg =>
    rw [abs_of_neg (BitVec.toInt_neg_iff.mpr (BitVec.msb_eq_true_iff_two_mul_ge.mp hneg)), BitVec.ofInt_neg, BitVec.ofInt_toInt]
    rfl
  · next hpos =>
    rw [abs_of_nonneg (BitVec.toInt_nonneg_of_msb_false (Bool.eq_false_iff.mpr hpos)), BitVec.ofInt_toInt]

/-- A result without SAT is the pattern of the exact one; with SAT, that of the nearest value of the type (R52). -/
theorem tnarrow_wrap (t : IntTy) (x : Int) : tnarrow t false x = ((BitVec.ofInt (IntTy.width t) x).toNat, 0) :=
  tnarrow_eq t false x

theorem tnarrow_sat (t : IntTy) (x : Int) : tnarrow t true x = (patOf t (clampTo t x), satFlag t x) := tnarrow_eq t true x

/-- The value of an operand of INEG and IABS. -/
theorem sval_signTy (u : SignTy) (v : Nat) : sval (SignTy.width u) v = (BitVec.ofNat (SignTy.width u) v).toInt :=
  sval_eq (by cases u <;> decide) v

/-- INEG and IABS narrow to the type among those of the other integer forms. -/
theorem narrowI_signTy (u : SignTy) (sat : Bool) (x : Int) : narrowI sat true (SignTy.width u) x = tnarrow (signTy u) sat x := by
  cases u <;> rfl

/-- INEG and IABS without SAT. -/
theorem aluNeg_wrap (u : SignTy) (a : Nat) :
    aluNeg u false a = ((-BitVec.ofNat (SignTy.width u) a).toNat, 0) := by
  rw [aluNeg, sval_signTy, narrowI_eq, narrowed, if_neg (by decide), BitVec.ofInt_neg, BitVec.ofInt_toInt]
  rfl

theorem aluAbs_wrap (u : SignTy) (a : Nat) :
    aluAbs u false a = ((BitVec.ofNat (SignTy.width u) a).abs.toNat, 0) := by
  rw [aluAbs, sval_signTy, narrowI_eq, narrowed, if_neg (by decide), Int.natCast_natAbs, ofInt_abs_toInt]
  rfl

variable (gd : Guard) (n : Reg) (a b c : Operand)

/-- The forms that wrap. -/
theorem wrapping_forms (t : IntTy) (u : SignTy) :
    Writes (.iadd gd t false n a b) n (regs12 t.w64) (fun e => (opB t e a + opB t e b).toNat) (fun _ => 0)
    ∧ Writes (.isub gd t false n a b) n (regs12 t.w64) (fun e => (opB t e a - opB t e b).toNat) (fun _ => 0)
    ∧ Writes (.imul gd t false n a b) n (regs12 t.w64) (fun e => (opB t e a * opB t e b).toNat) (fun _ => 0)
    ∧ Writes (.imad gd t false n a b c) n (regs12 t.w64) (fun e => (opB t e a * opB t e b + opB t e c).toNat) (fun _ => 0)
    ∧ Writes (.ineg gd u false n a) n (regs12 u.w64)
        (fun e => (-BitVec.ofNat (SignTy.width u) (opI e (regs12 u.w64) a)).toNat) (fun _ => 0)
    ∧ Writes (.iabs gd u false n a) n (regs12 u.w64)
        (fun e => (BitVec.ofNat (SignTy.width u) (opI e (regs12 u.w64) a)).abs.toNat) (fun _ => 0) := by
  refine ⟨writes_pair (fun _ => rfl) fun e => ?_, writes_pair (fun _ => rfl) fun e => ?_,
    writes_pair (fun _ => rfl) fun e => ?_, writes_pair (fun _ => rfl) fun e => ?_,
    writes_pair (fun _ => rfl) fun e => aluNeg_wrap u _, writes_pair (fun _ => rfl) fun e => aluAbs_wrap u _⟩
  · simp only [aluAdd, tval_eq, tnarrow_wrap, BitVec.ofInt_add, ofInt_valOf]; rfl
  · simp only [aluSub, tval_eq, tnarrow_wrap, ofInt_sub, ofInt_valOf]; rfl
  · simp only [aluMul, tval_eq, tnarrow_wrap, BitVec.ofInt_mul, ofInt_valOf]; rfl
  · simp only [aluMad, tval_eq, tnarrow_wrap, BitVec.ofInt_add, BitVec.ofInt_mul, ofInt_valOf]; rfl

/-- The forms that saturate: the nearest value of the exact result. -/
theorem saturating_forms (t : IntTy) :
    let x (e : Env) (o : Operand) : Int := valOf t (opB t e o)
    Writes (.iadd gd t true n a b) n (regs12 t.w64) (fun e => patOf t (clampTo t (x e a + x e b)))
      (fun e => satFlag t (x e a + x e b))
    ∧ Writes (.isub gd t true n a b) n (regs12 t.w64) (fun e => patOf t (clampTo t (x e a - x e b)))
      (fun e => satFlag t (x e a - x e b))
    ∧ Writes (.imul gd t true n a b) n (regs12 t.w64) (fun e => patOf t (clampTo t (x e a * x e b)))
      (fun e => satFlag t (x e a * x e b))
    ∧ Writes (.imad gd t true n a b c) n (regs12 t.w64) (fun e => patOf t (clampTo t (x e a * x e b + x e c)))
      (fun e => satFlag t (x e a * x e b + x e c)) := by
  intro x
  have hx (e : Env) (o : Operand) : tval t (opI e (regs12 t.w64) o) = x e o := tval_eq t _
  refine ⟨writes_pair (fun _ => rfl) fun e => ?_, writes_pair (fun _ => rfl) fun e => ?_,
    writes_pair (fun _ => rfl) fun e => ?_, writes_pair (fun _ => rfl) fun e => ?_⟩
  · simp only [aluAdd, hx, tnarrow_sat]
  · simp only [aluSub, hx, tnarrow_sat]
  · simp only [aluMul, hx, tnarrow_sat]
  · simp only [aluMad, hx, tnarrow_sat]

theorem saturating_signs (u : SignTy) :
    let x (e : Env) : Int := (BitVec.ofNat (SignTy.width u) (opI e (regs12 u.w64) a)).toInt
    Writes (.ineg gd u true n a) n (regs12 u.w64) (fun e => patOf (signTy u) (clampTo (signTy u) (-x e)))
      (fun e => satFlag (signTy u) (-x e))
    ∧ Writes (.iabs gd u true n a) n (regs12 u.w64) (fun e => patOf (signTy u) (clampTo (signTy u) |x e|))
      (fun e => satFlag (signTy u) |x e|) := by
  refine ⟨writes_pair (fun _ => rfl) fun e => ?_, writes_pair (fun _ => rfl) fun e => ?_⟩
  · rw [aluNeg, sval_signTy, narrowI_signTy, tnarrow_sat]
  · rw [aluAbs, sval_signTy, narrowI_signTy, tnarrow_sat, Int.natCast_natAbs]

/-- The forms whose results need no narrowing. -/
theorem exact_forms (t : IntTy) (u : Ty32) (sh : Fin 16) :
    let x (e : Env) (o : Operand) : Int := valOf t (opB t e o)
    let y (e : Env) (o : Operand) : Int := elemVal (Ty32.signed u) (op32 e o)
    Writes (.imulh gd t n a b) n (regs12 t.w64)
      (fun e => pat (IntTy.width t) (Int.fdiv (x e a * x e b) (2 ^ IntTy.width t))) (fun _ => 0)
    ∧ Writes (.imadw gd u n a b c) n 2
        (fun e => (BitVec.ofInt 64 (y e a * y e b) + BitVec.ofNat 64 (opI e 2 c)).toNat) (fun _ => 0)
    ∧ Writes (.imin gd t n a b) n (regs12 t.w64) (fun e => patOf t (min (x e a) (x e b))) (fun _ => 0)
    ∧ Writes (.imax gd t n a b) n (regs12 t.w64) (fun e => patOf t (max (x e a) (x e b))) (fun _ => 0)
    ∧ Writes (.iclamp gd t n a b c) n (regs12 t.w64) (fun e => patOf t (min (max (x e a) (x e b)) (x e c)))
        (fun _ => 0)
    ∧ Writes (.lea gd u n a b sh) n 2
        (fun e => (BitVec.ofNat 64 (opI e 2 a) + BitVec.ofInt 64 (y e b * 2 ^ sh.val)).toNat) (fun _ => 0) := by
  intro x y
  have hx (e : Env) (o : Operand) : tval t (opI e (regs12 t.w64) o) = x e o := tval_eq t _
  have hy (e : Env) (o : Operand) : ival (Ty32.signed u) 32 (opI e 1 o) = y e o := ival_eq (by decide) _ _
  refine ⟨writes_nat (fun _ => rfl) fun e => ?_, writes_nat (fun _ => rfl) fun e => ?_,
    writes_nat (fun _ => rfl) fun e => ?_, writes_nat (fun _ => rfl) fun e => ?_,
    writes_nat (fun _ => rfl) fun e => ?_, writes_nat (fun _ => rfl) fun e => ?_⟩
  · rw [aluMulH, wrapI_eq, hx, hx]; rfl
  · rw [aluMadW, wrapI_eq, hy, hy, ival_eq (by decide), BitVec.ofInt_add, ofInt_elemVal]
  · rw [aluMin, wrapI_eq, hx, hx]; rfl
  · rw [aluMax, wrapI_eq, hx, hx]; rfl
  · rw [aluClamp, wrapI_eq, hx, hx, hx]; rfl
  · rw [aluLea, wrapI_eq, hy, uval_eq, BitVec.ofInt_add, BitVec.ofInt_natCast, ofNat_toNat_self]

/-- IADDC: the sum, and the carry (R111). -/
theorem writes_iaddc (t : IntTy) (k : PReg) :
    let u (e : Env) : Nat := (opB t e a).toNat + (opB t e b).toNat + (op32 e c).toNat % 2
    Writes (.iaddc gd t n a b c k) n (regs12 t.w64) (fun e => u e % 2 ^ IntTy.width t) (fun _ => 0) k
      (fun e => decide (2 ^ IntTy.width t ≤ u e)) := by
  refine writes_withPred (fun _ => rfl) fun e => ?_
  have hbit : (op32 e c).toNat % 2 = opI e 1 c % 2 := by rw [op32, BitVec.toNat_ofNat]; omega
  simp only [hbit]
  rfl

end Sys2Proof.Machine

namespace Sys2Proof

open Sys2Proof.Machine Sys2Proof.Claims

/-- Settles O1: every result is the narrowing, wrapped or clamped, of the exact one. -/
theorem integerForms : Obligations.IntegerForms :=
  ⟨fun gd t u n a b c => wrapping_forms gd n a b c t u, fun gd t n a b c => saturating_forms gd n a b c t,
    fun gd u n a => saturating_signs gd n a u, fun gd t u n a b c sh => exact_forms gd n a b c t u sh,
    fun gd t n a b c k => writes_iaddc gd n a b c t k⟩

end Sys2Proof

/-! ## Elements of words (R123 to R129) -/

namespace Sys2Proof.Machine

open Sys2Proof.Claims

/-- Byte `i` of a value is that of its low word. -/
theorem byteOf_eq (a : Nat) {i : Nat} (hi : i < 4) : byteOf a i = (elem8 (BitVec.ofNat 32 a) i).toNat := by
  simp only [byteOf, elem8, BitVec.extractLsb'_toNat, BitVec.toNat_ofNat, Nat.shiftRight_eq_div_pow]
  obtain rfl | rfl | rfl | rfl : i = 0 ∨ i = 1 ∨ i = 2 ∨ i = 3 := by omega
  all_goals simp only [Nat.reducePow, Nat.reduceMul]; omega

theorem ival_byteOf (signed : Bool) (a : Nat) {i : Nat} (hi : i < 4) :
    ival signed 8 (byteOf a i) = elemVal signed (elem8 (BitVec.ofNat 32 a) i) := by
  rw [ival_eq (by decide), byteOf_eq a hi, ofNat_toNat_self]

theorem ival_half16 (signed : Bool) (a : Nat) {i : Nat} (hi : i < 2) :
    ival signed 16 (half16 a i) = elemVal signed (elem16 (BitVec.ofNat 32 a) i) := by
  rw [ival_eq (by decide), half16_eq a i hi]

theorem sval_32 (a : Nat) : sval 32 a = (BitVec.ofNat 32 a).toInt := sval_eq (by decide) a

/-- Four bytes put together. -/
theorem ofBytes4_eq {f : Nat → Nat} {g : Nat → BitVec 8} (h : ∀ i, i < 4 → f i = (g i).toNat) :
    ofBytes4 f = ofElems8 g := by
  have happend {n : Nat} (x : BitVec n) (y : BitVec 8) : (x ++ y).toNat = x.toNat * 2 ^ 8 + y.toNat := by
    rw [BitVec.toNat_append, ← Nat.shiftLeft_add_eq_or_of_lt y.isLt, Nat.shiftLeft_eq]
  rw [ofBytes4, h 0 (by decide), h 1 (by decide), h 2 (by decide), h 3 (by decide), ofElems8, happend, happend, happend]
  omega

/-- Two elements that are narrowed, with their flags. -/
theorem elem2_narrowI {sat signed : Bool} {f g : Nat → Int} (h : ∀ i, i < 2 → f i = g i) :
    elem2 (fun i => narrowI sat signed 16 (f i)) = (ofElems16 fun i => narrowed sat signed 16 (g i),
      narrowFlag sat signed 16 (g 0) ||| narrowFlag sat signed 16 (g 1)) := by
  simp only [elem2, h 0 (by decide), h 1 (by decide), narrowI_eq, ofElems16_eq]

/-- Two elements that are wrapped. -/
theorem elem2_wrapI {f g : Nat → Int} (h : ∀ i, i < 2 → f i = g i) :
    (elem2 fun i => (wrapI 16 (f i), 0)).1 = ofElems16 fun i => BitVec.ofInt 16 (g i) := by
  simp only [elem2, h 0 (by decide), h 1 (by decide), wrapI_eq, ofElems16_eq]

/-- A sum over the four bytes. -/
theorem sum_range_four (f : Nat → Nat) : ((List.range 4).map f).sum = f 0 + f 1 + f 2 + f 3 := by
  simp [List.range_succ, Nat.add_assoc]

/-- The tests of SEQM, on bytes as bit vectors. -/
theorem seqm_equal (a b : Nat) {i : Nat} (hi : i < 4) : (if byteOf a i = byteOf b i then 2 ^ i else 0)
    = if elem8 (BitVec.ofNat 32 a) i = elem8 (BitVec.ofNat 32 b) i then 2 ^ i else 0 :=
  if_congr (by rw [byteOf_eq a hi, byteOf_eq b hi, BitVec.toNat_inj]) rfl rfl

theorem seqm_zero (a : Nat) {i : Nat} (hi : i < 4) : (if byteOf a i = 0 then 2 ^ (i + 4) else 0)
    = if elem8 (BitVec.ofNat 32 a) i = 0 then 2 ^ (4 + i) else 0 :=
  if_congr (by rw [byteOf_eq a hi, BitVec.toNat_eq]; rfl) (by rw [Nat.add_comm]) rfl

theorem aluSeqm_eq (a b : Nat) : aluSeqm a b = ((List.range 4).map fun i =>
    (if elem8 (BitVec.ofNat 32 a) i = elem8 (BitVec.ofNat 32 b) i then 2 ^ i else 0)
      + (if elem8 (BitVec.ofNat 32 a) i = 0 then 2 ^ (4 + i) else 0)).sum := by
  rw [sum_range_four, aluSeqm]
  simp only [seqm_equal _ _ (show 0 < 4 by decide), seqm_equal _ _ (show 1 < 4 by decide),
    seqm_equal _ _ (show 2 < 4 by decide), seqm_equal _ _ (show 3 < 4 by decide), seqm_zero _ (show 0 < 4 by decide),
    seqm_zero _ (show 1 < 4 by decide), seqm_zero _ (show 2 < 4 by decide), seqm_zero _ (show 3 < 4 by decide)]
  ac_rfl

/-- SFOLD of one byte: a letter goes to its other case without a carry. -/
theorem sfold_byte (up : Bool) (x : BitVec 8) :
    (if up then (if 0x61 ≤ x.toNat ∧ x.toNat ≤ 0x7A then x.toNat - 0x20 else x.toNat)
      else (if 0x41 ≤ x.toNat ∧ x.toNat ≤ 0x5A then x.toNat + 0x20 else x.toNat)) =
    (if up then (if 0x61 ≤ x.toNat ∧ x.toNat ≤ 0x7A then x - 0x20 else x)
      else (if 0x41 ≤ x.toNat ∧ x.toNat ≤ 0x5A then x + 0x20 else x)).toNat := by
  cases up
  · simp only [Bool.false_eq_true, if_false]
    split
    · bv_omega
    · rfl
  · simp only [if_true]
    split
    · bv_omega
    · rfl

/-! ### Hash and CRC (R74) -/

theorem hash32_eq (x : Nat) : hash32 x = (hashOf (BitVec.ofNat 32 x)).toNat := by
  have hxor (y : BitVec 32) (n : Nat) : Nat.xor y.toNat (y.toNat / 2 ^ n) = (y ^^^ (y >>> n)).toNat := by
    rw [BitVec.toNat_xor, BitVec.toNat_ushiftRight, Nat.shiftRight_eq_div_pow]; rfl
  have hmul (y c : Nat) : y * c % 2 ^ 32 = (BitVec.ofNat 32 y * BitVec.ofNat 32 c).toNat := by
    rw [BitVec.toNat_mul, BitVec.toNat_ofNat, BitVec.toNat_ofNat, ← Nat.mul_mod]
  simp only [hash32, hmul, hxor, ofNat_toNat_self]
  rfl

/-- One bit of the CRC. -/
theorem crcBits_eq (n : Nat) (x : BitVec 32) : crcBits n x.toNat = (crcOf x n).toNat := by
  induction n generalizing x with
  | zero => rfl
  | succ n ih =>
    have hstep : (if x.toNat % 2 = 1 then Nat.xor (x.toNat / 2) 0x82F63B78 else x.toNat / 2)
        = (if x.getLsbD 0 then (x >>> 1) ^^^ 0x82F63B78#32 else x >>> 1).toNat := by
      have hbit : x.getLsbD 0 = decide (x.toNat % 2 = 1) := by
        rw [BitVec.getLsbD, Nat.testBit_zero]
      have hshr : (x >>> 1).toNat = x.toNat / 2 := by
        rw [BitVec.toNat_ushiftRight, Nat.shiftRight_eq_div_pow]
      rw [hbit, ← hshr]
      by_cases h : x.toNat % 2 = 1
      · simp only [h, decide_true, if_true, BitVec.toNat_xor]; rfl
      · simp only [h, decide_false, if_false, Bool.false_eq_true]
    rw [crcBits, hstep, ih, crcOf, crcOf, List.range_succ_eq_map, List.foldl_cons, List.foldl_map]

/-! ### Strings (R128, R129) -/

/-- The order of the first different bytes among some. -/
def orderAmong (a b : BitVec 32) (js : List Nat) : Int × Bool :=
  match js.find? fun i => elem8 a i ≠ elem8 b i with
  | some i => (if (elem8 a i).toNat < (elem8 b i).toNat then -1 else 1, true)
  | none => (0, false)

theorem stringOrder_eq (a b : BitVec 32) (m : Nat) : stringOrder a b m = orderAmong a b (List.range m) := rfl

theorem orderAmong_cons (a b : BitVec 32) (i : Nat) (js : List Nat) : orderAmong a b (i :: js) =
    if elem8 a i ≠ elem8 b i then (if (elem8 a i).toNat < (elem8 b i).toNat then -1 else 1, true)
    else orderAmong a b js := by
  by_cases h : elem8 a i = elem8 b i <;> simp [orderAmong, h]

/-- SCMP's loop meets the bytes in order. -/
theorem scmpFrom_eq (a b : Nat) {m i : Nat} (h : i + m ≤ 4) :
    scmpFrom a b m i = orderAmong (BitVec.ofNat 32 a) (BitVec.ofNat 32 b) (List.range' i m) := by
  induction m generalizing i with
  | zero => rfl
  | succ m ih =>
    rw [scmpFrom, List.range'_succ, orderAmong_cons, ih (by omega), byteOf_eq a (by omega), byteOf_eq b (by omega)]
    simp only [ne_eq, BitVec.toNat_inj]

theorem aluScmp_eq (a b c : Nat) :
    let r := stringOrder (BitVec.ofNat 32 a) (BitVec.ofNat 32 b) (min (BitVec.ofNat 32 c).toNat 4)
    aluScmp a b c = (pat 32 r.1, decide ((BitVec.ofNat 32 c).toNat ≤ 4) || r.2) := by
  rw [stringOrder_eq, List.range_eq_range', ← scmpFrom_eq a b (by omega), aluScmp, wrapI_eq, uval_eq]
  rfl

end Sys2Proof.Machine

/-! ## Packed forms, narrowing and strings, and O5 -/

namespace Sys2Proof.Machine

open Sys2Proof.Claims

variable (gd : Guard) (d : Reg) (a b c : Operand)

/-- The products of elements, summed (R123, R71). -/
theorem dot_products (t : Ty16) (u : Ty8) (sat : Bool) :
    let x (e : Env) (o : Operand) (i : Nat) : Int := elemVal (Ty16.signed t) (elem16 (op32 e o) i)
    let y (e : Env) (o : Operand) (i : Nat) : Int := elemVal (Ty8.signed u) (elem8 (op32 e o) i)
    let s2 (e : Env) : Int := (op32 e c).toInt + x e a 0 * x e b 0 + x e a 1 * x e b 1
    let s4 (e : Env) : Int :=
      (op32 e c).toInt + y e a 0 * y e b 0 + y e a 1 * y e b 1 + y e a 2 * y e b 2 + y e a 3 * y e b 3
    Writes (.dp2 gd t sat d a b c) d 1 (fun e => (narrowed sat true 32 (s2 e)).toNat)
      (fun e => narrowFlag sat true 32 (s2 e))
    ∧ Writes (.dp4 gd u sat d a b c) d 1 (fun e => (narrowed sat true 32 (s4 e)).toNat)
      (fun e => narrowFlag sat true 32 (s4 e)) := by
  intro x y s2 s4
  refine ⟨writes_pair (fun _ => rfl) fun e => ?_, writes_pair (fun _ => rfl) fun e => ?_⟩
  · simp only [aluDp2, narrowI_eq, sval_32, ival_half16 _ _ Nat.zero_lt_two, ival_half16 _ _ Nat.one_lt_two]
    rfl
  · simp only [aluDp4, narrowI_eq, sval_32, ival_byteOf _ _ (show 0 < 4 by decide), ival_byteOf _ _ (show 1 < 4 by decide),
      ival_byteOf _ _ (show 2 < 4 by decide), ival_byteOf _ _ (show 3 < 4 by decide)]
    rfl

/-- The operations on pairs of 16-bit elements (R123, R124). -/
theorem packed_pairs (t : Ty16) (sat : Bool) :
    let x (e : Env) (o : Operand) (i : Nat) : Int := elemVal (Ty16.signed t) (elem16 (op32 e o) i)
    let n16 (z : Int) : BitVec 16 := narrowed sat (Ty16.signed t) 16 z
    let f16 (z : Int) : Flags := narrowFlag sat (Ty16.signed t) 16 z
    Writes (.padd2 gd t sat d a b) d 1 (fun e => ofElems16 fun i => n16 (x e a i + x e b i))
      (fun e => f16 (x e a 0 + x e b 0) ||| f16 (x e a 1 + x e b 1))
    ∧ Writes (.psub2 gd t sat d a b) d 1 (fun e => ofElems16 fun i => n16 (x e a i - x e b i))
      (fun e => f16 (x e a 0 - x e b 0) ||| f16 (x e a 1 - x e b 1))
    ∧ Writes (.pmax2 gd t d a b) d 1 (fun e => ofElems16 fun i => BitVec.ofInt 16 (max (x e a i) (x e b i)))
      (fun _ => 0)
    ∧ Writes (.pmin2 gd t d a b) d 1 (fun e => ofElems16 fun i => BitVec.ofInt 16 (min (x e a i) (x e b i)))
      (fun _ => 0) := by
  intro x n16 f16
  have hx (e : Env) (o : Operand) {i : Nat} (hi : i < 2) : ival (Ty16.signed t) 16 (half16 (opI e 1 o) i) = x e o i :=
    ival_half16 _ _ hi
  exact ⟨writes_pair (fun _ => rfl) fun e => elem2_narrowI fun i hi => by rw [hx e a hi, hx e b hi],
    writes_pair (fun _ => rfl) fun e => elem2_narrowI fun i hi => by rw [hx e a hi, hx e b hi],
    writes_nat (fun _ => rfl) fun e => elem2_wrapI fun i hi => by rw [hx e a hi, hx e b hi],
    writes_nat (fun _ => rfl) fun e => elem2_wrapI fun i hi => by rw [hx e a hi, hx e b hi]⟩

/-- The sum of absolute differences of bytes (R123). -/
theorem writes_sad4 :
    Writes (.sad4 gd d a b c) d 1 (fun e =>
        ((op32 e c).toNat + ((List.range 4).map fun i =>
          (((elem8 (op32 e a) i).toNat : Int) - (elem8 (op32 e b) i).toNat).natAbs).sum) % 2 ^ 32) (fun _ => 0) := by
  refine writes_nat (fun _ => rfl) fun e => ?_
  simp only [sum_range_four, aluSad4, byteOf_eq _ (show 0 < 4 by decide), byteOf_eq _ (show 1 < 4 by decide),
    byteOf_eq _ (show 2 < 4 by decide), byteOf_eq _ (show 3 < 4 by decide), uval_eq, op32, Nat.add_assoc]

/-- SHRND narrows a rounded shift (R125, R72), PACK two words (R126). -/
theorem narrowing_forms (t : NarrowTy) (u : Ty16) (src64 sat : Bool) :
    let w := NarrowTy.width t
    let sg := NarrowTy.signed t
    let av (e : Env) : Int :=
      if src64 then (BitVec.ofNat 64 (opI e 2 a)).toInt else (op32 e a).toInt
    let y (e : Env) : Int :=
      let n := (op32 e b).toNat % 64
      if n = 0 then av e else Int.fdiv (av e + 2 ^ (n - 1)) (2 ^ n)
    Writes (.shrnd gd t src64 sat d a b) d 1
      (fun e => pat 32 (elemVal sg (narrowed sat sg w (y e)))) (fun e => narrowFlag sat sg w (y e))
    ∧ Writes (.pack gd u sat d a b) d 1
      (fun e => ofElems16 fun i => narrowed sat (Ty16.signed u) 16 (op32 e (if i = 0 then a else b)).toInt)
      (fun e => narrowFlag sat (Ty16.signed u) 16 (op32 e a).toInt
        ||| narrowFlag sat (Ty16.signed u) 16 (op32 e b).toInt) := by
  intro w sg av y
  refine ⟨writes_pair (fun _ => rfl) fun e => ?_, writes_pair (fun _ => rfl) fun e => ?_⟩
  · have hw : 0 < NarrowTy.width t := by cases t <;> decide
    have hav : sval (if src64 then 64 else 32) (opI e (regs12 src64) a) = av e := by
      cases src64
      · exact sval_32 _
      · exact sval_eq (by decide) _
    simp only [aluShrnd, hav, narrowI_eq, ival_eq hw, ofNat_toNat_self, wrapI_eq, uval_eq]
    rfl
  · refine elem2_narrowI (g := fun i => (op32 e (if i = 0 then a else b)).toInt) fun i _ => ?_
    rw [sval_32, op32]
    split <;> rfl

/-- Byte comparison and letter folding (R128). -/
theorem byte_forms (up : Bool) :
    Writes (.seqm gd d a b) d 1 (fun e =>
      ((List.range 4).map fun i => (if elem8 (op32 e a) i = elem8 (op32 e b) i then 2 ^ i else 0)
        + (if elem8 (op32 e a) i = 0 then 2 ^ (4 + i) else 0)).sum) (fun _ => 0)
    ∧ Writes (.sfold gd up d a) d 1 (fun e =>
      ofElems8 fun i =>
        let x := elem8 (op32 e a) i
        if up then (if 0x61 ≤ x.toNat ∧ x.toNat ≤ 0x7A then x - 0x20 else x)
        else (if 0x41 ≤ x.toNat ∧ x.toNat ≤ 0x5A then x + 0x20 else x)) (fun _ => 0) := by
  refine ⟨writes_nat (fun _ => rfl) fun _ => aluSeqm_eq _ _, writes_nat (fun _ => rfl) fun e => ofBytes4_eq fun i hi => ?_⟩
  rw [byteOf_eq _ hi]
  exact sfold_byte up _

/-- Hash and CRC (R74). -/
theorem hash_forms :
    Writes (.hash gd d a) d 1 (fun e => (hashOf (op32 e a)).toNat) (fun _ => 0)
    ∧ Writes (.crc gd d a b) d 1 (fun e => (crcOf (op32 e a ^^^ op32 e b) 32).toNat) (fun _ => 0) :=
  ⟨writes_nat (fun _ => rfl) fun _ => hash32_eq _,
    writes_nat (fun _ => rfl) fun e => crcBits_eq 32 (op32 e a ^^^ op32 e b)⟩

end Sys2Proof.Machine

namespace Sys2Proof

open Sys2Proof.Machine Sys2Proof.Claims

/-- Settles O5: the forms on patterns are those on the elements as bit vectors. -/
theorem packedNarrowingAndStringForms : Obligations.PackedNarrowingAndStringForms := by
  refine ⟨fun gd t u sat d a b c => ?_, fun gd t u src64 sat d a b => narrowing_forms gd d a b t u src64 sat,
    fun gd up d a b => ?_, fun gd d a b c k => writes_withPred (fun _ => rfl) fun e => aluScmp_eq .., by decide +kernel⟩
  · obtain ⟨hdp2, hdp4⟩ := dot_products gd d a b c t u sat
    obtain ⟨hadd, hsub, hmax, hmin⟩ := packed_pairs gd d a b t sat
    exact ⟨hdp2, hdp4, hadd, hsub, hmax, hmin, writes_sad4 gd d a b c⟩
  · obtain ⟨hseqm, hsfold⟩ := byte_forms gd d a b up
    exact ⟨hseqm, hsfold, hash_forms gd d a b⟩

end Sys2Proof

/-! ## Conversions between integer types (R67, R119), and O13 -/

namespace Sys2Proof.Machine

open Sys2Proof.Claims

theorem cvtWidth_pos (t : CvtTy) : 0 < cvtWidth t := by cases t <;> decide

/-- A pattern is placed by its value, where it is narrower than a register (R119). -/
theorem cvtPlace_toNat (t : CvtTy) (r : BitVec (cvtWidth t)) :
    cvtPlace t r.toNat = if cvtWidth t < 32 then pat 32 (elemVal (cvtSigned t) r) else r.toNat := by
  rw [cvtPlace, wrapI_eq, ival_eq (cvtWidth_pos t), ofNat_toNat_self]
  rfl

theorem aluCvt_int {dst src : CvtTy} (hdst : dst.float = false) (hsrc : src.float = false) (sat : Bool) (rm : Rm)
    (fz32 fz64 : Bool) (a : Nat) :
    let x : Int := elemVal (cvtSigned src) (BitVec.ofNat (cvtWidth src) a)
    aluCvt dst src sat rm fz32 fz64 a =
      (cvtPlace dst (narrowed sat (cvtSigned dst) (cvtWidth dst) x).toNat,
        narrowFlag sat (cvtSigned dst) (cvtWidth dst) x) := by
  simp only [aluCvt, hdst, hsrc, Bool.false_eq_true, if_false, ival_eq (cvtWidth_pos src), narrowI_eq]

end Sys2Proof.Machine

namespace Sys2Proof

open Sys2Proof.Machine Sys2Proof.Claims

/-- Settles O13: the source's value is narrowed, and its pattern placed. -/
theorem integerConversionsWrapOrClamp : Obligations.IntegerConversionsWrapOrClamp := by
  intro gd dst src sat d a hdst hsrc x r
  refine writes_pair (fun _ => rfl) fun e => ?_
  rw [opCvt, hsrc, if_neg Bool.false_ne_true, aluCvt_int hdst hsrc, cvtPlace_toNat]

end Sys2Proof

/-! ## Rounding to any format, E4M3 among them (R53, R63) -/

namespace Sys2Proof.Machine

open Sys2Proof.Claims

/-! ### Formats by their magnitudes -/

/-- The finite codes of a format are those up to a largest magnitude, each of the value of its magnitude. -/
structure Graded (f : Fmt) : Prop where
  mb : 1 ≤ f.mb
  eb : 2 ≤ f.eb
  codeVal_eq : ∀ c, codeVal f c =
    if magOf f c ≤ fmtMax f then some (signQ (negOf f c) * magVal f (magOf f c)) else none
  max_lt : fmtMax f < 2 ^ (f.eb + f.mb)
  largest_eq : largest f = magVal f (fmtMax f)

theorem Ieee.graded {f : Fmt} (hf : Ieee f) : Graded f :=
  ⟨hf.mb, hf.eb, Machine.codeVal_eq hf, fmtMax_lt hf, Machine.largest_eq hf⟩

theorem ieee_fmt16 : Ieee fmt16 := ⟨rfl, by decide, by decide⟩
theorem ieee_fmtB16 : Ieee fmtB16 := ⟨rfl, by decide, by decide⟩
theorem ieee_fmtE5m2 : Ieee fmtE5m2 := ⟨rfl, by decide, by decide⟩

/-- E4M3 has one magnitude that is no number, the one above 448 (R53). -/
theorem fpRead_e4m3 (c : Nat) : fpRead fmtE4m3 c =
    if magOf fmtE4m3 c ≤ fmtMax fmtE4m3 then
      (if magOf fmtE4m3 c / 2 ^ fmtE4m3.mb = 0 then
        .fin (negOf fmtE4m3 c) (magOf fmtE4m3 c % 2 ^ fmtE4m3.mb) (gridExp fmtE4m3)
       else .fin (negOf fmtE4m3 c) (2 ^ fmtE4m3.mb + magOf fmtE4m3 c % 2 ^ fmtE4m3.mb)
        (((magOf fmtE4m3 c / 2 ^ fmtE4m3.mb : Nat) : Int) - fmtE4m3.bias - fmtE4m3.mb))
    else .nan false := by
  have hnan : (c / 2 ^ fmtE4m3.mb % 2 ^ fmtE4m3.eb = 2 ^ fmtE4m3.eb - 1 ∧ c % 2 ^ fmtE4m3.mb = 2 ^ fmtE4m3.mb - 1)
      ↔ ¬ magOf fmtE4m3 c ≤ fmtMax fmtE4m3 := by
    have hdm := Nat.div_add_mod' (magOf fmtE4m3 c) (2 ^ fmtE4m3.mb)
    rw [magOf_div, magOf_mod] at hdm
    simp only [fmtE4m3, fmtMax] at hdm ⊢
    omega
  rw [magOf_div, magOf_mod]
  simp only [fpRead, show fmtE4m3.top = .e4m3 from rfl, hnan, ite_not]
  rfl

theorem graded_fmtE4m3 : Graded fmtE4m3 where
  mb := by decide
  eb := by decide
  codeVal_eq c := by
    rw [codeVal, fpRead_e4m3]
    by_cases hfin : magOf fmtE4m3 c ≤ fmtMax fmtE4m3
    · by_cases hsub : magOf fmtE4m3 c / 2 ^ fmtE4m3.mb = 0 <;>
        simp only [hfin, hsub, if_true, if_false, magVal, signQ, mul_assoc]
    · simp only [hfin, if_false]
  max_lt := by decide
  largest_eq := by
    have hmax : fmtMax fmtE4m3 = 14 * 2 ^ fmtE4m3.mb + 14 := by decide
    rw [hmax, magVal_grid _ (by decide) (by decide)]
    norm_num [largest, gridExp, fmtE4m3]

theorem Graded.codeVal_fmtSigned {f : Fmt} (hf : Graded f) (neg : Bool) {n : Nat} (h : n ≤ fmtMax f) :
    codeVal f (fmtSigned f neg n) = some (signQ neg * magVal f n) := by
  have hlt : n < 2 ^ (f.eb + f.mb) := Nat.lt_of_le_of_lt h hf.max_lt
  rw [hf.codeVal_eq, magOf_fmtSigned f neg hlt, negOf_fmtSigned f neg hlt, if_pos h]

/-- The magnitude of a finite code. -/
theorem Graded.magVal_of_codeVal {f : Fmt} (hf : Graded f) {c : Nat} {x : ℚ} (h : codeVal f c = some x) :
    magOf f c ≤ fmtMax f ∧ x = signQ (negOf f c) * magVal f (magOf f c) := by
  rw [hf.codeVal_eq] at h
  split at h
  · next hfin => exact ⟨hfin, (Option.some.inj h).symm⟩
  · exact nomatch h

/-- The format of the same magnitudes and more, whose top exponent holds infinities and NaNs. -/
def widened (f : Fmt) : Fmt := { f with eb := f.eb + 1, top := .ieee }

theorem Graded.ieee_widened {f : Fmt} (hf : Graded f) : Ieee (widened f) := ⟨rfl, hf.mb, Nat.le_succ_of_le hf.eb⟩

theorem magVal_widened (f : Fmt) (n : Nat) : magVal (widened f) n = magVal f n := rfl

theorem Graded.fmtMax_le_widened {f : Fmt} (hf : Graded f) : fmtMax f ≤ fmtMax (widened f) := by
  have hlt := hf.max_lt
  have heb : 2 ^ f.eb ≤ 2 ^ (f.eb + 1) - 1 := by
    have := Nat.one_le_two_pow (n := f.eb)
    rw [Nat.pow_succ]
    omega
  have hmul : 2 ^ f.eb * 2 ^ f.mb ≤ (2 ^ (f.eb + 1) - 1) * 2 ^ f.mb := Nat.mul_le_mul_right _ heb
  rw [Nat.pow_add] at hlt
  rw [fmtMax_eq hf.ieee_widened]
  simp only [widened]
  omega

/-! ### Rounding on a grid -/

/-- `r` steps of 2^q are the value `x` rounded to the grid. -/
def RoundsAt (rm : Rm) (neg : Bool) (q : Int) (x : ℚ) (r : Nat) : Prop :=
  ∃ (k : Nat) (up : Bool), r = (if up then k + 1 else k) ∧ (k : ℚ) * 2 ^ q ≤ x ∧ x < ((k + 1 : Nat) : ℚ) * 2 ^ q
    ∧ Chosen rm neg k (k * 2 ^ q) (((k + 1 : Nat) : ℚ) * 2 ^ q) x up

theorem roundAt_rounds (rm : Rm) (neg : Bool) (m : Nat) (e q : Int) :
    RoundsAt rm neg q (m * 2 ^ e) (roundAt rm neg m e false q).1 := roundAt_spec rm neg m e q

/-- A multiple of the step is kept, and is exact. -/
theorem roundAt_exact (rm : Rm) (neg : Bool) {m k : Nat} {e q : Int} (h : (m : ℚ) * 2 ^ e = k * 2 ^ q) :
    roundAt rm neg m e false q = (k, false) := by
  by_cases hqe : q ≤ e
  · have hexp : (2 : ℚ) ^ e = 2 ^ (e - q).toNat * 2 ^ q := by
      rw [← zpow_natCast, ← zpow_add₀ (by norm_num)]; congr 1; omega
    rw [hexp, ← mul_assoc, mul_left_inj' (by positivity)] at h
    rw [roundAt, if_pos hqe, show m * 2 ^ (e - q).toNat = k by exact_mod_cast h]
  · have hexp : (2 : ℚ) ^ q = 2 ^ (q - e).toNat * 2 ^ e := by
      rw [← zpow_natCast, ← zpow_add₀ (by norm_num)]; congr 1; omega
    rw [hexp, ← mul_assoc, mul_left_inj' (by positivity)] at h
    obtain rfl : m = k * 2 ^ (q - e).toNat := by exact_mod_cast h
    have hpos : 0 < 2 ^ (q - e).toNat := by positivity
    have hhalf : (0 : Nat) ≠ 2 ^ ((q - e).toNat - 1) := (pow_pos Nat.zero_lt_two _).ne
    have hup : roundsUp rm neg k false false false = false := by cases rm <;> simp [roundsUp]
    simp [roundAt, hqe, Nat.mul_div_cancel _ hpos, hhalf, hup]

/-- What is inexact on the grid is no multiple of its step. -/
theorem roundAt_inexact_iff (rm : Rm) (neg : Bool) (m : Nat) (e q : Int) :
    (roundAt rm neg m e false q).2 = false ↔ ∃ k : Nat, (m : ℚ) * 2 ^ e = k * 2 ^ q := by
  refine ⟨fun h => ?_, fun ⟨k, hk⟩ => by rw [roundAt_exact rm neg hk]⟩
  by_cases hqe : q ≤ e
  · refine ⟨m * 2 ^ (e - q).toNat, ?_⟩
    have hexp : (2 : ℚ) ^ e = 2 ^ (e - q).toNat * 2 ^ q := by
      rw [← zpow_natCast, ← zpow_add₀ (by norm_num)]; congr 1; omega
    rw [hexp]; push_cast; ring
  · have hexp : (2 : ℚ) ^ q = 2 ^ (q - e).toNat * 2 ^ e := by
      rw [← zpow_natCast, ← zpow_add₀ (by norm_num)]; congr 1; omega
    have hmod : m % 2 ^ (q - e).toNat = 0 := by simpa [roundAt, hqe] using h
    refine ⟨m / 2 ^ (q - e).toNat, ?_⟩
    rw [hexp, ← mul_assoc]
    congr 1
    exact_mod_cast (Nat.div_mul_cancel (Nat.dvd_of_mod_eq_zero hmod)).symm

/-! ### Rounding what lies above a mantissa -/

/-- The choice depends on the sides of the middle and of the lower neighbour on which the value lies. -/
theorem Chosen.of_same_sides {rm : Rm} {neg : Bool} {k : Nat} {lo hi x y : ℚ} {up : Bool}
    (h : Chosen rm neg k lo hi x up) (habove : hi - x < x - lo ↔ hi - y < y - lo)
    (hbelow : x - lo < hi - x ↔ y - lo < hi - y) (hlo : lo < x ↔ lo < y) : Chosen rm neg k lo hi y up := by
  have htie : hi - x = x - lo ↔ hi - y = y - lo := by
    constructor
    · intro heq
      exact le_antisymm (not_lt.mp (mt hbelow.mpr heq.not_gt)) (not_lt.mp (mt habove.mpr heq.not_lt))
    · intro heq
      exact le_antisymm (not_lt.mp (mt hbelow.mp heq.not_gt)) (not_lt.mp (mt habove.mp heq.not_lt))
  cases rm with
  | rne =>
    simp only [Chosen, eq_comm (a := _ - lo)] at h ⊢
    rwa [← habove, ← hbelow, ← htie]
  | rna =>
    simp only [Chosen, ← not_lt] at h ⊢
    rwa [← hbelow]
  | rtz => exact h
  | rdn | rup =>
    simp only [Chosen] at h ⊢
    rwa [← decide_eq_decide.mpr hlo]

/-- Below the step, a sticky bit is one more bit of the mantissa. -/
theorem roundAt_sticky (rm : Rm) (neg : Bool) (m : Nat) {e q : Int} (hq : e < q) :
    (roundAt rm neg m e true q).1 = (roundAt rm neg (2 * m + 1) (e - 1) false q).1 := by
  obtain ⟨n, hn⟩ : ∃ n : Nat, (q - e).toNat = n + 1 := ⟨(q - e).toNat - 1, by omega⟩
  have hn' : (q - (e - 1)).toNat = n + 2 := by omega
  have hpow : 2 ^ (n + 2) = 2 * 2 ^ (n + 1) := by rw [Nat.pow_succ, Nat.mul_comm]
  have hhalf : 2 ^ (n + 1) = 2 * 2 ^ n := by rw [Nat.pow_succ, Nat.mul_comm]
  have hpos : 0 < 2 ^ (n + 1) := by positivity
  have hdiv : (2 * m + 1) / 2 ^ (n + 2) = m / 2 ^ (n + 1) := by
    rw [hpow, ← Nat.div_div_eq_div_mul]; congr 1; omega
  have hmod : (2 * m + 1) % 2 ^ (n + 2) = 2 * (m % 2 ^ (n + 1)) + 1 := by
    have h1 := Nat.div_add_mod (2 * m + 1) (2 ^ (n + 2))
    have h2 := Nat.div_add_mod m (2 ^ (n + 1))
    have h3 : 2 ^ (n + 2) * (m / 2 ^ (n + 1)) = 2 * (2 ^ (n + 1) * (m / 2 ^ (n + 1))) := by rw [hpow, Nat.mul_assoc]
    rw [hdiv, h3] at h1
    omega
  simp only [roundAt, if_neg (show ¬ q ≤ e by omega), if_neg (show ¬ q ≤ e - 1 by omega), hn, hn', hdiv, hmod,
    Nat.add_sub_cancel, show n + 2 - 1 = n + 1 by omega]
  congr 2
  generalize m % 2 ^ (n + 1) = r
  have habove : (decide (r > 2 ^ n) || (decide (r = 2 ^ n) && true)) = decide (2 * r + 1 > 2 ^ (n + 1)) := by
    rw [Bool.eq_iff_iff]; simp; omega
  have htie : decide (2 * r + 1 = 2 ^ (n + 1)) = false := by simp; omega
  have hmore : decide (2 * r + 1 ≠ 0) = true := by simp
  simp only [habove, htie, hmore, Bool.and_false, Bool.or_false, Bool.or_true, Bool.not_true, Bool.false_and]

/-- On a coarser grid, every value between a mantissa and the next is rounded alike. -/
theorem roundAt_sticky_rounds (rm : Rm) (neg : Bool) {m : Nat} {e q : Int} (hq : e < q) {x : ℚ} (hlo : (m : ℚ) * 2 ^ e < x)
    (hhi : x < (m + 1 : Nat) * 2 ^ e) : RoundsAt rm neg q x (roundAt rm neg m e true q).1 := by
  have hu : (0 : ℚ) < 2 ^ e := by positivity
  have hmid : ((2 * m + 1 : Nat) : ℚ) * 2 ^ (e - 1) = m * 2 ^ e + 2 ^ e / 2 := by
    rw [zpow_sub_one₀ (by norm_num)]; push_cast; ring
  obtain ⟨t, ht, hstep⟩ : ∃ t : Nat, 0 < t ∧ (2 : ℚ) ^ q = 2 * t * 2 ^ e := by
    refine ⟨2 ^ (q - e - 1).toNat, by positivity, ?_⟩
    have hexp : q = ((q - e - 1).toNat : Int) + 1 + e := by omega
    conv_lhs => rw [hexp, zpow_add₀ (by norm_num), zpow_add_one₀ (by norm_num), zpow_natCast]
    push_cast
    ring
  push_cast at hhi
  -- a whole number of steps of 2^e lies on one side of both
  have hside (a : Nat) : ((a : ℚ) * 2 ^ e < x ↔ (a : ℚ) * 2 ^ e < m * 2 ^ e + 2 ^ e / 2)
      ∧ (x < (a : ℚ) * 2 ^ e ↔ (m : ℚ) * 2 ^ e + 2 ^ e / 2 < a * 2 ^ e) := by
    rcases Nat.lt_or_ge m a with h | h
    · have hle : ((m + 1 : Nat) : ℚ) * 2 ^ e ≤ a * 2 ^ e := mul_le_mul_of_nonneg_right (by exact_mod_cast h) hu.le
      push_cast at hle
      exact ⟨iff_of_false (by linarith) (by linarith), iff_of_true (by linarith) (by linarith)⟩
    · have hle : (a : ℚ) * 2 ^ e ≤ m * 2 ^ e := mul_le_mul_of_nonneg_right (by exact_mod_cast h) hu.le
      exact ⟨iff_of_true (by linarith) (by linarith), iff_of_false (by linarith) (by linarith)⟩
  obtain ⟨k, up, hr, hklo, hkhi, hch⟩ := roundAt_rounds rm neg (2 * m + 1) (e - 1) q
  have hkq : (k : ℚ) * 2 ^ q = (2 * t * k : Nat) * 2 ^ e := by rw [hstep]; push_cast; ring
  have hk1q : ((k + 1 : Nat) : ℚ) * 2 ^ q = (2 * t * (k + 1) : Nat) * 2 ^ e := by rw [hstep]; push_cast; ring
  have hc : ((t * (2 * k + 1) : Nat) : ℚ) * 2 ^ e = (k * 2 ^ q + (k + 1 : Nat) * 2 ^ q) / 2 := by
    rw [hstep]; push_cast; ring
  rw [hmid] at hklo hkhi hch
  have hcside := hside (t * (2 * k + 1))
  rw [hc] at hcside
  refine ⟨k, up, (roundAt_sticky rm neg m hq).trans hr, ?_, ?_, hch.of_same_sides ?_ ?_ ?_⟩
  · rw [hkq] at hklo ⊢
    exact not_lt.mp (mt (hside _).2.mp hklo.not_gt)
  · rw [hk1q] at hkhi ⊢
    exact (hside _).2.mpr hkhi
  · constructor <;> intro h
    · linarith [hcside.1.mpr (by linarith)]
    · linarith [hcside.1.mp (by linarith)]
  · constructor <;> intro h
    · linarith [hcside.2.mpr (by linarith)]
    · linarith [hcside.2.mp (by linarith)]
  · rw [hkq]
    exact (hside _).1.symm

/-! ### Rounding among the magnitudes -/

/-- Magnitude `r` is the positive value `x` rounded among the magnitudes of a format. -/
def RoundsMag (f : Fmt) (rm : Rm) (neg : Bool) (x : ℚ) (r : Nat) : Prop :=
  ∃ (n k : Nat) (up : Bool), magVal f n ≤ x ∧ x < magVal f (n + 1) ∧ k % 2 = n % 2
    ∧ Chosen rm neg k (magVal f n) (magVal f (n + 1)) x up ∧ r = if up then n + 1 else n

/-- The magnitude that `fpRound` makes of a mantissa. -/
def roundMag (f : Fmt) (rm : Rm) (neg : Bool) (m : Nat) (e : Int) (sticky : Bool) : Nat :=
  (roundExp f m e - gridExp f).toNat * 2 ^ f.mb + (roundAt rm neg m e sticky (roundExp f m e)).1

/-- Without flushing, `fpRound` delivers a magnitude that is finite, with no flag where it is exact. -/
theorem fpRound_of_le {f : Fmt} {rm : Rm} {neg sticky : Bool} {m : Nat} {e : Int} (sat : Bool)
    (h : roundMag f rm neg m e sticky ≤ fmtMax f) :
    (fpRound f rm false sat neg m e sticky).1 = fmtSigned f neg (roundMag f rm neg m e sticky)
      ∧ ((roundAt rm neg m e sticky (roundExp f m e)).2 = false → (fpRound f rm false sat neg m e sticky).2 = 0) := by
  have hq : (if (Nat.log2 m + e - f.mb : Int) < 1 - f.bias - f.mb then (1 - f.bias - f.mb : Int)
      else Nat.log2 m + e - f.mb) = roundExp f m e := by
    rw [roundExp, gridExp]
    split <;> omega
  have hj : roundExp f m e + f.mb + f.bias - 1 = roundExp f m e - gridExp f := by rw [gridExp]; omega
  rw [roundMag] at h
  simp only [fpRound, Bool.and_false, Bool.false_eq_true, if_false, hq, hj, if_neg (Nat.not_lt.mpr h)]
  exact ⟨rfl, fun hexact => by rw [hexact, Bool.and_false]; rfl⟩

/-- A mantissa rounded on its grid is rounded among the magnitudes. -/
theorem roundMag_rounds {f : Fmt} (hmb : 1 ≤ f.mb) {rm : Rm} {neg sticky : Bool} {m : Nat} {e : Int} {x : ℚ}
    (hge : (2 : ℚ) ^ ((Nat.log2 m : Int) + e) ≤ x) (hlt : x < 2 ^ ((Nat.log2 m : Int) + e + 1))
    (hx : RoundsAt rm neg (roundExp f m e) x (roundAt rm neg m e sticky (roundExp f m e)).1) :
    RoundsMag f rm neg x (roundMag f rm neg m e sticky) := by
  obtain ⟨k, up, hr, hlo, hhi, hch⟩ := hx
  obtain ⟨j, hj⟩ : ∃ j : Nat, roundExp f m e = gridExp f + j :=
    ⟨(roundExp f m e - gridExp f).toNat, by rw [roundExp]; omega⟩
  have hq : (0 : ℚ) < 2 ^ roundExp f m e := by positivity
  have hkmax : k + 1 ≤ 2 ^ (f.mb + 1) := by
    have htop : (2 : ℚ) ^ ((Nat.log2 m : Int) + e + 1) ≤ (2 ^ (f.mb + 1) : Nat) * 2 ^ roundExp f m e := by
      rw [Nat.cast_pow, Nat.cast_ofNat, ← zpow_natCast, ← zpow_add₀ (by norm_num)]
      exact zpow_le_zpow_right₀ (by norm_num) (by rw [roundExp]; push_cast; omega)
    exact_mod_cast lt_of_mul_lt_mul_right (hlo.trans_lt (hlt.trans_le htop)) hq.le
  have hkmin : j = 0 ∨ 2 ^ f.mb ≤ k := by
    refine or_iff_not_imp_left.mpr fun hj0 => Nat.lt_succ_iff.mp ?_
    have hexp : (2 : ℚ) ^ ((Nat.log2 m : Int) + e) = (2 ^ f.mb : Nat) * 2 ^ roundExp f m e := by
      rw [Nat.cast_pow, Nat.cast_ofNat, ← zpow_natCast, ← zpow_add₀ (by norm_num)]
      congr 1
      rw [roundExp] at hj ⊢
      omega
    rw [hexp] at hge
    exact_mod_cast lt_of_mul_lt_mul_right (hge.trans_lt hhi) hq.le
  have hvlo : magVal f (j * 2 ^ f.mb + k) = k * 2 ^ roundExp f m e := by
    rw [magVal_grid f (by omega) hkmin, hj]
  have hvhi : magVal f (j * 2 ^ f.mb + k + 1) = ((k + 1 : Nat) : ℚ) * 2 ^ roundExp f m e := by
    rw [Nat.add_assoc, magVal_grid f hkmax (by omega), hj]
  refine ⟨j * 2 ^ f.mb + k, k, up, hvlo ▸ hlo, hvhi ▸ hhi, ?_, by rw [hvlo, hvhi]; exact hch, ?_⟩
  · obtain ⟨b, hb⟩ : 2 ∣ j * 2 ^ f.mb := Dvd.dvd.mul_left (dvd_pow_self 2 (by omega)) j
    omega
  · rw [roundMag, hr, show (roundExp f m e - gridExp f).toNat = j by omega]
    split <;> omega

/-- An exact mantissa, and one with more below it, are rounded among the magnitudes. -/
theorem roundMag_false {f : Fmt} (hmb : 1 ≤ f.mb) (rm : Rm) (neg : Bool) {m : Nat} (hm : m ≠ 0) (e : Int) :
    RoundsMag f rm neg (m * 2 ^ e) (roundMag f rm neg m e false) :=
  roundMag_rounds hmb (log2_bounds hm e).1 (log2_bounds hm e).2 (roundAt_rounds ..)

theorem roundMag_true {f : Fmt} (hmb : 1 ≤ f.mb) (rm : Rm) (neg : Bool) {m : Nat} {e : Int} (hm : f.mb < Nat.log2 m) {x : ℚ}
    (hlo : (m : ℚ) * 2 ^ e < x) (hhi : x < (m + 1 : Nat) * 2 ^ e) : RoundsMag f rm neg x (roundMag f rm neg m e true) := by
  have hm0 : m ≠ 0 := by rintro rfl; rw [Nat.log2_zero] at hm; omega
  have htop : ((m + 1 : Nat) : ℚ) * 2 ^ e ≤ 2 ^ ((Nat.log2 m : Int) + e + 1) := by
    have hexp : (Nat.log2 m : Int) + e + 1 = ((Nat.log2 m + 1 : Nat) : Int) + e := by push_cast; ring
    rw [hexp, zpow_add₀ (by norm_num), zpow_natCast]
    exact mul_le_mul_of_nonneg_right (by exact_mod_cast Nat.lt_log2_self (n := m)) (by positivity)
  exact roundMag_rounds hmb ((log2_bounds hm0 e).1.trans hlo.le) (hhi.trans_le htop)
    (roundAt_sticky_rounds rm neg (by rw [roundExp]; omega) hlo hhi)

section
variable {f : Fmt} {rm : Rm} {neg : Bool} {x : ℚ} {r M : Nat}

/-- Rounding goes no further than a magnitude that the value does not pass. -/
theorem RoundsMag.le_of_le (h : RoundsMag f rm neg x r) (hx : x ≤ magVal f M) : r ≤ M := by
  obtain ⟨n, k, up, hlo, hhi, -, hch, rfl⟩ := h
  cases up with
  | false => exact (magVal_strictMono f).le_iff_le.mp (hlo.trans hx)
  | true => exact (magVal_strictMono f).lt_iff_lt.mp ((hch.lt_of_up hhi).trans_le hx)

/-- A magnitude's value is its own rounding. -/
theorem RoundsMag.eq_of_eq (h : RoundsMag f rm neg x r) (hx : x = magVal f M) : r = M := by
  refine le_antisymm (h.le_of_le hx.le) ?_
  obtain ⟨n, k, up, hlo, hhi, -, hch, rfl⟩ := h
  have hn : M < n + 1 := (magVal_strictMono f).lt_iff_lt.mp (hx ▸ hhi)
  split <;> omega

/-- Rounding among the values of more codes is rounding among those of fewer. -/
theorem roundsTo_of_more {f g : Fmt} {rm : Rm} {x : ℚ} {r r' : Nat} (h : RoundsTo g rm x r')
    (hcodes : ∀ c y, codeVal f c = some y → ∃ c', codeVal g c' = some y) (hr : codeVal f r = codeVal g r')
    (hpar : r % 2 = r' % 2) : RoundsTo f rm x r := by
  obtain ⟨v, hv, hbest⟩ := h
  refine ⟨v, hr.trans hv, fun c y hc hne => ?_⟩
  obtain ⟨c', hc'⟩ := hcodes c y hc
  have hy := hbest c' y hc' hne
  cases rm with
  | rne => rw [hpar]; exact hy
  | _ => exact hy

theorem fmtSigned_parity (hmb : 1 ≤ f.mb) (neg : Bool) (n : Nat) : fmtSigned f neg n % 2 = n % 2 := by
  obtain ⟨b, hb⟩ : 2 ∣ 2 ^ (f.eb + f.mb) := dvd_pow_self 2 (by omega)
  rw [fmtSigned]
  split <;> omega

/-- A finite magnitude under a sign is the signed value rounded in the mode. -/
theorem RoundsMag.roundsTo (hf : Graded f) (h : RoundsMag f rm neg x r) (hx0 : 0 < x) (hr : r ≤ fmtMax f) :
    RoundsTo f rm (signQ neg * x) (fmtSigned f neg r) := by
  have hwide := hf.ieee_widened
  have hmax := hf.fmtMax_le_widened
  have hto : RoundsTo (widened f) rm (signQ neg * x) (fmtSigned (widened f) neg r) := by
    obtain ⟨n, k, up, hlo, hhi, hk, hch, rfl⟩ := h
    exact roundsTo_of_chosen hwide hx0 hlo hhi hk hch (codeVal_fmtSigned hwide neg (hr.trans hmax))
      (fmtSigned_mod_two hwide neg _)
  refine roundsTo_of_more hto (fun c y hc => ?_) ?_ ?_
  · obtain ⟨hfin, rfl⟩ := hf.magVal_of_codeVal hc
    exact ⟨_, codeVal_fmtSigned hwide (negOf f c) (hfin.trans hmax)⟩
  · rw [hf.codeVal_fmtSigned neg hr, codeVal_fmtSigned hwide neg (hr.trans hmax), magVal_widened]
  · rw [fmtSigned_parity hf.mb, fmtSigned_mod_two hwide]

end

/-! ### What `fpRound` delivers -/

section
variable {f : Fmt} (hf : Graded f) (rm : Rm) (sat neg : Bool)
include hf

/-- Where the magnitude is a value's rounding, the code is that of its signed value. -/
theorem fpRound_rounded_of_mag {m : Nat} {e : Int} {sticky : Bool} {x : ℚ} (hx0 : 0 < x)
    (h : RoundsMag f rm neg x (roundMag f rm neg m e sticky)) :
    Rounded f rm (signQ neg * x) (fpRound f rm false sat neg m e sticky).1 := by
  intro hmax _
  rw [abs_signQ_mul, abs_of_pos hx0, hf.largest_eq] at hmax
  have hr := h.le_of_le hmax
  rw [(fpRound_of_le sat hr).1]
  exact h.roundsTo hf hx0 hr

theorem fpRound_rounded {m : Nat} (hm : m ≠ 0) (e : Int) :
    Rounded f rm (signQ neg * (m * 2 ^ e)) (fpRound f rm false sat neg m e false).1 := by
  have hm0 : (0 : ℚ) < m := by exact_mod_cast Nat.pos_of_ne_zero hm
  exact fpRound_rounded_of_mag hf rm sat neg (by positivity) (roundMag_false hf.mb rm neg hm e)

theorem fpRound_sticky_rounded {m : Nat} {e : Int} (hm : f.mb < Nat.log2 m) {x : ℚ} (hlo : (m : ℚ) * 2 ^ e < x)
    (hhi : x < (m + 1 : Nat) * 2 ^ e) : Rounded f rm (signQ neg * x) (fpRound f rm false sat neg m e true).1 := by
  have hx0 : 0 < x := lt_of_le_of_lt (by positivity) hlo
  exact fpRound_rounded_of_mag hf rm sat neg hx0 (roundMag_true hf.mb rm neg hm hlo hhi)

/-- A value of the format is delivered as it is, with no flag. -/
theorem fpRound_representable {m n : Nat} (hm : m ≠ 0) {e : Int} (hn : n ≤ fmtMax f) (hx : (m : ℚ) * 2 ^ e = magVal f n) :
    fpRound f rm false sat neg m e false = (fmtSigned f neg n, 0) := by
  have hmag : roundMag f rm neg m e false = n := (roundMag_false hf.mb rm neg hm e).eq_of_eq hx
  obtain ⟨hval, hflag⟩ := fpRound_of_le sat (hmag.trans_le hn)
  rw [hmag] at hval
  refine Prod.ext hval (hflag ((roundAt_inexact_iff ..).mpr ?_))
  obtain ⟨j, k, rfl, hk, hj⟩ := exists_grid f n
  rw [magVal_grid f (by omega) hj] at hx
  have hle : roundExp f m e ≤ gridExp f + j := by
    have hlt : (2 : ℚ) ^ ((Nat.log2 m : Int) + e) < 2 ^ (((f.mb + 1 : Nat) : Int) + (gridExp f + j)) := by
      have htop : (k : ℚ) * 2 ^ (gridExp f + j) < (2 ^ (f.mb + 1) : Nat) * 2 ^ (gridExp f + j) :=
        mul_lt_mul_of_pos_right (by exact_mod_cast hk) (by positivity)
      rw [zpow_add₀ (by norm_num) ((f.mb + 1 : Nat) : Int), zpow_natCast, ← Nat.cast_ofNat (R := ℚ), ← Nat.cast_pow]
      exact ((log2_bounds hm e).1.trans_eq hx).trans_lt htop
    have hexp := (zpow_lt_zpow_iff_right₀ (by norm_num)).mp hlt
    rw [roundExp]
    push_cast at hexp
    omega
  refine ⟨k * 2 ^ (gridExp f + j - roundExp f m e).toNat, hx.trans ?_⟩
  have hexp : (2 : ℚ) ^ (gridExp f + j) = 2 ^ (gridExp f + j - roundExp f m e).toNat * 2 ^ roundExp f m e := by
    rw [← zpow_natCast, ← zpow_add₀ (by norm_num)]; congr 1; omega
  rw [hexp]
  push_cast
  ring

/-- The same of `fpRoundZ`, which keeps the sign of a zero. -/
theorem fpRoundZ_rounded (m : Nat) (e : Int) :
    Rounded f rm (signQ neg * (m * 2 ^ e)) (fpRoundZ f rm false sat neg m e).1 := by
  intro hmax hne
  have hm : m ≠ 0 := fun hm => hne (by rw [hm, Nat.cast_zero, zero_mul, mul_zero])
  rw [fpRoundZ, if_neg hm]
  exact fpRound_rounded hf rm sat neg hm e hmax hne

theorem fpRoundZ_representable {m n : Nat} {e : Int} (hn : n ≤ fmtMax f) (hx : (m : ℚ) * 2 ^ e = magVal f n) :
    fpRoundZ f rm false sat neg m e = (fmtSigned f neg n, 0) := by
  rw [fpRoundZ]
  split
  · next hm =>
    rw [hm, Nat.cast_zero, zero_mul, ← magVal_zero f] at hx
    rw [(magVal_strictMono f).injective hx]
  · next hm => exact fpRound_representable hf rm sat neg hm hn hx

end

/-- Few bits at an exponent of the format are a magnitude's value. -/
theorem exists_magVal (f : Fmt) {k : Nat} {q : Int} (hq : gridExp f ≤ q) (hk : k < 2 ^ (f.mb + 1)) :
    ∃ n, magVal f n = k * 2 ^ q := by
  obtain ⟨j, rfl⟩ : ∃ j : Nat, q = gridExp f + j := ⟨(q - gridExp f).toNat, by omega⟩
  induction j generalizing k with
  | zero => exact ⟨0 * 2 ^ f.mb + k, magVal_grid f hk.le (.inl rfl)⟩
  | succ j ih =>
    by_cases hbig : 2 ^ f.mb ≤ k
    · exact ⟨(j + 1) * 2 ^ f.mb + k, magVal_grid f hk.le (.inr hbig)⟩
    · obtain ⟨n, hn⟩ := ih (k := 2 * k) (by rw [Nat.pow_succ]; omega) (by omega)
      refine ⟨n, hn.trans ?_⟩
      rw [Nat.cast_succ, ← add_assoc, zpow_add_one₀ (by norm_num)]
      push_cast
      ring

end Sys2Proof.Machine

/-! ## The codes that float operations deliver (R53, R54) -/

namespace Sys2Proof.Machine

open Sys2Proof.Claims

/-- A code of a format as operations deliver it: the default NaN, or a sign over a finite magnitude or over infinity. -/
def IsCode (f : Fmt) (c : Nat) : Prop :=
  c = fmtNaN f ∨ ∃ neg n, (n ≤ fmtMax f ∨ n = fmtInf f) ∧ c = fmtSigned f neg n

@[simp] theorem isCode_nan (f : Fmt) : IsCode f (fmtNaN f) := .inl rfl

@[simp] theorem isCode_inf (f : Fmt) (neg : Bool) : IsCode f (fmtSigned f neg (fmtInf f)) := .inr ⟨neg, _, .inr rfl, rfl⟩

theorem isCode_finite {f : Fmt} (neg : Bool) {n : Nat} (h : n ≤ fmtMax f) : IsCode f (fmtSigned f neg n) :=
  .inr ⟨neg, n, .inl h, rfl⟩

@[simp] theorem isCode_zero (f : Fmt) (neg : Bool) : IsCode f (fmtSigned f neg 0) := isCode_finite neg (Nat.zero_le _)

@[simp] theorem isCode_max (f : Fmt) (neg : Bool) : IsCode f (fmtSigned f neg (fmtMax f)) := isCode_finite neg le_rfl

/-- A positive code is a magnitude. -/
theorem isCode_of_le {f : Fmt} {n : Nat} (h : n ≤ fmtMax f) : IsCode f n := by
  have hcode := isCode_finite false h
  rwa [fmtSigned, if_neg Bool.false_ne_true, Nat.zero_add] at hcode

theorem isCode_ite_of {f : Fmt} {c : Prop} [Decidable c] {x y : Nat × Flags} (hx : c → IsCode f x.1)
    (hy : ¬c → IsCode f y.1) : IsCode f (if c then x else y).1 := by
  split
  · next h => exact hx h
  · next h => exact hy h

theorem isCode_ite {f : Fmt} {c : Prop} [Decidable c] {x y : Nat × Flags} (hx : IsCode f x.1) (hy : IsCode f y.1) :
    IsCode f (if c then x else y).1 := isCode_ite_of (fun _ => hx) fun _ => hy

/-- Every magnitude and the NaN fit under the sign bit. -/
structure Fits (f : Fmt) : Prop where
  max : fmtMax f < 2 ^ (f.eb + f.mb)
  inf : fmtInf f < 2 ^ (f.eb + f.mb)
  nan : fmtNaN f < 2 ^ (f.eb + f.mb)

theorem fits_fmt32 : Fits fmt32 := ⟨by decide, by decide, by decide⟩
theorem fits_fmt16 : Fits fmt16 := ⟨by decide, by decide, by decide⟩
theorem fits_fmtB16 : Fits fmtB16 := ⟨by decide, by decide, by decide⟩
theorem fits_fmtE4m3 : Fits fmtE4m3 := ⟨by decide, by decide, by decide⟩
theorem fits_fmtE5m2 : Fits fmtE5m2 := ⟨by decide, by decide, by decide⟩

theorem IsCode.lt {f : Fmt} {c : Nat} (h : IsCode f c) (hf : Fits f) : c < 2 ^ fmtWidth f := by
  obtain ⟨hmax, hinf, hnan⟩ := hf
  have hpow : 2 ^ fmtWidth f = 2 ^ (f.eb + f.mb) + 2 ^ (f.eb + f.mb) := by
    rw [fmtWidth, Nat.add_assoc, Nat.add_comm, Nat.pow_succ]; omega
  rcases h with rfl | ⟨neg, n, hn, rfl⟩
  · omega
  · rw [fmtSigned]
    split <;> omega

/-- The one NaN among them is the default NaN. -/
theorem IsCode.eq_nan {f : Fmt} (hf : Ieee f) {c : Nat} (h : IsCode f c) (hnan : isNaNCode f c = true) : c = fmtNaN f := by
  refine h.resolve_right fun ⟨neg, n, hn, hc⟩ => ?_
  have hlt : n < 2 ^ (f.eb + f.mb) := by
    have hmax := fmtMax_lt hf
    have hinf : fmtInf f < 2 ^ f.eb * 2 ^ f.mb :=
      Nat.mul_lt_mul_of_pos_right (by have := hf.four_le; omega) (by positivity)
    rw [← Nat.pow_add] at hinf
    omega
  have hdiv : c / 2 ^ f.mb % 2 ^ f.eb = n / 2 ^ f.mb := by rw [← magOf_div, hc, magOf_fmtSigned f neg hlt]
  have hmod : c % 2 ^ f.mb = n % 2 ^ f.mb := by rw [← magOf_mod, hc, magOf_fmtSigned f neg hlt]
  rw [isNaNCode, hdiv, hmod, Bool.and_eq_true, decide_eq_true_eq, decide_eq_true_eq] at hnan
  rcases hn with hfin | rfl
  · exact (mag_finite_iff hf n hlt).mp hfin hnan.1
  · exact hnan.2 (Nat.mul_mod_left _ _)

/-! ### Rounding and exact arithmetic -/

/-- What an overflow delivers. -/
theorem overflowMag_cases (f : Fmt) (rm : Rm) (sat neg : Bool) :
    overflowMag f rm sat neg = fmtMax f ∨ overflowMag f rm sat neg = fmtInf f
      ∨ (f.top = .e4m3 ∧ overflowMag f rm sat neg = fmtNaN f) := by
  unfold overflowMag
  extract_lets toInf
  clear_value toInf
  cases toInf with
  | false => exact .inl rfl
  | true =>
    cases htop : f.top with
    | ieee =>
      cases sat with
      | true => exact .inl rfl
      | false => exact .inr (.inl rfl)
    | e4m3 =>
      cases sat with
      | true => exact .inl rfl
      | false => exact .inr (.inr ⟨rfl, rfl⟩)
    | finite => exact .inl rfl

@[simp] theorem isCode_fpRound (f : Fmt) (rm : Rm) (flush sat neg : Bool) (m : Nat) (e : Int) (sticky : Bool) :
    IsCode f (fpRound f rm flush sat neg m e sticky).1 := by
  refine isCode_ite (isCode_zero ..) (isCode_ite_of (fun _ => ?_) fun h => isCode_finite _ (Nat.not_lt.mp h))
  dsimp only
  split
  · next h => rw [h.2]; exact isCode_nan f
  · next h =>
    rcases overflowMag_cases f rm sat neg with hmax | hinf | hnan
    · rw [hmax]; exact isCode_max ..
    · rw [hinf]; exact isCode_inf ..
    · exact absurd hnan h

@[simp] theorem isCode_fpRoundZ (f : Fmt) (rm : Rm) (flush sat neg : Bool) (m : Nat) (e : Int) :
    IsCode f (fpRoundZ f rm flush sat neg m e).1 := isCode_ite (isCode_zero ..) (isCode_fpRound ..)

@[simp] theorem isCode_fpDeliver (f : Fmt) (rm : Rm) (flush sat : Bool) (v e : Int) (zneg : Bool) :
    IsCode f (fpDeliver f rm flush sat v e zneg).1 := isCode_ite (isCode_zero ..) (isCode_fpRound ..)

@[simp] theorem isCode_fpAddV (f : Fmt) (rm : Rm) (flush : Bool) (a b : FVal) : IsCode f (fpAddV f rm flush a b).1 := by
  unfold fpAddV
  dsimp only
  split
  case h_3 => exact isCode_ite (isCode_inf ..) (isCode_nan f)
  all_goals simp

@[simp] theorem isCode_fpMulV (f : Fmt) (rm : Rm) (flush : Bool) (a b : FVal) : IsCode f (fpMulV f rm flush a b).1 := by
  unfold fpMulV
  dsimp only
  split
  case h_4 | h_5 => exact isCode_ite (isCode_nan f) (isCode_inf ..)
  all_goals simp

@[simp] theorem isCode_fpFmaV (f : Fmt) (rm : Rm) (flush : Bool) (a b c : FVal) :
    IsCode f (fpFmaV f rm flush a b c).1 := by
  unfold fpFmaV
  dsimp only
  refine isCode_ite (isCode_nan f) ?_
  split
  case h_6 => exact isCode_ite (isCode_inf ..) (isCode_nan f)
  all_goals simp

@[simp] theorem isCode_fpCode (f : Fmt) (v : FVal) : IsCode f (fpCode f v) := by
  cases v <;> simp [fpCode]

@[simp] theorem isCode_fpMinMaxV (f : Fmt) (max : Bool) (a b : FVal) : IsCode f (fpMinMaxV f max a b).1 :=
  isCode_ite (isCode_nan f) (isCode_ite (isCode_fpCode ..) (isCode_ite (isCode_fpCode ..) (isCode_fpCode ..)))

@[simp] theorem isCode_fpRndV (f : Fmt) (rm : Rm) (a : FVal) : IsCode f (fpRndV f rm a).1 := by
  cases a <;> simp [fpRndV]

@[simp] theorem isCode_fpFracV (f : Fmt) (a : FVal) : IsCode f (fpFracV f a).1 := by
  unfold fpFracV
  split
  case h_3 => exact isCode_ite (isCode_zero ..) (isCode_fpRoundZ ..)
  all_goals simp

@[simp] theorem isCode_cvtFF (fs fd : Fmt) (rm : Rm) (fzS fzD sat : Bool) (a : Nat) :
    IsCode fd (cvtFF fs fd rm fzS fzD sat a).1 := by
  unfold cvtFF
  split
  case h_2 =>
    split
    · exact isCode_inf ..
    · exact isCode_ite (isCode_max ..) (isCode_nan fd)
  all_goals simp

/-! ### The operations on codes -/

@[simp] theorem isCode_fpAdd (f : Fmt) (rm : Rm) (fz : Bool) (a b : Nat) : IsCode f (fpAdd f rm fz a b).1 :=
  isCode_fpAddV ..
@[simp] theorem isCode_fpSub (f : Fmt) (rm : Rm) (fz : Bool) (a b : Nat) : IsCode f (fpSub f rm fz a b).1 :=
  isCode_fpAddV ..
@[simp] theorem isCode_fpMul (f : Fmt) (rm : Rm) (fz : Bool) (a b : Nat) : IsCode f (fpMul f rm fz a b).1 :=
  isCode_fpMulV ..
@[simp] theorem isCode_fpFma (f : Fmt) (rm : Rm) (fz : Bool) (a b c : Nat) : IsCode f (fpFma f rm fz a b c).1 :=
  isCode_fpFmaV ..
@[simp] theorem isCode_fpRnd (f : Fmt) (rm : Rm) (fz : Bool) (a : Nat) : IsCode f (fpRnd f rm fz a).1 := isCode_fpRndV ..
@[simp] theorem isCode_fpFrac (f : Fmt) (fz : Bool) (a : Nat) : IsCode f (fpFrac f fz a).1 := isCode_fpFracV ..

end Sys2Proof.Machine

/-! ## Packed halves, element by element (R115) -/

namespace Sys2Proof.Machine

open Sys2Proof.Claims

/-- A packed type and the format of its elements. -/
def PackedTy (t : FTy) (f : Fmt) : Prop := t = .f16x2 ∧ f = fmt16 ∨ t = .bf16x2 ∧ f = fmtB16

variable {t : FTy} {f : Fmt}

theorem PackedTy.ieee (h : PackedTy t f) : Ieee f := by
  rcases h with ⟨-, rfl⟩ | ⟨-, rfl⟩
  · exact ieee_fmt16
  · exact ieee_fmtB16

theorem PackedTy.lt (h : PackedTy t f) {c : Nat} (hc : IsCode f c) : c < 2 ^ 16 := by
  rcases h with ⟨-, rfl⟩ | ⟨-, rfl⟩
  · exact hc.lt fits_fmt16
  · exact hc.lt fits_fmtB16

/-- The parts of two elements put together. -/
theorem two_part {w x y : Nat} (hx : x < 2 ^ w) (hy : y < 2 ^ w) {j : Nat} (hj : j < 2) :
    (x + y * 2 ^ w) / 2 ^ (w * j) % 2 ^ w = if j = 0 then x else y := by
  obtain rfl | rfl : j = 0 ∨ j = 1 := by omega
  · simp [Nat.mod_eq_of_lt hx]
  · rw [Nat.mul_one, Nat.add_mul_div_right _ _ (by positivity), Nat.div_eq_of_lt hx, Nat.zero_add, Nat.mod_eq_of_lt hy]
    rfl

theorem elem2_part {r : Nat → Nat × Flags} (h : ∀ i, (r i).1 < 2 ^ 16) {j : Nat} (hj : j < 2) :
    (elem2 r).1 / 2 ^ (16 * j) % 2 ^ 16 = (r j).1 := by
  rw [elem2, two_part (h 0) (h 1) hj]
  obtain rfl | rfl : j = 0 ∨ j = 1 := by omega
  · rfl
  · rfl

theorem fElem1_packed (h : PackedTy t f) (g : Fmt → Nat → Nat × Flags) (a : Nat) :
    fElem1 t g a = elem2 fun i => g f (half16 a i) := by
  rcases h with ⟨rfl, rfl⟩ | ⟨rfl, rfl⟩ <;> rfl

theorem fElem2_packed (h : PackedTy t f) (g : Fmt → Nat → Nat → Nat × Flags) (a b : Nat) :
    fElem2 t g a b = elem2 fun i => g f (half16 a i) (half16 b i) := by
  rcases h with ⟨rfl, rfl⟩ | ⟨rfl, rfl⟩ <;> rfl

theorem fElem3_packed (h : PackedTy t f) (g : Fmt → Nat → Nat → Nat → Nat × Flags) (a b c : Nat) :
    fElem3 t g a b c = elem2 fun i => g f (half16 a i) (half16 b i) (half16 c i) := by
  rcases h with ⟨rfl, rfl⟩ | ⟨rfl, rfl⟩ <;> rfl

/-- An element of a result that is a code of the elements. -/
theorem packed_part (h : PackedTy t f) {r : Nat → Nat × Flags} (hr : ∀ i, IsCode f (r i).1) {j : Nat} (hj : j < 2) :
    (elem2 r).1 / 2 ^ (16 * j) % 2 ^ 16 = (r j).1 := elem2_part (fun i => h.lt (hr i)) hj

end Sys2Proof.Machine

/-! ## Sums and products of floats (R115, R118), and O11 -/

namespace Sys2Proof.Machine

open Sys2Proof.Claims

/-- A word writes the value and the flags that it gives. -/
theorem writes_result {i : Instr} {d : Reg} {k : Nat} {r : Env → Nat × Flags}
    (hexec : ∀ s, exec i s = aluWord i (some (d, k)) (fun e => .ofPair (r e)) s) :
    Writes i d k (fun e => (r e).1) (fun e => (r e).2) := writes_pair hexec fun _ => rfl

section
variable {f : Fmt} (hf : Ieee f) (rm : Rm) {a b c : Nat} {x y z : ℚ}
include hf

/-- An exact sum or product is delivered rounded. -/
theorem fpDeliver_rounds (v e : Int) (zneg : Bool) : Rounded f rm (v * 2 ^ e) (fpDeliver f rm false false v e zneg).1 :=
  fun hmax hne => fpDeliver_rounded hf rm (fun hv => hne (by rw [hv, Int.cast_zero, zero_mul])) zneg hmax hne

/-- The exact sum of two finite values. -/
theorem fpAddV_rounded (n n' : Bool) (m m' : Nat) (e e' : Int) :
    Rounded f rm (signQ n * (m * 2 ^ e) + signQ n' * (m' * 2 ^ e')) (fpAddV f rm false (.fin n m e) (.fin n' m' e')).1 := by
  have hsum := fpDeliver_rounds hf rm (scaleTo n m e (min e e') + scaleTo n' m' e' (min e e')) (min e e')
    (zeroSumNeg rm (m = 0 && m' = 0) n n')
  rwa [Int.cast_add, add_mul, scaleTo_mul_zpow n m (min_le_left e e'), scaleTo_mul_zpow n' m' (min_le_right e e')] at hsum

theorem fpAdd_rounded (ha : codeVal f a = some x) (hb : codeVal f b = some y) :
    Rounded f rm (x + y) (fpAdd f rm false a b).1 := by
  obtain ⟨n, m, e, hra, rfl⟩ := fpRead_of_codeVal ha
  obtain ⟨n', m', e', hrb, rfl⟩ := fpRead_of_codeVal hb
  rw [fpAdd, fpReadF_false, fpReadF_false, hra, hrb]
  exact fpAddV_rounded hf rm n n' m m' e e'

theorem fpSub_rounded (ha : codeVal f a = some x) (hb : codeVal f b = some y) :
    Rounded f rm (x - y) (fpSub f rm false a b).1 := by
  obtain ⟨n, m, e, hra, rfl⟩ := fpRead_of_codeVal ha
  obtain ⟨n', m', e', hrb, rfl⟩ := fpRead_of_codeVal hb
  have hneg : -(signQ n' * ((m' : ℚ) * 2 ^ e')) = signQ (!n') * (m' * 2 ^ e') := by cases n' <;> simp [signQ]
  rw [fpSub, fpReadF_false, fpReadF_false, hra, hrb, sub_eq_add_neg, hneg]
  exact fpAddV_rounded hf rm n (!n') m m' e e'

omit hf in
/-- The sign and the mantissa of a product. -/
theorem product_eq (n n' : Bool) (m m' : Nat) (e e' : Int) :
    signQ n * ((m : ℚ) * 2 ^ e) * (signQ n' * (m' * 2 ^ e')) = signQ (n != n') * ((m * m' : Nat) * 2 ^ (e + e')) := by
  rw [show signQ (n != n') = signQ n * signQ n' by cases n <;> cases n' <;> simp [signQ], zpow_add₀ (by norm_num)]
  push_cast
  ring

theorem fpMul_rounded (ha : codeVal f a = some x) (hb : codeVal f b = some y) :
    Rounded f rm (x * y) (fpMul f rm false a b).1 := by
  obtain ⟨n, m, e, hra, rfl⟩ := fpRead_of_codeVal ha
  obtain ⟨n', m', e', hrb, rfl⟩ := fpRead_of_codeVal hb
  rw [fpMul, fpReadF_false, fpReadF_false, hra, hrb, product_eq]
  exact fpRoundZ_rounded hf.graded rm false (n != n') (m * m') (e + e')

theorem fpFma_rounded (ha : codeVal f a = some x) (hb : codeVal f b = some y) (hc : codeVal f c = some z) :
    Rounded f rm (x * y + z) (fpFma f rm false a b c).1 := by
  obtain ⟨n, m, e, hra, rfl⟩ := fpRead_of_codeVal ha
  obtain ⟨n', m', e', hrb, rfl⟩ := fpRead_of_codeVal hb
  obtain ⟨n'', m'', e'', hrc, rfl⟩ := fpRead_of_codeVal hc
  rw [fpFma, fpReadF_false, fpReadF_false, fpReadF_false, hra, hrb, hrc, product_eq]
  exact fpAddV_rounded hf rm (n != n') n'' (m * m') m'' (e + e') e''

end

end Sys2Proof.Machine

namespace Sys2Proof

open Sys2Proof.Machine Sys2Proof.Claims

/-- The packed forms, element by element. -/
theorem packed_sums_and_products {t : FTy} {f : Fmt} (ht : PackedTy t f) (gd : Guard) (rm : Rm) (d : Reg) (a b c : Operand) :
    let each (i : Instr) (x : Env → Nat → Option ℚ) : Prop := ∃ v fl, Writes i d 1 v fl ∧ ∀ e j q, j < 2 →
      fz32 e.grp = false → x e j = some q → Rounded f rm q (v e / 2 ^ (16 * j) % 2 ^ 16)
    let at_ (e : Env) (o : Operand) (j : Nat) : Option ℚ := codeVal f (packedElem e t o j)
    each (.fadd gd t rm d a b) (fun e j => (at_ e a j).bind fun x => (at_ e b j).map fun y => x + y)
    ∧ each (.fsub gd t rm d a b) (fun e j => (at_ e a j).bind fun x => (at_ e b j).map fun y => x - y)
    ∧ each (.fmul gd t rm d a b) (fun e j => (at_ e a j).bind fun x => (at_ e b j).map fun y => x * y)
    ∧ each (.ffma gd t rm d a b c) (fun e j => (at_ e a j).bind fun x => (at_ e b j).bind fun y =>
        (at_ e c j).map fun z => x * y + z) := by
  refine ⟨⟨_, _, writes_result fun _ => rfl, fun e j q hj hfz hq => ?_⟩,
    ⟨_, _, writes_result fun _ => rfl, fun e j q hj hfz hq => ?_⟩,
    ⟨_, _, writes_result fun _ => rfl, fun e j q hj hfz hq => ?_⟩,
    ⟨_, _, writes_result fun _ => rfl, fun e j q hj hfz hq => ?_⟩⟩
  · obtain ⟨x, hx, y, hy, rfl⟩ : ∃ x, _ = some x ∧ ∃ y, _ = some y ∧ x + y = q := by
      simpa only [Option.bind_eq_some_iff, Option.map_eq_some_iff] using hq
    rw [fElem2_packed ht, packed_part ht (fun _ => isCode_fpAdd ..) hj, hfz]
    exact fpAdd_rounded ht.ieee rm hx hy
  · obtain ⟨x, hx, y, hy, rfl⟩ : ∃ x, _ = some x ∧ ∃ y, _ = some y ∧ x - y = q := by
      simpa only [Option.bind_eq_some_iff, Option.map_eq_some_iff] using hq
    rw [fElem2_packed ht, packed_part ht (fun _ => isCode_fpSub ..) hj, hfz]
    exact fpSub_rounded ht.ieee rm hx hy
  · obtain ⟨x, hx, y, hy, rfl⟩ : ∃ x, _ = some x ∧ ∃ y, _ = some y ∧ x * y = q := by
      simpa only [Option.bind_eq_some_iff, Option.map_eq_some_iff] using hq
    rw [fElem2_packed ht, packed_part ht (fun _ => isCode_fpMul ..) hj, hfz]
    exact fpMul_rounded ht.ieee rm hx hy
  · obtain ⟨x, hx, y, hy, z, hz, rfl⟩ : ∃ x, _ = some x ∧ ∃ y, _ = some y ∧ ∃ z, _ = some z ∧ x * y + z = q := by
      simpa only [Option.bind_eq_some_iff, Option.map_eq_some_iff] using hq
    rw [fElem3_packed ht, packed_part ht (fun _ => isCode_fpFma ..) hj, hfz]
    exact fpFma_rounded ht.ieee rm hx hy hz

/-- Settles O11: sums and products are exact until their one rounding, of F32 and FP64 and of each packed element. -/
theorem floatSumsAndProductsRoundCorrectly : Obligations.FloatSumsAndProductsRoundCorrectly := by
  refine ⟨fun gd rm t f d a b c ht => packed_sums_and_products ht gd rm d a b c, fun gd rm d a b c => ?_⟩
  refine ⟨⟨_, _, writes_result fun _ => rfl, fun e x y hfz hx hy => ?_⟩,
    ⟨_, _, writes_result fun _ => rfl, fun e x y hfz hx hy => ?_⟩,
    ⟨_, _, writes_result fun _ => rfl, fun e x y hfz hx hy => ?_⟩,
    ⟨_, _, writes_result fun _ => rfl, fun e x y z hfz hx hy hz => ?_⟩,
    ⟨_, _, writes_result fun _ => rfl, fun e x y hfz hx hy => ?_⟩,
    ⟨_, _, writes_result fun _ => rfl, fun e x y hfz hx hy => ?_⟩,
    ⟨_, _, writes_result fun _ => rfl, fun e x y hfz hx hy => ?_⟩,
    ⟨_, _, writes_result fun _ => rfl, fun e x y z hfz hx hy hz => ?_⟩⟩
  · rw [hfz]; exact fpAdd_rounded ieee_fmt32 rm hx hy
  · rw [hfz]; exact fpSub_rounded ieee_fmt32 rm hx hy
  · rw [hfz]; exact fpMul_rounded ieee_fmt32 rm hx hy
  · rw [hfz]; exact fpFma_rounded ieee_fmt32 rm hx hy hz
  · rw [hfz]; exact fpAdd_rounded ieee_fmt64 rm hx hy
  · rw [hfz]; exact fpSub_rounded ieee_fmt64 rm hx hy
  · rw [hfz]; exact fpMul_rounded ieee_fmt64 rm hx hy
  · rw [hfz]; exact fpFma_rounded ieee_fmt64 rm hx hy hz

end Sys2Proof

/-! ## Minimum and maximum, and default NaNs (R54, R116) -/

namespace Sys2Proof.Machine

open Sys2Proof.Claims

/-- FMIN and FMAX raise NV for a signalling NaN alone (R116). -/
theorem fpMinMaxV_snd {f : Fmt} (hf : Ieee f) (fz larger : Bool) (a b : Nat) :
    (fpMinMaxV f larger (fpReadF f fz a) (fpReadF f fz b)).2 = extremeFlag f a b := by
  have hquiet (c : Nat) (h : isNaNCode f c = false) : isSNaNCode f c = false := by rw [isSNaNCode, h, Bool.false_and]
  simp only [fpMinMaxV, extremeFlag, isNaN_fpReadF hf, flIf]
  cases ha : isNaNCode f a with
  | true => cases isNaNCode f b <;> rfl
  | false =>
    cases hb : isNaNCode f b with
    | true => rfl
    | false => simp [hquiet a ha, hquiet b hb]

theorem fpMinMaxV_eq {f : Fmt} (hf : Ieee f) (fz larger : Bool) (a b : Nat) :
    fpMinMaxV f larger (fpReadF f fz a) (fpReadF f fz b) = (extreme f fz larger a b, extremeFlag f a b) :=
  Prod.ext (fpMinMaxV_fst hf fz larger a b) (fpMinMaxV_snd hf fz larger a b)

/-- The packed extremes, element by element. -/
theorem packed_extremes {t : FTy} {f : Fmt} (ht : PackedTy t f) (fz larger : Bool) (a b : Nat) :
    fElem2 t (fun f a b => fpMinMaxV f larger (fpReadF f fz a) (fpReadF f fz b)) a b =
      (((List.range 2).map fun i => extreme f fz larger (half16 a i) (half16 b i) * 2 ^ (16 * i)).sum,
        extremeFlag f (half16 a 0) (half16 b 0) ||| extremeFlag f (half16 a 1) (half16 b 1)) := by
  rw [fElem2_packed ht]
  simp only [elem2, fpMinMaxV_eq ht.ieee]
  simp [List.range_succ]

theorem extreme_words (gd : Guard) (larger : Bool) (d : Reg) (a b : Operand) {t : FTy} {f : Fmt} (ht : PackedTy t f) :
    Writes (if larger then .fmax gd .f32 d a b else .fmin gd .f32 d a b) d 1
      (fun e => extreme fmt32 (fz32 e.grp) larger (opF e fmt32 a) (opF e fmt32 b))
      (fun e => extremeFlag fmt32 (opF e fmt32 a) (opF e fmt32 b))
    ∧ Writes (if larger then .fmax gd t d a b else .fmin gd t d a b) d 1
      (fun e => ((List.range 2).map fun i =>
        extreme f (fz32 e.grp) larger (packedElem e t a i) (packedElem e t b i) * 2 ^ (16 * i)).sum)
      (fun e => extremeFlag f (packedElem e t a 0) (packedElem e t b 0)
        ||| extremeFlag f (packedElem e t a 1) (packedElem e t b 1))
    ∧ Writes (if larger then .dmax gd d a b else .dmin gd d a b) d 2
      (fun e => extreme fmt64 (fz64 e.grp) larger (opF e fmt64 a) (opF e fmt64 b))
      (fun e => extremeFlag fmt64 (opF e fmt64 a) (opF e fmt64 b)) := by
  cases larger
  · exact ⟨writes_pair (fun _ => rfl) fun _ => fpMinMaxV_eq ieee_fmt32 _ false _ _,
      writes_pair (fun _ => rfl) fun _ => packed_extremes ht _ false _ _,
      writes_pair (fun _ => rfl) fun _ => fpMinMaxV_eq ieee_fmt64 _ false _ _⟩
  · exact ⟨writes_pair (fun _ => rfl) fun _ => fpMinMaxV_eq ieee_fmt32 _ true _ _,
      writes_pair (fun _ => rfl) fun _ => packed_extremes ht _ true _ _,
      writes_pair (fun _ => rfl) fun _ => fpMinMaxV_eq ieee_fmt64 _ true _ _⟩

/-! ### The special functions deliver codes -/

@[simp] theorem isCode_posInf (f : Fmt) : IsCode f (fmtInf f) := by
  have h := isCode_inf f false
  rwa [fmtSigned, if_neg Bool.false_ne_true, Nat.zero_add] at h

@[simp] theorem isCode_posZero (f : Fmt) : IsCode f 0 := isCode_of_le (Nat.zero_le _)
@[simp] theorem isCode_one : IsCode fmt32 sp1 := isCode_of_le (by decide)
@[simp] theorem isCode_signed_one (neg : Bool) : IsCode fmt32 (fmtSigned fmt32 neg sp1) := isCode_finite neg (by decide)

@[simp] theorem isCode_spDeliver (fn : Nat) (rm : Rm) (fz neg : Bool) (v : Nat) (e : Int) (arg : Nat) :
    IsCode fmt32 (spDeliver fn rm fz neg v e arg).1 := isCode_ite (isCode_fpRound ..) (isCode_fpRound ..)

@[simp] theorem isCode_spJustBelowOne (rm : Rm) (fz neg : Bool) : IsCode fmt32 (spJustBelowOne rm fz neg).1 :=
  isCode_fpRound ..

variable (rm : Rm) (fz : Bool) (a : Nat)

theorem isCode_fRcp : IsCode fmt32 (fRcp rm fz a).1 := by
  unfold fRcp
  split
  case h_3 => exact isCode_ite (isCode_inf ..) (isCode_fpRound ..)
  all_goals simp

theorem isCode_fRsq : IsCode fmt32 (fRsq rm fz a).1 := by
  unfold fRsq
  split
  case h_2 => exact isCode_ite (isCode_nan _) (isCode_posZero _)
  case h_3 => exact isCode_ite (isCode_inf ..) (isCode_ite (isCode_nan _) (isCode_fpRound ..))
  all_goals simp

theorem isCode_fSqrt : IsCode fmt32 (fSqrt rm fz a).1 := by
  unfold fSqrt
  split
  case h_2 => exact isCode_ite (isCode_nan _) (isCode_posInf _)
  case h_3 => exact isCode_ite (isCode_zero ..) (isCode_ite (isCode_nan _) (isCode_fpRound ..))
  all_goals simp

theorem isCode_fExp2 : IsCode fmt32 (fExp2 rm fz a).1 := by
  unfold fExp2
  split
  case h_2 => dsimp only; split <;> simp
  case h_3 => exact isCode_ite isCode_one (isCode_ite (isCode_fpRound ..) (isCode_spDeliver ..))
  all_goals simp

theorem isCode_fLog2 : IsCode fmt32 (fLog2 rm fz a).1 := by
  unfold fLog2
  split
  case h_2 => exact isCode_ite (isCode_nan _) (isCode_posInf _)
  case h_3 =>
    dsimp only
    refine isCode_ite (isCode_inf ..) (isCode_ite (isCode_nan _) ?_)
    split
    · exact isCode_fpRoundZ ..
    · exact isCode_spDeliver ..
  all_goals simp

theorem isCode_fSin : IsCode fmt32 (fSin rm fz a).1 := by
  unfold fSin
  split
  case h_3 => exact isCode_ite (isCode_zero ..) (isCode_spDeliver ..)
  all_goals simp

theorem isCode_fCos : IsCode fmt32 (fCos rm fz a).1 := by
  unfold fCos
  split
  case h_3 => exact isCode_ite isCode_one (isCode_spDeliver ..)
  all_goals simp

theorem isCode_fTanh : IsCode fmt32 (fTanh rm fz a).1 := by
  unfold fTanh
  split
  case h_3 => exact isCode_ite (isCode_zero ..) (isCode_ite (isCode_spJustBelowOne ..) (isCode_spDeliver ..))
  all_goals simp

theorem isCode_fSgm : IsCode fmt32 (fSgm rm fz a).1 := by
  unfold fSgm
  split
  case h_2 => dsimp only; split <;> simp
  case h_3 =>
    exact isCode_ite (isCode_of_le (by decide)) (isCode_ite (isCode_spJustBelowOne ..) (isCode_ite (isCode_fpRound ..)
      (isCode_ite (isCode_spDeliver ..) (isCode_spDeliver ..))))
  all_goals simp

theorem isCode_fErf : IsCode fmt32 (fErf rm fz a).1 := by
  unfold fErf
  split
  case h_3 =>
    exact isCode_ite (isCode_zero ..) (isCode_ite (isCode_spJustBelowOne ..)
      (isCode_ite (isCode_fpRound ..) (isCode_fpRound ..)))
  all_goals simp

/-! ### NaN operands -/

/-- A NaN code is read as a NaN, flushed or not. -/
theorem fpReadF_of_isNaNCode {f : Fmt} (hf : Ieee f) {c : Nat} (h : isNaNCode f c = true) : ∃ s, fpReadF f fz c = .nan s := by
  have hnan := (isNaN_fpReadF hf fz c).1.trans h
  cases hread : fpReadF f fz c with
  | nan s => exact ⟨s, rfl⟩
  | inf _ | fin _ _ _ => rw [hread] at hnan; exact nomatch hnan

variable {fz a}

/-- Every operation of one operand takes a NaN to the default NaN. -/
theorem unary_nan {s : Bool} (h : fpReadF fmt32 fz a = .nan s) :
    (fpRnd fmt32 rm fz a).1 = fmtNaN fmt32 ∧ (fpFrac fmt32 fz a).1 = fmtNaN fmt32 ∧ (fRcp rm fz a).1 = fmtNaN fmt32
    ∧ (fRsq rm fz a).1 = fmtNaN fmt32 ∧ (fSqrt rm fz a).1 = fmtNaN fmt32 ∧ (fExp2 rm fz a).1 = fmtNaN fmt32
    ∧ (fLog2 rm fz a).1 = fmtNaN fmt32 ∧ (fSin rm fz a).1 = fmtNaN fmt32 ∧ (fCos rm fz a).1 = fmtNaN fmt32
    ∧ (fTanh rm fz a).1 = fmtNaN fmt32 ∧ (fSgm rm fz a).1 = fmtNaN fmt32 ∧ (fErf rm fz a).1 = fmtNaN fmt32 := by
  simp only [fpRnd, fpFrac, fpRndV, fpFracV, fRcp, fRsq, fSqrt, fExp2, fLog2, fSin, fCos, fTanh, fSgm, fErf, h, and_self]

theorem FVal.eq_nan {v : FVal} (h : v.isNaN = true) : ∃ s, v = .nan s := by
  cases v with
  | nan s => exact ⟨s, rfl⟩
  | inf _ | fin _ _ _ => exact nomatch h

/-- So do the sums and products, of a NaN in any place. -/
theorem fpAddV_nan {f : Fmt} {flush : Bool} {x y : FVal} (h : x.isNaN = true ∨ y.isNaN = true) :
    (fpAddV f rm flush x y).1 = fmtNaN f := by
  rcases h with h | h
  · obtain ⟨s, rfl⟩ := FVal.eq_nan h
    rfl
  · obtain ⟨s, rfl⟩ := FVal.eq_nan h
    cases x <;> rfl

theorem fpMulV_nan {f : Fmt} {flush : Bool} {x y : FVal} (h : x.isNaN = true ∨ y.isNaN = true) :
    (fpMulV f rm flush x y).1 = fmtNaN f := by
  rcases h with h | h
  · obtain ⟨s, rfl⟩ := FVal.eq_nan h
    rfl
  · obtain ⟨s, rfl⟩ := FVal.eq_nan h
    cases x <;> rfl

theorem fpFmaV_nan {f : Fmt} {flush : Bool} {x y z : FVal} (h : x.isNaN = true ∨ y.isNaN = true ∨ z.isNaN = true) :
    (fpFmaV f rm flush x y z).1 = fmtNaN f := by
  unfold fpFmaV
  extract_lets snan neg zeroInf
  clear_value snan neg zeroInf
  cases zeroInf with
  | true => rfl
  | false =>
    rcases h with h | h | h
    · obtain ⟨s, rfl⟩ := FVal.eq_nan h
      rfl
    · obtain ⟨s, rfl⟩ := FVal.eq_nan h
      cases x <;> rfl
    · obtain ⟨s, rfl⟩ := FVal.eq_nan h
      cases x <;> cases y <;> rfl

/-! ### The words -/

/-- A word of F32 codes that takes a NaN operand to the default NaN has no other NaN among its results (R54). -/
theorem writes_default_nan {i : Instr} {d : Reg} {r : Env → Nat × Flags} {os : List Operand}
    (hexec : ∀ s, exec i s = aluWord i (some (d, 1)) (fun e => .ofPair (r e)) s) (hcode : ∀ e, IsCode fmt32 (r e).1)
    (hnan : ∀ e, ∀ o ∈ os, (∃ s, fpReadF fmt32 (fz32 e.grp) (opF e fmt32 o) = .nan s) → (r e).1 = fmtNaN fmt32) :
    ∃ v fl, Writes i d 1 v fl ∧ ∀ e, (isNaNCode fmt32 (v e) = true → v e = 0x7FC00000)
      ∧ ∀ o ∈ os, isNaNCode fmt32 (opF e fmt32 o) = true → v e = 0x7FC00000 :=
  ⟨_, _, writes_result hexec, fun e => ⟨(hcode e).eq_nan ieee_fmt32, fun o ho h =>
    hnan e o ho (fpReadF_of_isNaNCode _ ieee_fmt32 h)⟩⟩

/-- A word of one operand. -/
theorem writes_default_nan_unary {i : Instr} {d : Reg} {a : Operand} {g : Bool → Nat → Nat × Flags}
    (hexec : ∀ s, exec i s = aluWord i (some (d, 1)) (fun e => .ofPair (g (fz32 e.grp) (opF e fmt32 a))) s)
    (hcode : ∀ fz c, IsCode fmt32 (g fz c).1)
    (hnan : ∀ fz c s, fpReadF fmt32 fz c = .nan s → (g fz c).1 = fmtNaN fmt32) :
    ∃ v fl, Writes i d 1 v fl ∧ ∀ e, (isNaNCode fmt32 (v e) = true → v e = 0x7FC00000)
      ∧ ∀ o ∈ [a], isNaNCode fmt32 (opF e fmt32 o) = true → v e = 0x7FC00000 :=
  writes_default_nan hexec (fun _ => hcode _ _) fun e o ho ⟨s, hs⟩ => hnan _ _ s (by rw [← hs, List.mem_singleton.mp ho])

/-- R54 for the F32 words. -/
theorem default_nan_words (gd : Guard) (rm : Rm) (d : Reg) (a b c : Operand) :
    let some_ (i : Instr) (os : List Operand) : Prop := ∃ v fl, Writes i d 1 v fl ∧ ∀ e,
      (isNaNCode fmt32 (v e) = true → v e = 0x7FC00000)
        ∧ ∀ o ∈ os, isNaNCode fmt32 (opF e fmt32 o) = true → v e = 0x7FC00000
    let one (i : Instr) : Prop := some_ i [a]
    some_ (.fadd gd .f32 rm d a b) [a, b] ∧ some_ (.fsub gd .f32 rm d a b) [a, b] ∧ some_ (.fmul gd .f32 rm d a b) [a, b]
    ∧ some_ (.ffma gd .f32 rm d a b c) [a, b, c] ∧ one (.frnd gd .f32 rm d a) ∧ one (.ffrac gd .f32 d a)
    ∧ one (.frcp gd rm d a) ∧ one (.frsq gd rm d a) ∧ one (.fsqrt gd rm d a)
    ∧ one (.fexp2 gd rm d a) ∧ one (.flog2 gd rm d a) ∧ one (.fsin gd rm d a)
    ∧ one (.fcos gd rm d a) ∧ one (.ftanh gd rm d a) ∧ one (.fsgm gd rm d a) ∧ one (.ferf gd rm d a) := by
  have hnan {e : Env} {o : Operand} (h : ∃ s, fpReadF fmt32 (fz32 e.grp) (opF e fmt32 o) = .nan s) :
      (fpReadF fmt32 (fz32 e.grp) (opF e fmt32 o)).isNaN = true := by
    obtain ⟨s, hs⟩ := h
    rw [hs]
    rfl
  have hneg {v : FVal} (h : v.isNaN = true) : v.negate.isNaN = true := by
    obtain ⟨s, rfl⟩ := FVal.eq_nan h
    rfl
  refine ⟨writes_default_nan (fun _ => rfl) (fun _ => isCode_fpAdd ..) fun e o ho h => ?_,
    writes_default_nan (fun _ => rfl) (fun _ => isCode_fpSub ..) fun e o ho h => ?_,
    writes_default_nan (fun _ => rfl) (fun _ => isCode_fpMul ..) fun e o ho h => ?_,
    writes_default_nan (fun _ => rfl) (fun _ => isCode_fpFma ..) fun e o ho h => ?_,
    writes_default_nan_unary (fun _ => rfl) (fun _ _ => isCode_fpRnd ..) fun _ _ _ h => ?_,
    writes_default_nan_unary (fun _ => rfl) (fun _ _ => isCode_fpFrac ..) fun _ _ _ h => ?_,
    writes_default_nan_unary (fun _ => rfl) (isCode_fRcp rm) fun _ _ _ h => ?_,
    writes_default_nan_unary (fun _ => rfl) (isCode_fRsq rm) fun _ _ _ h => ?_,
    writes_default_nan_unary (fun _ => rfl) (isCode_fSqrt rm) fun _ _ _ h => ?_,
    writes_default_nan_unary (fun _ => rfl) (isCode_fExp2 rm) fun _ _ _ h => ?_,
    writes_default_nan_unary (fun _ => rfl) (isCode_fLog2 rm) fun _ _ _ h => ?_,
    writes_default_nan_unary (fun _ => rfl) (isCode_fSin rm) fun _ _ _ h => ?_,
    writes_default_nan_unary (fun _ => rfl) (isCode_fCos rm) fun _ _ _ h => ?_,
    writes_default_nan_unary (fun _ => rfl) (isCode_fTanh rm) fun _ _ _ h => ?_,
    writes_default_nan_unary (fun _ => rfl) (isCode_fSgm rm) fun _ _ _ h => ?_,
    writes_default_nan_unary (fun _ => rfl) (isCode_fErf rm) fun _ _ _ h => ?_⟩
  · rcases List.mem_pair.mp ho with rfl | rfl
    · exact fpAddV_nan rm (.inl (hnan h))
    · exact fpAddV_nan rm (.inr (hnan h))
  · rcases List.mem_pair.mp ho with rfl | rfl
    · exact fpAddV_nan rm (.inl (hnan h))
    · exact fpAddV_nan rm (.inr (hneg (hnan h)))
  · rcases List.mem_pair.mp ho with rfl | rfl
    · exact fpMulV_nan rm (.inl (hnan h))
    · exact fpMulV_nan rm (.inr (hnan h))
  · rcases List.mem_cons.mp ho with rfl | ho
    · exact fpFmaV_nan rm (.inl (hnan h))
    · rcases List.mem_pair.mp ho with rfl | rfl
      · exact fpFmaV_nan rm (.inr (.inl (hnan h)))
      · exact fpFmaV_nan rm (.inr (.inr (hnan h)))
  all_goals simp only [unary_nan rm h]

end Sys2Proof.Machine

/-! ## Special functions where they are exact, and O12 (R122) -/

namespace Sys2Proof.Machine

open Sys2Proof.Claims

/-! ### Reading -/

/-- The bounds of a finite value that a code reads as. -/
theorem fpRead_fin_bounds {f : Fmt} {c : Nat} {n : Bool} {m : Nat} {e : Int} (h : fpRead f c = .fin n m e) :
    n = negOf f c ∧ m < 2 ^ (f.mb + 1) ∧ gridExp f ≤ e := by
  have hlt : c % 2 ^ f.mb < 2 ^ f.mb := Nat.mod_lt _ (by positivity)
  have hpow : 2 ^ (f.mb + 1) = 2 ^ f.mb + 2 ^ f.mb := by rw [Nat.pow_succ]; omega
  have hfinite : (if c / 2 ^ f.mb % 2 ^ f.eb = 0 then FVal.fin (negOf f c) (c % 2 ^ f.mb) (1 - (f.bias : Int) - f.mb)
      else .fin (negOf f c) (2 ^ f.mb + c % 2 ^ f.mb) ((c / 2 ^ f.mb % 2 ^ f.eb : Nat) - f.bias - f.mb)) = .fin n m e →
      n = negOf f c ∧ m < 2 ^ (f.mb + 1) ∧ gridExp f ≤ e := by
    intro h
    split at h
    · cases h
      exact ⟨rfl, by omega, le_rfl⟩
    · cases h
      exact ⟨rfl, by omega, by rw [gridExp]; omega⟩
  simp only [fpRead] at h
  split at h
  · split at h
    · split at h <;> exact nomatch h
    · exact hfinite h
  · split at h
    · exact nomatch h
    · exact hfinite h
  · exact hfinite h

/-- A code below zero reads as a negative value that is no zero. -/
theorem fpRead_of_neg {f : Fmt} {c : Nat} {x : ℚ} (h : codeVal f c = some x) (hx : x < 0) :
    ∃ m e, fpRead f c = .fin true m e ∧ m ≠ 0 := by
  obtain ⟨n, m, e, hread, rfl⟩ := fpRead_of_codeVal h
  have hpos : (0 : ℚ) ≤ m * 2 ^ e := by positivity
  cases n with
  | false =>
    rw [signQ, if_neg Bool.false_ne_true, one_mul] at hx
    exact absurd hx (not_lt.mpr hpos)
  | true =>
    refine ⟨m, e, hread, ?_⟩
    rintro rfl
    simp at hx

/-- A code of a value that is no zero. -/
theorem fpRead_of_ne_zero {f : Fmt} {c : Nat} {x : ℚ} (h : codeVal f c = some x) (hx : x ≠ 0) :
    ∃ n m e, fpRead f c = .fin n m e ∧ m ≠ 0 ∧ x = signQ n * (m * 2 ^ e) := by
  obtain ⟨n, m, e, hread, rfl⟩ := fpRead_of_codeVal h
  exact ⟨n, m, e, hread, by rintro rfl; simp at hx, rfl⟩

/-! ### Powers of two -/

/-- The F32 code of 2^k. -/
def powCode (k : Int) : Nat := (127 + k).toNat * 2 ^ 23

theorem powCode_le {k : Int} (hk : k ≤ 127) : powCode k ≤ fmtMax fmt32 := by
  have hmax : fmtMax fmt32 = 255 * 2 ^ 23 - 1 := rfl
  rw [powCode, hmax]
  omega

theorem magVal_powCode {k : Int} (hk : -126 ≤ k) : magVal fmt32 (powCode k) = 2 ^ k := by
  obtain ⟨j, hj⟩ : ∃ j : Nat, k = (j : Int) - 126 := ⟨(k + 126).toNat, by omega⟩
  have hcode : powCode k = j * 2 ^ fmt32.mb + 2 ^ fmt32.mb := by
    rw [powCode, show (127 + k).toNat = j + 1 by omega, Nat.succ_mul]
    rfl
  rw [hcode, magVal_grid fmt32 (by decide) (.inr le_rfl)]
  have hexp : k = (fmt32.mb : Int) + (gridExp fmt32 + j) := by
    rw [show gridExp fmt32 = -149 from rfl, show (fmt32.mb : Int) = 23 from rfl]
    omega
  rw [hexp, zpow_add₀ (by norm_num) (fmt32.mb : Int), zpow_natCast]
  push_cast
  ring

theorem fpRead_powCode {k : Int} (hlo : -126 ≤ k) (hhi : k ≤ 127) : fpRead fmt32 (powCode k) = .fin false (2 ^ 23) (k - 23) := by
  obtain ⟨j, hj, hj2⟩ : ∃ j : Nat, (127 + k).toNat = j ∧ (j : Int) = 127 + k := ⟨_, rfl, by omega⟩
  have hsign : j * 2 ^ 23 / 2 ^ 31 % 2 = 0 := by omega
  have hexp : j * 2 ^ 23 / 2 ^ 23 % 2 ^ 8 = j := by omega
  have hfrac : j * 2 ^ 23 % 2 ^ 23 = 0 := by omega
  have hj0 : j ≠ 0 := by omega
  have hj255 : j ≠ 2 ^ 8 - 1 := by omega
  have hek : (j : Int) - 127 - 23 = k - 23 := by omega
  simp only [fpRead, powCode, hj, fmt32, Nat.reduceAdd, hsign, hexp, hfrac, if_neg hj0, if_neg hj255, Nat.add_zero]
  simp [hek]

/-- A value that is a power of two is delivered as it is. -/
theorem fpRound_powCode (rm : Rm) {m : Nat} (hm : m ≠ 0) {e k : Int} (hlo : -126 ≤ k) (hhi : k ≤ 127)
    (hx : (m : ℚ) * 2 ^ e = 2 ^ k) : fpRound fmt32 rm false false false m e false = (powCode k, 0) := by
  rw [fpRound_representable ieee_fmt32.graded rm false false hm (powCode_le hhi) (hx.trans (magVal_powCode hlo).symm),
    fmtSigned, if_neg Bool.false_ne_true, Nat.zero_add]

/-! ### The functions -/

/-- Few bits at an exponent of the format are delivered as they are, a zero with its sign. -/
theorem fpRoundZ_exact {f : Fmt} (hf : Graded f) (rm : Rm) (sat neg : Bool) {k : Nat} {q : Int} (hq : gridExp f ≤ q)
    (hk : k < 2 ^ (f.mb + 1)) (hx : (k : ℚ) * 2 ^ q ≤ largest f) :
    ∃ n ≤ fmtMax f, magVal f n = k * 2 ^ q ∧ fpRoundZ f rm false sat neg k q = (fmtSigned f neg n, 0) := by
  obtain ⟨n, hn⟩ := exists_magVal f hq hk
  have hfit : n ≤ fmtMax f := by
    rw [← hn, hf.largest_eq] at hx
    exact (magVal_strictMono f).le_iff_le.mp hx
  exact ⟨n, hfit, hn, fpRoundZ_representable hf rm sat neg hfit hn.symm⟩

/-- FRCP of a value that is no zero. -/
theorem fRcp_of_read (rm : Rm) {fz n : Bool} {c m : Nat} {e : Int} (h : fpReadF fmt32 fz c = .fin n m e) (hm : m ≠ 0) :
    fRcp rm fz c = fpRound fmt32 rm fz false n (2 ^ 80 / m) (-80 - e) (decide (2 ^ 80 % m ≠ 0)) := by
  rw [fRcp, h]
  exact if_neg hm

theorem fRcp_powCode (rm : Rm) {k : Int} (hlo : -126 ≤ k) (hhi : k ≤ 126) :
    fRcp rm false (powCode k) = (powCode (-k), 0) := by
  have hread := (fpReadF_false fmt32 _).trans (fpRead_powCode hlo (by omega))
  have hdiv : 2 ^ 80 / 2 ^ 23 = 2 ^ 57 := by norm_num
  have hmod : decide (2 ^ 80 % 2 ^ 23 ≠ 0) = false := by norm_num
  rw [fRcp_of_read rm hread (by norm_num), hdiv, hmod]
  refine fpRound_powCode rm (by norm_num) (by omega) (by omega) ?_
  rw [show -k = (57 : Int) + (-80 - (k - 23)) by ring, zpow_add₀ (by norm_num)]
  norm_num

theorem fRcp_rounded (rm : Rm) {c : Nat} {x : ℚ} (hc : codeVal fmt32 c = some x) (hx : x ≠ 0) :
    Rounded fmt32 rm (1 / x) (fRcp rm false c).1 := by
  obtain ⟨n, m, e, hread, hm, rfl⟩ := fpRead_of_ne_zero hc hx
  obtain ⟨-, hm24, -⟩ := fpRead_fin_bounds hread
  have hm24' : m < 2 ^ 24 := hm24
  have hmpos : 0 < m := Nat.pos_of_ne_zero hm
  have hm0 : (0 : ℚ) < m := by exact_mod_cast hmpos
  have hu : (0 : ℚ) < 2 ^ (-80 - e) := by positivity
  have hinv : 1 / (signQ n * ((m : ℚ) * 2 ^ e)) = signQ n * (((2 ^ 80 : Nat) : ℚ) / m * 2 ^ (-80 - e)) := by
    have hsign : (signQ n)⁻¹ = signQ n := by cases n <;> norm_num [signQ]
    have hpow : ((2 ^ 80 : Nat) : ℚ) * 2 ^ (-80 - e) = (2 ^ e)⁻¹ := by
      rw [Nat.cast_pow, Nat.cast_ofNat, ← zpow_natCast, ← zpow_add₀ (by norm_num), ← zpow_neg]
      congr 1
      push_cast
      ring
    rw [one_div, mul_inv, hsign, mul_inv, div_mul_eq_mul_div, hpow]
    ring
  have hbig : 2 ^ 56 ≤ 2 ^ 80 / m := (Nat.le_div_iff_mul_le hmpos).mpr (by omega)
  rw [hinv, fRcp_of_read rm ((fpReadF_false fmt32 c).trans hread) hm]
  by_cases hr : 2 ^ 80 % m = 0
  · have hq : ((2 ^ 80 / m : Nat) : ℚ) = ((2 ^ 80 : Nat) : ℚ) / m :=
      Nat.cast_div (Nat.dvd_of_mod_eq_zero hr) hm0.ne'
    rw [← hq, show decide (2 ^ 80 % m ≠ 0) = false from decide_eq_false (not_not.mpr hr)]
    exact fpRound_rounded ieee_fmt32.graded rm false n (by omega) _
  · rw [show decide (2 ^ 80 % m ≠ 0) = true from decide_eq_true hr]
    have hdm := Nat.div_add_mod' (2 ^ 80) m
    have hrlt := Nat.mod_lt (2 ^ 80) hmpos
    refine fpRound_sticky_rounded ieee_fmt32.graded rm false n ?_ ?_ ?_
    · exact Nat.lt_of_lt_of_le (by decide) ((Nat.le_log2 (by omega)).mpr hbig)
    · refine mul_lt_mul_of_pos_right ((lt_div_iff₀ hm0).mpr ?_) hu
      exact_mod_cast (show 2 ^ 80 / m * m < 2 ^ 80 by omega)
    · refine mul_lt_mul_of_pos_right ((div_lt_iff₀ hm0).mpr ?_) hu
      exact_mod_cast (show 2 ^ 80 < (2 ^ 80 / m + 1) * m by rw [Nat.add_mul]; omega)

/-- FSQRT and FRSQ of a positive value at an odd exponent, where the root is exact. -/
theorem fSqrt_of_read (rm : Rm) {fz : Bool} {c m r : Nat} {e : Int} (h : fpReadF fmt32 fz c = .fin false m e) (hm : m ≠ 0)
    (hodd : ¬ e % 2 = 0) (hroot : isqrt (2 * m * 2 ^ 120) = r) (hexact : r * r = 2 * m * 2 ^ 120) :
    fSqrt rm fz c = fpRound fmt32 rm fz false false r ((e - 1) / 2 - 60) false := by
  rw [fSqrt, h]
  simp only [if_neg hm, Bool.false_eq_true, if_false, spRoot, if_neg hodd, hroot, hexact, ne_eq, not_true_eq_false,
    decide_false]

theorem fRsq_of_read (rm : Rm) {fz : Bool} {c m r : Nat} {e : Int} (h : fpReadF fmt32 fz c = .fin false m e) (hm : m ≠ 0)
    (hodd : ¬ e % 2 = 0) (hroot : isqrt (2 ^ 200 / (2 * m)) = r) (hexact : r * r = 2 ^ 200 / (2 * m))
    (hdvd : 2 ^ 200 % (2 * m) = 0) :
    fRsq rm fz c = fpRound fmt32 rm fz false false r (-100 - (e - 1) / 2) false := by
  rw [fRsq, h]
  simp only [if_neg hm, Bool.false_eq_true, if_false, if_neg hodd, hroot, hexact, hdvd, ne_eq, not_true_eq_false,
    decide_false, Bool.or_false]

theorem fSqrt_powCode (rm : Rm) {k : Int} (hlo : -63 ≤ k) (hhi : k ≤ 63) :
    fSqrt rm false (powCode (2 * k)) = (powCode k, 0) := by
  have hread := (fpReadF_false fmt32 _).trans (fpRead_powCode (k := 2 * k) (by omega) (by omega))
  have hroot : isqrt (2 * 2 ^ 23 * 2 ^ 120) = 2 ^ 72 := by decide +kernel
  rw [fSqrt_of_read rm hread (by norm_num) (by omega) hroot (by norm_num)]
  refine fpRound_powCode rm (by norm_num) (by omega) (by omega) ?_
  rw [show (2 * k - 23 - 1) / 2 - 60 = k - 72 by omega, show k = (72 : Int) + (k - 72) by ring, zpow_add₀ (by norm_num)]
  norm_num

theorem fRsq_powCode (rm : Rm) {k : Int} (hlo : -63 ≤ k) (hhi : k ≤ 63) :
    fRsq rm false (powCode (2 * k)) = (powCode (-k), 0) := by
  have hread := (fpReadF_false fmt32 _).trans (fpRead_powCode (k := 2 * k) (by omega) (by omega))
  have hroot : isqrt (2 ^ 200 / (2 * 2 ^ 23)) = 2 ^ 88 := by decide +kernel
  rw [fRsq_of_read rm hread (by norm_num) (by omega) hroot (by norm_num) (by norm_num)]
  refine fpRound_powCode rm (by norm_num) (by omega) (by omega) ?_
  rw [show -100 - (2 * k - 23 - 1) / 2 = -k - 88 by omega, show -k = (88 : Int) + (-k - 88) by ring,
    zpow_add₀ (by norm_num)]
  norm_num

/-- An integer among the values is a mantissa without bits below the point. -/
theorem scaleTo_integer {n : Bool} {m : Nat} {e k : Int} (hk : (k : ℚ) = signQ n * (m * 2 ^ e)) :
    (e ≥ 0 ∨ m % 2 ^ (-e).toNat = 0) ∧ scaleTo n (m / 2 ^ (-e).toNat) (max e 0) 0 = k := by
  have hscale (m' : Nat) (hm' : (m' : ℚ) * 2 ^ max e 0 = m * 2 ^ e) : scaleTo n m' (max e 0) 0 = k := by
    have h := scaleTo_mul_zpow n m' (le_max_right e 0)
    rw [zpow_zero, mul_one, hm', ← hk] at h
    exact_mod_cast h
  rcases le_or_gt 0 e with he | he
  · refine ⟨.inl he, hscale _ ?_⟩
    rw [max_eq_left he, show (-e).toNat = 0 by omega, pow_zero, Nat.div_one]
  · have hpow : (2 : ℚ) ^ e * 2 ^ (-e).toNat = 1 := by
      rw [← zpow_natCast, ← zpow_add₀ (by norm_num), show e + ((-e).toNat : Int) = 0 by omega, zpow_zero]
    have hm : m = k.natAbs * 2 ^ (-e).toNat := by
      have habs : (k.natAbs : ℚ) = m * 2 ^ e := by
        rw [Nat.cast_natAbs, Int.cast_abs, hk, abs_signQ_mul, abs_of_nonneg (by positivity)]
      have hq : (m : ℚ) = k.natAbs * 2 ^ (-e).toNat := by rw [habs, mul_assoc, hpow, mul_one]
      exact_mod_cast hq
    refine ⟨.inr (by rw [hm, Nat.mul_mod_left]), hscale _ ?_⟩
    rw [max_eq_right he.le, zpow_zero, mul_one]
    conv_lhs => rw [hm, Nat.mul_div_cancel _ (by positivity)]
    conv_rhs => rw [hm]
    push_cast
    rw [mul_assoc, mul_comm _ ((2 : ℚ) ^ e), hpow, mul_one]

/-- FEXP2 of an integer. -/
theorem fExp2_integer (rm : Rm) {c : Nat} {k : Int} (hc : codeVal fmt32 c = some (k : ℚ)) (hlo : -126 ≤ k) (hhi : k ≤ 127) :
    fExp2 rm false c = (powCode k, 0) := by
  obtain ⟨n, m, e, hread, hk⟩ := fpRead_of_codeVal hc
  rw [fExp2, fpReadF_false, hread]
  by_cases hm : m = 0
  · obtain rfl : k = 0 := by
      rw [hm, Nat.cast_zero, zero_mul, mul_zero] at hk
      exact_mod_cast hk
    simp only [if_pos hm]
    rfl
  · obtain ⟨hwhole, hscale⟩ := scaleTo_integer hk
    have hclamp : max (-1000) (min 1000 k) = k := by omega
    simp only [if_neg hm, if_pos hwhole, hscale, hclamp]
    exact fpRound_powCode rm Nat.one_ne_zero hlo hhi (by rw [Nat.cast_one, one_mul])

/-- FLOG2 of a mantissa that is a power of two. -/
theorem fLog2_of_read (rm : Rm) {fz : Bool} {c l : Nat} {e : Int} (h : fpReadF fmt32 fz c = .fin false (2 ^ l) e) :
    fLog2 rm fz c = fpRoundZ fmt32 rm fz false (decide ((l : Int) + e < 0)) ((l : Int) + e).natAbs 0 := by
  have hm : ¬ 2 ^ l = 0 := (pow_pos Nat.zero_lt_two l).ne'
  rw [fLog2, h]
  simp only [if_neg hm, Bool.false_eq_true, if_false, Nat.log2_two_pow, if_true]

theorem fLog2_powCode (rm : Rm) {k : Int} (hlo : -126 ≤ k) (hhi : k ≤ 127) :
    codeVal fmt32 (fLog2 rm false (powCode k)).1 = some (k : ℚ) ∧ (fLog2 rm false (powCode k)).2 = 0 := by
  have hread := (fpReadF_false fmt32 _).trans (fpRead_powCode hlo hhi)
  have hmax : ((k.natAbs : Nat) : ℚ) * 2 ^ (0 : Int) ≤ largest fmt32 := by
    have hle : ((k.natAbs : Nat) : ℚ) ≤ (127 : Nat) := by exact_mod_cast (show k.natAbs ≤ 127 by omega)
    rw [zpow_zero, mul_one]
    refine hle.trans ?_
    rw [largest, if_neg (by decide)]
    norm_num [fmt32]
  obtain ⟨n, hn, hval, hround⟩ := fpRoundZ_exact ieee_fmt32.graded rm false (decide (k < 0)) (k := k.natAbs) (q := 0)
    (by decide) (Nat.lt_of_le_of_lt (show k.natAbs ≤ 127 by omega) (by decide)) hmax
  rw [fLog2_of_read rm hread, show ((23 : Nat) : Int) + (k - 23) = k by push_cast; ring, hround]
  refine ⟨?_, rfl⟩
  rw [ieee_fmt32.graded.codeVal_fmtSigned _ hn, hval, natAbs_mul_zpow, zpow_zero, mul_one]

/-! ### The words -/

section
variable {i : Instr} {d : Reg} {a : Operand} {g : Bool → Nat → Nat × Flags}

/-- What a function gives of its unflushed operand, a word of it writes. -/
theorem writes_special (hexec : ∀ s, exec i s = aluWord i (some (d, 1)) (fun e => .ofPair (g (fz32 e.grp) (opF e fmt32 a))) s)
    {p : Nat → Nat → Flags → Prop} (h : ∀ c, p c (g false c).1 (g false c).2) :
    ∃ v fl, Writes i d 1 v fl ∧ ∀ e, fz32 e.grp = false → p (opF e fmt32 a) (v e) (fl e) :=
  ⟨_, _, writes_result hexec, fun e hfz => by rw [hfz]; exact h _⟩

/-- The results of some operands. -/
theorem writes_special_exact
    (hexec : ∀ s, exec i s = aluWord i (some (d, 1)) (fun e => .ofPair (g (fz32 e.grp) (opF e fmt32 a))) s)
    {ps : List (Nat × Nat × Flags)} (h : ps.Forall fun p => g false p.1 = p.2) :
    ∃ v fl, Writes i d 1 v fl ∧ ∀ e, fz32 e.grp = false →
      ∀ p ∈ ps, opF e fmt32 a = p.1 → v e = p.2.1 ∧ fl e = p.2.2 :=
  writes_special hexec (p := fun c r fl => ∀ p ∈ ps, c = p.1 → r = p.2.1 ∧ fl = p.2.2) fun c p hp hc => by
    rw [hc, List.forall_iff_forall_mem.mp h p hp]
    exact ⟨rfl, rfl⟩

/-- The results of the operands below zero. -/
theorem writes_special_below
    (hexec : ∀ s, exec i s = aluWord i (some (d, 1)) (fun e => .ofPair (g (fz32 e.grp) (opF e fmt32 a))) s)
    (h : ∀ c, (c = 0xFF800000 ∨ ∃ x, codeVal fmt32 c = some x ∧ x < 0) → g false c = (0x7FC00000, flNV)) :
    ∃ v fl, Writes i d 1 v fl ∧ ∀ e, fz32 e.grp = false →
      (opF e fmt32 a = 0xFF800000 ∨ ∃ x, codeVal fmt32 (opF e fmt32 a) = some x ∧ x < 0) →
        v e = 0x7FC00000 ∧ fl e = flNV :=
  writes_special hexec (p := fun c r fl => (c = 0xFF800000 ∨ ∃ x, codeVal fmt32 c = some x ∧ x < 0) →
    r = 0x7FC00000 ∧ fl = flNV) fun c hc => by rw [h c hc]; exact ⟨rfl, rfl⟩

end

/-- Operands below zero, −∞ among them, are invalid for a root and a logarithm. -/
theorem negative_operands (rm : Rm) {c : Nat} (h : c = 0xFF800000 ∨ ∃ x, codeVal fmt32 c = some x ∧ x < 0) :
    fRsq rm false c = (0x7FC00000, flNV) ∧ fSqrt rm false c = (0x7FC00000, flNV) ∧ fLog2 rm false c = (0x7FC00000, flNV) := by
  have hnan : fmtNaN fmt32 = 0x7FC00000 := rfl
  rcases h with rfl | ⟨x, hx, hneg⟩
  · exact ⟨rfl, rfl, rfl⟩
  · obtain ⟨m, e, hread, hm⟩ := fpRead_of_neg hx hneg
    simp only [fRsq, fSqrt, fLog2, fpReadF_false, hread, if_neg hm, if_true, hnan, and_self]

/-- R122: the special operands. -/
theorem special_operands (gd : Guard) (rm : Rm) (d : Reg) (a : Operand) :
    let of_ (i : Instr) (p : Nat → Nat → Flags → Prop) : Prop :=
      ∃ v fl, Writes i d 1 v fl ∧ ∀ e, fz32 e.grp = false → p (opF e fmt32 a) (v e) (fl e)
    let exact (i : Instr) (ps : List (Nat × Nat × Flags)) : Prop :=
      of_ i fun c r fl => ∀ p ∈ ps, c = p.1 → r = p.2.1 ∧ fl = p.2.2
    exact (.frcp gd rm d a) [(0, 0x7F800000, flDZ), (0x80000000, 0xFF800000, flDZ), (0x7F800000, 0, 0),
        (0xFF800000, 0x80000000, 0)]
    ∧ exact (.frsq gd rm d a) [(0, 0x7F800000, flDZ), (0x80000000, 0xFF800000, flDZ), (0x7F800000, 0, 0)]
    ∧ exact (.fsqrt gd rm d a) [(0, 0, 0), (0x80000000, 0x80000000, 0), (0x7F800000, 0x7F800000, 0)]
    ∧ exact (.fexp2 gd rm d a) [(0xFF800000, 0, 0), (0x7F800000, 0x7F800000, 0), (0, 0x3F800000, 0)]
    ∧ exact (.flog2 gd rm d a) [(0, 0xFF800000, flDZ), (0x80000000, 0xFF800000, flDZ), (0x3F800000, 0, 0),
        (0x7F800000, 0x7F800000, 0)]
    ∧ exact (.fsin gd rm d a) [(0, 0, 0), (0x80000000, 0x80000000, 0)] ∧ exact (.fcos gd rm d a) [(0, 0x3F800000, 0)]
    ∧ exact (.ftanh gd rm d a) [(0, 0, 0), (0x80000000, 0x80000000, 0), (0x7F800000, 0x3F800000, 0),
        (0xFF800000, 0xBF800000, 0)]
    ∧ exact (.fsgm gd rm d a) [(0xFF800000, 0, 0), (0x7F800000, 0x3F800000, 0), (0, 0x3F000000, 0)]
    ∧ exact (.ferf gd rm d a) [(0, 0, 0), (0x80000000, 0x80000000, 0), (0x7F800000, 0x3F800000, 0),
        (0xFF800000, 0xBF800000, 0)] :=
  ⟨writes_special_exact (g := fRcp rm) (fun _ => rfl) ⟨rfl, rfl, rfl, rfl⟩,
    writes_special_exact (g := fRsq rm) (fun _ => rfl) ⟨rfl, rfl, rfl⟩,
    writes_special_exact (g := fSqrt rm) (fun _ => rfl) ⟨rfl, rfl, rfl⟩,
    writes_special_exact (g := fExp2 rm) (fun _ => rfl) ⟨rfl, rfl, rfl⟩,
    writes_special_exact (g := fLog2 rm) (fun _ => rfl) ⟨rfl, rfl, rfl, rfl⟩,
    writes_special_exact (g := fSin rm) (fun _ => rfl) ⟨rfl, rfl⟩,
    writes_special_exact (g := fCos rm) (fun _ => rfl) rfl,
    writes_special_exact (g := fTanh rm) (fun _ => rfl) ⟨rfl, rfl, rfl, rfl⟩,
    writes_special_exact (g := fSgm rm) (fun _ => rfl) ⟨rfl, rfl, rfl⟩,
    writes_special_exact (g := fErf rm) (fun _ => rfl) ⟨rfl, rfl, rfl, rfl⟩⟩

end Sys2Proof.Machine

namespace Sys2Proof

open Sys2Proof.Machine Sys2Proof.Claims

/-- Settles O12: MIN and MAX go by the order of the codes; every result is a code of the format, whose one NaN is the
default; a power of two is a magnitude of the format, and 1 ÷ x is rounded from its quotient and a sticky bit. -/
theorem floatMinMaxAndDefaultNaNs : Obligations.FloatMinMaxAndDefaultNaNs := by
  refine ⟨fun gd larger d a b t f ht => extreme_words gd larger d a b ht,
    fun gd rm d a b c => default_nan_words gd rm d a b c, fun gd rm d a => ?_⟩
  obtain ⟨hrcp, hrsq, hsqrt, hexp, hlog, hsin, hcos, htanh, hsgm, herf⟩ := special_operands gd rm d a
  refine ⟨hrcp, hrsq, hsqrt, hexp, hlog, hsin, hcos, htanh, hsgm, herf,
    writes_special_below (g := fRsq rm) (fun _ => rfl) fun c hc => (negative_operands rm hc).1,
    writes_special_below (g := fSqrt rm) (fun _ => rfl) fun c hc => (negative_operands rm hc).2.1,
    writes_special_below (g := fLog2 rm) (fun _ => rfl) fun c hc => (negative_operands rm hc).2.2,
    writes_special_exact (g := fSin rm) (fun _ => rfl) ⟨rfl, rfl⟩,
    writes_special_exact (g := fCos rm) (fun _ => rfl) ⟨rfl, rfl⟩,
    writes_special (g := fRcp rm) (p := fun c r _ => ∀ x, codeVal fmt32 c = some x → x ≠ 0 → Rounded fmt32 rm (1 / x) r)
      (fun _ => rfl) fun c x hc hx => fRcp_rounded rm hc hx,
    fun k hlo hhi => writes_special_exact (g := fRcp rm) (fun _ => rfl) (fRcp_powCode rm hlo hhi),
    fun k hlo hhi => ⟨writes_special_exact (g := fSqrt rm) (fun _ => rfl) (fSqrt_powCode rm hlo hhi),
      writes_special_exact (g := fRsq rm) (fun _ => rfl) (fRsq_powCode rm hlo hhi)⟩,
    fun k hlo hhi => ⟨writes_special (g := fExp2 rm)
        (p := fun c r fl => codeVal fmt32 c = some (k : ℚ) → r = powCode k ∧ fl = 0)
        (fun _ => rfl) fun c hc => ?_,
      writes_special (g := fLog2 rm) (p := fun c r fl => c = powCode k → codeVal fmt32 r = some (k : ℚ) ∧ fl = 0)
        (fun _ => rfl) fun c hc => ?_⟩⟩
  · rw [fExp2_integer rm hc hlo hhi]; exact ⟨rfl, rfl⟩
  · rw [hc]; exact fLog2_powCode rm hlo hhi

end Sys2Proof

/-! ## Rounding to an integer (R73, R117) -/

namespace Sys2Proof.Machine

open Sys2Proof.Claims

section
variable {k : Nat} {x : ℚ} {neg up : Bool} (hlo : (k : ℚ) ≤ x) (hhi : x < k + 1)
include hlo hhi

omit hhi in
theorem eq_of_not_lt (h : ¬ (k : ℚ) < x) : x = k := le_antisymm (not_lt.mp h) hlo

theorem floor_eq_below : ⌊x⌋ = (k : Int) := Int.floor_eq_iff.mpr ⟨by exact_mod_cast hlo, by exact_mod_cast hhi⟩

omit hlo in
theorem ceil_eq_above (h : (k : ℚ) < x) : ⌈x⌉ = (k : Int) + 1 :=
  Int.ceil_eq_iff.mpr ⟨by push_cast; linarith, by push_cast; linarith⟩

/-- To the nearest integer, ties away from zero. -/
theorem floor_add_half (hch : Chosen .rna neg k k (k + 1) x up) : ⌊x + 1 / 2⌋ = ((if up then k + 1 else k : Nat) : Int) := by
  cases up with
  | false =>
    have hnear : x - k < k + 1 - x := hch
    exact Int.floor_eq_iff.mpr ⟨by push_cast; linarith, by push_cast; linarith⟩
  | true =>
    have hnear : (k : ℚ) + 1 - x ≤ x - k := hch
    rw [if_pos rfl]
    exact Int.floor_eq_iff.mpr ⟨by push_cast; linarith, by push_cast; linarith⟩

/-- To the nearest integer, ties to the even one. -/
theorem toInteger_rne_pos (hch : Chosen .rne neg k k (k + 1) x up) :
    toInteger .rne x = ((if up then k + 1 else k : Nat) : Int) := by
  simp only [toInteger, floor_eq_below hlo hhi, Int.cast_natCast]
  cases up with
  | false =>
    refine (if_pos ?_).trans rfl
    rcases hch with hnear | ⟨htie, heven⟩
    · exact .inl (by linarith)
    · exact .inr ⟨by linarith, by omega⟩
  | true =>
    refine (if_neg ?_).trans (by push_cast; rfl)
    rintro (h | ⟨h, heven⟩)
    · rcases hch with hnear | ⟨htie, -⟩ <;> linarith
    · rcases hch with hnear | ⟨-, hodd⟩
      · linarith
      · omega

theorem toInteger_rne_neg (hch : Chosen .rne neg k k (k + 1) x up) :
    toInteger .rne (-x) = -((if up then k + 1 else k : Nat) : Int) := by
  by_cases hlt : (k : ℚ) < x
  · simp only [toInteger, Int.floor_neg, ceil_eq_above hhi hlt]
    push_cast
    cases up with
    | false =>
      refine (if_neg ?_).trans (by simp)
      rintro (h | ⟨h, heven⟩)
      · rcases hch with hnear | ⟨htie, -⟩ <;> linarith
      · rcases hch with hnear | ⟨-, hodd⟩
        · linarith
        · omega
    | true =>
      refine (if_pos ?_).trans (by simp)
      rcases hch with hnear | ⟨htie, hodd⟩
      · exact .inl (by linarith)
      · exact .inr ⟨by linarith, by omega⟩
  · obtain rfl : up = false := Bool.eq_false_iff.mpr fun hup => hlt ((hup ▸ hch).lt_of_up hhi)
    simp [toInteger, eq_of_not_lt hlo hlt, Int.floor_neg]

end

/-- A magnitude rounded on the grid of the integers, under its sign, is the value rounded to an integer. -/
theorem toInteger_of_rounds {rm : Rm} {neg : Bool} {x : ℚ} {r : Nat} (hx0 : 0 ≤ x) (h : RoundsAt rm neg 0 x r) :
    toInteger rm (signQ neg * x) = if neg then -(r : Int) else r := by
  obtain ⟨k, up, rfl, hlo, hhi, hch⟩ := h
  simp only [zpow_zero, mul_one, Nat.cast_add, Nat.cast_one] at hlo hhi hch
  have hfloor := floor_eq_below hlo hhi
  have hnpos : ¬ x < 0 := not_lt.mpr hx0
  cases neg with
  | false =>
    simp only [signQ, Bool.false_eq_true, if_false, one_mul]
    cases rm with
    | rne => exact toInteger_rne_pos hlo hhi hch
    | rna =>
      rw [toInteger, if_neg hnpos]
      exact floor_add_half hlo hhi hch
    | rtz =>
      obtain rfl : up = false := hch
      simp [toInteger, hnpos, hfloor]
    | rdn =>
      obtain rfl : up = false := hch
      simp [toInteger, hfloor]
    | rup =>
      by_cases hlt : (k : ℚ) < x
      · obtain rfl : up = true := by simpa [Chosen, hlt] using hch
        simp [toInteger, ceil_eq_above hhi hlt]
      · obtain rfl : up = false := by simpa [Chosen, hlt] using hch
        simp [toInteger, eq_of_not_lt hlo hlt]
  | true =>
    simp only [signQ, if_true, neg_one_mul]
    cases rm with
    | rne => exact toInteger_rne_neg hlo hhi hch
    | rna =>
      have hhalf := floor_add_half hlo hhi hch
      rw [toInteger]
      split
      · rw [sub_neg_eq_add, add_comm, hhalf]
      · next h =>
        obtain rfl : x = 0 := le_antisymm (by linarith) hx0
        rw [← hhalf]
        norm_num
    | rtz =>
      obtain rfl : up = false := hch
      rw [toInteger]
      split
      · simp [Int.ceil_neg, hfloor]
      · next h =>
        obtain rfl : x = 0 := le_antisymm (by linarith) hx0
        rw [Int.floor_zero] at hfloor
        simp [← hfloor]
    | rdn =>
      by_cases hlt : (k : ℚ) < x
      · obtain rfl : up = true := by simpa [Chosen, hlt] using hch
        simp [toInteger, Int.floor_neg, ceil_eq_above hhi hlt]
      · obtain rfl : up = false := by simpa [Chosen, hlt] using hch
        simp [toInteger, Int.floor_neg, eq_of_not_lt hlo hlt]
    | rup =>
      obtain rfl : up = false := by simpa [Chosen] using hch
      simp [toInteger, Int.ceil_neg, hfloor]

/-- RoundInt of a finite value (R73): its magnitude, and whether it is inexact. -/
theorem fpToIntMag_eq (rm : Rm) (n : Bool) (m : Nat) (e : Int) :
    (if n then -((fpToIntMag rm n m e).1 : Int) else (fpToIntMag rm n m e).1) = toInteger rm (signQ n * (m * 2 ^ e)) :=
  (toInteger_of_rounds (by positivity) (roundAt_rounds rm n m e 0)).symm

/-- The value of a signed magnitude. -/
theorem cast_signed (n : Bool) (k : Nat) : (((if n then -(k : Int) else k) : Int) : ℚ) = signQ n * k := by
  cases n <;> simp [signQ]

theorem fpToIntMag_inexact (rm : Rm) (n : Bool) (m : Nat) (e : Int) :
    (fpToIntMag rm n m e).2 = false ↔ ((toInteger rm (signQ n * (m * 2 ^ e)) : Int) : ℚ) = signQ n * (m * 2 ^ e) := by
  have hcancel (y : ℚ) : signQ n * y = signQ n * (m * 2 ^ e) ↔ y = m * 2 ^ e := by cases n <;> simp [signQ]
  rw [← fpToIntMag_eq, cast_signed, hcancel, fpToIntMag, roundAt_inexact_iff]
  simp only [zpow_zero, mul_one]
  constructor
  · rintro ⟨k, hk⟩
    rw [roundAt_exact rm n (k := k) (by rw [zpow_zero, mul_one, hk]), hk]
  · exact fun h => ⟨_, h.symm⟩

/-- A mantissa with no bits below the point. -/
theorem whole_of_nonneg (m : Nat) {e : Int} (he : 0 ≤ e) : (m : ℚ) * 2 ^ e = (m * 2 ^ e.toNat : Nat) * 2 ^ (0 : Int) := by
  rw [zpow_zero, mul_one, Nat.cast_mul, Nat.cast_pow, Nat.cast_ofNat, ← zpow_natCast, Int.toNat_of_nonneg he]

/-! ### FRND and FFRAC -/

/-- What FRND makes of a code (R117). -/
def RoundedInteger (f : Fmt) (rm : Rm) (c r : Nat) : Prop :=
  match fpRead f c with
  | .nan _ => r = defaultNaN f
  | .inf n => r = infinity f n.toNat
  | .fin .. => ∀ x, codeVal f c = some x → codeVal f r = some (toInteger rm x : ℚ) ∧ signOf f r = signOf f c

/-- What FFRAC makes of a code (R117). -/
def FractionOf (f : Fmt) (c r : Nat) : Prop :=
  match fpRead f c with
  | .nan _ | .inf _ => r = defaultNaN f
  | .fin .. => ∀ x, codeVal f c = some x → codeVal f r = some (x - toInteger .rtz x) ∧ signOf f r = signOf f c

theorem signOf_eq (f : Fmt) (c : Nat) : signOf f c = (negOf f c).toNat := by
  rw [signOf, negOf]
  rcases Nat.mod_two_eq_zero_or_one (c / 2 ^ (f.eb + f.mb)) with h | h <;> simp [h]

theorem fmtNaN_eq {f : Fmt} (hf : Ieee f) : fmtNaN f = defaultNaN f := by
  rw [fmtNaN, hf.top, defaultNaN, if_neg (by rw [hf.top]; decide)]

theorem fmtSigned_fmtInf (f : Fmt) (n : Bool) : fmtSigned f n (fmtInf f) = infinity f n.toNat := by
  cases n <;> simp [fmtSigned, fmtInf, infinity]

/-- A finite code reads as its value under its sign. -/
theorem codeVal_of_fin {f : Fmt} {c : Nat} {n : Bool} {m : Nat} {e : Int} (h : fpRead f c = .fin n m e) :
    codeVal f c = some (signQ n * (m * 2 ^ e)) := by
  rw [codeVal, h, ← mul_assoc]
  rfl

section
variable {f : Fmt} (hf : Ieee f) {c : Nat} {n : Bool} {m : Nat} {e : Int}
include hf

/-- A signed magnitude delivered for a code of its sign. -/
theorem codeVal_signed (hread : fpRead f c = .fin n m e) {N : Nat} (hN : N ≤ fmtMax f) :
    codeVal f (fmtSigned f n N) = some (signQ n * magVal f N) ∧ signOf f (fmtSigned f n N) = signOf f c := by
  rw [signOf_eq, signOf_eq, negOf_fmtSigned f n (hN.trans_lt (fmtMax_lt hf)), (fpRead_fin_bounds hread).1]
  exact ⟨codeVal_fmtSigned hf _ hN, rfl⟩

/-- A finite value is that of its code's magnitude. -/
theorem magVal_of_fin (hread : fpRead f c = .fin n m e) :
    magOf f c ≤ fmtMax f ∧ (m : ℚ) * 2 ^ e = magVal f (magOf f c) := by
  obtain ⟨hfin, hval⟩ := hf.graded.magVal_of_codeVal (codeVal_of_fin hread)
  have habs := congrArg abs hval
  rw [abs_signQ_mul, abs_signQ_mul, abs_of_nonneg (by positivity), abs_of_nonneg (magVal_nonneg f _)] at habs
  exact ⟨hfin, habs⟩

/-- A finite value rounded to an integer is a value of the format. -/
theorem exists_integer_magVal (hroom : (2 : ℚ) ^ f.mb ≤ largest f) (rm : Rm) (hread : fpRead f c = .fin n m e) :
    ∃ N ≤ fmtMax f, ((fpToIntMag rm n m e).1 : ℚ) * 2 ^ (0 : Int) = magVal f N := by
  obtain ⟨-, hm, -⟩ := fpRead_fin_bounds hread
  rcases le_or_gt 0 e with he | he
  · obtain ⟨hfin, hmag⟩ := magVal_of_fin hf hread
    refine ⟨magOf f c, hfin, ?_⟩
    have hwhole := whole_of_nonneg m he
    rw [fpToIntMag, roundAt_exact rm n hwhole, ← hwhole, hmag]
  · obtain ⟨k, up, hr, hlo, -, -⟩ := roundAt_rounds rm n m e 0
    have hhalf : (m : ℚ) * 2 ^ e < 2 ^ f.mb := by
      have hm' : (m : ℚ) < 2 ^ (f.mb + 1) := by exact_mod_cast hm
      have he' : (2 : ℚ) ^ e ≤ 2 ^ (-1 : Int) := zpow_le_zpow_right₀ (by norm_num) (by omega)
      calc (m : ℚ) * 2 ^ e ≤ m * 2 ^ (-1 : Int) := mul_le_mul_of_nonneg_left he' (by positivity)
        _ < 2 ^ (f.mb + 1) * 2 ^ (-1 : Int) := mul_lt_mul_of_pos_right hm' (by positivity)
        _ = 2 ^ f.mb := by rw [pow_succ, zpow_neg_one]; ring
    have hk : k < 2 ^ f.mb := by
      rw [zpow_zero, mul_one] at hlo
      exact_mod_cast hlo.trans_lt hhalf
    have hle : (fpToIntMag rm n m e).1 ≤ 2 ^ f.mb := by
      rw [fpToIntMag, hr]
      split <;> omega
    have hgrid : gridExp f ≤ 0 := by
      have := hf.mb
      rw [gridExp]
      omega
    obtain ⟨N, hN⟩ := exists_magVal f (k := (fpToIntMag rm n m e).1) hgrid (by rw [Nat.pow_succ]; omega)
    refine ⟨N, ?_, hN.symm⟩
    have hmax : magVal f N ≤ magVal f (fmtMax f) := by
      rw [hN, zpow_zero, mul_one, ← largest_eq hf]
      exact le_trans (by exact_mod_cast hle) hroom
    exact (magVal_strictMono f).le_iff_le.mp hmax

/-- FRND delivers the value rounded to an integer. -/
theorem fpRnd_spec (hroom : (2 : ℚ) ^ f.mb ≤ largest f) (rm : Rm) (c : Nat) :
    RoundedInteger f rm c (fpRnd f rm false c).1 := by
  rw [RoundedInteger, fpRnd, fpReadF_false]
  cases hread : fpRead f c with
  | nan s => exact fmtNaN_eq hf
  | inf n => exact fmtSigned_fmtInf f n
  | fin n m e =>
    intro x hx
    obtain rfl : signQ n * (m * 2 ^ e) = x := Option.some.inj ((codeVal_of_fin hread).symm.trans hx)
    obtain ⟨N, hN, hval⟩ := exists_integer_magVal hf hroom rm hread
    rw [fpRndV, fpRoundZ_representable hf.graded .rne false n hN hval, ← fpToIntMag_eq, cast_signed]
    rw [zpow_zero, mul_one] at hval
    rw [hval]
    exact codeVal_signed hf hread hN

omit hf in
/-- What toward-zero rounding leaves of a finite value. -/
theorem fraction_eq (n : Bool) (m : Nat) {e : Int} (he : e < 0) :
    (m : ℚ) * 2 ^ e - (fpToIntMag .rtz n m e).1 = (m % 2 ^ (-e).toNat : Nat) * 2 ^ e := by
  have hpow : (2 : ℚ) ^ (-e).toNat * 2 ^ e = 1 := by
    rw [← zpow_natCast, ← zpow_add₀ (by norm_num), show ((-e).toNat : Int) + e = 0 by omega, zpow_zero]
  have hint : (fpToIntMag .rtz n m e).1 = m / 2 ^ (-e).toNat := by
    simp [fpToIntMag, roundAt, not_le.mpr he, roundsUp]
  have hdm : (m : ℚ) = (m / 2 ^ (-e).toNat : Nat) * 2 ^ (-e).toNat + (m % 2 ^ (-e).toNat : Nat) := by
    exact_mod_cast (Nat.div_add_mod' m _).symm
  rw [hint]
  conv_lhs => rw [hdm]
  rw [add_mul, mul_assoc, hpow]
  ring

/-- FFRAC delivers the value less its integer part. -/
theorem fpFrac_spec (c : Nat) : FractionOf f c (fpFrac f false c).1 := by
  rw [FractionOf, fpFrac, fpReadF_false]
  cases hread : fpRead f c with
  | nan s => exact fmtNaN_eq hf
  | inf n => exact fmtNaN_eq hf
  | fin n m e =>
    intro x hx
    obtain rfl : signQ n * (m * 2 ^ e) = x := Option.some.inj ((codeVal_of_fin hread).symm.trans hx)
    rw [← fpToIntMag_eq, cast_signed, ← mul_sub, fpFracV]
    obtain ⟨-, hm, hgrid⟩ := fpRead_fin_bounds hread
    split
    · next he =>
      have hwhole := whole_of_nonneg m he
      have hzero : (m : ℚ) * 2 ^ e - (fpToIntMag .rtz n m e).1 = magVal f 0 := by
        rw [fpToIntMag, roundAt_exact .rtz n hwhole, hwhole, zpow_zero, mul_one, sub_self, magVal_zero]
      rw [hzero]
      exact codeVal_signed hf hread (Nat.zero_le _)
    · next he =>
      obtain ⟨hfin, hmag⟩ := magVal_of_fin hf hread
      have hle : (m % 2 ^ (-e).toNat : Nat) * (2 : ℚ) ^ e ≤ largest f := by
        rw [largest_eq hf]
        refine le_trans ?_ (hmag.trans_le ((magVal_strictMono f).monotone hfin))
        exact mul_le_mul_of_nonneg_right (by exact_mod_cast Nat.mod_le _ _) (by positivity)
      obtain ⟨N, hN, hval, hround⟩ := fpRoundZ_exact hf.graded .rne false n hgrid (Nat.lt_of_le_of_lt (Nat.mod_le _ _) hm) hle
      rw [fraction_eq n m (not_le.mp he), ← hval]
      dsimp only
      rw [hround]
      exact codeVal_signed hf hread hN

/-- NV for a signalling NaN, and of FFRAC for an infinity. -/
theorem fpRnd_flags (rm : Rm) (fz : Bool) (c : Nat) : (fpRnd f rm fz c).2 = if isSNaNCode f c then flNV else 0 := by
  have hs := (isNaN_fpReadF hf fz c).2
  rw [fpRnd]
  cases hread : fpReadF f fz c with
  | nan s => rw [← hs, hread]; rfl
  | inf _ | fin _ _ _ => rw [← hs, hread]; rfl

theorem fpFrac_flags (fz : Bool) (c : Nat) :
    (fpFrac f fz c).2 = if isSNaNCode f c ∨ ∃ n, fpRead f c = .inf n then flNV else 0 := by
  have hs := (isNaN_fpReadF hf fz c).2
  simp only [← fpReadF_eq_inf f fz]
  rw [fpFrac, ← hs]
  cases hread : fpReadF f fz c with
  | nan s => simp [fpFracV, FVal.isSNaN, flIf]
  | inf _ => simp [fpFracV, FVal.isSNaN]
  | fin _ _ e =>
    simp only [fpFracV, FVal.isSNaN]
    split <;> simp

end

end Sys2Proof.Machine

/-! ## Conversions (R67, R119 to R121), and O2 -/

namespace Sys2Proof.Machine

open Sys2Proof.Claims

/-! ### Between float formats -/

/-- A format that conversions deliver. -/
def Converted (f : Fmt) : Prop := Ieee f ∨ f = fmtE4m3

theorem Converted.graded {f : Fmt} (h : Converted f) : Graded f := by
  rcases h with hf | rfl
  · exact hf.graded
  · exact graded_fmtE4m3

theorem Converted.nan {f : Fmt} (h : Converted f) : fmtNaN f = defaultNaN f := by
  rcases h with hf | rfl
  · exact fmtNaN_eq hf
  · rfl

/-- A conversion delivers the value rounded to the destination's format, a NaN as the default one, an infinity as the
destination has it. -/
theorem cvtFF_converts (fs : Fmt) {fd : Fmt} (hfd : Converted fd) (rm : Rm) (sat : Bool) (c : Nat) :
    Converts fs fd rm sat c (cvtFF fs fd rm false false sat c).1 := by
  rw [Converts, cvtFF, fpReadF_false]
  cases hread : fpRead fs c with
  | nan s => exact hfd.nan
  | inf n =>
    rcases hfd with hf | rfl
    · simp only [hf.top, if_neg (show ¬ TopKind.ieee = .e4m3 by decide), fmtSigned_fmtInf]
    · cases sat <;> cases n <;> rfl
  | fin n m e =>
    intro x hx
    obtain rfl : signQ n * (m * 2 ^ e) = x := Option.some.inj ((codeVal_of_fin hread).symm.trans hx)
    refine ⟨fun hzero => ?_, fpRoundZ_rounded hfd.graded rm sat n m e⟩
    have hm : m = 0 := by
      by_contra hm
      have hm0 : (m : ℚ) ≠ 0 := by exact_mod_cast hm
      have hsign : signQ n ≠ 0 := by cases n <;> norm_num [signQ]
      exact mul_ne_zero hsign (mul_ne_zero hm0 (by positivity)) hzero
    dsimp only
    rw [fpRoundZ, if_pos hm, signOf_eq, ← (fpRead_fin_bounds hread).1, fmtSigned]
    cases n <;> simp

/-! ### CVT -/

theorem converted_cvtFmt (t : CvtTy) : Converted (cvtFmt t) := by
  cases t
  case f16 => exact .inl ieee_fmt16
  case bf16 => exact .inl ieee_fmtB16
  case f64 => exact .inl ieee_fmt64
  case e4m3 => exact .inr rfl
  case e5m2 => exact .inl ieee_fmtE5m2
  all_goals exact .inl ieee_fmt32

theorem cvtFlush_false (t : CvtTy) : cvtFlush false false t = false := by cases t <;> rfl

/-- Only a code's own bits are read. -/
theorem fpRead_mod (f : Fmt) (c : Nat) : fpRead f (c % 2 ^ fmtWidth f) = fpRead f c := by
  have hsign : 2 ^ fmtWidth f = 2 ^ (f.eb + f.mb) * 2 := by rw [← Nat.pow_succ, fmtWidth]; congr 1; omega
  have hfrac : 2 ^ fmtWidth f = 2 ^ f.mb * (2 ^ f.eb * 2) := by rw [hsign, Nat.add_comm, Nat.pow_add, Nat.mul_assoc]
  have h1 : c % 2 ^ fmtWidth f / 2 ^ (f.eb + f.mb) % 2 = c / 2 ^ (f.eb + f.mb) % 2 := by
    rw [hsign, Nat.mod_mul_right_div_self, Nat.mod_mod]
  have h2 : c % 2 ^ fmtWidth f / 2 ^ f.mb % 2 ^ f.eb = c / 2 ^ f.mb % 2 ^ f.eb := by
    rw [hfrac, Nat.mod_mul_right_div_self, Nat.mod_mul_right_mod]
  have h3 : c % 2 ^ fmtWidth f % 2 ^ f.mb = c % 2 ^ f.mb := by rw [hfrac, Nat.mod_mul_right_mod]
  simp only [fpRead, h1, h2, h3]

/-- The value of a pattern is the integer, where the type has it. -/
theorem elemVal_ofInt {w : Nat} (hw : 0 < w) {signed : Bool} {v : Int} (hlo : lowOf signed w ≤ v) (hhi : v ≤ highOf signed w) :
    elemVal signed (BitVec.ofInt w v) = v := by
  cases signed with
  | false =>
    simp only [lowOf, highOf, Bool.false_eq_true, if_false] at hlo hhi
    simp only [elemVal, Bool.false_eq_true, if_false, BitVec.toNat_ofInt]
    rw [Int.emod_eq_of_lt hlo (by push_cast; omega), Int.toNat_of_nonneg hlo]
  | true =>
    simp only [lowOf, highOf, if_true] at hlo hhi
    exact BitVec.toInt_ofInt_eq_self hw hlo (by omega)

/-- An integer result in its place (R119). -/
def placedAt (t : CvtTy) (v : Int) : Nat := if cvtWidth t < 32 then pat 32 v else pat (cvtWidth t) v

theorem cvtPlace_wrapI (t : CvtTy) {v : Int} (hlo : lowOf (cvtSigned t) (cvtWidth t) ≤ v)
    (hhi : v ≤ highOf (cvtSigned t) (cvtWidth t)) : cvtPlace t (wrapI (cvtWidth t) v) = placedAt t v := by
  rw [wrapI_eq, cvtPlace_toNat, elemVal_ofInt (cvtWidth_pos t) hlo hhi]
  rfl

theorem low_le_zero_le_high (signed : Bool) (w : Nat) : lowOf signed w ≤ 0 ∧ 0 ≤ highOf signed w := by
  have h1 : (0 : Int) < 2 ^ (w - 1) := by positivity
  have h2 : (0 : Int) < 2 ^ w := by positivity
  cases signed
  · simp only [lowOf, highOf, Bool.false_eq_true, if_false]; omega
  · simp only [lowOf, highOf, if_true]; omega

/-- What a conversion to an integer type makes of a code: the value rounded to an integer, or the nearest of the type. -/
def NearestInteger (t : CvtTy) (f : Fmt) (rm : Rm) (c r : Nat) (fl : Flags) : Prop :=
  match fpRead f c with
  | .nan _ => r = 0 ∧ fl = flNV
  | .inf n => r = placedAt t (if n then lowOf (cvtSigned t) (cvtWidth t) else highOf (cvtSigned t) (cvtWidth t)) ∧ fl = flNV
  | .fin .. => ∀ x, codeVal f c = some x →
    let n := toInteger rm x
    if n < lowOf (cvtSigned t) (cvtWidth t) then r = placedAt t (lowOf (cvtSigned t) (cvtWidth t)) ∧ fl = flNV
    else if highOf (cvtSigned t) (cvtWidth t) < n then r = placedAt t (highOf (cvtSigned t) (cvtWidth t)) ∧ fl = flNV
    else r = placedAt t n ∧ fl = if (n : ℚ) = x then 0 else flNX

section
variable {dst src : CvtTy} (sat : Bool) (rm : Rm) (a : Nat)

theorem aluCvt_float_float (hdst : dst.float = true) (hsrc : src.float = true) :
    Converts (cvtFmt src) (cvtFmt dst) rm sat (a % 2 ^ fmtWidth (cvtFmt src)) (aluCvt dst src sat rm false false a).1 := by
  simp only [aluCvt, hdst, hsrc, if_true, cvtFlush_false]
  exact cvtFF_converts _ (converted_cvtFmt dst) rm sat _

theorem aluCvt_float_int (hdst : dst.float = false) (hsrc : src.float = true) :
    NearestInteger dst (cvtFmt src) rm a (aluCvt dst src sat rm false false a).1 (aluCvt dst src sat rm false false a).2 := by
  obtain ⟨hlo0, hhi0⟩ := low_le_zero_le_high (cvtSigned dst) (cvtWidth dst)
  have hmin : minOf (cvtSigned dst) (cvtWidth dst) = lowOf (cvtSigned dst) (cvtWidth dst) := rfl
  have hmax : maxOf (cvtSigned dst) (cvtWidth dst) = highOf (cvtSigned dst) (cvtWidth dst) := rfl
  have hread : fpReadF (cvtFmt src) false (uval (fmtWidth (cvtFmt src)) a) = fpRead (cvtFmt src) a :=
    (fpReadF_false ..).trans (fpRead_mod ..)
  simp only [aluCvt, hdst, hsrc, if_true, Bool.false_eq_true, if_false, cvtFlush_false, cvtFI, hread, hmin, hmax,
    NearestInteger]
  cases hfin : fpRead (cvtFmt src) a with
  | nan s => exact ⟨(cvtPlace_wrapI dst hlo0 hhi0).trans (by simp [placedAt, pat]), rfl⟩
  | inf n =>
    dsimp only
    refine ⟨cvtPlace_wrapI dst ?_ ?_, rfl⟩
    · split <;> omega
    · split <;> omega
  | fin n m e =>
    intro x hx
    obtain rfl : signQ n * (m * 2 ^ e) = x := Option.some.inj ((codeVal_of_fin hfin).symm.trans hx)
    dsimp only
    rw [fpToIntMag_eq]
    split
    · exact ⟨cvtPlace_wrapI dst le_rfl (hlo0.trans hhi0), rfl⟩
    · next hlo =>
      split
      · exact ⟨cvtPlace_wrapI dst (hlo0.trans hhi0) le_rfl, rfl⟩
      · next hhi =>
        refine ⟨cvtPlace_wrapI dst (not_lt.mp hlo) (not_lt.mp hhi), ?_⟩
        have hex := fpToIntMag_inexact rm n m e
        cases hin : (fpToIntMag rm n m e).2 with
        | false => rw [if_pos (hex.mp hin)]; rfl
        | true => rw [if_neg fun h => absurd (hex.mpr h) (by simp [hin])]; rfl

theorem aluCvt_int_float (hdst : dst.float = true) (hsrc : src.float = false) :
    let x : Int := elemVal (cvtSigned src) (BitVec.ofNat (cvtWidth src) a)
    (x = 0 → (aluCvt dst src sat rm false false a).1 = 0)
      ∧ Rounded (cvtFmt dst) rm (x : ℚ) (aluCvt dst src sat rm false false a).1 := by
  intro x
  simp only [aluCvt, hdst, hsrc, Bool.false_eq_true, if_true, if_false, cvtFlush_false, ival_eq (cvtWidth_pos src)]
  refine ⟨fun hx => ?_, ?_⟩
  · rw [show elemVal (cvtSigned src) (BitVec.ofNat (cvtWidth src) a) = 0 from hx]
    rfl
  · have hround := fpRoundZ_rounded (converted_cvtFmt dst).graded rm sat (decide (x < 0)) x.natAbs 0
    rwa [natAbs_mul_zpow, zpow_zero, mul_one] at hround

end

/-! ### CVTP -/

/-- The parts of a word put together of two, and of four. -/
theorem two_parts {w : Nat} {r : Nat → Nat × Flags} (h : ∀ j, (r j).1 < 2 ^ w) {j : Nat} (hj : j < 2) :
    (two w (r 0) (r 1)).1 / 2 ^ (w * j) % 2 ^ w = (r j).1 := by
  rw [two, two_part (h 0) (h 1) hj]
  obtain rfl | rfl : j = 0 ∨ j = 1 := by omega
  · rfl
  · rfl

theorem four_parts {w : Nat} (hw : w = 8 ∨ w = 16) {r : Nat → Nat × Flags} (h : ∀ j, (r j).1 < 2 ^ w) {j : Nat} (hj : j < 4) :
    (two (2 * w) (two w (r 0) (r 1)) (two w (r 2) (r 3))).1 / 2 ^ (w * j) % 2 ^ w = (r j).1 := by
  have h0 := h 0
  have h1 := h 1
  have h2 := h 2
  have h3 := h 3
  simp only [two]
  rcases hw with rfl | rfl
  · obtain rfl | rfl | rfl | rfl : j = 0 ∨ j = 1 ∨ j = 2 ∨ j = 3 := by omega
    all_goals omega
  · obtain rfl | rfl | rfl | rfl : j = 0 ∨ j = 1 ∨ j = 2 ∨ j = 3 := by omega
    all_goals omega

end Sys2Proof.Machine

namespace Sys2Proof

open Sys2Proof.Machine Sys2Proof.Claims

/-! ### The words -/

section
variable {i : Instr} {d : Reg} {a : Operand} {p : Nat → Nat → Prop} {fl : Nat → Flags}

/-- A word of one F32 operand: its flags whatever is flushed, its value where nothing is. -/
theorem writes_single {g : Bool → Nat → Nat × Flags}
    (hexec : ∀ s, exec i s = aluWord i (some (d, 1)) (fun e => .ofPair (g (fz32 e.grp) (opF e fmt32 a))) s)
    (hval : ∀ c, p c (g false c).1) (hfl : ∀ fz c, (g fz c).2 = fl c) :
    ∃ v, Writes i d 1 v (fun e => fl (opF e fmt32 a)) ∧ ∀ e, fz32 e.grp = false → p (opF e fmt32 a) (v e) :=
  ⟨_, writes_pair hexec fun e => Prod.ext rfl (hfl _ _), fun e hfz => by rw [hfz]; exact hval _⟩

/-- A word of one packed operand, element by element. -/
theorem writes_packed {t : FTy} {f : Fmt} (ht : PackedTy t f) {g : Fmt → Bool → Nat → Nat × Flags}
    (hexec : ∀ s, exec i s = aluWord i (some (d, 1))
      (fun e => .ofPair (fElem1 t (fun f => g f (fz32 e.grp)) (opT e t a))) s)
    (hcode : ∀ fz c, IsCode f (g f fz c).1) (hval : ∀ c, p c (g f false c).1) (hfl : ∀ fz c, (g f fz c).2 = fl c) :
    ∃ v, Writes i d 1 v (fun e => fl (packedElem e t a 0) ||| fl (packedElem e t a 1))
      ∧ ∀ e j, j < 2 → fz32 e.grp = false → p (packedElem e t a j) (v e / 2 ^ (16 * j) % 2 ^ 16) := by
  refine ⟨_, writes_pair hexec fun e => Prod.ext rfl ?_, fun e j hj hfz => ?_⟩
  · rw [fElem1_packed ht, elem2, hfl, hfl]
    rfl
  · rw [fElem1_packed ht, packed_part ht (fun _ => hcode _ _) hj, hfz]
    exact hval _

end

/-- The integers of a full mantissa are values of a format whose exponents reach as far. -/
theorem pow_mb_le_largest {f : Fmt} (hf : Ieee f) (hreach : (f.mb : Int) ≤ (2 ^ f.eb - 2 : Int) - f.bias) :
    (2 : ℚ) ^ f.mb ≤ largest f := by
  have hsig : (2 : ℚ) ^ (-(f.mb : Int)) ≤ 1 := zpow_le_one_of_nonpos₀ (by norm_num) (by omega)
  have hexp : (2 : ℚ) ^ f.mb ≤ 2 ^ ((2 ^ f.eb - 2 : Int) - f.bias) := by
    rw [← zpow_natCast]
    exact zpow_le_zpow_right₀ (by norm_num) hreach
  rw [largest, if_neg (by rw [hf.top]; decide)]
  exact hexp.trans (le_mul_of_one_le_left (by positivity) (by linarith))

theorem room_fmt32 : (2 : ℚ) ^ fmt32.mb ≤ largest fmt32 := pow_mb_le_largest ieee_fmt32 (by decide)
theorem room_fmt64 : (2 : ℚ) ^ fmt64.mb ≤ largest fmt64 := pow_mb_le_largest ieee_fmt64 (by decide)
theorem packed_room {t : FTy} {f : Fmt} (ht : PackedTy t f) : (2 : ℚ) ^ f.mb ≤ largest f := by
  obtain ⟨-, rfl⟩ | ⟨-, rfl⟩ := ht
  · exact pow_mb_le_largest ieee_fmt16 (by decide)
  · exact pow_mb_le_largest ieee_fmtB16 (by decide)

/-- The flags of FRND and of FFRAC (R117). -/
def roundedFlag (f : Fmt) (c : Nat) : Flags := if isSNaNCode f c then flNV else 0
def fractionFlag (f : Fmt) (c : Nat) : Flags := if isSNaNCode f c ∨ ∃ n, fpRead f c = .inf n then flNV else 0

section
variable (gd : Guard) (rm : Rm) (d : Reg) (a : Operand)

theorem writes_frnd_f32 : ∃ v, Writes (.frnd gd .f32 rm d a) d 1 v (fun e => roundedFlag fmt32 (opF e fmt32 a))
    ∧ ∀ e, fz32 e.grp = false → RoundedInteger fmt32 rm (opF e fmt32 a) (v e) :=
  writes_single (g := fpRnd fmt32 rm) (p := RoundedInteger fmt32 rm) (fl := roundedFlag fmt32) (fun _ => rfl)
    (fpRnd_spec ieee_fmt32 room_fmt32 rm) (fpRnd_flags ieee_fmt32 rm)

theorem writes_ffrac_f32 : ∃ v, Writes (.ffrac gd .f32 d a) d 1 v (fun e => fractionFlag fmt32 (opF e fmt32 a))
    ∧ ∀ e, fz32 e.grp = false → FractionOf fmt32 (opF e fmt32 a) (v e) :=
  writes_single (g := fpFrac fmt32) (p := FractionOf fmt32) (fl := fractionFlag fmt32) (fun _ => rfl)
    (fpFrac_spec ieee_fmt32) (fpFrac_flags ieee_fmt32)

theorem writes_frnd_packed {t : FTy} {f : Fmt} (ht : PackedTy t f) :
    ∃ v, Writes (.frnd gd t rm d a) d 1 v (fun e => roundedFlag f (packedElem e t a 0) ||| roundedFlag f (packedElem e t a 1))
      ∧ ∀ e j, j < 2 → fz32 e.grp = false → RoundedInteger f rm (packedElem e t a j) (v e / 2 ^ (16 * j) % 2 ^ 16) :=
  writes_packed ht (g := (fpRnd · rm)) (p := RoundedInteger f rm) (fl := roundedFlag f) (fun _ => rfl) (isCode_fpRnd f rm)
    (fpRnd_spec ht.ieee (packed_room ht) rm) (fpRnd_flags ht.ieee rm)

theorem writes_ffrac_packed {t : FTy} {f : Fmt} (ht : PackedTy t f) :
    ∃ v, Writes (.ffrac gd t d a) d 1 v (fun e => fractionFlag f (packedElem e t a 0) ||| fractionFlag f (packedElem e t a 1))
      ∧ ∀ e j, j < 2 → fz32 e.grp = false → FractionOf f (packedElem e t a j) (v e / 2 ^ (16 * j) % 2 ^ 16) :=
  writes_packed ht (g := fpFrac) (p := FractionOf f) (fl := fractionFlag f) (fun _ => rfl) (isCode_fpFrac f)
    (fpFrac_spec ht.ieee) (fpFrac_flags ht.ieee)

theorem writes_drnd : ∃ v, Writes (.drnd gd rm d a) d 2 v (fun e => roundedFlag fmt64 (opF e fmt64 a))
    ∧ ∀ e, fz64 e.grp = false → RoundedInteger fmt64 rm (opF e fmt64 a) (v e) := by
  refine ⟨fun e => (fpRnd fmt64 rm (fz64 e.grp) (opF e fmt64 a)).1,
    writes_pair (r := fun e => fpRnd fmt64 rm (fz64 e.grp) (opF e fmt64 a)) (fun _ => rfl)
      fun e => Prod.ext rfl (fpRnd_flags ieee_fmt64 rm _ _), fun e hfz => ?_⟩
  simp only [hfz]
  exact fpRnd_spec ieee_fmt64 room_fmt64 rm _

end

/-- CVT, where nothing is flushed (R67). -/
theorem writes_cvt {gd : Guard} {rm : Rm} {dst src : CvtTy} {sat : Bool} {d : Reg} {a : Operand}
    (p : Env → Nat → Flags → Prop)
    (h : ∀ e, p e (aluCvt dst src sat rm false false (opCvt e src a)).1 (aluCvt dst src sat rm false false (opCvt e src a)).2) :
    ∃ v fl, Writes (.cvt gd dst src sat rm d a) d (regs12 dst.w64) v fl
      ∧ ∀ e, fz32 e.grp = false ∧ fz64 e.grp = false → p e (v e) (fl e) :=
  ⟨_, _, writes_result fun _ => rfl, fun e ⟨h32, h64⟩ => by rw [h32, h64]; exact h e⟩

/-- CVTP, by what the parts of its result are (R121). -/
theorem writes_packs {gd : Guard} {p : PackPair} {fs fd : Fmt} (hfd : Converted fd) {rm : Rm} {sat sat' : Bool} {d : Reg}
    {a b : Operand} {w : Nat} {elem : Env → Nat → Nat} (hsat : (sat && p.fp8) = sat')
    (h : ∀ e j, j < 32 / w → (aluCvtp p sat rm false (packSrc e p a) (packSrc e p b)).1 / 2 ^ (w * j) % 2 ^ w
      = (cvtFF fs fd rm false false sat' (elem e j)).1) :
    ∃ v fl, Writes (.cvtp gd p sat rm d a b) d 1 v fl ∧ ∀ e j, j < 32 / w → fz32 e.grp = false →
      Converts fs fd rm (sat && p.fp8) (elem e j) (v e / 2 ^ (w * j) % 2 ^ w) :=
  ⟨_, _, writes_result fun _ => rfl, fun e j hj hfz => by rw [hfz, h e j hj, hsat]; exact cvtFF_converts fs hfd rm sat' _⟩

theorem writes_unpacks {gd : Guard} {p : UnpackPair} {fs fd : Fmt} (hfd : Converted fd) {rm : Rm} {d : Reg} {a : Operand}
    {w : Nat} {elem : Env → Nat → Nat}
    (h : ∀ e j, j < 64 / w → (aluCvtpUnpk p rm false (unpackSrc e p a)).1 / 2 ^ (w * j) % 2 ^ w
      = (cvtFF fs fd rm false false false (elem e j)).1) :
    ∃ v fl, Writes (.cvtpUnpk gd p rm d a) d 2 v fl ∧ ∀ e j, j < 64 / w → fz32 e.grp = false →
      Converts fs fd rm false (elem e j) (v e / 2 ^ (w * j) % 2 ^ w) :=
  ⟨_, _, writes_result fun _ => rfl, fun e j hj hfz => by rw [hfz, h e j hj]; exact cvtFF_converts fs hfd rm false _⟩

/-- CVTP packs two words to halves, or four halves to bytes (R121). -/
theorem packing_conversions (gd : Guard) (rm : Rm) (sat : Bool) (d : Reg) (a b : Operand) :
    let packs (p : PackPair) (fs fd : Fmt) (w : Nat) (elem : Env → Nat → Nat) : Prop :=
      ∃ v fl, Writes (.cvtp gd p sat rm d a b) d 1 v fl ∧ ∀ e j, j < 32 / w → fz32 e.grp = false →
        Converts fs fd rm (sat && p.fp8) (elem e j) (v e / 2 ^ (w * j) % 2 ^ w)
    let words (e : Env) (j : Nat) : Nat := opF e fmt32 (if j = 0 then a else b)
    let halves (t : FTy) (e : Env) (j : Nat) : Nat := packedElem e t (if j < 2 then a else b) (j % 2)
    packs .f16FromF32 fmt32 fmt16 16 words ∧ packs .bf16FromF32 fmt32 fmtB16 16 words
    ∧ packs .e4m3FromF16 fmt16 fmtE4m3 8 (halves .f16x2) ∧ packs .e4m3FromBf16 fmtB16 fmtE4m3 8 (halves .bf16x2)
    ∧ packs .e5m2FromF16 fmt16 fmtE5m2 8 (halves .f16x2) ∧ packs .e5m2FromBf16 fmtB16 fmtE5m2 8 (halves .bf16x2) := by
  intro packs words halves
  have word {fd : Fmt} (hfit : Fits fd) (hw : fmtWidth fd = 16) (e : Env) {j : Nat} (hj : j < 2) :
      (two 16 (cvtFF fmt32 fd rm false false false (words e 0)) (cvtFF fmt32 fd rm false false false (words e 1))).1
        / 2 ^ (16 * j) % 2 ^ 16 = (cvtFF fmt32 fd rm false false false (words e j)).1 :=
    two_parts (fun j => hw ▸ (isCode_cvtFF fmt32 fd rm false false false (words e j)).lt hfit) hj
  have half {fs fd : Fmt} (t : FTy) (hfit : Fits fd) (hw : fmtWidth fd = 8) (e : Env) {j : Nat} (hj : j < 4) :=
    four_parts (.inl rfl) (r := fun j => cvtFF fs fd rm false false sat (halves t e j))
      (fun j => hw ▸ (isCode_cvtFF fs fd rm false false sat (halves t e j)).lt hfit) hj
  exact ⟨writes_packs (.inl ieee_fmt16) (Bool.and_false _) fun e j hj => word fits_fmt16 rfl e hj,
    writes_packs (.inl ieee_fmtB16) (Bool.and_false _) fun e j hj => word fits_fmtB16 rfl e hj,
    writes_packs (.inr rfl) (Bool.and_true _) fun e j hj => half .f16x2 fits_fmtE4m3 rfl e hj,
    writes_packs (.inr rfl) (Bool.and_true _) fun e j hj => half .bf16x2 fits_fmtE4m3 rfl e hj,
    writes_packs (.inl ieee_fmtE5m2) (Bool.and_true _) fun e j hj => half .f16x2 fits_fmtE5m2 rfl e hj,
    writes_packs (.inl ieee_fmtE5m2) (Bool.and_true _) fun e j hj => half .bf16x2 fits_fmtE5m2 rfl e hj⟩

theorem unpacking_conversions (gd : Guard) (rm : Rm) (d : Reg) (a : Operand) :
    let unpacks (p : UnpackPair) (fs fd : Fmt) (w : Nat) (elem : Env → Nat → Nat) : Prop :=
      ∃ v fl, Writes (.cvtpUnpk gd p rm d a) d 2 v fl ∧ ∀ e j, j < 64 / w → fz32 e.grp = false →
        Converts fs fd rm false (elem e j) (v e / 2 ^ (w * j) % 2 ^ w)
    let bytes (e : Env) (j : Nat) : Nat := opI e 1 a / 2 ^ (8 * j) % 2 ^ 8
    unpacks .f32FromF16 fmt16 fmt32 32 (packedElem · .f16x2 a) ∧ unpacks .f32FromBf16 fmtB16 fmt32 32 (packedElem · .bf16x2 a)
    ∧ unpacks .f16FromE4m3 fmtE4m3 fmt16 16 bytes ∧ unpacks .f16FromE5m2 fmtE5m2 fmt16 16 bytes
    ∧ unpacks .bf16FromE4m3 fmtE4m3 fmtB16 16 bytes ∧ unpacks .bf16FromE5m2 fmtE5m2 fmtB16 16 bytes := by
  intro unpacks bytes
  have half {fs : Fmt} (t : FTy) (e : Env) {j : Nat} (hj : j < 2) :=
    two_parts (w := 32) (r := fun j => cvtFF fs fmt32 rm false false false (packedElem e t a j))
      (fun j => (isCode_cvtFF fs fmt32 rm false false false (packedElem e t a j)).lt fits_fmt32) hj
  have byte {fs fd : Fmt} (hfit : Fits fd) (hw : fmtWidth fd = 16) (e : Env) {j : Nat} (hj : j < 4) :=
    four_parts (.inr rfl) (r := fun j => cvtFF fs fd rm false false false (bytes e j))
      (fun j => hw ▸ (isCode_cvtFF fs fd rm false false false (bytes e j)).lt hfit) hj
  exact ⟨writes_unpacks (.inl ieee_fmt32) fun e j hj => half .f16x2 e hj,
    writes_unpacks (.inl ieee_fmt32) fun e j hj => half .bf16x2 e hj,
    writes_unpacks (.inl ieee_fmt16) fun e j hj => byte fits_fmt16 rfl e hj,
    writes_unpacks (.inl ieee_fmt16) fun e j hj => byte fits_fmt16 rfl e hj,
    writes_unpacks (.inl ieee_fmtB16) fun e j hj => byte fits_fmtB16 rfl e hj,
    writes_unpacks (.inl ieee_fmtB16) fun e j hj => byte fits_fmtB16 rfl e hj⟩

/-- Settles O2: a rounding to an integer and a conversion each round once, to the grid of the integers or among the values of
the destination's format; the parts of a packed result are codes that fit their places. -/
theorem floatRoundingAndConversions : Obligations.FloatRoundingAndConversions := by
  have h16 : PackedTy .f16x2 fmt16 := .inl ⟨rfl, rfl⟩
  have hB16 : PackedTy .bf16x2 fmtB16 := .inr ⟨rfl, rfl⟩
  refine ⟨fun gd rm d a => ⟨writes_frnd_f32 gd rm d a, writes_ffrac_f32 gd d a, writes_frnd_packed gd rm d a h16,
      writes_frnd_packed gd rm d a hB16, writes_ffrac_packed gd d a h16, writes_ffrac_packed gd d a hB16,
      writes_drnd gd rm d a⟩,
    fun gd rm dst src sat d a _ => ?_, fun gd rm sat d a b => ?_⟩
  · intro still lo hi placed gives
    refine ⟨fun hdst hsrc => writes_cvt (fun e r _ => Converts (cvtFmt src) (cvtFmt dst) rm sat
        (opF e (cvtFmt src) a % 2 ^ fmtWidth (cvtFmt src)) r) fun e => ?_,
      fun hdst hsrc => writes_cvt (fun e r fl => NearestInteger dst (cvtFmt src) rm (opF e (cvtFmt src) a) r fl) fun e => ?_,
      fun hdst hsrc => writes_cvt (fun e r _ =>
        let x : Int := elemVal (cvtSigned src) (BitVec.ofNat (cvtWidth src) (opI e (regs12 src.w64) a))
        (x = 0 → r = 0) ∧ Rounded (cvtFmt dst) rm (x : ℚ) r) fun e => ?_⟩
    · rw [opCvt, if_pos hsrc]
      exact aluCvt_float_float sat rm _ hdst hsrc
    · rw [opCvt, if_pos hsrc]
      exact aluCvt_float_int sat rm _ hdst hsrc
    · rw [opCvt, hsrc, if_neg Bool.false_ne_true]
      exact aluCvt_int_float sat rm _ hdst hsrc
  · obtain ⟨h1, h2, h3, h4, h5, h6⟩ := packing_conversions gd rm sat d a b
    exact ⟨h1, h2, h3, h4, h5, h6, unpacking_conversions gd rm d a⟩

end Sys2Proof

/-! ## Counting and reversing bits (R112) -/

namespace Sys2Proof.Machine

open Sys2Proof.Claims

/-- POPC's loop counts the 1 bits among those it meets. -/
theorem popCount_eq {w a : Nat} {bit : Nat → Bool} (h : ∀ i < w, bit i = a.testBit i) :
    popCount w a = (List.range w).countP bit := by
  induction w generalizing a bit with
  | zero => rfl
  | succ w ih =>
    have htail : popCount w (a / 2) = (List.range w).countP (bit ∘ Nat.succ) :=
      ih fun i hi => (h (i + 1) (by omega)).trans (Nat.testBit_succ a i)
    have hhead : bit 0 = decide (a % 2 = 1) := (h 0 (by omega)).trans (Nat.testBit_zero a)
    rw [popCount, htail, List.range_succ_eq_map, List.countP_cons, List.countP_map, hhead, Nat.add_comm]
    simp only [decide_eq_true_eq]
    split <;> omega

/-- CTZ's loop counts the 0 bits before the first 1 bit. -/
theorem ctzCount_eq {w a : Nat} {bit : Nat → Bool} (h : ∀ i < w, bit i = a.testBit i) :
    ctzCount w a = ((List.range w).takeWhile fun i => !bit i).length := by
  induction w generalizing a bit with
  | zero => rfl
  | succ w ih =>
    have htail : ctzCount w (a / 2) = ((List.range w).takeWhile fun i => !bit (i + 1)).length :=
      ih fun i hi => (h (i + 1) (by omega)).trans (Nat.testBit_succ a i)
    have hhead : bit 0 = decide (a % 2 = 1) := (h 0 (by omega)).trans (Nat.testBit_zero a)
    rw [ctzCount, htail, List.range_succ_eq_map, List.takeWhile_cons, hhead]
    by_cases hbit : a % 2 = 1
    · simp [hbit]
    · simp [hbit, List.takeWhile_map, Function.comp_def, Nat.add_comm]

theorem bitReverse_lt (w a : Nat) : bitReverse w a < 2 ^ w := by
  induction w generalizing a with
  | zero => exact Nat.one_pos
  | succ w ih =>
    have hbit : a % 2 * 2 ^ w ≤ 1 * 2 ^ w := Nat.mul_le_mul_right _ (by omega)
    have hlow := ih (a / 2)
    rw [bitReverse, Nat.pow_succ]
    omega

/-- Bit `i` of a reversal is bit `w - 1 - i` of its source. -/
theorem testBit_bitReverse (w a i : Nat) : (bitReverse w a).testBit i = (decide (i < w) && a.testBit (w - 1 - i)) := by
  induction w generalizing a with
  | zero => simp [bitReverse]
  | succ w ih =>
    rw [bitReverse, Nat.mul_comm, Nat.testBit_two_pow_mul_add _ (bitReverse_lt w _), ih]
    obtain hlt | rfl | hgt := Nat.lt_trichotomy i w
    · have hsucc : w - i = w - 1 - i + 1 := by omega
      simp [hlt, Nat.lt_succ_of_lt hlt, hsucc, Nat.testBit_add_one]
    · simp
    · have hpos : i - w ≠ 0 := by omega
      have hzero : (a % 2).testBit (i - w) = false :=
        Nat.testBit_lt_two_pow (Nat.lt_of_lt_of_le (Nat.mod_lt a Nat.two_pos) (Nat.le_self_pow hpos 2))
      simp [hgt.not_gt, show ¬ i < w + 1 by omega, hzero]

theorem bitReverse_eq (w a : Nat) : bitReverse w a = (BitVec.ofNat w a).reverse.toNat := by
  refine Nat.eq_of_testBit_eq fun i => ?_
  rw [testBit_bitReverse, BitVec.testBit_toNat, BitVec.getLsbD_reverse, BitVec.getMsbD, BitVec.getLsbD_ofNat]
  by_cases hi : i < w
  · simp [hi, show w - 1 - i < w by omega]
  · simp [hi]

/-- The leading zeros are the trailing zeros of the reversal. -/
theorem aluClz_eq (w a : Nat) :
    aluClz w a = ((List.range w).takeWhile fun i => !(BitVec.ofNat w a).getMsbD i).length :=
  ctzCount_eq fun i _ => by rw [bitReverse_eq, BitVec.testBit_toNat, BitVec.getLsbD_reverse]

theorem getLsbD_ofNat_of_lt {w a i : Nat} (hi : i < w) : (BitVec.ofNat w a).getLsbD i = a.testBit i := by
  rw [BitVec.getLsbD_ofNat, decide_eq_true hi, Bool.true_and]

end Sys2Proof.Machine

/-! ## Logic, shifts, fields and bytes as operations of bit vectors (R112 to R114) -/

namespace Sys2Proof.Machine

open Sys2Proof.Claims

theorem aluAndn_eq (w a b : Nat) : aluAndn w a b = (BitVec.ofNat w a &&& ~~~BitVec.ofNat w b).toNat := by
  rw [BitVec.toNat_and, BitVec.toNat_not]; rfl

/-- A count modulo the width needs no more than its low word. -/
theorem toNat_ofNat_mod_width (t : IntTy) (b : Nat) : (BitVec.ofNat 32 b).toNat % IntTy.width t = b % IntTy.width t := by
  rw [BitVec.toNat_ofNat, Nat.mod_mod_of_dvd _ (by cases t <;> decide)]

/-- The two parts of a rotation do not overlap. -/
theorem aluRol_eq {w : Nat} (hw : 0 < w) (a b : Nat) :
    aluRol w a b = ((BitVec.ofNat w a).rotateLeft (b % w)).toNat := by
  have hk : b % w < w := Nat.mod_lt b hw
  have hsplit : 2 ^ w = 2 ^ (w - b % w) * 2 ^ (b % w) := by rw [← Nat.pow_add, Nat.sub_add_cancel hk.le]
  have hlow : uval w a / 2 ^ (w - b % w) < 2 ^ (b % w) :=
    Nat.div_lt_of_lt_mul (hsplit ▸ Nat.mod_lt a (Nat.two_pow_pos w))
  have hhigh : uval w a * 2 ^ (b % w) % 2 ^ w = (uval w a % 2 ^ (w - b % w)) <<< (b % w) := by
    rw [Nat.shiftLeft_eq, hsplit, Nat.mul_mod_mul_right]
  rw [BitVec.toNat_rotateLeft, Nat.mod_eq_of_lt hk, ← uval_eq, Nat.shiftLeft_eq, Nat.shiftRight_eq_div_pow, hhigh,
    ← Nat.shiftLeft_add_eq_or_of_lt hlow, ← hhigh, aluRol]

theorem aluFunnel_eq (a b c : Nat) : aluFunnel a b c =
    (((BitVec.ofNat 32 a ++ BitVec.ofNat 32 b) >>> ((BitVec.ofNat 32 c).toNat % 32)).setWidth 32).toNat := by
  rw [BitVec.toNat_setWidth, BitVec.toNat_ushiftRight, BitVec.toNat_append,
    ← Nat.shiftLeft_add_eq_or_of_lt (BitVec.isLt _), Nat.shiftLeft_eq, Nat.shiftRight_eq_div_pow, ofNat_toNat_mod32]
  rfl

/-! ### Fields (R113) -/

/-- BFX of a field of `k` bits: the field, extended. -/
theorem extend_field {k : Nat} (hk : 0 < k) (hk32 : k ≤ 32) (signed : Bool) (a p : Nat) :
    wrapI 32 (ival signed k (uval 32 a / 2 ^ p))
      = if signed then (((BitVec.ofNat 32 a).extractLsb' p k).signExtend 32).toNat
        else ((BitVec.ofNat 32 a).extractLsb' p k).toNat := by
  have hfield : BitVec.ofNat k (uval 32 a / 2 ^ p) = (BitVec.ofNat 32 a).extractLsb' p k := by
    rw [uval_eq, ← Nat.shiftRight_eq_div_pow]; rfl
  rw [wrapI_eq, ival_eq hk, hfield]
  cases signed
  · have hlt : ((BitVec.ofNat 32 a).extractLsb' p k).toNat < 2 ^ 32 :=
      (BitVec.isLt _).trans_le (Nat.pow_le_pow_right Nat.two_pos hk32)
    exact (congrArg BitVec.toNat (BitVec.ofInt_natCast ..)).trans (Nat.mod_eq_of_lt hlt)
  · rfl

theorem aluBfx_eq (t : Ty32) (a b c : Nat) :
    let p := (BitVec.ofNat 32 b).toNat % 256
    let n := min ((BitVec.ofNat 32 c).toNat % 256) (32 - p)
    aluBfx t a b c = if 32 ≤ p ∨ n = 0 then 0
      else if Ty32.signed t then (((BitVec.ofNat 32 a).extractLsb' p n).signExtend 32).toNat
      else ((BitVec.ofNat 32 a).extractLsb' p n).toNat := by
  intro p n
  have hp : b % 256 = p := (Nat.mod_mod_of_dvd b (by decide)).symm
  have hc : (BitVec.ofNat 32 c).toNat % 256 = c % 256 := Nat.mod_mod_of_dvd c (by decide)
  have hn : min (c % 256) (32 - p) = n := congrArg (min · (32 - p)) hc.symm
  simp only [aluBfx, hp, hn]
  by_cases hempty : p ≥ 32 ∨ c % 256 = 0
  · rw [if_pos hempty, if_pos (by omega)]
  · rw [if_neg hempty, if_neg (by omega), extend_field (by omega) (by omega)]

theorem getLsbD_fieldMask {p k i : Nat} (hi : i < 32) : (fieldMask p k).getLsbD i = decide (p ≤ i ∧ i < p + k) := by
  rw [fieldMask, getLsbD_ofNat_of_lt hi, Nat.testBit_mul_two_pow, Nat.testBit_two_pow_sub_one, ← Bool.decide_and,
    decide_eq_decide]
  omega

/-- The bits of a word with a field replaced: those below the field, in it, and above it. -/
theorem testBit_replaced (a b p k i : Nat) :
    (b / 2 ^ (p + k) * 2 ^ (p + k) + a % 2 ^ k * 2 ^ p + b % 2 ^ p).testBit i =
      if p ≤ i ∧ i < p + k then a.testBit (i - p) else b.testBit i := by
  have hparts : b / 2 ^ (p + k) * 2 ^ (p + k) + a % 2 ^ k * 2 ^ p + b % 2 ^ p
      = 2 ^ p * (2 ^ k * (b / 2 ^ (p + k)) + a % 2 ^ k) + b % 2 ^ p := by
    rw [Nat.pow_add]; ring
  rw [hparts, Nat.testBit_two_pow_mul_add _ (Nat.mod_lt _ (Nat.two_pow_pos p)),
    Nat.testBit_two_pow_mul_add _ (Nat.mod_lt _ (Nat.two_pow_pos k))]
  by_cases hbelow : i < p
  · simp [hbelow, Nat.testBit_mod_two_pow, hbelow.not_ge]
  · by_cases hin : i - p < k
    · simp [hbelow, hin, Nat.testBit_mod_two_pow, show p ≤ i ∧ i < p + k by omega]
    · simp [hbelow, hin, Nat.testBit_div_two_pow, show ¬ i < p + k by omega, show i - p - k + (p + k) = i by omega]

/-- A field that lies in the word is replaced under its mask. -/
theorem replace_field {p k : Nat} (hpk : p + k ≤ 32) (a b : Nat) :
    uval 32 b / 2 ^ (p + k) * 2 ^ (p + k) + a % 2 ^ k * 2 ^ p + uval 32 b % 2 ^ p =
      ((BitVec.ofNat 32 b &&& ~~~fieldMask p k) ||| (BitVec.ofNat 32 a <<< p &&& fieldMask p k)).toNat := by
  refine Nat.eq_of_testBit_eq fun i => ?_
  rw [testBit_replaced, uval_eq, BitVec.testBit_toNat, BitVec.testBit_toNat]
  by_cases hi : i < 32
  · simp only [BitVec.getLsbD_or, BitVec.getLsbD_and, BitVec.getLsbD_not, BitVec.getLsbD_shiftLeft,
      getLsbD_fieldMask hi]
    split
    · next hin => simp [hi, hin, hin.1.not_gt, getLsbD_ofNat_of_lt (show i - p < 32 by omega)]
    · next hout => simp [hi, hout]
  · rw [if_neg (by omega), BitVec.getLsbD_of_ge _ _ (by omega), BitVec.getLsbD_of_ge _ _ (by omega)]

theorem aluBfi_eq (a b c : Nat) :
    let p := (BitVec.ofNat 32 c).toNat % 256
    let n := min ((BitVec.ofNat 32 c).toNat / 256 % 256) (32 - p)
    aluBfi a b c = if 32 ≤ p ∨ n = 0 then (BitVec.ofNat 32 b).toNat
      else ((BitVec.ofNat 32 b &&& ~~~fieldMask p n) ||| (BitVec.ofNat 32 a <<< p &&& fieldMask p n)).toNat := by
  intro p n
  have hp : c % 256 = p := (Nat.mod_mod_of_dvd c (by decide)).symm
  have hc : (BitVec.ofNat 32 c).toNat / 256 % 256 = c / 256 % 256 := by rw [BitVec.toNat_ofNat]; omega
  have hn : min (c / 256 % 256) (32 - p) = n := congrArg (min · (32 - p)) hc.symm
  simp only [aluBfi, hp, hn]
  by_cases hempty : p ≥ 32 ∨ c / 256 % 256 = 0
  · rw [if_pos hempty, if_pos (by omega), uval_eq]
  · rw [if_neg hempty, if_neg (by omega), replace_field (by omega)]

/-! ### BPERM (R114) -/

/-- The bits of a nibble that names a byte: its source word, and whether the byte's sign is taken. -/
theorem nibble_getLsbD_two (sel : BitVec 4) : sel.getLsbD 2 = decide (4 ≤ sel.toNat % 8) := by
  decide +revert

theorem nibble_getLsbD_three (sel : BitVec 4) : sel.getLsbD 3 = decide (8 ≤ sel.toNat) := by
  decide +revert

theorem byte_getLsbD_seven (y : BitVec 8) : y.getLsbD 7 = decide (128 ≤ y.toNat) := by
  rw [← BitVec.msb_eq_getLsbD_last, BitVec.msb_eq_decide]

/-- Nibble `i` of a value is that of its low word. -/
theorem nibble_eq (c : Nat) {i : Nat} (hi : i < 4) :
    c / 2 ^ (4 * i) % 16 = ((BitVec.ofNat 32 c).extractLsb' (4 * i) 4).toNat := by
  simp only [BitVec.extractLsb'_toNat, BitVec.toNat_ofNat, Nat.shiftRight_eq_div_pow]
  obtain rfl | rfl | rfl | rfl : i = 0 ∨ i = 1 ∨ i = 2 ∨ i = 3 := by omega
  all_goals simp only [Nat.reducePow, Nat.reduceMul]; omega

/-- The source byte that the low three bits of a nibble name. -/
theorem bperm_source (a b : Nat) (sel : BitVec 4) :
    (if sel.toNat % 8 < 4 then byteOf a (sel.toNat % 8) else byteOf b (sel.toNat % 8 - 4)) =
      (elem8 (if sel.getLsbD 2 then BitVec.ofNat 32 b else BitVec.ofNat 32 a) (sel.toNat % 4)).toNat := by
  rw [nibble_getLsbD_two]
  by_cases h : 4 ≤ sel.toNat % 8
  · rw [if_neg (by omega), byteOf_eq b (by omega), if_pos (decide_eq_true h)]
    congr 2; omega
  · rw [if_pos (by omega), byteOf_eq a (by omega), if_neg (by simpa using h)]
    congr 2; omega

theorem aluBperm_eq (a b c : Nat) : aluBperm a b c = ofElems8 fun i =>
    let sel := (BitVec.ofNat 32 c).extractLsb' (4 * i) 4
    let y := elem8 (if sel.getLsbD 2 then BitVec.ofNat 32 b else BitVec.ofNat 32 a) (sel.toNat % 4)
    if sel.getLsbD 3 then (if y.getLsbD 7 then 0xFF else 0x00) else y := by
  rw [aluBperm]
  refine ofBytes4_eq fun i hi => ?_
  simp only [nibble_eq c hi, nibble_getLsbD_three, byte_getLsbD_seven, decide_eq_true_eq]
  generalize (BitVec.ofNat 32 c).extractLsb' (4 * i) 4 = sel
  by_cases hsign : 8 ≤ sel.toNat
  · rw [if_pos hsign, if_pos hsign, bperm_source, apply_ite BitVec.toNat]
    rfl
  · have hlow : sel.toNat % 8 = sel.toNat := Nat.mod_eq_of_lt (by omega)
    rw [if_neg hsign, if_neg hsign, ← bperm_source, hlow]

end Sys2Proof.Machine

/-! ## Logic, bit and move words, and O3 (R112 to R114, R30) -/

namespace Sys2Proof.Machine

open Sys2Proof.Claims

variable (gd : Guard) (n : Reg) (a b c : Operand)

/-- Bitwise logic. -/
theorem logic_forms (t : IntTy) :
    Writes (.and gd t n a b) n (regs12 t.w64) (fun e => (opB t e a &&& opB t e b).toNat) (fun _ => 0)
    ∧ Writes (.or gd t n a b) n (regs12 t.w64) (fun e => (opB t e a ||| opB t e b).toNat) (fun _ => 0)
    ∧ Writes (.xor gd t n a b) n (regs12 t.w64) (fun e => (opB t e a ^^^ opB t e b).toNat) (fun _ => 0)
    ∧ Writes (.andn gd t n a b) n (regs12 t.w64) (fun e => (opB t e a &&& ~~~opB t e b).toNat) (fun _ => 0) :=
  ⟨writes_nat (fun _ => rfl) fun _ => aluAnd_eq .., writes_nat (fun _ => rfl) fun _ => aluOr_eq ..,
    writes_nat (fun _ => rfl) fun _ => aluXor_eq .., writes_nat (fun _ => rfl) fun _ => aluAndn_eq ..⟩

/-- Shifts and rotations by a count modulo the width. -/
theorem shift_forms (t : IntTy) (u : Ty32) :
    let count (e : Env) : Nat := (op32 e b).toNat % IntTy.width t
    Writes (.shl gd t n a b) n (regs12 t.w64) (fun e => (opB t e a <<< count e).toNat) (fun _ => 0)
    ∧ Writes (.shr gd t n a b) n (regs12 t.w64) (fun e => (opB t e a >>> count e).toNat) (fun _ => 0)
    ∧ Writes (.sar gd t n a b) n (regs12 t.w64) (fun e => ((opB t e a).sshiftRight (count e)).toNat) (fun _ => 0)
    ∧ Writes (.rol gd t n a b) n (regs12 t.w64) (fun e => ((opB t e a).rotateLeft (count e)).toNat) (fun _ => 0)
    ∧ Writes (.funnel gd u n a b c) n 1
        (fun e => (((op32 e a ++ op32 e b) >>> ((op32 e c).toNat % 32)).setWidth 32).toNat) (fun _ => 0) := by
  intro count
  have hcount (e : Env) : count e = opI e 1 b % IntTy.width t := toNat_ofNat_mod_width t _
  refine ⟨writes_nat (fun _ => rfl) fun e => ?_, writes_nat (fun _ => rfl) fun e => ?_,
    writes_nat (fun _ => rfl) fun e => ?_, writes_nat (fun _ => rfl) fun e => ?_,
    writes_nat (fun _ => rfl) fun e => aluFunnel_eq ..⟩
  · rw [aluShl_eq, hcount]; rfl
  · rw [aluShr_eq, hcount]; rfl
  · rw [aluSar_eq (width_pos t), hcount]; rfl
  · rw [aluRol_eq (width_pos t), hcount]; rfl

/-- Counting and reversing bits. -/
theorem counting_forms (t : IntTy) :
    Writes (.popc gd t n a) n 1 (fun e => (List.range (IntTy.width t)).countP fun i => (opB t e a).getLsbD i) (fun _ => 0)
    ∧ Writes (.clz gd t n a) n 1
        (fun e => ((List.range (IntTy.width t)).takeWhile fun i => !(opB t e a).getMsbD i).length) (fun _ => 0)
    ∧ Writes (.ctz gd t n a) n 1
        (fun e => ((List.range (IntTy.width t)).takeWhile fun i => !(opB t e a).getLsbD i).length) (fun _ => 0)
    ∧ Writes (.brev gd t n a) n (regs12 t.w64) (fun e => (opB t e a).reverse.toNat) (fun _ => 0) :=
  ⟨writes_nat (fun _ => rfl) fun _ => popCount_eq fun _ => getLsbD_ofNat_of_lt,
    writes_nat (fun _ => rfl) fun _ => aluClz_eq ..,
    writes_nat (fun _ => rfl) fun _ => ctzCount_eq fun _ => getLsbD_ofNat_of_lt,
    writes_nat (fun _ => rfl) fun _ => bitReverse_eq ..⟩

/-- Selecting and moving, and MOVI with its three extensions (R30). -/
theorem move_forms (t : IntTy) (neg : Bool) (k : PReg) (imm : Word) :
    Writes (.sel gd t n a b neg k) n (regs12 t.w64)
        (fun e => if getP e.lane k != neg then opI e (regs12 t.w64) a else opI e (regs12 t.w64) b) (fun _ => 0)
    ∧ Writes (.mov gd t n a) n (regs12 t.w64) (fun e => opI e (regs12 t.w64) a) (fun _ => 0)
    ∧ Writes (.movi gd .none n imm) n 1 (fun _ => imm.toNat) (fun _ => 0)
    ∧ Writes (.movi gd .n64 n imm) n 2 (fun _ => imm.toNat) (fun _ => 0)
    ∧ Writes (.movi gd .i64 n imm) n 2 (fun _ => (imm.signExtend 64).toNat) (fun _ => 0) :=
  ⟨writes_nat (fun _ => rfl) fun _ => rfl, writes_nat (fun _ => rfl) fun _ => rfl,
    writes_nat (fun _ => rfl) fun _ => rfl, writes_nat (fun _ => rfl) fun _ => rfl,
    writes_nat (fun _ => rfl) fun _ => wrapI_eq ..⟩

end Sys2Proof.Machine

namespace Sys2Proof

open Sys2Proof.Machine Sys2Proof.Claims

/-- Settles O3: every form on patterns is that of the bit vectors; a field is its mask's bits, and a byte of BPERM its
nibble's source. -/
theorem logicBitAndMoveForms : Obligations.LogicBitAndMoveForms := by
  refine ⟨fun gd t u n a b c => ?_, fun gd t n a b neg k imm => ?_, fun gd t d a b c => ?_, fun gd t d a b c => ?_⟩
  · obtain ⟨hand, hor, hxor, handn⟩ := logic_forms gd n a b t
    exact ⟨hand, hor, hxor, handn, shift_forms gd n a b c t u⟩
  · obtain ⟨hpopc, hclz, hctz, hbrev⟩ := counting_forms gd n a t
    exact ⟨hpopc, hclz, hctz, hbrev, move_forms gd n a b t neg k imm⟩
  · exact ⟨writes_nat (fun _ => rfl) fun _ => aluBfx_eq .., writes_nat (fun _ => rfl) fun _ => aluBfi_eq ..⟩
  · exact writes_nat (fun _ => rfl) fun _ => aluBperm_eq ..

end Sys2Proof

/-! ## A group operation arrives at its rendezvous (R142 to R146, R301) -/

namespace Sys2Proof.Machine

open Sys2Proof.Claims

/-- Every group operation is an arrival with its member mask and its operands. -/
theorem exec_groupWord {i : Instr} {m : MReg} {f : Env → Nat × Nat × Nat} (h : groupWord i = some (m, f)) (s : State) :
    exec i s = groupOp i m f s := by
  unfold groupWord at h
  split at h <;> cases h
  case h_6 t _ _ _ _ _ | h_7 t _ _ _ _ _ _ => cases t <;> rfl
  all_goals rfl

theorem modCur_some {s : State} {g : Grp} (f : Grp → Grp) (h : curGrp s = some g) : modCur s f = setCurGrp s (f g) :=
  modGrp_some f h

theorem trap_of_curGrp {s : State} {g : Grp} (h : curGrp s = some g) (cause : Nat) (mask : Mask) (addr info : Nat) :
    trap s cause mask addr info
      = takeTrap s s.cur.core s.cur.slot (mkRec g s.cur.slot mask (curPc s) addr info cause 0) := by
  rw [trap, h]

/-- The rendezvous that a set meets at its word, or opens there, has captured `cap` (R142). -/
def MeetsAt (s : State) (g : Grp) (m : MReg) (cap : Mask) : Prop :=
  (g.rdv = none ∧ cap = getM g m) ∨ ∃ r, g.rdv = some r ∧ r.pc = curPc s ∧ cap = r.captured

/-- No lane whose guard is true is inside a transaction. -/
def ActiveOutside (i : Instr) (s : State) (g : Grp) : Prop :=
  ∀ l, (active i s g).getLsbD l = true → inTxn (laneAt g l) = false

section
variable {i : Instr} {m : MReg} {f : Env → Nat × Nat × Nat} {s : State} {g : Grp} {cap : Mask}

theorem capturedAt_of_meetsAt (h : MeetsAt s g m cap) : capturedAt g m (curPc s) = cap := by
  obtain ⟨hnone, rfl⟩ | ⟨r, hsome, hpc, rfl⟩ := h
  · simp only [capturedAt, hnone]
  · simp only [capturedAt, hsome, hpc, if_true]

/-- The lanes of the set that do not pass the word by (R301) are those outside transactions. -/
theorem not_passing_eq_plainLanes (htxn : ActiveOutside i s g) :
    s.cur.mask &&& ~~~passing s g (active i s g) = plainLanes s g := by
  refine BitVec.eq_of_getLsbD_eq fun l hl => ?_
  simp only [passing, plainLanes, BitVec.getLsbD_and, BitVec.getLsbD_not, getLsbD_maskOf, hl, decide_true, Bool.true_and]
  cases hact : (active i s g).getLsbD l
  · cases s.cur.mask.getLsbD l <;> simp
  · simp [htxn l hact]

/-- The group once the lanes of the set inside transactions have gone by. -/
def wentBy (i : Instr) (s : State) (g : Grp) : Grp := advance (passing s g (active i s g)) g

/-- The group after the arrival of the current set. -/
def arrivedGrp (i : Instr) (m : MReg) (f : Env → Nat × Nat × Nat) (s : State) (g : Grp) : Grp :=
  arriveGrp s.clock i m (curPc s) (plainLanes s g) (active i s g) (supplies s g (active i s g) f) (wentBy i s g)

/-- Past the checks that every word makes, a set traps with GMASK or arrives at the rendezvous of its word; at another one
it traps with RENDEZVOUS or parks behind it. -/
theorem exec_groupWord_cases (hw : groupWord i = some (m, f)) (hrun : Runs i s g) (htxn : ActiveOutside i s g) :
    (∀ cap, MeetsAt s g m cap → exec i s = .next (
      if active i s g &&& ~~~cap ≠ 0 then trap s 0x07 (active i s g &&& ~~~cap) 0 0
      else setCurGrp s (arrivedGrp i m f s g)))
    ∧ ∀ r, g.rdv = some r → r.pc ≠ curPc s → exec i s = .next (
      if active i s g &&& r.captured ≠ 0 then trap s 0x08 (active i s g &&& r.captured) 0 r.captured.toNat
      else setCurGrp s (parkLanes (plainLanes s g) (fun _ => .behind) (wentBy i s g))) := by
  obtain ⟨hcur, hwin, hfall⟩ := hrun
  have hnone : (maskOf fun l => (active i s g).getLsbD l && inTxn (laneAt g l)) = 0 :=
    BitVec.eq_of_getLsbD_eq fun l _ => by
      cases hact : (active i s g).getLsbD l
      · simp [hact]
      · simp [htxn l hact]
  have hexec := (exec_groupWord hw s).trans (withWord_next _ hcur hwin hfall)
  rw [← active, withoutTxn_none _ hnone, not_passing_eq_plainLanes htxn] at hexec
  simp only [modCur_some _ hcur] at hexec
  refine ⟨fun cap hcap => ?_, fun r hr hpc => ?_⟩
  · rw [hexec, ← capturedAt_of_meetsAt hcap]
    obtain ⟨hopen, -⟩ | ⟨r, hr, hpc, -⟩ := hcap
    · simp only [hopen]
      rfl
    · simp only [hr, hpc, if_true]
      rfl
  · simp only [hexec, hr, hpc, if_false]
    rfl

/-! ### The lanes -/

@[simp] theorem length_advance (k : Mask) : (advance k g).lanes.length = g.lanes.length := length_mapLanes ..

@[simp] theorem length_parkLanes (k : Mask) (w : Nat → Wait) : (parkLanes k w g).lanes.length = g.lanes.length :=
  length_mapLanes ..

@[simp] theorem length_wentBy : (wentBy i s g).lanes.length = g.lanes.length := length_advance _

theorem laneAt_parkLanes (k : Mask) (w : Nat → Wait) {l : Nat} (hl : l < g.lanes.length) :
    laneAt (parkLanes k w g) l = if k.getLsbD l then { laneAt g l with wait := w l } else laneAt g l :=
  laneAt_mapLanes _ _ _ _ hl

theorem mask_of_plainLanes {l : Nat} (h : (plainLanes s g).getLsbD l = true) : s.cur.mask.getLsbD l = true := by
  simp only [plainLanes, getLsbD_maskOf, Bool.and_eq_true] at h
  exact h.2.1

/-- The lanes of the set inside transactions go by (R301). -/
theorem laneAt_wentBy (htxn : ActiveOutside i s g) {l : Nat} (hl : l < 64) (hlen : g.lanes.length = 64) :
    laneAt (wentBy i s g) l = if (plainLanes s g).getLsbD l then laneAt g l else passed s (laneAt g l) l := by
  have hplain := congrArg (·.getLsbD l) (not_passing_eq_plainLanes htxn)
  simp only [BitVec.getLsbD_and, BitVec.getLsbD_not, hl, decide_true, Bool.true_and] at hplain
  rw [wentBy, laneAt_advance _ _ _ (by omega), passed, ← hplain]
  cases hmask : s.cur.mask.getLsbD l
  · simp [passing, hmask]
  · cases (passing s g (active i s g)).getLsbD l <;> rfl

/-- No lane of the group is beyond its 64. -/
theorem laneAt_beyond {g' : Grp} (hlen : g.lanes.length = 64) (hlen' : g'.lanes.length = g.lanes.length) {l : Nat}
    (hl : ¬ l < 64) (k : Mask) (x : Lane) : laneAt g' l = if k.getLsbD l then x else passed s (laneAt g l) l := by
  have hbit (k : Mask) : k.getLsbD l = false := BitVec.getLsbD_of_ge _ _ (by omega)
  rw [laneAt_out _ l (by omega), laneAt_out g l (by omega), passed, hbit, hbit]
  rfl

/-- The lanes that meet another rendezvous wait behind it. -/
theorem laneAt_parked_behind (hlen : g.lanes.length = 64) (htxn : ActiveOutside i s g) (l : Nat) :
    laneAt (parkLanes (plainLanes s g) (fun _ => .behind) (wentBy i s g)) l
      = if (plainLanes s g).getLsbD l then { laneAt g l with wait := .behind } else passed s (laneAt g l) l := by
  by_cases hl : l < 64
  · rw [laneAt_parkLanes _ _ (by simp; omega), laneAt_wentBy htxn hl hlen]
    split <;> rfl
  · exact laneAt_beyond hlen (by simp) hl _ _

theorem capturedAt_wentBy (hcap : MeetsAt s g m cap) : capturedAt (wentBy i s g) m (curPc s) = cap :=
  capturedAt_of_meetsAt hcap

theorem lanes_arrivedGrp (hcap : MeetsAt s g m cap) :
    (arrivedGrp i m f s g).lanes = (parkLanes (plainLanes s g &&& cap) (fun _ => .rendezvous)
      (advance (plainLanes s g &&& ~~~(plainLanes s g &&& cap)) (wentBy i s g))).lanes := by
  rw [← capturedAt_wentBy (i := i) hcap]
  rfl

/-- The members of the set wait at their rendezvous, and its other lanes go on. -/
theorem laneAt_arrivedGrp (hlen : g.lanes.length = 64) (htxn : ActiveOutside i s g) (hcap : MeetsAt s g m cap) (l : Nat) :
    laneAt (arrivedGrp i m f s g) l
      = if (plainLanes s g &&& cap).getLsbD l then { laneAt g l with wait := .rendezvous } else passed s (laneAt g l) l := by
  by_cases hl : l < 64
  · rw [laneAt, lanes_arrivedGrp hcap, ← laneAt, laneAt_parkLanes _ _ (by simp; omega),
      laneAt_advance _ _ _ (by simp; omega), laneAt_wentBy htxn hl hlen]
    simp only [BitVec.getLsbD_and, BitVec.getLsbD_not, hl, decide_true, Bool.true_and]
    cases hplain : (plainLanes s g).getLsbD l
    · simp
    · cases cap.getLsbD l <;> simp [passed, mask_of_plainLanes hplain]
  · exact laneAt_beyond hlen (by simp [lanes_arrivedGrp hcap]) hl _ _

/-! ### The rendezvous -/

/-- The arrival changes the lanes and the rendezvous, which it opens or joins. -/
theorem arrivedGrp_frame (hcap : MeetsAt s g m cap) : ∃ r',
    arrivedGrp i m f s g = { g with lanes := (arrivedGrp i m f s g).lanes, rdv := some r' }
      ∧ (g.rdv = none → r' = opened s i (plainLanes s g) cap (active i s g) (supplies s g (active i s g) f))
      ∧ ∀ r, g.rdv = some r → r' = joined r i (plainLanes s g) (active i s g) (supplies s g (active i s g) f) := by
  have hcapt := capturedAt_wentBy (i := i) hcap
  have hrdv : (wentBy i s g).rdv = g.rdv := rfl
  obtain ⟨hopen, -⟩ | ⟨r, hr, -, rfl⟩ := hcap
  · refine ⟨_, rfl, fun _ => ?_, fun r hr => nomatch hopen.symm.trans hr⟩
    simp [hcapt, hrdv, hopen, opened]
  · refine ⟨_, rfl, fun hopen => (nomatch hopen.symm.trans hr), fun r' hr' => ?_⟩
    obtain rfl := Option.some.inj (hr.symm.trans hr')
    simp [hcapt, hrdv, hr, joined]

end

end Sys2Proof.Machine

namespace Sys2Proof

open Sys2Proof.Machine Sys2Proof.Claims

/-- Settles O19: past the checks of every word the lanes inside transactions go by, and the others meet the rendezvous of
their word, or another one. -/
theorem groupOperationArrivesAtItsRendezvous : Obligations.GroupOperationArrivesAtItsRendezvous := by
  refine ⟨fun i m f s g cap hw hrun hlen htxn hcap hmem => ?_, fun i m f s g hw hrun hlen htxn => ?_⟩ <;>
    obtain ⟨hmeets, hother⟩ := exec_groupWord_cases hw hrun htxn
  · obtain ⟨r', hframe, hrdv⟩ := arrivedGrp_frame (i := i) (f := f) hcap
    have hexec := hmeets cap hcap
    rw [if_neg (not_not.mpr hmem)] at hexec
    exact ⟨_, r', hexec, hframe, laneAt_arrivedGrp hlen htxn hcap, hrdv⟩
  · refine ⟨fun cap hcap hbad => ?_, fun r hr hpc => ⟨fun hbad => ?_, fun hnone => ?_⟩⟩
    · rw [hmeets cap hcap, if_pos hbad, trap_of_curGrp hrun.1]
    · rw [hother r hr hpc, if_pos hbad, trap_of_curGrp hrun.1]
    · have hexec := hother r hr hpc
      rw [if_neg (not_not.mpr hnone)] at hexec
      exact ⟨_, hexec, _, rfl, rfl, laneAt_parked_behind hlen htxn⟩

end Sys2Proof

/-! ## Complete group operations: results with predicates, and masks (R145, R149 to R152, R156) -/

namespace Sys2Proof.Machine

open Sys2Proof.Claims

/-! ### What befalls the participants -/

section
variable {s : State} {c k : Nat} {g : Grp} {r : Rdv} {i : Instr}

/-- What befalls a lane counts for participants alone. -/
theorem completes_congr {lane lane' : Nat → Lane → Lane} {rest : Grp → Grp} (h : Completes s c k g r lane rest)
    (heq : ∀ l ln, takesPart r l = true → lane l ln = lane' l ln) : Completes s c k g r lane' rest := by
  obtain ⟨o, hat, htake, hwrite⟩ := h
  refine ⟨o, hat, htake, fun u x hx hlen hdue => ?_⟩
  obtain ⟨x', hnext, hframe, hlanes⟩ := hwrite u x hx hlen hdue
  refine ⟨x', hnext, hframe, fun l hl => (hlanes l hl).trans ?_⟩
  split
  · next hpart => rw [heq l _ hpart]
  · rfl

/-- The result of a rendezvous whose word is known. -/
theorem rdvResult_of_word (g : Grp) (hw : r.word = some i) : rdvResult { r with word := some i } g = rdvResult r g := by
  rw [← hw]

/-- Results on their registers, where no scalar register takes them: each participant's own. -/
theorem putResults_lanes {d : Option (Reg × Nat)} (hd : ∀ n w, d ≠ some (.s n, w)) (f : Nat → Res) (x : Grp) :
    putResults d (resultsOf r f) x = (lanesOf (partsOf r)).foldl (fun x l => modLane x l (putRes d (f l))) x := by
  rw [putResults, resultsOf, List.foldl_map]
  exact fun n w h => hd n w h

/-- A group operation that gives every participant a result of its own, in a vector register or a predicate. -/
theorem completes_results {d : Option (Reg × Nat)} {f : Nat → Res} (h : Complete s c k g r) (hw : r.word = some i)
    (hi : completeNow s c k g r i = some (completeRdv s c k (rdvResult r g)))
    (hres : rdvResult { r with word := some i } g = outRes r d f) (hd : ∀ n w, d ≠ some (.s n, w)) :
    Completes s c k g r (fun l ln => putRes d (f l) ln) id := by
  rw [rdvResult_of_word g hw] at hres
  refine ⟨_, rfl, exec_rendezvousComplete_met h hw hi, fun u x hx hlen ho => ⟨_, exec_rendezvousComplete_due hx ho, ?_⟩⟩
  simp only [hres, writeOut, outRes, outOf, putResults_lanes hd]
  refine ⟨?_, fun l hl => ?_⟩
  · rw [foldl_modLane_frame]
    rfl
  · rw [laneAt_mapLanes _ _ _ _ (by rw [foldl_modLane_length]; omega),
      laneAt_foldl_modLane _ _ (nodup_lanesOf _) _ (by omega)]
    simp only [mem_lanesOf, getLsbD_partsOf, released]

theorem partsOf_ne_zero (hj : Joined r) : partsOf r ≠ 0 := by
  obtain ⟨l, -, hpart⟩ := hj
  intro hzero
  rw [← getLsbD_partsOf, hzero] at hpart
  simp at hpart

/-- A group operation with participants that writes a mask register. -/
theorem completes_mask {d : MReg} {v : Mask} (h : Complete s c k g r) (hj : Joined r) (hw : r.word = some i)
    (hi : completeNow s c k g r i = some (completeRdv s c k (rdvResult r g)))
    (hres : rdvResult { r with word := some i } g = outMask r d v) :
    Completes s c k g r (fun _ ln => ln) (putM · d v) := by
  rw [rdvResult_of_word g hw, outMask, if_neg (partsOf_ne_zero hj)] at hres
  refine ⟨_, rfl, exec_rendezvousComplete_met h hw hi, fun u x hx hlen ho =>
    ⟨mapLanes r.arrived (fun _ ln => { ln with wait := .ready, pc := r.pc + 8 }) x, ?_, rfl, fun l hl => ?_⟩⟩
  · rw [exec_rendezvousComplete_due hx ho, hres]
    rfl
  · rw [laneAt_mapLanes _ _ _ _ (by omega), ite_self]
    rfl

theorem exists_lowest {m : Mask} {l : Nat} (h : m.getLsbD l = true) : ∃ l0, lowest m = some l0 := by
  cases hlow : lowest m with
  | some l0 => exact ⟨l0, rfl⟩
  | none =>
    have hmem := (mem_lanesOf m l).mpr h
    rw [List.head?_eq_none_iff.mp hlow] at hmem
    exact absurd hmem List.not_mem_nil

/-- A group operation with participants that writes a scalar register, and no flags. -/
theorem completes_scalar_value {n : Fin 192} {w v : Nat} (h : Complete s c k g r) (hj : Joined r) (hw : r.word = some i)
    (hi : completeNow s c k g r i = some (completeRdv s c k (rdvResult r g)))
    (hres : rdvResult { r with word := some i } g = outRes r (some (.s n, w)) fun _ => .ofNat v) :
    Completes s c k g r (fun _ ln => ln) (putS · n.val w v) := by
  rw [rdvResult_of_word g hw] at hres
  obtain ⟨l, -, hpart⟩ := hj
  obtain ⟨l0, hlow⟩ := exists_lowest ((getLsbD_partsOf r l).trans hpart)
  refine completes_congr (completes_scalar (v := (v, 0)) h hw hi hres hlow) fun l ln _ => ?_
  simp

end

/-! ### The values (R149, R150) -/

theorem supplied_snd (r : Rdv) (l : Nat) : (supplied r l).2.1 = gave2 r l := by
  unfold supplied gave2
  cases r.ops.find? fun o => o.1 = l <;> rfl

theorem supplied_thd (r : Rdv) (l : Nat) : (supplied r l).2.2 = gave3 r l := by
  unfold supplied gave3
  cases r.ops.find? fun o => o.1 = l <;> rfl

/-- The value of the source lane if that takes part, else the lane's own. -/
def shuffled (r : Rdv) (source : Option Nat) (l : Nat) : Nat × Bool :=
  let src := source.filter (takesPart r)
  (gave r (src.getD l), src.isSome)

/-- A source lane that a condition admits. -/
theorem shuffled_admitted (r : Rdv) (x l : Nat) {p : Prop} [Decidable p] {b : Bool} (hb : b = decide p) :
    ((supplied r (if (b && (partsOf r).getLsbD x) = true then x else l)).1, b && (partsOf r).getLsbD x)
      = shuffled r (if p then some x else none) l := by
  subst hb
  rw [getLsbD_partsOf, supplied_fst]
  by_cases hp : p <;> cases hpart : takesPart r x <;> simp [shuffled, Option.filter, hp, hpart]

theorem segLen_le (seg : SegSize) : segLen seg ≤ 64 ∧ 0 < segLen seg := by cases seg <;> decide

/-- The exclusive or of two numbers of lanes. -/
theorem xor_lanes {a b : Nat} (ha : a < 64) (hb : b < 64) :
    Nat.xor a b = (BitVec.ofNat 6 a ^^^ BitVec.ofNat 6 b).toNat := by
  rw [BitVec.toNat_xor, BitVec.toNat_ofNat, BitVec.toNat_ofNat, Nat.mod_eq_of_lt ha, Nat.mod_eq_of_lt hb]
  rfl

theorem shflRes_eq (r : Rdv) (seg : SegSize) (mode : ShflMode) (l : Nat) :
    shflRes r seg mode l = shuffled r (shuffleSource r (segLen seg) mode l) l := by
  obtain ⟨hle, hpos⟩ := segLen_le seg
  have hbase : l / segLen seg * segLen seg = l - l % segLen seg := Nat.div_mul_self_eq_mod_sub_self
  have hoff : l - (l - l % segLen seg) < 64 := by have := Nat.mod_lt l hpos; omega
  have hlane (j : Nat) : j % segLen seg < 64 := (Nat.mod_lt j hpos).trans_le hle
  cases mode with
  | idx => simpa [shflRes, shuffleSource, hbase, supplied_snd] using shuffled_admitted r _ l (p := True) rfl
  | up =>
    simp only [shflRes, shuffleSource, hbase, supplied_snd]
    exact shuffled_admitted r _ l (Bool.decide_and ..).symm
  | dn =>
    simp only [shflRes, shuffleSource, hbase, supplied_snd]
    exact shuffled_admitted r _ l (Bool.decide_and ..).symm
  | xor =>
    simp only [shflRes, shuffleSource, hbase, supplied_snd, xor_lanes hoff (hlane _)]
    exact shuffled_admitted r _ l (p := True) rfl

theorem slideBits_eq (w : SlideWidth) : slideBits w = slideWidth w := by cases w <;> rfl

/-- An element of SLIDE: that of the participant it comes from, or the filler. -/
theorem slideElem_eq (r : Rdv) (up : Bool) (w l q : Nat) :
    slideElem r up w l q =
      match (slideFrom up (64 * (32 / w)) (gave2 r l % 2 ^ 32) (32 / w * l + q)).filter
        (fun t => takesPart r (t / (32 / w))) with
      | some t => gave r (t / (32 / w)) / 2 ^ (w * (t % (32 / w))) % 2 ^ w
      | none => gave3 r l % 2 ^ w := by
  simp only [slideElem, supplied_snd, supplied_thd, supplied_fst, getLsbD_partsOf]
  rw [← slideFrom]
  cases slideFrom up (64 * (32 / w)) (gave2 r l % 2 ^ 32) (32 / w * l + q) with
  | none => rfl
  | some t => cases hpart : takesPart r (t / (32 / w)) <;> simp [Option.filter, hpart]

/-! ### Votes and masks (R151, R152, R156) -/

theorem ballotOf_eq {r : Rdv} {bal : Mask}
    (h : ∀ l, l < 64 → (bal.getLsbD l = true ↔ takesPart r l = true ∧ gave r l = 1)) : ballotOf r = bal := by
  refine BitVec.eq_of_getLsbD_eq fun l hl => ?_
  rw [Bool.eq_iff_iff, h l hl, ballotOf, getLsbD_maskOf, getLsbD_partsOf, supplied_fst]
  simp [hl]

theorem liveMask_eq {g : Grp} {v : Mask} (h : ∀ l, l < 64 → (v.getLsbD l = true ↔ (laneAt g l).status = .live)) :
    liveMask g = v := by
  refine BitVec.eq_of_getLsbD_eq fun l hl => ?_
  rw [Bool.eq_iff_iff, h l hl, liveMask, lanesWhere, getLsbD_maskOf]
  simp [hl]

/-- VOTE gives its result to every participant's predicate. -/
theorem completes_vote {s : State} {c k : Nat} {g : Grp} {r : Rdv} {gd : Guard} {m : MReg} {mode : VoteMode} {p q : PReg}
    (h : Complete s c k g r) (hw : r.word = some (.vote gd m mode p q)) :
    Completes s c k g r (fun _ ln => setP ln p (voteRes r mode)) id := by
  refine completes_congr (completes_results h hw rfl rfl (by rintro _ _ ⟨⟩)) fun l ln _ => ?_
  have hflags : addFlags ln 0 = ln := by simp [addFlags]
  exact congrArg (setP · p (voteRes r mode)) hflags

end Sys2Proof.Machine

namespace Sys2Proof

open Sys2Proof.Machine Sys2Proof.Claims

/-- Settles O20: each word's result is the exchange network's at its completion, on a vector register or a predicate of
every participant, on a mask, or on a scalar register. -/
theorem shufflesVotesBallotsAndMasks : Obligations.ShufflesVotesBallotsAndMasks := by
  refine ⟨fun s c k g r gd m seg mode p d a b h hw => ?_, fun s c k g r gd m up sw d a b o h hw => ?_,
    fun s c k g r gd m d a b p q n sd o mode bal h hj hbal => ?_⟩
  · refine completes_congr (completes_results h hw rfl rfl (by rintro _ _ ⟨⟩)) fun l ln _ => ?_
    simp only [shflRes_eq]
    rfl
  · refine completes_congr (completes_results h hw rfl rfl (by rintro _ _ ⟨⟩)) fun l ln _ => ?_
    simp only [slideRes, slideElem_eq, slideBits_eq]
    rfl
  · obtain rfl := ballotOf_eq hbal
    intro verdict mask
    have hmask {i : Instr} {v : Mask} (hi : completeNow s c k g r i = some (completeRdv s c k (rdvResult r g)))
        (hres : rdvResult { r with word := some i } g = outMask r d v) : mask i v :=
      fun hw => completes_mask h hj hw hi hres
    have hvote : voteRes r mode = verdict := by
      cases mode with
      | all | any => rfl
      | uni => exact (Bool.decide_or ..).symm
    have hld {l : Nat} (hlow : lowest (r.arrived &&& r.guards) = some l) :
        (supplied r ((lowest (partsOf r)).getD 0)).1 = gave r l := by
      rw [partsOf, hlow, Option.getD_some, supplied_fst]
    exact ⟨fun hw => hvote ▸ completes_vote h hw, hmask rfl rfl,
      fun hw => completes_results h hw rfl rfl (by rintro _ _ ⟨⟩), fun hw => completes_scalar_value h hj hw rfl rfl,
      hmask rfl rfl, hmask rfl rfl, hmask rfl rfl, hmask rfl rfl, hmask rfl rfl, hmask rfl rfl,
      fun hw => completes_scalar_value h hj hw rfl rfl, fun l hlow => hmask rfl (hld hlow ▸ rfl),
      fun v hlive => hmask rfl (liveMask_eq hlive ▸ rfl)⟩

end Sys2Proof

/-! ## ROLESW's write in a group that has fewer than 64 lanes (R161) -/

namespace Sys2Proof.Machine

open Sys2Proof.Claims

/-- ROLESW over M0, with the role word in S0 and the entry in S2. -/
def switchRoles : Instr := .rolesw 0 0 2

/-- Its rendezvous, at which lane 0 alone has arrived, with role word 8 (8 registers, priority 0) and the entry 0x2000. -/
def rolesMet : Rdv :=
  { pc := 0x1000, word := some switchRoles, captured := 1, arrived := 1, guards := 1, excused := 0,
    ops := [(0, 8, 0x2000, 0)], base := 0, since := 0 }

/-- A group whose only live lane waits there. -/
def groupOfRoles : Grp :=
  { Grp.fresh with
    lanes := { Lane.empty with status := .live, wait := .rendezvous } :: List.replicate 63 Lane.empty
    rdv := some rolesMet }

/-- A package of one core with one group, at a clock. -/
def stateWithGroup (g : Grp) (now : Nat) : State :=
  { State.reset with
    clock := now
    cores := [{ Core.reset 0 with groups := some g :: List.replicate 95 none }]
    helms := [] }

/-- What the exchange network is to write at clock 4: lane 0 goes on at the entry. -/
def rolesOut : RdvOut := { writeAt := 4, dest := none, res := [], mask := none, arrived := 1, goto := 0x2000 }

/-- A group without lanes for which that write is due. -/
def groupWithoutLanes : Grp := { Grp.fresh with lanes := [], outs := [rolesOut] }

/-- The results that wait for the exchange network in slot 0 after a step. -/
def outsAfter : Host.Outcome State Fault Refusal → Option (List RdvOut)
  | .next t => (grpAt t 0 0).map (·.outs)
  | _ => none

theorem complete_roles : Complete (stateWithGroup groupOfRoles 0) 0 0 groupOfRoles rolesMet := by
  unfold Complete
  decide +kernel

/-- The completion leaves that write to the exchange network. -/
theorem outsAfter_roles :
    outsAfter (exec (.rendezvousComplete 0 0) (stateWithGroup groupOfRoles 0)) = some [rolesOut] := by decide +kernel

/-- The write starts no lane of a group without lanes. -/
theorem exec_write_withoutLanes :
    exec (.rendezvousComplete 0 0) (stateWithGroup groupWithoutLanes 4)
      = .next (setGrp (stateWithGroup groupWithoutLanes 4) 0 0 (some { groupWithoutLanes with outs := [] })) :=
  exec_rendezvousComplete_due (h := groupWithoutLanes) (o := rolesOut) rfl (by decide +kernel)

end Sys2Proof.Machine

namespace Sys2Proof

open Sys2Proof.Machine Sys2Proof.Claims

/-- Refutes O47: its clause on ROLESW's write has the arrived lanes of whatever group holds that write stand at the entry,
and does not ask that the group has its 64 lanes, as `Completes` does. In a group without lanes the write sets none, and
`laneAt` reads the empty lane, at PC 0. -/
theorem not_teamBarriersRolesAndTimeLimits : ¬ Obligations.TeamBarriersRolesAndTimeLimits := by
  rintro ⟨h, -, -⟩
  obtain ⟨-, -, hroles⟩ := h (stateWithGroup groupOfRoles 0) 0 0 groupOfRoles rolesMet Guard.always 0 (.int 0) 0 2
    Team.fresh 0 complete_roles (by decide) (by decide) (by decide +kernel) (by decide +kernel)
  obtain ⟨-, -, hgood⟩ := hroles rfl
  have htxn : ∀ l < 64, rolesMet.arrived.getLsbD l = true → (laneAt groupOfRoles l).txn = none := by decide +kernel
  obtain ⟨t, g', hnext, hgrp, -, -, -, -, -, -, hwrite⟩ := hgood (by decide +kernel) (by decide +kernel)
    (by decide +kernel) (fun l hl => htxn l (BitVec.lt_of_getLsbD hl) hl) (by decide +kernel)
  obtain ⟨o, houts, -, hdue⟩ := hwrite (by decide +kernel)
  have hout : some (groupOfRoles.outs ++ [o]) = some [rolesOut] := by
    rw [← houts, ← outsAfter_roles, hnext, outsAfter, hgrp]
    rfl
  obtain rfl : o = rolesOut := List.head_eq_of_cons_eq (Option.some.inj hout)
  obtain ⟨h', hstep, -, hlanes⟩ := hdue (stateWithGroup groupWithoutLanes 4) groupWithoutLanes rfl (by decide +kernel)
  have hgroup := congrArg (grpAt · 0 0) (Host.Outcome.next.inj (hstep.symm.trans exec_write_withoutLanes))
  simp only [grpAt_setGrp (stateWithGroup groupWithoutLanes 4) 0 0 _ (by decide) (by decide)] at hgroup
  have hnone : h'.lanes = [] := congrArg Grp.lanes (Option.some.inj hgroup)
  have hpc : (laneAt h' 0).pc = 0x2000 := congrArg Lane.pc (hlanes 0)
  rw [laneAt_out h' 0 (by rw [hnone]; decide)] at hpc
  exact absurd hpc (by decide)

end Sys2Proof

/-! ## What the checks of an address read (R169) -/

namespace Sys2Proof.Machine

open Sys2Proof.Claims

theorem coreAt_modCore (s : State) (c c' : Nat) (f : Core → Core) :
    coreAt (modCore s c f) c' = if c' = c ∧ c < s.cores.length then f (coreAt s c) else coreAt s c' := by
  by_cases hc : c' = c
  · subst hc
    by_cases hl : c' < s.cores.length
    · simp only [modCore, coreAt_setCore _ _ _ hl, hl, and_self, if_true]
    · simp only [modCore, setCore, coreAt, List.set_eq_of_length_le (Nat.le_of_not_lt hl), hl, and_false, if_false]
  · simp only [modCore, coreAt_setCore_ne _ _ _ _ hc, hc, false_and, if_false]

/-- What a change of a core leaves, it leaves in every core. -/
theorem modCore_keeps {α : Type} (p : Core → α) {f : Core → Core} (h : ∀ x, p (f x) = p x) (s : State) (c c' : Nat) :
    p (coreAt (modCore s c f) c') = p (coreAt s c') := by
  rw [coreAt_modCore]
  split
  · next hc => rw [h, hc.1]
  · rfl

theorem coreAt_modCore_same {s : State} {c : Nat} (f : Core → Core) (h : c < s.cores.length) :
    coreAt (modCore s c f) c = f (coreAt s c) := by
  rw [coreAt_modCore, if_pos ⟨rfl, h⟩]

@[simp] theorem length_cores_modCore (s : State) (c : Nat) (f : Core → Core) :
    (modCore s c f).cores.length = s.cores.length := List.length_set

/-- Two states in which every address is checked alike: they differ in the queues of the cores, in the groups, and in what no
check reads. -/
structure ChecksAlike (s t : State) : Prop where
  cur : t.cur = s.cur
  clock : t.clock = s.clock
  mem : t.mem = s.mem
  homes : t.homes = s.homes
  grids : t.grids = s.grids
  badPages : t.badPages = s.badPages
  lostDies : t.lostDies = s.lostDies
  lostEnds : t.lostEnds = s.lostEnds
  poison : t.poison = s.poison
  lostBlocks : t.lostBlocks = s.lostBlocks
  cleared : t.cleared = s.cleared
  teams : ∀ c, (coreAt t c).teams = (coreAt s c).teams
  tlb : ∀ c, (coreAt t c).tlb = (coreAt s c).tlb

section
variable {s t : State} (h : ChecksAlike s t)
include h

theorem ChecksAlike.teamAt (c n : Nat) : teamAt t c n = teamAt s c n := by
  simp only [Machine.teamAt, teamIn, h.teams]

theorem ChecksAlike.performedLe (pa n : Nat) : performedLe t pa n = performedLe s pa n := by
  have hbyte (p : Nat) : performedByte t p = performedByte s p := by
    simp only [performedByte, h.homes, h.mem, h.teamAt]
  simp only [Machine.performedLe, hbyte]

theorem ChecksAlike.walkFrom (va n table : Nat) : walkFrom t va n table = walkFrom s va n table := by
  induction n generalizing table with
  | zero => rfl
  | succ n ih =>
    have hbacked (p : Nat) : backed t p = backed s p := by
      simp only [backed, lostAddr, h.badPages, h.lostDies, h.lostEnds]
    have hpoison (p : Nat) : linePoisoned t p = linePoisoned s p := by
      simp only [linePoisoned, h.poison, h.lostBlocks, h.cleared]
    simp only [Machine.walkFrom, h.performedLe, hbacked, hpoison, ih]

theorem ChecksAlike.gridRoot (id : Dword) : gridRoot t id = gridRoot s id := by
  simp only [Machine.gridRoot, gridOf, h.grids]

theorem ChecksAlike.findLeaf (c : Nat) (grid : Dword) (va : Nat) : findLeaf t c grid va = findLeaf s c grid va := by
  simp only [Machine.findLeaf, h.gridRoot, h.tlb, h.walkFrom]

theorem ChecksAlike.translate (c : Nat) (g : Grp) (va : Nat) (ty : AccessType) :
    translate t c g va ty = translate s c g va ty := by
  simp only [Machine.translate, h.findLeaf]

theorem ChecksAlike.aperture (c : Nat) (g : Grp) (a : Nat) : aperture t c g a = aperture s c g a := by
  simp only [Machine.aperture, h.teamAt, h.teams]

theorem ChecksAlike.checkAddr (c : Nat) (g : Grp) (a al : Nat) (ty : AccessType) :
    checkAddr t c g a al ty = checkAddr s c g a al ty := by
  have htouch (p : Place) : touchCheck t g p ty = touchCheck s g p ty := by
    simp only [touchCheck, h.teamAt, h.translate]
  simp only [Machine.checkAddr, h.aperture, htouch, h.translate]

theorem ChecksAlike.windowVa (c : Nat) (g : Grp) (va : Nat) : windowVa t c g va = windowVa s c g va := by
  simp only [Machine.windowVa, h.aperture, h.teamAt]

theorem ChecksAlike.envOf (g : Grp) (l : Nat) : envOf t g l = envOf s g l := by
  simp only [Machine.envOf, h.cur, h.teamAt, meridian, h.clock]

theorem ChecksAlike.settled {g : Grp} {va : Nat} {ty : AccessType} (hs : Settled s g va ty) : Settled t g va ty := by
  simpa only [Settled, h.cur, h.windowVa, h.tlb, h.gridRoot] using hs

end

/-! ## Accesses enter the pending queue (R170 to R177) -/

theorem checksAlike_modCore (s : State) (c : Nat) {f : Core → Core} (hteams : ∀ x, (f x).teams = x.teams)
    (htlb : ∀ x, (f x).tlb = x.tlb) : ChecksAlike s (modCore s c f) where
  cur := rfl
  clock := rfl
  mem := rfl
  homes := rfl
  grids := rfl
  badPages := rfl
  lostDies := rfl
  lostEnds := rfl
  poison := rfl
  lostBlocks := rfl
  cleared := rfl
  teams := modCore_keeps Core.teams hteams s c
  tlb := modCore_keeps Core.tlb htlb s c

theorem checksAlike_issueAll (s : State) (as : List Acc) : ChecksAlike s (issueAll s as) :=
  let h := checksAlike_modCore s s.cur.core (f := fun x => { x with pend := x.pend ++ as }) (fun _ => rfl) fun _ => rfl
  { h with }

theorem curGrp_issueAll (s : State) (as : List Acc) : curGrp (issueAll s as) = curGrp s :=
  grpAt_modCore (f := fun x => { x with pend := x.pend ++ as }) fun _ => rfl

theorem modCore_id (s : State) (c : Nat) {f : Core → Core} (h : f (coreAt s c) = coreAt s c) : modCore s c f = s := by
  have hset : s.cores.set c (coreAt s c) = s.cores := by
    by_cases hc : c < s.cores.length
    · simp [coreAt, hc]
    · exact List.set_eq_of_length_le (Nat.le_of_not_lt hc)
  simp only [modCore, setCore, h, hset]

theorem modCore_modCore (s : State) (c : Nat) (f f' : Core → Core) :
    modCore (modCore s c f) c f' = modCore s c fun x => f' (f x) := by
  by_cases hc : c < s.cores.length
  · simp only [modCore, coreAt_setCore _ _ _ hc]
    simp only [setCore, List.set_set]
  · have hset (x : Core) : s.cores.set c x = s.cores := List.set_eq_of_length_le (Nat.le_of_not_lt hc)
    simp only [modCore, setCore, hset]

@[simp] theorem issueAll_nil (s : State) : issueAll s [] = s := by
  simp only [issueAll, List.length_nil, Nat.add_zero]
  rw [modCore_id s _ (by simp)]

/-- One more access of a word enters after the others. -/
theorem pushAcc_issueAll (s : State) (as : List Acc) (a : Acc) : pushAcc (issueAll s as) a = issueAll s (as ++ [a]) := by
  have hcores := congrArg State.cores (modCore_modCore s s.cur.core (fun x => { x with pend := x.pend ++ as })
    fun x => { x with pend := x.pend ++ [a] })
  simp only [List.append_assoc] at hcores
  simp only [pushAcc, issueAll, modCore, setCore, List.length_append, List.length_singleton, Nat.add_assoc]
  exact congrArg (fun cs => { s with cores := cs, nextId := s.nextId + (as.length + 1) }) hcores

/-- An access whose translation stands leaves no trace but itself (R324). -/
theorem noteAccess_settled {s : State} {g : Grp} {va : Nat} {ty : AccessType} (h : Settled s g va ty) :
    noteAccess s s.cur.core g va ty = s := by
  unfold noteAccess
  cases hsv : g.supervisor
  · simp only [Settled, hsv, Bool.false_eq_true, false_or] at h
    cases hva : windowVa s s.cur.core g va with
    | none => simp
    | some v =>
      obtain ⟨e, he, hd⟩ := h v hva
      rcases hd with hd | rfl | rfl
      · simp [he, hd]
      · simp [he]
      · simp [he]
  · simp

end Sys2Proof.Machine

/-! ## The memory words of each lane as one form (R169 to R177) -/

namespace Sys2Proof.Machine

open Sys2Proof.Claims

theorem ofInt_add_off (x : Nat) (i : Int) (off : BitVec 13) :
    wrapI 64 ((x : Int) + i + off.toInt) = (BitVec.ofNat 64 x + BitVec.ofInt 64 i + off.signExtend 64).toNat := by
  rw [wrapI_eq, BitVec.ofInt_add, BitVec.ofInt_add, BitVec.ofInt_natCast, BitVec.signExtend]

theorem memAddr_none (e : Env) (a : Reg) (off : BitVec 13) : memAddr e a none off = based e a off := by
  have hzero : BitVec.ofInt 64 0 = 0#64 := rfl
  simp only [memAddr, ofInt_add_off, based, hzero, BitVec.add_zero]

theorem memAddr_some (e : Env) (a : Reg) (b : Operand) (w : Nat) (off : BitVec 13) :
    memAddr e a (some (b, w)) off = indexed e a b w off := by
  simp only [memAddr, ofInt_add_off, indexed, sval_32, op32]

/-- A form asks what the model's word asks in each lane. -/
structure SameForm (f : AccForm) (m : MemMod) (req : Env → MemReq) (mk : Env → Acc → Acc) : Prop where
  mod : f.mod = m
  req : ∀ e, req e = { va := f.va e, al := f.bytes, n := f.bytes, ty := f.ty }
  enrich : ∀ e s g l r t, mk e (newAcc s g l m r t)
    = { newAcc s g l m r t with kind := f.kind e, dst := f.dst e, val := f.val e }

/-- No lane of a mask that the frame of R301 looks at is inside a transaction. -/
theorem txnMask_eq_zero {g : Grp} {m : Mask} (h : NoTxn g m) : (maskOf fun l => m.getLsbD l && inTxn (laneAt g l)) = 0 :=
  BitVec.eq_of_getLsbD_eq fun l _ => by
    cases hm : m.getLsbD l
    · simp [hm]
    · simp [h l hm]

/-- A word in its frame runs its body with the lanes whose guard is true. -/
theorem withWord_of_runs {i : Instr} {s : State} {g : Grp} (h : Runs i s g) (body : Grp → Mask → State) :
    withWord i s body = .next (body g (active i s g)) :=
  withWord_next body h.1 h.2.1 h.2.2

theorem plainMem_of_runs {i : Instr} {s : State} {g : Grp} (h : Runs i s g) (htxn : NoTxn g (active i s g)) (m : MemMod)
    (req : Env → MemReq) (mk : Env → Acc → Acc) : plainMem i s m req mk = .next (memWord s g (active i s g) m req mk) := by
  rw [plainMem, withWord_of_runs h, withoutTxn_none _ (txnMask_eq_zero htxn)]

theorem awidth_regs (w : AWidth) : regs12 w.is64 = w.bytes / 4 := by cases w <;> rfl

/-- Every memory word that makes one access in each lane is `memWord` over its form. -/
theorem exec_memWord {i : Instr} {f : AccForm} (h : accForm i = some f) : ∃ req mk, SameForm f f.mod req mk
    ∧ ∀ s g, Runs i s g → NoTxn g (active i s g) → exec i s = .next (memWord s g (active i s g) f.mod req mk) := by
  cases i
  case ld gd w m d a b off =>
    obtain rfl := Option.some.inj h
    refine ⟨_, _, ⟨rfl, fun e => ?_, fun e s g l r t => ?_⟩,
      fun s g hrun _ => show execLd gd w m d a b off s = _ from withWord_of_runs hrun _⟩
    · simp only [reqAt, memAddr_some]
    · cases w <;> rfl
  case st gd w m d a b off =>
    obtain rfl := Option.some.inj h
    refine ⟨_, _, ⟨rfl, fun e => ?_, fun e s g l r t => ?_⟩,
      fun s g hrun _ => show execSt gd w m d a b off s = _ from withWord_of_runs hrun _⟩
    · simp only [reqAt, memAddr_some]
    · cases w <;> rfl
  case partn gd w m d a b =>
    obtain rfl := Option.some.inj h
    exact ⟨_, _, ⟨rfl, fun _ => rfl, fun e s g l r t => by simp only [awidth_regs, vDst, laneDst]⟩,
      fun s g hrun htxn => plainMem_of_runs hrun htxn _ _ _⟩
  case atom | atomW64 | acas | lr | sc =>
    obtain rfl := Option.some.inj h
    refine ⟨_, _, ⟨rfl, fun e => ?_, fun e s g l r t => ?_⟩, fun s g hrun htxn => plainMem_of_runs hrun htxn _ _ _⟩
    · simp only [reqAt, memAddr_none]
    · simp only [awidth_regs, vDst, laneDst, newAcc]
  all_goals simp only [accForm, reduceCtorEq] at h

/-! ### Every lane's access (R172) -/

section
variable {f : AccForm} {req : Env → MemReq} {mk : Env → Acc → Acc} {s : State} {g : Grp}

/-- A lane outside transactions whose address is good and whose translation stands issues its access. -/
theorem memLane_issues (hf : SameForm f f.mod req mk) (hg : curGrp s = some g) {as : List Acc} {l : Nat} {t : Target}
    (htxn : inTxn (laneAt g l) = false) (hok : checkOf s g f l = .ok t) (hset : Settled s g (vaOf s g f l) f.ty) :
    memLane f.mod req mk (issueAll s as) l = issueAll s (as ++ [accOf s g f as.length l t]) := by
  have halike := checksAlike_issueAll s as
  have hcheck : checkAddr (issueAll s as) (issueAll s as).cur.core g (f.va (envOf s g l)) f.bytes f.ty = .ok t :=
    (halike.checkAddr ..).trans hok
  have hnote := noteAccess_settled (halike.settled hset)
  have hlane : (envOf s g l).lane = laneAt g l := rfl
  simp only [memLane, curGrp_issueAll, hg, halike.envOf, hf.req, hcheck, hlane, htxn, Bool.false_eq_true, if_false]
  rw [show vaOf s g f l = f.va (envOf s g l) from rfl] at hnote
  rw [hnote, hf.enrich, pushAcc_issueAll]
  rfl

/-- The lanes of a word issue their accesses in order. -/
theorem foldl_memLane_issues (hf : SameForm f f.mod req mk) (hg : curGrp s = some g) {tg : Nat → Target} (ls : List Nat)
    (hls : ∀ l ∈ ls, inTxn (laneAt g l) = false ∧ checkOf s g f l = .ok (tg l) ∧ Settled s g (vaOf s g f l) f.ty)
    (as : List Acc) : ls.foldl (memLane f.mod req mk) (issueAll s as)
      = issueAll s (as ++ mapFrom (fun j l => accOf s g f j l (tg l)) as.length ls) := by
  induction ls generalizing as with
  | nil => simp only [List.foldl_nil, mapFrom, List.append_nil]
  | cons l ls ih =>
    obtain ⟨htxn, hok, hset⟩ := hls l List.mem_cons_self
    rw [List.foldl_cons, memLane_issues hf hg htxn hok hset, ih fun l hl => hls l (List.mem_cons_of_mem _ hl)]
    simp only [List.length_append, List.length_singleton, mapFrom, List.append_assoc, List.singleton_append]

/-- The lanes of a mask all issue. -/
theorem foldl_memLane_mask (hf : SameForm f f.mod req mk) (hg : curGrp s = some g) {tg : Nat → Target} {m : Mask}
    (htxn : NoTxn g m)
    (hok : ∀ l, m.getLsbD l = true → checkOf s g f l = .ok (tg l) ∧ Settled s g (vaOf s g f l) f.ty) :
    (lanesOf m).foldl (memLane f.mod req mk) s = issueAll s (accsOf s g f m tg) := by
  have h := foldl_memLane_issues hf hg (lanesOf m)
    (fun l hl => have hm := (mem_lanesOf m l).mp hl; ⟨htxn l hm, hok l hm⟩) []
  rwa [issueAll_nil] at h

/-- The lanes outside transactions whose checks fail (R169). -/
theorem memFailures_eq (hf : SameForm f f.mod req mk) {m : Mask} (htxn : NoTxn g m) :
    memFailures s g m req = (lanesOf m).filterMap fun l =>
      match checkOf s g f l with | .ok _ => none | .bad x => some (l, x) := by
  refine List.filterMap_congr fun l hl => ?_
  have hlane : inTxn (envOf s g l).lane = false := htxn l ((mem_lanesOf m l).mp hl)
  simp only [hf.req, checkOf, vaOf]
  cases checkAddr s s.cur.core g (f.va (envOf s g l)) f.bytes f.ty <;> simp [abortCause, hlane]

end

end Sys2Proof.Machine

namespace Sys2Proof

open Sys2Proof.Machine Sys2Proof.Claims

/-- Settles O22: the accesses of a word enter the pending queue lane by lane, and neither a check nor a translation that
stands sees them there. -/
theorem memoryWordsIssueTheirAccesses : Obligations.MemoryWordsIssueTheirAccesses := by
  refine ⟨fun i f s g tg hi hrun htxn hok => ?_, fun gd w m d a b off s g l t => ?_⟩
  · obtain ⟨req, mk, hf, hexec⟩ := exec_memWord hi
    have hnone : memFailures s g (active i s g) req = [] := by
      rw [memFailures_eq hf htxn, List.filterMap_eq_nil_iff]
      intro l hl
      simp only [(hok l ((mem_lanesOf _ l).mp hl)).1]
    rw [hexec s g hrun htxn, memWord, hnone]
    simp only [firstFailure, foldl_memLane_mask hf hrun.1 htxn hok]
  · intro i f hrun htxn
    have hexec : exec i s = .next (sldGo w m (reqAt w.bytes .load (.s a) (some (b, w.bytes)) off) d 64 (active i s g) s) :=
      show execSld gd w m d a b off s = _ from withWord_of_runs hrun _
    refine ⟨fun hnone => ?_, fun hlow hok hset => ?_⟩
    · rw [hexec, sldGo]
      simp only [hrun.1, hnone]
    · have hlane : inTxn (envOf s g l).lane = false := htxn l (lowest_mem hlow)
      have hcheck : checkAddr s s.cur.core g (indexed (envOf s g l) (.s a) b w.bytes off) w.bytes .load = .ok t := hok
      have hnote : noteAccess s s.cur.core g (indexed (envOf s g l) (.s a) b w.bytes off) .load = s :=
        noteAccess_settled hset
      rw [hexec, sldGo]
      simp only [hrun.1, hlow, reqAt, memAddr_some, hcheck, hlane, hnote, Bool.false_eq_true, if_false]
      have hpush := pushAcc_issueAll s [] { accOf s g f 0 l t with also := s.cur.mask }
      rw [issueAll_nil, List.nil_append] at hpush
      rw [← hpush]
      cases w <;> rfl

end Sys2Proof

/-! ## The checks of R169 in their order -/

namespace Sys2Proof.Machine

open Sys2Proof.Claims

theorem translate_bad {s : State} {c : Nat} {g : Grp} {a : Nat} {ty : AccessType} {x : Failed}
    (h : translate s c g a ty = .bad x) : x = { order := 4, cause := 0x0A } ∨ x = { order := 5, cause := 0x0D } := by
  unfold translate at h
  repeat' split at h
  all_goals simp_all

theorem touchCheck_some {s : State} {g : Grp} {p : Place} {ty : AccessType} {x : Failed}
    (h : touchCheck s g p ty = some x) : x = { order := 4, cause := 0x0A } ∨ x = { order := 5, cause := 0x0D } := by
  unfold touchCheck at h
  repeat' split at h
  all_goals simp only [reduceCtorEq, Option.some.injEq] at h
  next hbad => exact h ▸ translate_bad hbad

/-- What each check of R169 is in the model's `checkAddr`. -/
theorem checkAddr_bad {s : State} {c : Nat} {g : Grp} {a al : Nat} {ty : AccessType} {x : Failed}
    (h : checkAddr s c g a al ty = .bad x) :
    (canonical a = false ∧ x = { order := 1, cause := 0x0A })
    ∨ canonical a = true ∧ ((a % al ≠ 0 ∧ x = { order := 2, cause := 0x0B })
      ∨ a % al = 0 ∧ ((ownAperture ≤ a ∧ aperture s c g a = none ∧ x = { order := 3, cause := 0x0C })
        ∨ (ownAperture ≤ a → aperture s c g a ≠ none)
          ∧ (x = { order := 4, cause := 0x0A } ∨ x = { order := 5, cause := 0x0D }))) := by
  unfold checkAddr at h
  cases hcan : canonical a
  · simp_all
  · by_cases hal : a % al = 0
    · by_cases hap : ownAperture ≤ a
      · cases hp : aperture s c g a with
        | none => simp_all
        | some p =>
          simp only [hcan, hal, hap, hp, Bool.not_true, Bool.false_eq_true, if_false, ne_eq, not_true, if_true] at h
          cases htouch : touchCheck s g p ty with
          | none => simp [htouch] at h
          | some y =>
            simp only [htouch, Checked.bad.injEq] at h
            have := touchCheck_some htouch
            simp_all
      · have htr : translate s c g a ty = .bad x := by simpa [hcan, hal, hap] using h
        have := translate_bad htr
        simp_all
    · simp_all

theorem cause_of_checkAddr {s : State} {c : Nat} {g : Grp} {a al : Nat} {ty : AccessType} {x : Failed}
    (h : checkAddr s c g a al ty = .bad x) : x.cause = causeOfCheck x.order := by
  obtain ⟨-, rfl⟩ | ⟨-, ⟨-, rfl⟩ | ⟨-, ⟨-, -, rfl⟩ | ⟨-, rfl | rfl⟩⟩⟩ := checkAddr_bad h <;> rfl

/-! ### The first check that some lane fails -/

theorem foldl_min_order {o : Nat} (fs : List (Nat × Failed)) (a : Nat) (ha : o ≤ a) (hleast : ∀ p ∈ fs, o ≤ p.2.order)
    (hmeets : a = o ∨ ∃ p ∈ fs, p.2.order = o) : fs.foldl (fun m x => min m x.2.order) a = o := by
  induction fs generalizing a with
  | nil => simpa using hmeets
  | cons p fs ih =>
    have hp := hleast p List.mem_cons_self
    refine ih (min a p.2.order) (by omega) (fun q hq => hleast q (List.mem_cons_of_mem _ hq)) ?_
    rcases hmeets with rfl | ⟨q, hq, ho⟩
    · exact .inl (by omega)
    · rcases List.mem_cons.mp hq with rfl | hq
      · exact .inl (by omega)
      · exact .inr ⟨q, hq, ho⟩

/-- The lanes that fail the least check, and its cause. -/
theorem firstFailure_of_least {fs : List (Nat × Failed)} {o k : Nat} {m : Mask} {p0 : Nat × Failed}
    (hmem : p0 ∈ fs) (hp0 : p0.2.order = o) (hleast : ∀ p ∈ fs, o ≤ p.2.order)
    (hcause : ∀ p ∈ fs, p.2.order = o → p.2.cause = k)
    (hm : ∀ l, l < 64 → (m.getLsbD l = true ↔ ∃ p ∈ fs, p.2.order = o ∧ p.1 = l)) : firstFailure fs = some (k, m) := by
  cases fs with
  | nil => exact absurd hmem List.not_mem_nil
  | cons f r =>
    have hfold : r.foldl (fun m x => min m x.2.order) f.2.order = o :=
      foldl_min_order r _ (hleast f List.mem_cons_self) (fun q hq => hleast q (List.mem_cons_of_mem _ hq))
        (by simpa [hp0] using (List.mem_cons.mp hmem).imp (fun e => e ▸ hp0) fun h => ⟨p0.1, p0.2, h, hp0⟩)
    have hmask : (maskOf fun l => ((f :: r).filter fun x => x.2.order = o).any fun x => x.1 = l) = m := by
      refine BitVec.eq_of_getLsbD_eq fun l hl => ?_
      rw [getLsbD_maskOf, Bool.eq_iff_iff, hm l hl]
      simp only [hl, decide_true, Bool.true_and, List.any_eq_true, List.mem_filter, decide_eq_true_eq, and_assoc]
    have hsel : p0 ∈ (f :: r).filter fun x => x.2.order = o := List.mem_filter.mpr ⟨hmem, by simpa using hp0⟩
    have hhead : (((f :: r).filter fun x => x.2.order = o).head?.map (·.2.cause)).getD 0 = k := by
      cases h : (f :: r).filter fun x => x.2.order = o with
      | nil => simp [h] at hsel
      | cons q qs =>
        obtain ⟨hq, ho⟩ := List.mem_filter.mp (h ▸ List.mem_cons_self : q ∈ (f :: r).filter fun x => x.2.order = o)
        exact hcause q hq (by simpa using ho)
    simp only [firstFailure, hfold, hmask, hhead]

/-- A word some of whose lanes fail the least check traps there (R169). -/
theorem memWord_traps {f : AccForm} {req : Env → MemReq} {mk : Env → Acc → Acc} {s : State} {g : Grp} {gm m : Mask}
    {o l0 : Nat} (hf : SameForm f f.mod req mk) (hg : curGrp s = some g) (htxn : NoTxn g gm)
    (hleast : ∀ l x, gm.getLsbD l = true → checkOf s g f l = .bad x → o ≤ x.order)
    (hm : ∀ l, l < 64 → (m.getLsbD l = true
      ↔ gm.getLsbD l = true ∧ ∃ c, checkOf s g f l = .bad { order := o, cause := c }))
    (hlow : lowest m = some l0) :
    memWord s g gm f.mod req mk = takeTrap s s.cur.core s.cur.slot
      (mkRec g s.cur.slot m (curPc s) (vaOf s g f l0) 0 (causeOfCheck o) 0) := by
  have hfails (p : Nat × Failed) : p ∈ memFailures s g gm req
      ↔ gm.getLsbD p.1 = true ∧ checkOf s g f p.1 = .bad p.2 := by
    rw [memFailures_eq hf htxn, List.mem_filterMap]
    constructor
    · rintro ⟨l, hl, hp⟩
      cases hc : checkOf s g f l with
      | ok t => simp [hc] at hp
      | bad x =>
        simp only [hc, Option.some.injEq] at hp
        exact hp ▸ ⟨(mem_lanesOf gm l).mp hl, hc⟩
    · rintro ⟨hl, hc⟩
      exact ⟨p.1, (mem_lanesOf gm p.1).mpr hl, by simp only [hc]⟩
  have hl0 := lowest_mem hlow
  obtain ⟨hgm0, c0, hc0⟩ := (hm l0 (BitVec.lt_of_getLsbD hl0)).mp hl0
  have hfirst : firstFailure (memFailures s g gm req) = some (causeOfCheck o, m) := by
    refine firstFailure_of_least ((hfails (l0, ⟨o, c0⟩)).mpr ⟨hgm0, hc0⟩) rfl
      (fun p hp => hleast p.1 p.2 ((hfails p).mp hp).1 ((hfails p).mp hp).2)
      (fun p hp ho => (cause_of_checkAddr ((hfails p).mp hp).2).trans (congrArg causeOfCheck ho)) fun l hl => ?_
    rw [hm l hl]
    constructor
    · rintro ⟨hgm, c, hc⟩
      exact ⟨(l, ⟨o, c⟩), (hfails _).mpr ⟨hgm, hc⟩, rfl, rfl⟩
    · rintro ⟨⟨l', o', c⟩, hp, rfl, rfl⟩
      exact ⟨((hfails _).mp hp).1, c, ((hfails _).mp hp).2⟩
  simp only [memWord, hfirst, hlow, hf.req, trap_of_curGrp hg]
  rfl

/-! ### One address -/

/-- An address is canonical exactly where its bits [63:57] repeat bit [56] (R90). -/
theorem canonical_iff (a : Dword) :
    canonical a.toNat = true ↔ a.extractLsb' 57 7 = (a.extractLsb' 56 1).signExtend 7 := by
  have hs0 : (0#1).signExtend 7 = 0#7 := rfl
  have hs1 : (1#1).signExtend 7 = 127#7 := rfl
  simp only [canonical, Bool.or_eq_true, decide_eq_true_eq]
  obtain h | h := BitVec.eq_zero_or_eq_one (a.extractLsb' 56 1)
  · rw [h, hs0]
    simp [← BitVec.toNat_inj, BitVec.extractLsb'_toNat, Nat.shiftRight_eq_div_pow] at h ⊢
    omega
  · rw [h, hs1]
    simp [← BitVec.toNat_inj, BitVec.extractLsb'_toNat, Nat.shiftRight_eq_div_pow] at h ⊢
    omega

end Sys2Proof.Machine

namespace Sys2Proof

open Sys2Proof.Machine Sys2Proof.Claims

/-- Settles O23: the failed checks of the lanes in their order, and one address against each check of `checkAddr`. -/
theorem memoryChecksTrapInOrder : Obligations.MemoryChecksTrapInOrder := by
  refine ⟨fun i f s g m o l0 hi hrun htxn hleast hm hlow => ?_, fun s c g a al ty => ?_⟩
  · obtain ⟨req, mk, hf, hexec⟩ := exec_memWord hi
    rw [hexec s g hrun htxn, memWord_traps hf hrun.1 htxn hleast hm hlow]
  · dsimp only
    rw [← canonical_iff]
    cases hcan : canonical a.toNat
    · simp [checkAddr, hcan]
    by_cases hal : a.toNat % al = 0
    · have hgood (hap : a.toNat < ownAperture) : checkAddr s c g a.toNat al ty = translate s c g a.toNat ty := by
        simp [checkAddr, hcan, hal, Nat.not_le.mpr hap]
      have hnot (o k : Nat) (ho : o < 3) : checkAddr s c g a.toNat al ty ≠ .bad { order := o, cause := k } := fun hbad => by
        have := checkAddr_bad hbad
        simp only [hcan, hal, Failed.mk.injEq] at this
        simp at this
        omega
      refine ⟨by simp [hnot], by simp [hnot, hal], fun _ hap => ⟨fun hbad => ?_, fun hnone => ?_⟩, fun _ hap hsup => ?_⟩
      · obtain h | ⟨-, h⟩ := checkAddr_bad hbad
        · simp at h
        · simpa [hap, hal] using h
      · simp [checkAddr, hcan, hal, hap, hnone]
      · rw [hgood hap]
        simp only [Machine.translate, hsup, if_neg Bool.false_ne_true]
        refine ⟨fun h => by rw [h], fun h => by rw [h], fun lf p h => ?_⟩
        rw [h]
        cases hper : permits lf ty <;> simp [hper]
    · simp [checkAddr, hcan, hal]

end Sys2Proof

/-! ## Words that park lanes, or change them, and words that act once -/

namespace Sys2Proof.Machine

open Sys2Proof.Claims

theorem curGrp_setCurGrp {s : State} {g : Grp} (hg : curGrp s = some g) (hc : s.cur.core < s.cores.length) (g' : Grp) :
    curGrp (setCurGrp s g') = some g' := grpAt_setGrp _ _ _ _ hc (lt_of_grpAt hg)

theorem curGrp_modCur {s : State} {g : Grp} (hg : curGrp s = some g) (hc : s.cur.core < s.cores.length) (f : Grp → Grp) :
    curGrp (modCur s f) = some (f g) := by
  rw [modCur_some f hg, curGrp_setCurGrp hg hc]

/-- A word that no transaction may run, and that acts once, acts for the lowest lane whose guard is true. -/
theorem onceWord_of_runs {i : Instr} {s : State} {g : Grp} (h : RunsOnce i s g) (body : State → Grp → Mask → Nat → State) :
    ∃ l, lowest (active i s g) = some l ∧ onceWord i s body = .next (body s g (active i s g) l) := by
  obtain ⟨hrun, htxn, hne⟩ := h
  have hbit : ∃ l, (active i s g).getLsbD l = true := by
    by_contra hnone
    exact hne (BitVec.eq_of_getLsbD_eq fun l _ => by simpa using not_exists.mp hnone l)
  obtain ⟨l, hl⟩ := exists_lowest hbit.choose_spec
  refine ⟨l, hl, ?_⟩
  rw [onceWord, withWord_of_runs hrun, withoutTxn_none _ (txnMask_eq_zero htxn), hl]

/-- A word that no transaction may run. -/
theorem withoutTxn_of_runs {i : Instr} {s : State} {g : Grp} (h : Runs i s g) (htxn : NoTxn g (active i s g)) (cause : Nat)
    (body : State → Grp → Mask → State) :
    (withWord i s fun gr gm => withoutTxn cause s gr gm body) = .next (body s g (active i s g)) := by
  rw [withWord_of_runs h, withoutTxn_none _ (txnMask_eq_zero htxn)]

/-- Lanes of the set park, and its others go on. -/
theorem groupLanes_park {s : State} {g : Grp} (hlen : g.lanes.length = 64) (gm : Mask) (w : Nat → Wait) :
    GroupLanes s g (fun l => if gm.getLsbD l then { laneAt g l with wait := w l } else passed s (laneAt g l) l)
      (setCurGrp s (parkLanes gm w (advance (s.cur.mask &&& ~~~gm) g))) := by
  refine ⟨_, rfl, rfl, fun l => ?_⟩
  by_cases hl : l < 64
  · rw [laneAt_parkLanes _ _ (by simp; omega), laneAt_advance _ _ _ (by omega)]
    simp only [BitVec.getLsbD_and, BitVec.getLsbD_not, hl, decide_true, Bool.true_and, passed]
    cases gm.getLsbD l <;> simp
  · exact laneAt_beyond hlen (by simp) hl _ _

/-- The lanes of a mask change. -/
theorem groupLanes_mapLanes {s : State} {g : Grp} (hlen : g.lanes.length = 64) (gm : Mask) (f : Nat → Lane → Lane) :
    GroupLanes s g (fun l => if gm.getLsbD l then f l (laneAt g l) else laneAt g l) (setCurGrp s (mapLanes gm f g)) := by
  refine ⟨_, rfl, rfl, fun l => ?_⟩
  by_cases hl : l < 64
  · exact laneAt_mapLanes _ _ _ _ (by omega)
  · rw [laneAt_out _ l (by simp; omega)]
    simp only [laneAt_out g l (by omega), BitVec.getLsbD_of_ge gm l (by omega), Bool.false_eq_true, if_false]

/-- A change of a core's groups leaves the rest of every core. -/
theorem modGrp_keeps {α : Type} (p : Core → α) (h : ∀ x gs, p { x with groups := gs } = p x) (s : State) (c k : Nat)
    (f : Grp → Grp) (c' : Nat) : p (coreAt (modGrp s c k f) c') = p (coreAt s c') := by
  unfold modGrp
  split
  · exact modCore_keeps p (fun x => h x _) s c c'
  · rfl

/-! ## Handles (R195, R196) -/

/-- A lane parked on a handle is ready once the handle's operation has stopped. -/
def wokenWait (h : HReg) : Wait → Wait
  | .hwait h' d lead => if h' = h then .ready else .hwait h' d lead
  | w => w

/-- The step of `wakeHandle` for one lane. -/
def wakeOn (h : HReg) (w : Nat) (g : Grp) (l : Nat) : Grp :=
  match (laneAt g l).wait with
  | .hwait h' d lead =>
    if h' ≠ h then g
    else
      let g1 := modLane g l fun ln => { ln with wait := .ready, pc := ln.pc + 8 }
      match d with
      | some (.v n) => modLane g1 l fun ln => wrV ln n.val 1 w
      | some (.s n) => if lead then putS g1 n.val 1 w else g1
      | none => g1
  | _ => g

theorem wakeHandle_eq (h : HReg) (g : Grp) :
    wakeHandle h g = (List.range 64).foldl (wakeOn h (getHandle g h).toNat) g := rfl

/-- What the release of one lane leaves, and where its lane then waits. -/
structure Woken (h : HReg) (ls : List Nat) (g g' : Grp) : Prop where
  handles : g'.handles = g.handles
  length : g'.lanes.length = g.lanes.length
  wait : ∀ l, l < g.lanes.length →
    (laneAt g' l).wait = if l ∈ ls then wokenWait h (laneAt g l).wait else (laneAt g l).wait

theorem woken_wakeOn (h : HReg) (w : Nat) (g : Grp) (l : Nat) : Woken h [l] g (wakeOn h w g l) := by
  have hsame (hw : wokenWait h (laneAt g l).wait = (laneAt g l).wait) : Woken h [l] g g :=
    ⟨rfl, rfl, fun l' _ => by
      split
      · next e => rw [List.mem_singleton.mp e, hw]
      · rfl⟩
  unfold wakeOn
  split
  · next h' d lead hwait =>
    by_cases hh : h' = h
    · have hgo : wokenWait h (laneAt g l).wait = .ready := by rw [hwait, wokenWait, if_pos hh]
      have hone : Woken h [l] g (modLane g l fun ln => { ln with wait := .ready, pc := ln.pc + 8 }) :=
        ⟨rfl, length_modLane .., fun l' hl => by
          rw [laneAt_modLane _ _ _ _ hl]
          by_cases e : l' = l
          · rw [if_pos e, if_pos (List.mem_singleton.mpr e), e, hgo]
          · rw [if_neg e, if_neg (by simpa using e)]⟩
      rw [if_neg (by simpa using hh)]
      rcases d with _ | (n | n)
      · exact hone
      · refine ⟨rfl, by simp, fun l' hl => ?_⟩
        rw [← hone.wait l' hl, laneAt_modLane _ _ _ _ (by simpa using hl)]
        split <;> rfl
      · cases lead
        · exact hone
        · exact ⟨rfl, hone.length, hone.wait⟩
    · rw [if_pos hh]
      exact hsame (by rw [hwait, wokenWait, if_neg hh])
  · next hwait => exact hsame (by unfold wokenWait; split <;> simp_all)

theorem Woken.trans {h : HReg} {l : Nat} {ls : List Nat} {g g' g'' : Grp} (h1 : Woken h [l] g g') (h2 : Woken h ls g' g'')
    (hl : l ∉ ls) : Woken h (l :: ls) g g'' where
  handles := h2.handles.trans h1.handles
  length := h2.length.trans h1.length
  wait := fun l' hl' => by
    rw [h2.wait l' (by rw [h1.length]; exact hl'), h1.wait l' hl']
    by_cases e : l' = l
    · simp [e, hl]
    · simp [e]

theorem woken_foldl (h : HReg) (w : Nat) (ls : List Nat) (hls : ls.Nodup) (g : Grp) : Woken h ls g (ls.foldl (wakeOn h w) g) := by
  induction ls generalizing g with
  | nil => exact ⟨rfl, rfl, fun _ _ => by simp⟩
  | cons l ls ih =>
    obtain ⟨hl, hls⟩ := List.nodup_cons.mp hls
    exact (woken_wakeOn h w g l).trans (ih hls _) hl

theorem handles_wakeHandle (h : HReg) (g : Grp) : (wakeHandle h g).handles = g.handles :=
  (woken_foldl h _ _ List.nodup_range g).handles

theorem handles_endHandle (h : HReg) (st : Nat) (g : Grp) : (endHandle h st g).handles
    = g.handles.set h.val (BitVec.ofNat 32 ((g.handles.getD h.val 0).toNat / 4 * 4 + st)) := by
  rw [endHandle, handles_wakeHandle]
  rfl

/-- Every lane parked on a handle is ready once its operation has stopped. -/
theorem wait_wakeHandle (h : HReg) {g : Grp} (hlen : g.lanes.length = 64) (l : Nat) :
    (laneAt (wakeHandle h g) l).wait = if l < 64 then wokenWait h (laneAt g l).wait else (laneAt g l).wait := by
  have hw := woken_foldl h (getHandle g h).toNat (List.range 64) List.nodup_range g
  rw [wakeHandle_eq]
  by_cases hl : l < 64
  · simp only [hw.wait l (by omega), List.mem_range]
  · rw [laneAt_out _ l (by rw [hw.length]; omega), laneAt_out g l (by omega), if_neg hl]

theorem wait_endHandle (h : HReg) (st : Nat) {g : Grp} (hlen : g.lanes.length = 64) (l : Nat) :
    (laneAt (endHandle h st g) l).wait = if l < 64 then wokenWait h (laneAt g l).wait else (laneAt g l).wait := by
  have hput (w : Word) : (putHandle h w g).lanes.length = 64 := hlen
  have hlane (w : Word) : laneAt (putHandle h w g) l = laneAt g l := rfl
  rw [endHandle, wait_wakeHandle h (hput _), hlane]

theorem mops_dropProducer (k : Nat) (h : HReg) (now : Nat) (x : Core) :
    ∀ m ∈ (dropProducer k h now x).mops, ¬(m.slot = k ∧ m.h = h) := by
  intro m hm
  simpa [-not_and, not_and_or] using (List.mem_filter.mp hm).2

theorem jobs_dropProducer (k : Nat) (h : HReg) (now : Nat) (x : Core) :
    ∀ j ∈ (dropProducer k h now x).jobs, j.slot = k → ∀ op it b f, j.kind ≠ .sweep h op it b f := by
  intro j hj hk op it b f hkind
  have := (List.mem_filter.mp hj).2
  simp [hk, hkind] at this

end Sys2Proof.Machine

namespace Sys2Proof

open Sys2Proof.Machine Sys2Proof.Claims

/-- Settles O34: a pending handle's state decides each word, and `wakeHandle` releases exactly the lanes parked on it. -/
theorem handleWords : Obligations.HandleWords := by
  intro gd d n p h s g hlen w
  have hstate : handleState (getHandle g h) = w % 4 := rfl
  refine ⟨fun hrun htxn => ?_, fun hrun htxn => ?_, fun hrun hh hc => ?_⟩
  · have hexec : exec (.hwait gd d h) s = .next _ := withoutTxn_of_runs hrun htxn 0x0A _
    refine ⟨fun hw => ?_, fun hw hd => ?_, fun r hw hd hne => ?_, fun hw hd => ?_⟩
    · rw [hstate, if_pos hw, modCur_some _ hrun.1] at hexec
      exact ⟨_, hexec, groupLanes_park hlen _ _⟩
    · subst hd
      rw [hstate, if_neg hw] at hexec
      exact hexec
    · subst hd
      rw [hstate, if_neg hw] at hexec
      obtain ⟨l0, hlow, -⟩ := onceWord_of_runs ⟨hrun, htxn, hne⟩ (fun s _ _ _ => s)
      have hput : putAll s (active (.hwait gd (some (.s r)) h) s g) (some (.s r, 1)) (fun _ => .ofNat w) g = putS g r.val 1 w := by
        rw [putAll_s_lowest s hlow r 1 (fun _ => rfl)]
        exact congrArg (putS · r.val 1 w) (modLane_addFlags_zero g l0)
      rw [hexec, ← hput, ← modCur_some _ hrun.1]
      rfl
    · subst hd
      rw [hstate, if_neg hw] at hexec
      refine ⟨_, hexec, ?_⟩
      dsimp only
      rw [modCur_some _ hrun.1]
      exact groupLanes_mapLanes hlen _ _
  · have hexec : exec (.htest gd p h) s = .next _ := withoutTxn_of_runs hrun htxn 0x0A _
    refine ⟨_, hexec, ?_⟩
    rw [modCur_some _ hrun.1]
    exact groupLanes_mapLanes hlen _ _
  · obtain ⟨l, -, hexec⟩ := onceWord_of_runs hrun fun s gr _ _ =>
      if handleState (getHandle gr h) = 1 then
        finishWord (modCur (modCore s s.cur.core (dropProducer s.cur.slot h s.clock)) (endHandle h 3))
      else finishWord s
    refine ⟨fun hw => ?_, fun hw => ?_⟩
    · rw [hstate, if_neg hw] at hexec
      exact hexec
    · rw [hstate, if_pos hw] at hexec
      have hcur : curGrp (modCore s s.cur.core (dropProducer s.cur.slot h s.clock)) = some g :=
        (grpAt_modCore (f := dropProducer s.cur.slot h s.clock) fun _ => rfl).trans hrun.1.1
      have hlt : s.cur.core < (modCore s s.cur.core (dropProducer s.cur.slot h s.clock)).cores.length :=
        (length_cores_modCore ..).symm ▸ hc
      have hcore : coreAt (modCore s s.cur.core (dropProducer s.cur.slot h s.clock)) s.cur.core
          = dropProducer s.cur.slot h s.clock (coreAt s s.cur.core) := coreAt_modCore_same _ hc
      refine ⟨_, _, hexec, curGrp_modCur hcur hlt _, handles_endHandle h 3 g, fun l => ?_, ?_, ?_⟩
      · rw [wait_endHandle h 3 hlen]
        unfold wokenWait
        cases (laneAt g l).wait <;> by_cases hl : l < 64 <;> simp [hl]
      · rw [modCur, modGrp_keeps Core.mops fun _ _ => rfl, hcore]
        exact mops_dropProducer _ _ _ _
      · rw [modCur, modGrp_keeps Core.jobs fun _ _ => rfl, hcore]
        exact jobs_dropProducer _ _ _ _

end Sys2Proof

/-! ## A window block that straddles a host's window (R185) -/

namespace Sys2Proof.Machine

open Sys2Proof.Claims

/-- The last sector of LPDDR6: the next one lies in the window of host 0. -/
def straddlingAddr : Nat := 0x10000000000 - 32

/-- A window of one block that stands there, with its second sector dirty. -/
def straddlingWindow : Window := { va := 0, off := 0, len := 512, blocks := [.valid straddlingAddr 2] }

def straddlingTeam : Team :=
  { Team.fresh with
    shared := 512
    bytes := writeBytes [] 32 [1]
    wins := [some straddlingWindow, none, none, none] }

/-- A package of one core with that team, whose host port 0 is a host's, and another agent has asked for the block. -/
def straddlingState : State :=
  { State.reset with
    cores := [{ Core.reset 0 with teams := [straddlingTeam] }]
    helms := []
    roles := [2]
    homes := [{ freshHome straddlingAddr 512 with asked := true }] }

/-- A byte of memory after a step. -/
def byteAfter (q : Nat) : Host.Outcome State Fault Refusal → Option Byte
  | .next t => some (sget t.mem q)
  | _ => none

/-- The sector in the host's window goes out as a store through it, and memory here keeps its byte. -/
theorem byteAfter_surrender_straddling :
    byteAfter (straddlingAddr + 32) (exec (.windowSurrender 0 0 0 0) straddlingState) = some 0 := by decide +kernel

theorem asked_straddling : ∃ a ∈ blockGrains straddlingAddr (blockGr straddlingState straddlingAddr),
    (homeOf straddlingState a 512).asked = true := ⟨straddlingAddr, by decide +kernel, by decide +kernel⟩

end Sys2Proof.Machine

namespace Sys2Proof

open Sys2Proof.Machine Sys2Proof.Claims

/-- Refutes O32: its clause on a block that goes back asks that the block's first address lies in no window of a host, and
does not ask that the block is aligned. A block at the end of LPDDR6 whose second sector lies in a host's window has that
sector sent to the host as a store; no byte of memory here takes it, where the clause has its byte in memory. -/
theorem not_windowBlocksFillAndSurrender : ¬ Obligations.WindowBlocksFillAndSurrender := by
  intro h
  obtain ⟨-, hback⟩ := h straddlingState 0 0 0 straddlingAddr 0 straddlingWindow straddlingTeam (leafTarget flatLeaf 0) 2
    (by decide) (by decide +kernel) (by decide +kernel) (by decide) (by decide +kernel) (by decide +kernel) (by decide)
  obtain ⟨u, hnext, -, hmem⟩ := hback (by decide +kernel) (by decide +kernel) asked_straddling
  have hbyte : some (sget u.mem (straddlingAddr + 32)) = some 0 := by
    rw [← byteAfter_surrender_straddling, hnext]
    rfl
  rw [hmem, if_pos (by decide)] at hbyte
  exact absurd hbyte (by decide +kernel)

end Sys2Proof

/-! ## A prefetch that uncovers a page-table entry (R178, R326) -/

namespace Sys2Proof.Machine

open Sys2Proof.Claims

/-- The leaf of the first page. -/
def firstPage : Leaf := { flatLeaf with size := 4096 }

/-- The home of the table's entry 4, which a window block of 32 bytes owns, with zeros. -/
def coveredEntry : Home := { freshHome 32 32 with owner := some (.window 0 0 0 0) }

/-- The team whose window that is. -/
def coveringTeam : Team :=
  { Team.fresh with wins := [some { va := 0, off := 0, len := 512, blocks := [.valid 0 0] }, none, none, none] }

/-- Lane 0 asks for address 0, lane 1 for one whose walk reads entry 4 of the table at 0 twice, and then entry 5. -/
def prefetchGroup : Grp :=
  { Grp.fresh with
    lanes := { Lane.empty with status := .live }
      :: { Lane.empty with status := .live, regs := putV [] 0 (2 ^ 50 + 2 ^ 41 + 5 * 2 ^ 30) 2 }
      :: List.replicate 62 Lane.empty }

/-- In memory entry 4 points to the table itself and entry 5 is a readable leaf; no TLB entry holds lane 1's page. -/
def prefetchState : State :=
  { State.reset with
    cores := [{ Core.reset 0 with
      groups := some prefetchGroup :: List.replicate 95 none
      teams := [coveringTeam]
      tlb := [{ asid := 0, leaf := firstPage }] }]
    helms := []
    homes := [coveredEntry]
    mem := writeBytes (writeBytes [] 32 [1]) 40 [0x13]
    cur := { State.reset.cur with core := 0, slot := 0, mask := 3 } }

/-- The word: PREF.LANE of V0. -/
def prefetchWord : Instr := .pref Guard.always .lane 0 (.v 0) 0

/-- cr.hint after a step. -/
def hintAfter : Host.Outcome State Fault Refusal → Option Dword
  | .next t => (curGrp t).map (·.hint)
  | _ => none

/-- Both lanes' prefetches issue: lane 0's lease has given entry 4 a home of 512 bytes without an owner. -/
theorem hintAfter_prefetch : hintAfter (exec prefetchWord prefetchState) = some 2 := by decide +kernel

theorem runs_prefetch : Runs prefetchWord prefetchState prefetchGroup := by
  unfold Runs
  decide +kernel

/-- Before the word, lane 0's page is in the TLB. -/
theorem settled_lane0 : Settled prefetchState prefetchGroup 0 .load :=
  .inr fun v hv => by
    have hwin : windowVa prefetchState prefetchState.cur.core prefetchGroup 0 = some 0 := by decide +kernel
    obtain rfl : v = 0 := Option.some.inj (hv.symm.trans hwin)
    exact ⟨{ asid := 0, leaf := firstPage }, by decide +kernel, .inr (.inl rfl)⟩

/-- The state once a group's hint and the homes have changed. -/
def prefetched (x : Dword) (homes : List Home) : State :=
  { setCurGrp prefetchState { prefetchGroup with hint := x } with homes := homes }

theorem curGrp_prefetched (x : Dword) (homes : List Home) :
    curGrp (prefetched x homes) = some { prefetchGroup with hint := x } :=
  curGrp_setCurGrp (g := prefetchGroup) (by decide +kernel) (by decide) _

theorem hintAfter_finishWord_prefetched (x : Dword) (homes : List Home) :
    hintAfter (.next (finishWord (prefetched x homes))) = some x := by
  have hlen : (prefetched x homes).cores.length = 1 := List.length_set
  have hcur : (prefetched x homes).cur.core = 0 := rfl
  rw [hintAfter, finishWord, curGrp_modCur (curGrp_prefetched x homes) (by rw [hlen, hcur]; decide), Option.map_some,
    finishGrp_hint]

end Sys2Proof.Machine

namespace Sys2Proof

open Sys2Proof.Machine Sys2Proof.Claims

/-- Refutes O25: its clause on PREF counts as dropped every lane whose address fails its checks in the state before the word.
The lanes prefetch in order, and lane 0's lease can put a home over a page-table entry that a smaller home gave to a window
block; lane 1's walk then reads the entry in memory and finds its leaf, so that nothing is dropped. -/
theorem not_waitFenceAndPrefetch : ¬ Obligations.WaitFenceAndPrefetch := by
  intro h
  obtain ⟨-, -, -, hpref⟩ := h Guard.always prefetchState prefetchGroup .eq .w32 false .lane (.v 0) (.v 0) (.int 0) 0 .acq 0
    .lane .lane coveringTeam .lane 0 fun _ => leafTarget flatLeaf 0
  have hasks : ((inOrder (active prefetchWord prefetchState prefetchGroup)).filter fun l =>
      !(canonical (based (envOf prefetchState prefetchGroup l) (.v 0) 0)
        && ((ownAperture ≤ based (envOf prefetchState prefetchGroup l) (.v 0) 0
          && based (envOf prefetchState prefetchGroup l) (.v 0) 0 < ownAperture + 2 ^ 24)
        || peerAperture ≤ based (envOf prefetchState prefetchGroup l) (.v 0) 0))) = [0, 1] := by decide +kernel
  have hva : based (envOf prefetchState prefetchGroup 0) (.v 0) 0 = 0 := by decide +kernel
  obtain ⟨t, hnext, ht, hcounts⟩ := hpref runs_prefetch (by decide) fun l hl => by
    have hmem : l ∈ [0, 1] := by
      rw [← hasks]
      exact hl
    rcases List.mem_pair.mp hmem with rfl | rfl
    · exact .inr (hva ▸ settled_lane0)
    · exact .inl (by decide +kernel)
  obtain ⟨x, homes, rfl⟩ : ∃ x homes, t = prefetched x homes := ⟨_, _, ht⟩
  obtain ⟨-, hdropped⟩ := hcounts _ (curGrp_prefetched x homes)
  have hx : x = 2 := by
    have hhint := hintAfter_prefetch
    rw [show exec prefetchWord prefetchState = _ from hnext, hintAfter_finishWord_prefetched] at hhint
    exact Option.some.inj hhint
  subst hx
  exact absurd hdropped (by decide +kernel)

end Sys2Proof

/-! ## Values as bytes, and bytes in memory -/

namespace Sys2Proof.Machine

open Sys2Proof.Claims

@[simp] theorem length_leBytes (n v : Nat) : (leBytes n v).length = n := by
  induction n generalizing v with
  | zero => rfl
  | succ n ih => simp [leBytes, ih]

theorem getElem?_leBytes {n i : Nat} (v : Nat) (h : i < n) : (leBytes n v)[i]? = some (Claims.byteOf v i) := by
  induction n generalizing v i with
  | zero => omega
  | succ n ih =>
    cases i with
    | zero => simp [leBytes, Claims.byteOf]
    | succ i =>
      rw [leBytes, List.getElem?_cons_succ, ih (v / 256) (by omega), Claims.byteOf, Claims.byteOf, Nat.div_div_eq_div_mul,
        Nat.pow_succ']

theorem leNat_lt (bs : List Byte) : leNat bs < 256 ^ bs.length := by
  induction bs with
  | nil => simp [leNat]
  | cons b bs ih =>
    have hb := b.isLt
    rw [leNat, List.length_cons, Nat.pow_succ]
    omega

theorem leNat_leBytes (n v : Nat) : leNat (leBytes n v) = v % 256 ^ n := by
  induction n generalizing v with
  | zero => simp [leBytes, leNat, Nat.mod_one]
  | succ n ih =>
    rw [leBytes, leNat, ih, BitVec.toNat_ofNat, show 256 ^ (n + 1) = 256 * 256 ^ n from Nat.pow_succ']
    exact Nat.mod_mul.symm

@[simp] theorem length_readBytes (m : Memory) (a n : Nat) : (readBytes m a n).length = n := by
  induction n generalizing a with
  | zero => rfl
  | succ n ih => simp [readBytes, ih]

theorem readLe_lt (m : Memory) (a n : Nat) : readLe m a n < 2 ^ (8 * n) := by
  have h := leNat_lt (readBytes m a n)
  rwa [length_readBytes, show (256 : Nat) = 2 ^ 8 from rfl, ← Nat.pow_mul] at h

theorem getElem?_readBytes (m : Memory) {a n i : Nat} (h : i < n) : (readBytes m a n)[i]? = some (sget m (a + i)) := by
  induction n generalizing a i with
  | zero => omega
  | succ n ih =>
    cases i with
    | zero => simp [readBytes]
    | succ i => rw [readBytes, List.getElem?_cons_succ, ih (by omega), Nat.add_assoc, Nat.add_comm 1]

/-- Memory after bytes have been written from an address on. -/
theorem sget_writeBytes {m : Memory} (a : Nat) (bs : List Byte) (h : m.wf = true) (q : Nat) :
    sget (writeBytes m a bs) q = if a ≤ q ∧ q < a + bs.length then bs.getD (q - a) 0 else sget m q := by
  by_cases hq : a ≤ q ∧ q < a + bs.length
  · have hread := getElem?_readBytes (writeBytes m a bs) (a := a) (n := bs.length) (i := q - a) (by omega)
    rw [readBytes_writeBytes a bs h, show a + (q - a) = q by omega] at hread
    rw [if_pos hq, List.getD_eq_getElem?_getD, hread, Option.getD_some]
  · rw [if_neg hq, sget_writeBytes_outside a q bs h (by omega)]

theorem stored_writeBytes {m : Memory} (a n v : Nat) (h : m.wf = true) : Stored m (writeBytes m a (leBytes n v)) a n v := by
  intro q
  rw [sget_writeBytes a _ h, length_leBytes]
  refine if_ctx_congr Iff.rfl (fun hq => ?_) fun _ => rfl
  rw [List.getD_eq_getElem?_getD, getElem?_leBytes v (by omega), Option.getD_some]

theorem byteOf_mod (v : Nat) {n i : Nat} (h : i < n) : Claims.byteOf (v % 256 ^ n) i = Claims.byteOf v i := by
  have hbytes := getElem?_leBytes v h
  have hsame : leBytes n (v % 256 ^ n) = leBytes n v := by
    clear hbytes h
    induction n generalizing v with
    | zero => rfl
    | succ n ih =>
      have hlow : v % 256 ^ (n + 1) / 256 = v / 256 % 256 ^ n := by
        rw [Nat.pow_succ', Nat.mod_mul_right_div_self]
      have hbyte : BitVec.ofNat 8 (v % 256 ^ (n + 1)) = BitVec.ofNat 8 v := by
        apply BitVec.eq_of_toNat_eq
        rw [BitVec.toNat_ofNat, BitVec.toNat_ofNat]
        exact Nat.mod_mod_of_dvd v (dvd_pow_self 256 (Nat.succ_ne_zero n))
      rw [leBytes, leBytes, hlow, hbyte, ih]
  rw [← hsame, getElem?_leBytes _ h] at hbytes
  exact Option.some.inj hbytes

/-- Only the value's bytes within the place count. -/
theorem stored_congr {m m' : Memory} {a n v v' : Nat} (h : Stored m m' a n v) (hv : v % 256 ^ n = v' % 256 ^ n) :
    Stored m m' a n v' := by
  intro q
  rw [h q]
  refine if_ctx_congr Iff.rfl (fun hq => ?_) fun _ => rfl
  have hlt : q - a < n := by omega
  rw [← byteOf_mod v hlt, hv, byteOf_mod v' hlt]

/-- The value that stands where it was stored. -/
theorem readLe_of_stored {m m' : Memory} {a n v : Nat} (h : Stored m m' a n v) : readLe m' a n = v % 256 ^ n := by
  have hbytes : readBytes m' a n = leBytes n v := by
    refine List.ext_getElem? fun i => ?_
    by_cases hi : i < n
    · rw [getElem?_readBytes m' hi, getElem?_leBytes v hi, h, if_pos (by omega), Nat.add_sub_cancel_left]
    · rw [List.getElem?_eq_none (by simpa using hi), List.getElem?_eq_none (by simpa using hi)]
  rw [readLe, hbytes, leNat_leBytes]

/-- Bytes beside a store read as before. -/
theorem readLe_stored_outside {m m' : Memory} {a n v b k : Nat} (h : Stored m m' a n v) (hb : b + k ≤ a ∨ a + n ≤ b) :
    readLe m' b k = readLe m b k := by
  have hbytes : readBytes m' b k = readBytes m b k := by
    refine List.ext_getElem? fun i => ?_
    by_cases hi : i < k
    · rw [getElem?_readBytes m' hi, getElem?_readBytes m hi, h, if_neg (by omega)]
    · rw [List.getElem?_eq_none (by simpa using hi), List.getElem?_eq_none (by simpa using hi)]
  rw [readLe, hbytes, readLe]

end Sys2Proof.Machine

/-! ## What the operations of memory leave of a package -/

namespace Sys2Proof.Machine

open Sys2Proof.Claims

/-- A group beside its lanes' reservations. -/
def bareGrp (g : Grp) : Grp := { g with lanes := g.lanes.map fun ln => { ln with resv := none } }

/-- A core beside the reservations, the TLB, the wakes and the outbound buffer, and beside what `T` hides of its teams. -/
def bareCore (T : Team → Team) (x : Core) : Core :=
  { x with groups := x.groups.map (Option.map bareGrp), teams := x.teams.map T, tlb := [], wakes := [], outb := [] }

/-- What the fixed parts of a state say of its addresses and its turn. -/
def fixedPart (s : State) :=
  (s.cur, s.clock, s.grids, s.roles, s.fab, s.badPages, s.lostDies, s.lostEnds)

/-- An operation of memory stands beside everything that `bareCore` and `fixedPart` keep. -/
structure Aside (T : Team → Team) (s t : State) : Prop where
  fixed : fixedPart t = fixedPart s
  length : t.cores.length = s.cores.length
  core : ∀ c, bareCore T (coreAt t c) = bareCore T (coreAt s c)

section
variable {T : Team → Team} {s t u : State}

theorem Aside.refl (s : State) : Aside T s s := ⟨rfl, rfl, fun _ => rfl⟩

theorem Aside.trans (h : Aside T s t) (h' : Aside T t u) : Aside T s u :=
  ⟨h'.fixed.trans h.fixed, h'.length.trans h.length, fun c => (h'.core c).trans (h.core c)⟩

theorem aside_of_cores (hfixed : fixedPart t = fixedPart s) (hcores : t.cores = s.cores) : Aside T s t :=
  ⟨hfixed, by rw [hcores], fun c => by rw [coreAt, hcores, ← coreAt]⟩

theorem aside_modCore {f : Core → Core} (h : ∀ x, bareCore T (f x) = bareCore T x) (s : State) (c : Nat) :
    Aside T s (modCore s c f) :=
  ⟨rfl, length_cores_modCore .., modCore_keeps _ h s c⟩

theorem aside_mapCores {f : Core → Core} (hfixed : fixedPart t = fixedPart s) (hcores : t.cores = s.cores.map f)
    (h : ∀ x, bareCore T (f x) = bareCore T x) : Aside T s t := by
  refine ⟨hfixed, by rw [hcores, List.length_map], fun c => ?_⟩
  by_cases hc : c < s.cores.length
  · simp only [coreAt, hcores, List.getD_eq_getElem?_getD, List.getElem?_map, List.getElem?_eq_getElem hc, Option.map_some,
      Option.getD_some, h]
  · simp [coreAt, hcores, hc]

theorem aside_foldl {α : Type} {f : State → α → State} (h : ∀ s x, Aside T s (f s x)) (s : State) (xs : List α) :
    Aside T s (xs.foldl f s) := by
  induction xs generalizing s with
  | nil => exact .refl s
  | cons x xs ih => exact (h s x).trans (ih _)

/-- What stands beside the whole teams stands beside any part of them. -/
theorem Aside.weaken (h : Aside id s t) : Aside T s t := by
  refine ⟨h.fixed, h.length, fun c => ?_⟩
  have hcore := h.core c
  have hbare (x : Core) : bareCore T x = { bareCore id x with teams := (bareCore id x).teams.map T } := by
    simp only [bareCore, List.map_id]
  rw [hbare, hcore, ← hbare]

/-! ### What it keeps -/

theorem laneAt_bareGrp (g : Grp) (l : Nat) : laneAt (bareGrp g) l = { laneAt g l with resv := none } := by
  by_cases hl : l < g.lanes.length
  · simp [laneAt, bareGrp, hl]
  · simp [laneAt, bareGrp, hl, Lane.empty]

theorem laneAt_of_bareGrp {g g' : Grp} (h : bareGrp g' = bareGrp g) (l : Nat) :
    laneAt g' l = { laneAt g l with resv := (laneAt g' l).resv } := by
  have hlane := congrArg (laneAt · l) h
  simp only [laneAt_bareGrp] at hlane
  have hback (a : Lane) : a = { ({ a with resv := none } : Lane) with resv := a.resv } := rfl
  rw [hback (laneAt g' l), hlane]

theorem grpAt_bare (s : State) (c k : Nat) : grpIn (bareCore T (coreAt s c)) k = (grpAt s c k).map bareGrp := by
  simp only [grpAt, grpIn, bareCore, List.getD_eq_getElem?_getD, List.getElem?_map]
  cases (coreAt s c).groups[k]? <;> rfl

theorem Aside.grpAt (h : Aside T s t) {c k : Nat} {g : Grp} (hg : grpAt s c k = some g) :
    ∃ g', Machine.grpAt t c k = some g' ∧ bareGrp g' = bareGrp g := by
  have hbare := congrArg (grpIn · k) (h.core c)
  simp only [grpAt_bare, hg, Option.map_some] at hbare
  obtain ⟨g', hg', heq⟩ := Option.map_eq_some_iff.mp hbare
  exact ⟨g', hg', heq⟩

theorem teamAt_bare (hT : ∀ tm, (T tm).num = tm.num) (s : State) (c n : Nat) :
    teamIn (bareCore T (coreAt s c)) n = (teamAt s c n).map T := by
  simp only [teamAt, teamIn, bareCore, List.find?_map, Function.comp_def, hT]

theorem Aside.teamAt (h : Aside T s t) (hT : ∀ tm, (T tm).num = tm.num) (c n : Nat) :
    (Machine.teamAt t c n).map T = (Machine.teamAt s c n).map T := by
  rw [← teamAt_bare hT, h.core, teamAt_bare hT]

theorem Aside.teamAt_eq (h : Aside id s t) (c n : Nat) : Machine.teamAt t c n = Machine.teamAt s c n := by
  simpa using h.teamAt (fun _ => rfl) c n

theorem Aside.pend (h : Aside T s t) (c : Nat) : (coreAt t c).pend = (coreAt s c).pend := by
  have hcore := congrArg Core.pend (h.core c)
  exact hcore

theorem Aside.jobs (h : Aside T s t) (c : Nat) : (coreAt t c).jobs = (coreAt s c).jobs := by
  have hcore := congrArg Core.jobs (h.core c)
  exact hcore

theorem Aside.cur (h : Aside T s t) : t.cur = s.cur := congrArg (·.1) h.fixed
theorem Aside.clock (h : Aside T s t) : t.clock = s.clock := congrArg (·.2.1) h.fixed

theorem viaWindow_of_fixed (h : fixedPart t = fixedPart s) (pa : Nat) : viaWindow t pa = viaWindow s pa := by
  have hroles : t.roles = s.roles := congrArg (·.2.2.2.1) h
  have hfab : t.fab = s.fab := congrArg (·.2.2.2.2.1) h
  unfold Machine.viaWindow
  cases regionOf pa <;> simp [portRole, fabricValid, hroles, hfab]

theorem backed_of_fixed (h : fixedPart t = fixedPart s) (pa : Nat) : backed t pa = backed s pa := by
  have hbad : t.badPages = s.badPages := congrArg (·.2.2.2.2.2.1) h
  have hdies : t.lostDies = s.lostDies := congrArg (·.2.2.2.2.2.2.1) h
  have hends : t.lostEnds = s.lostEnds := congrArg (·.2.2.2.2.2.2.2) h
  simp only [Machine.backed, lostAddr, hbad, hdies, hends]

theorem Aside.viaWindow (h : Aside T s t) (pa : Nat) : viaWindow t pa = viaWindow s pa := viaWindow_of_fixed h.fixed pa

theorem Aside.backed (h : Aside T s t) (pa : Nat) : backed t pa = backed s pa := backed_of_fixed h.fixed pa

/-! ### The operations -/

theorem aside_putHome (s : State) (h : Home) : Aside T s (putHome s h) := aside_of_cores rfl rfl
theorem aside_wroteHomes (s : State) (pa n : Nat) : Aside T s (wroteHomes s pa n) := aside_of_cores rfl rfl
theorem aside_setBytes (s : State) (pa : Nat) (bs : List Byte) : Aside T s (setBytes s pa bs) := aside_of_cores rfl rfl
theorem aside_helmLose (s : State) (b : Option Nat) (pa n : Nat) (w : Bool) : Aside T s (helmLose s b pa n w) :=
  aside_of_cores rfl rfl

theorem aside_leaveQueues (src : Source) (s : State) : Aside T s (leaveQueues src s) := by
  unfold leaveQueues
  split
  · exact aside_of_cores rfl rfl
  · exact .refl s

theorem aside_noteReads (s : State) (pa n gr : Nat) : Aside T s (noteReads s pa n gr) :=
  aside_foldl (fun _ _ => aside_putHome _ _) s _

theorem bareGrp_clear (p : Place) (n : Nat) (g : Grp) :
    bareGrp { g with lanes := g.lanes.map fun ln => if resvHit p n ln.resv then { ln with resv := none } else ln } = bareGrp g := by
  have hlane (ln : Lane) : { (if resvHit p n ln.resv then { ln with resv := none } else ln) with resv := none }
      = { ln with resv := none } := by
    split <;> rfl
  simp only [bareGrp, List.map_map, Function.comp_def, hlane]

theorem aside_clearGranules (s : State) (p : Place) (n : Nat) : Aside T s (clearGranules s p n) := by
  refine aside_mapCores rfl rfl fun x => ?_
  have hgrp : ∀ og : Option Grp, Option.map bareGrp (og.map fun g =>
      { g with lanes := g.lanes.map fun ln => if resvHit p n ln.resv then { ln with resv := none } else ln })
        = og.map bareGrp := fun og => by
    cases og with
    | none => rfl
    | some g => exact congrArg some (bareGrp_clear p n g)
  simp only [bareCore, List.map_map, Function.comp_def, hgrp]

theorem aside_sendWakes (s : State) (pa n : Nat) : Aside T s (sendWakes s pa n) := by
  unfold sendWakes
  refine aside_foldl (fun s w => ?_) s _
  exact aside_modCore (f := fun x => { x with wakes := x.wakes ++ [_] }) (fun _ => rfl) s w.core

/-- A write that performs at its home. -/
theorem aside_performBytes (s : State) (by_ : Option Nat) (pa : Nat) (bs : List Byte) : Aside T s (performBytes s by_ pa bs) :=
  (aside_setBytes s pa bs).trans ((aside_wroteHomes _ _ _).trans
    ((aside_clearGranules _ _ _).trans ((aside_sendWakes _ _ _).trans (aside_helmLose _ _ _ _ _))))

theorem mem_sendWakes (s : State) (pa n : Nat) : (sendWakes s pa n).mem = s.mem := by
  unfold sendWakes
  generalize s.watches.filter _ = ws
  induction ws generalizing s with
  | nil => rfl
  | cons w ws ih => rw [List.foldl_cons, ih]; rfl

theorem mem_performBytes (s : State) (by_ : Option Nat) (pa : Nat) (bs : List Byte) :
    (performBytes s by_ pa bs).mem = writeBytes s.mem pa bs :=
  mem_sendWakes _ _ _

end

end Sys2Proof.Machine

/-! ## Atomics act as one step of their home (R174, R175) -/

namespace Sys2Proof.Machine

open Sys2Proof.Claims

/-- The bytes that ATOM writes are those of the operation on values of its width. -/
theorem atomVal_mod (op : AtomOp) {n old : Nat} (b : Nat) (hold : old < 2 ^ (8 * n)) :
    atomVal op n old b % 256 ^ n = atomNew op (8 * n) old b % 256 ^ n := by
  have hpow : 256 ^ n = 2 ^ (8 * n) := by rw [show (256 : Nat) = 2 ^ 8 from rfl, ← Nat.pow_mul]
  have hself : old % 2 ^ (8 * n) = old := Nat.mod_eq_of_lt hold
  rcases Nat.eq_zero_or_pos n with rfl | hn
  · simp only [Nat.pow_zero, Nat.mod_one]
  have hs (v : Nat) : sval (8 * n) v = (BitVec.ofNat (8 * n) v).toInt := sval_eq (by omega) v
  rw [hpow]
  cases op
  case add => simp only [atomVal, atomNew, BitVec.toNat_add, BitVec.toNat_ofNat, Nat.add_mod_mod, Nat.mod_add_mod]
  case and =>
    simp only [atomVal, atomNew, BitVec.toNat_and, BitVec.toNat_ofNat, ← Nat.and_mod_two_pow, Nat.mod_mod]
    rfl
  case or =>
    simp only [atomVal, atomNew, BitVec.toNat_or, BitVec.toNat_ofNat, ← Nat.or_mod_two_pow, Nat.mod_mod]
    rfl
  case xor =>
    simp only [atomVal, atomNew, BitVec.toNat_xor, BitVec.toNat_ofNat, ← Nat.xor_mod_two_pow, Nat.mod_mod]
    rfl
  case xchg => simp only [atomVal, atomNew, BitVec.toNat_ofNat]
  case min => simp only [atomVal, atomNew, hs, BitVec.toNat_ofNat, hself]
  case max => simp only [atomVal, atomNew, hs, ge_iff_le, BitVec.toNat_ofNat, hself]
  case minu => simp only [atomVal, atomNew, BitVec.toNat_ofNat, hself]
  case maxu => simp only [atomVal, atomNew, BitVec.toNat_ofNat, hself]
  case fadd =>
    have hfmt : (if n = 8 then fmt64 else fmt32) = if 8 * n = 64 then fmt64 else fmt32 := by
      by_cases h : n = 8
      · rw [if_pos h, if_pos (by omega)]
      · rw [if_neg h, if_neg (by omega)]
    simp only [atomVal, atomNew, hfmt]

theorem putVBut_none (regs : Sparse 32) (p v n : Nat) : putVBut (0, 0) regs p v n = putV regs p v n := by
  induction n generalizing regs p v with
  | zero => rfl
  | succ n ih => rw [putVBut, if_neg (by omega), ih, putV]

/-- The kinds of an atomic whose effect O27 states. -/
def PlainAtomic (a : Acc) : Prop := (∃ op, a.kind = .atom op) ∨ (∃ cmp, a.kind = .acas cmp) ∨ a.kind = .sc

/-- What an atomic at a global address returns and stores. -/
theorem atomEffect_eq {s : State} {a : Acc} {pa old : Nat} (hk : PlainAtomic a) (hp : a.place = .glob pa) (resv : Option Place)
    (hold : old < 2 ^ (8 * a.n)) :
    let e := atomEffect s a resv old
    e.1 = (if a.kind = .sc then (if (stores a resv old).isSome then 0 else 1) else old)
    ∧ (e.2.isSome = (stores a resv old).isSome)
    ∧ ∀ v v', e.2 = some v → stores a resv old = some v' → v % 256 ^ a.n = v' % 256 ^ a.n := by
  rcases hk with ⟨op, hk⟩ | ⟨cmp, hk⟩ | hk
  · simp only [atomEffect, stores, hk, reduceCtorEq, if_false, Option.isSome_some, true_and, Option.some.injEq]
    rintro v v' rfl rfl
    exact atomVal_mod op _ hold
  · have hiff : old = cmp % 2 ^ (8 * a.n) ↔ BitVec.ofNat (8 * a.n) old = BitVec.ofNat (8 * a.n) cmp := by
      rw [← BitVec.toNat_inj, BitVec.toNat_ofNat, BitVec.toNat_ofNat, Nat.mod_eq_of_lt hold]
    simp only [atomEffect, stores, hk, reduceCtorEq, if_false, true_and, hiff]
    intro v v' h h'
    rw [Option.some.inj (h.symm.trans h')]
  · have hname : resvName s a.place = a.place := by rw [hp]; rfl
    simp only [atomEffect, stores, hk, hname, if_true]
    split <;> simp_all

/-! ### The step of an atomic at its home -/

section
variable {s : State} {c pa : Nat} {a : Acc}

theorem isAtomic_of_plain (hk : PlainAtomic a) : isAtomic a = true := by
  rcases hk with ⟨op, hk⟩ | ⟨cmp, hk⟩ | hk <;> simp only [isAtomic, hk]

/-- The access stands in a core of the package. -/
theorem core_of_atHome (h : AtHome s c a pa) : c < s.cores.length := by
  by_contra hc
  have hpend : (coreAt s c).pend = [] := by
    rw [coreAt, List.getD_eq_getElem?_getD, List.getElem?_eq_none (Nat.le_of_not_lt hc)]
    rfl
  have hfind := h.1
  rw [hpend] at hfind
  exact absurd hfind (by simp)

/-- An atomic that may act at its home does so. -/
theorem evSatisfy_atomic (h : AtHome s c a pa) (hk : PlainAtomic a) (hout : (coreAt s c).outb.any (accOverlap a) = false)
    (hw : writableNow s (some (.release c)) none none pa a.n a.gr = true)
    (hq : waitsAt (.acc c a.id) (homeOf s pa a.gr) = false) : evSatisfy c a.id s = some (performAtomic s c a pa) := by
  have hat := isAtomic_of_plain hk
  obtain ⟨hfind, hload, hwatch, hiss, hrel, hplace, hcov, hreg, hback, -, hwalk⟩ := h
  have hwaitv : isWaitv a = false := by rcases hk with ⟨op, hk⟩ | ⟨cmp, hk⟩ | hk <;> simp only [isWaitv, hk]
  have hread : mayRead s c a = true := by simp [mayRead, hwaitv]
  have hserved : servedAt c (coreAt s c) a.place = .glob pa := by simp only [servedAt, hplace, hcov]
  have hhome (bs : List Byte) : satisfyHome s c a pa bs = some (performAtomic s c a pa) := by
    simp [satisfyHome, hat, hout, hq, hw]
  have hplaced (bs : List Byte) : satisfyGlob.satisfyPlace s c a pa (regionOf pa) bs = some (performAtomic s c a pa) := by
    rcases hreg with hreg | hreg <;> simp only [satisfyGlob.satisfyPlace, hreg, hback, if_true, hhome]
  have hglob : satisfyGlob s c a pa = some (performAtomic s c a pa) := by
    unfold satisfyGlob
    rcases hreg with hreg | hreg <;> rw [hreg] at hplaced ⊢ <;> dsimp only <;> split <;> simp [hat, hplaced]
  simp [evSatisfy, hfind, hload, hwatch, hiss, hrel, hread, hserved, hwalk, hglob]

theorem leaveQueues_eq (src : Source) (s : State) : ∃ hs, leaveQueues src s = { s with homes := hs } := by
  unfold leaveQueues
  split
  · exact ⟨_, rfl⟩
  · exact ⟨s.homes, rfl⟩

theorem mem_noteReads (s : State) (pa n gr : Nat) : (noteReads s pa n gr).mem = s.mem := by
  unfold noteReads
  generalize List.filter _ _ = is
  induction is generalizing s with
  | nil => rfl
  | cons i is ih => rw [List.foldl_cons, ih]; rfl

/-- No byte of an atomic's comes from a poisoned line. -/
theorem readPoisoned_of_linesOf {n : Nat} {x : Core} (hn : a.n = n) (h : (linesOf pa n).any (linePoisoned s) = false) :
    readPoisoned s x a pa = false := by
  subst hn
  rw [readPoisoned, List.any_eq_false]
  intro i hi
  have hlt := List.mem_range.mp hi
  have hline : (pa + i) / 64 * 64 ∈ linesOf pa a.n :=
    List.mem_map.mpr ⟨(pa + i) / 64 - pa / 64, List.mem_range.mpr (by omega), by omega⟩
  simp [List.any_eq_false.mp h _ hline]

theorem grpAt_modGrp {k : Nat} {g : Grp} (hg : grpAt s c k = some g) (hc : c < s.cores.length) (f : Grp → Grp) :
    grpAt (modGrp s c k f) c k = some (f g) := by
  rw [modGrp_some f hg, grpAt_setGrp _ _ _ _ hc (lt_of_grpAt hg)]

@[simp] theorem length_cores_modGrp (s : State) (c k : Nat) (f : Grp → Grp) :
    (modGrp s c k f).cores.length = s.cores.length := by
  unfold modGrp
  split
  · exact length_cores_modCore ..
  · rfl

theorem length_lanes_of_bareGrp {g g' : Grp} (h : bareGrp g' = bareGrp g) : g'.lanes.length = g.lanes.length := by
  simpa [bareGrp] using congrArg (fun x : Grp => x.lanes.length) h

/-- What the end of an atomic leaves in memory, in the queue and in its lane. -/
theorem finishAtomic_effect {g : Grp} {p n old ret : Nat} (hk : PlainAtomic a) (hc : c < s.cores.length)
    (hg : grpAt s c a.slot = some g) (hl : a.lane < g.lanes.length) (hsp : a.spared = (0, 0)) (hd : a.dst = .v p n) :
    (finishAtomic s c a old ret).mem = s.mem
    ∧ (coreAt (finishAtomic s c a old ret) c).pend = without (coreAt s c) a.id
    ∧ ∃ g', grpAt (finishAtomic s c a old ret) c a.slot = some g'
      ∧ (laneAt g' a.lane).regs = putV (laneAt g a.lane).regs p ret n ∧ (a.kind = .sc → (laneAt g' a.lane).resv = none) := by
  have hdrop (u : State) (hu : c < u.cores.length) (hpend : (coreAt u c).pend = (coreAt s c).pend) :
      (coreAt (dropPend u c a.id) c).pend = without (coreAt s c) a.id := by
    rw [dropPend, coreAt_modCore_same _ hu, without, hpend]
  have hgrp (u : State) : grpAt (dropPend u c a.id) c a.slot = grpAt u c a.slot := grpAt_modCore fun _ => rfl
  have hput : putDst s c a ret = modGrp s c a.slot fun g => modLane g a.lane fun ln => { ln with regs := putV ln.regs p ret n } := by
    simp only [putDst, hd, hsp, putVBut_none]
  have hpend1 : (coreAt (putDst s c a ret) c).pend = (coreAt s c).pend := by
    rw [hput, modGrp_keeps Core.pend fun _ _ => rfl]
  have hmem1 : (putDst s c a ret).mem = s.mem := by rw [hput, modGrp_mem]
  have hlen1 : c < (putDst s c a ret).cores.length := by rwa [hput, length_cores_modGrp]
  have hgrp1 : grpAt (putDst s c a ret) c a.slot
      = some (modLane g a.lane fun ln => { ln with regs := putV ln.regs p ret n }) := by
    rw [hput, grpAt_modGrp hg hc]
  by_cases hsc : a.kind = .sc
  · have hfin : finishAtomic s c a old ret
        = dropPend (modGrp (putDst s c a ret) c a.slot fun g => modLane g a.lane fun ln => { ln with resv := none }) c a.id := by
      simp only [finishAtomic, hsc]
    rw [hfin]
    refine ⟨(modGrp_mem ..).trans hmem1, hdrop _ (by rwa [length_cores_modGrp]) ?_, _,
      (hgrp _).trans (grpAt_modGrp hgrp1 hlen1 _), ?_, fun _ => ?_⟩
    · rw [modGrp_keeps Core.pend fun _ _ => rfl, hpend1]
    · rw [laneAt_modLane _ _ _ _ (by simpa using hl), if_pos rfl, laneAt_modLane _ _ _ _ hl, if_pos rfl]
    · rw [laneAt_modLane _ _ _ _ (by simpa using hl), if_pos rfl]
  · have hfin : finishAtomic s c a old ret = dropPend (putDst s c a ret) c a.id := by
      rcases hk with ⟨op, hk⟩ | ⟨cmp, hk⟩ | hk
      · simp only [finishAtomic, hk]
      · simp only [finishAtomic, hk]
      · exact absurd hk hsc
    rw [hfin]
    refine ⟨hmem1, hdrop _ hlen1 hpend1, _, (hgrp _).trans hgrp1, ?_, fun h => absurd h hsc⟩
    rw [laneAt_modLane _ _ _ _ hl, if_pos rfl]

end

end Sys2Proof.Machine

namespace Sys2Proof

open Sys2Proof.Machine Sys2Proof.Claims

/-- Settles O27: an atomic that may act performs at its home, and its bytes are those that `stores` gives. -/
theorem atomicsActAsOneStep : Obligations.AtomicsActAsOneStep := by
  intro s c pa p n a g hhome hout hw hq hg hl hsp hd hwf hk old new ret
  have hc := core_of_atHome hhome
  obtain ⟨hs, hleave⟩ := leaveQueues_eq (.acc c a.id) s
  have hexec : exec (.satisfy c a.id) s = .next (retireDone c (performAtomic s c a pa)) := by
    show stepOr s ((evSatisfy c a.id s).map (retireDone c)) = _
    rw [evSatisfy_atomic hhome hk hout hw hq, Option.map_some, stepOr, Option.getD_some]
  obtain ⟨-, -, -, -, -, hplace, -, -, -, hsound, -⟩ := hhome
  obtain ⟨hret, hsome, hval⟩ := atomEffect_eq (s := { s with homes := hs }) hk hplace (laneAt g a.lane).resv (readLe_lt s.mem pa a.n)
  have hlane : accLane { s with homes := hs } c a = laneAt g a.lane := by
    show (match grpAt s c a.slot with | some g => laneAt g a.lane | none => Lane.empty) = _
    rw [hg]
  have hpois : readPoisoned { s with homes := hs } (coreAt { s with homes := hs } c) a pa = false :=
    readPoisoned_of_linesOf rfl hsound
  have hperf : ∃ u, performAtomic s c a pa = finishAtomic u c a old ret ∧ Aside id s u
      ∧ (∀ v, new = some v → Stored s.mem u.mem pa a.n v) ∧ (new = none → u.mem = s.mem) := by
    have haside : Aside id s { s with homes := hs } := aside_of_cores rfl rfl
    unfold performAtomic
    rw [hleave, if_neg (by rw [hpois]; decide), hlane]
    dsimp only
    rw [hret]
    refine ⟨_, rfl, ?_⟩
    cases heff : (atomEffect { s with homes := hs } a (laneAt g a.lane).resv (readLe s.mem pa a.n)).2 with
    | none =>
      rw [heff] at hsome
      have hnew : new = none := by simpa using hsome.symm
      refine ⟨haside.trans ((aside_helmLose _ _ _ _ _).trans (aside_noteReads _ _ _ _)), fun v h => ?_, fun _ => mem_noteReads ..⟩
      rw [hnew] at h
      exact absurd h (by simp)
    | some v =>
      rw [heff] at hsome
      refine ⟨haside.trans ((aside_putHome _ _).trans (aside_performBytes _ _ _ _)), fun v' h => ?_, fun h => ?_⟩
      · rw [mem_performBytes]
        exact stored_congr (stored_writeBytes pa a.n v hwf) (hval v v' heff h)
      · rw [show stores a (laneAt g a.lane).resv (readLe s.mem pa a.n) = none from h] at hsome
        exact absurd hsome (by simp)
  obtain ⟨u, hu, haside, hstored, hnone⟩ := hperf
  obtain ⟨g1, hg1, hbare⟩ := haside.grpAt hg
  have hl1 : a.lane < g1.lanes.length := by rwa [length_lanes_of_bareGrp hbare]
  obtain ⟨hmem, hpend, g', hg', hregs, hresv⟩ := finishAtomic_effect (old := old) (ret := ret) hk
    (haside.length.symm ▸ hc) hg1 hl1 hsp hd
  have hlane1 : (laneAt g1 a.lane).regs = (laneAt g a.lane).regs := by rw [laneAt_of_bareGrp hbare]
  refine ⟨_, g', hexec, ?_⟩
  rw [hu]
  refine ⟨fun v h => hmem.symm ▸ hstored v h, fun h => hmem.trans (hnone h), ?_, hg', hlane1 ▸ hregs, hresv⟩
  rw [hpend, without, without, haside.pend]

end Sys2Proof

/-! ## Scratchpad writes, walks and failures stand aside -/

namespace Sys2Proof.Machine

open Sys2Proof.Claims

/-! ### The shape of a team -/

def cleanBlock : Block → Block
  | .valid pa _ => .valid pa 0
  | .invalid => .invalid

def cleanWindow (wn : Window) : Window := { wn with blocks := wn.blocks.map cleanBlock }

/-- A team beside its bytes, its dirty sectors and its failure words. -/
def teamShape (tm : Team) : Team := { tm with bytes := [], fails := [], wins := tm.wins.map (Option.map cleanWindow) }

theorem head?_filterMap_map {α β γ : Type} {f : α → Option β} {f' : α → Option γ} {g : β → γ} (h : ∀ x, f' x = (f x).map g)
    (xs : List α) : (xs.filterMap f').head? = (xs.filterMap f).head?.map g := by
  rw [← List.head?_map, List.map_filterMap, funext h]

theorem windowAt_teamShape (tm : Team) (off : Nat) :
    windowAt (teamShape tm) off = (windowAt tm off).map fun r => (r.1, cleanWindow r.2.1, r.2.2) := by
  have hget (w : Nat) : (teamShape tm).wins.getD w none = (tm.wins.getD w none).map cleanWindow := by
    simp only [teamShape, List.getD_eq_getElem?_getD, List.getElem?_map]
    cases tm.wins[w]? <;> rfl
  unfold windowAt
  refine head?_filterMap_map (fun w => ?_) _
  rw [hget]
  cases tm.wins.getD w none with
  | none => rfl
  | some wn =>
    simp only [Option.map_some, cleanWindow]
    split <;> rfl

theorem backingOf_teamShape (tm : Team) (off : Nat) : backingOf (teamShape tm) off = backingOf tm off := by
  unfold backingOf
  rw [windowAt_teamShape]
  cases windowAt tm off with
  | none => rfl
  | some r =>
    obtain ⟨w, wn, b⟩ := r
    have hblock : (cleanWindow wn).blocks.getD b .invalid = cleanBlock (wn.blocks.getD b .invalid) := by
      simp only [cleanWindow, List.getD_eq_getElem?_getD, List.getElem?_map]
      cases wn.blocks[b]? <;> rfl
    simp only [Option.map_some, hblock]
    cases wn.blocks.getD b .invalid <;> rfl

theorem backingOf_of_shape {tm tm' : Team} (h : teamShape tm' = teamShape tm) (off : Nat) :
    backingOf tm' off = backingOf tm off := by
  rw [← backingOf_teamShape, h, backingOf_teamShape]

theorem map_mapFrom {α β : Type} {f : Nat → α → α} {g : α → β} (h : ∀ i x, g (f i x) = g x) (i : Nat) (xs : List α) :
    (mapFrom f i xs).map g = xs.map g := by
  induction xs generalizing i with
  | nil => rfl
  | cons x xs ih => rw [mapFrom, List.map_cons, List.map_cons, h, ih]

/-- A block of a window at `lo` once `n` bytes from `off` on have been written. -/
def dirtied (off n lo0 i : Nat) (b : Block) : Block :=
  match b with
  | .invalid => b
  | .valid pa d =>
    let lo := lo0 + 512 * i
    .valid pa (BitVec.ofNat 16 (Nat.lor d.toNat (maskBelow (fun k =>
      off < lo + 32 * k + 32 && lo + 32 * k < off + n) 16)))

def dirtiedWindow (off n : Nat) (wn : Window) : Window := { wn with blocks := mapFrom (dirtied off n wn.off) 0 wn.blocks }

theorem markDirty_eq (off n : Nat) (tm : Team) :
    markDirty off n tm = { tm with wins := tm.wins.map (Option.map (dirtiedWindow off n)) } := rfl

/-- Bytes written to a team's allotment change nothing else of it but dirty sectors. -/
theorem teamShape_markDirty (off n : Nat) (m : Memory) (tm : Team) :
    teamShape (markDirty off n { tm with bytes := m }) = teamShape tm := by
  have hblock (lo i : Nat) (b : Block) : cleanBlock (dirtied off n lo i b) = cleanBlock b := by cases b <;> rfl
  have hwin (ow : Option Window) : (ow.map (dirtiedWindow off n)).map cleanWindow = ow.map cleanWindow := by
    cases ow with
    | none => rfl
    | some wn => simp only [Option.map_some, cleanWindow, dirtiedWindow, map_mapFrom (hblock wn.off)]
  simp only [markDirty_eq, teamShape, List.map_map, Function.comp_def, hwin]

/-! ### Teams by their place -/

theorem teamAt_modCore {s : State} {f : Core → Core} (hf : ∀ x, (f x).teams = x.teams) (c c' n : Nat) :
    teamAt (modCore s c f) c' n = teamAt s c' n := by
  simp only [teamAt, teamIn, modCore_keeps Core.teams hf]

theorem teamAt_modGrp (s : State) (c k : Nat) (f : Grp → Grp) (c' n : Nat) : teamAt (modGrp s c k f) c' n = teamAt s c' n := by
  simp only [teamAt, teamIn, modGrp_keeps Core.teams fun _ _ => rfl]

theorem find?_map_num {f : Team → Team} (hf : ∀ tm, (f tm).num = tm.num) (t n : Nat) (ts : List Team) :
    (ts.map fun tm => if tm.num = t then f tm else tm).find? (fun tm => tm.num = n)
      = if n = t then (ts.find? fun tm => tm.num = n).map f else ts.find? fun tm => tm.num = n := by
  induction ts with
  | nil => simp
  | cons tm ts ih =>
    by_cases htm : tm.num = t
    · by_cases hn : n = t
      · simp_all
      · have hne : ¬ t = n := fun e => hn e.symm
        simp_all
    · by_cases hn : tm.num = n
      · simp_all
      · simp_all

theorem teamAt_modTeam {s : State} {c : Nat} (hc : c < s.cores.length) {f : Team → Team} (hf : ∀ tm, (f tm).num = tm.num)
    (t c' n : Nat) : teamAt (modTeam s c t f) c' n
      = if c' = c ∧ n = t then (teamAt s c t).map f else teamAt s c' n := by
  by_cases hcc : c' = c
  · subst hcc
    simp only [teamAt, teamIn, modTeam, coreAt_modCore_same _ hc, find?_map_num hf, true_and]
    split
    · next e => rw [e]
    · rfl
  · rw [if_neg fun e => hcc e.1, teamAt, modTeam, coreAt_modCore, if_neg fun e => hcc e.1, teamAt]

theorem aside_modTeam {T f : Team → Team} (h : ∀ tm, T (f tm) = T tm) (s : State) (c t : Nat) : Aside T s (modTeam s c t f) := by
  refine aside_modCore (fun x => ?_) s c
  have hteam (tm : Team) : T (if tm.num = t then f tm else tm) = T tm := by
    split
    · exact h tm
    · rfl
  simp only [bareCore, List.map_map, Function.comp_def, hteam]

/-! ### Writes to a scratchpad (R279) -/

section
variable {T : Team → Team}

theorem aside_touchBlock (c t : Nat) (s : State) (p : Nat × Nat) : Aside T s (touchBlock c t s p) := by
  unfold touchBlock
  split
  · exact .refl s
  · split
    · exact ((aside_clearGranules _ _ _).trans (aside_sendWakes _ _ _)).trans
        (aside_modCore (f := fun x => { x with wakes := x.wakes ++ [_] }) (fun _ => rfl) _ c)
    · exact .refl s

theorem mem_touchBlock (c t : Nat) (s : State) (p : Nat × Nat) : (touchBlock c t s p).mem = s.mem := by
  unfold touchBlock
  split
  · rfl
  · split
    · exact mem_sendWakes _ _ _
    · rfl

theorem foldl_keeps {α β : Type} (q : State → β) {f : State → α → State} (h : ∀ s x, q (f s x) = q s) (s : State)
    (xs : List α) : q (xs.foldl f s) = q s := by
  induction xs generalizing s with
  | nil => rfl
  | cons x xs ih => rw [List.foldl_cons, ih, h]

theorem mem_writeScr (s : State) (c t off : Nat) (bs : List Byte) : (writeScr s c t off bs).mem = s.mem :=
  foldl_keeps State.mem (mem_touchBlock c t) _ _

/-- A team after bytes have been written to its allotment. -/
def teamWritten (off : Nat) (bs : List Byte) (tm : Team) : Team :=
  markDirty off bs.length { tm with bytes := writeBytes tm.bytes off bs }

theorem aside_writeScr_teams (s : State) (c t off : Nat) (bs : List Byte) :
    Aside T (modTeam s c t (teamWritten off bs)) (writeScr s c t off bs) :=
  (aside_clearGranules _ _ _).trans (aside_foldl (aside_touchBlock c t) _ _)

theorem aside_writeScr (s : State) (c t off : Nat) (bs : List Byte) : Aside teamShape s (writeScr s c t off bs) :=
  (aside_modTeam (fun tm => teamShape_markDirty off bs.length _ tm) s c t).trans (aside_writeScr_teams s c t off bs)

theorem teamAt_writeScr {s : State} {c : Nat} (hc : c < s.cores.length) (t off : Nat) (bs : List Byte) (c' n : Nat) :
    teamAt (writeScr s c t off bs) c' n
      = if c' = c ∧ n = t then (teamAt s c t).map (teamWritten off bs) else teamAt s c' n := by
  rw [(aside_writeScr_teams (T := id) s c t off bs).teamAt_eq, teamAt_modTeam hc (f := teamWritten off bs) fun _ => rfl]

/-- The bytes of a team after a value has been stored in its allotment. -/
theorem stored_teamWritten {tm : Team} (off n v : Nat) (h : Memory.wf tm.bytes = true) :
    Stored tm.bytes (teamWritten off (leBytes n v) tm).bytes off n v := stored_writeBytes off n v h

/-! ### Walks and failures (R287, R322 to R324) -/

theorem aside_setEntry (core : Option Nat) (p : WalkPath) (bits : Nat) (s : State) (pte : Nat) :
    Aside T s (setEntry core p bits s pte) := by
  unfold setEntry
  dsimp only
  split
  · exact .refl s
  · exact aside_putHome _ _

theorem aside_setPath (core : Option Nat) (p : WalkPath) (wr : Bool) (s : State) : Aside T s (setPath core p wr s) :=
  (aside_foldl (aside_setEntry core p _) _ _).trans (aside_foldl (aside_setEntry core p _) _ _)

theorem aside_walked (s : State) (c : Nat) (p : WalkPath) (wr : Bool) (lf : Leaf) : Aside T s (walked s c p wr lf) :=
  (aside_foldl (fun _ _ => aside_helmLose _ _ _ _ _) _ _).trans
    ((aside_setPath _ _ _ _).trans (aside_modCore (f := fun x => { x with tlb := _ :: x.tlb.filter _ }) (fun _ => rfl) _ c))

/-- What an access leaves behind for its translation. -/
theorem aside_noteAccess (s : State) (c : Nat) (g : Grp) (va : Nat) (ty : AccessType) : Aside T s (noteAccess s c g va ty) := by
  unfold noteAccess
  split
  · exact .refl s
  · split
    · exact .refl s
    · dsimp only
      split
      · split
        · exact .refl s
        · split
          · exact aside_walked _ _ _ _ _
          · exact .refl s
      · split
        · exact .refl s
        · split
          · exact aside_walked _ _ _ _ _
          · exact .refl s

theorem aside_faultEntry (s : State) (pa kind source count : Nat) : Aside T s (faultEntry s pa kind source count) := by
  unfold faultEntry
  dsimp only
  split
  · exact aside_of_cores rfl rfl
  · split
    · exact aside_of_cores rfl rfl
    · exact aside_of_cores rfl rfl

theorem aside_faultQueue (s : State) (pa kind source : Nat) : Aside T s (faultQueue s pa kind source) := by
  have hrows : Aside T s (if kind = 1 then addRow (addRow s pa false) pa true else if kind = 2 then addRow s pa false else s) := by
    split
    · exact aside_of_cores rfl rfl
    · split
      · exact aside_of_cores rfl rfl
      · exact .refl s
  unfold faultQueue
  dsimp only
  generalize (if kind = 1 then addRow (addRow s pa false) pa true else if kind = 2 then addRow s pa false else s) = s1 at hrows ⊢
  split
  · exact hrows.trans ((aside_faultEntry _ _ _ _ _).trans (aside_faultEntry _ _ _ _ _))
  · exact hrows.trans (aside_faultEntry _ _ _ _ _)

theorem aside_noteBadPage (s : State) (pa : Nat) : Aside T s (noteBadPage s pa) := by
  unfold noteBadPage
  split
  · exact aside_faultQueue _ _ _ _
  · exact .refl s

/-- A store's failure stands beside whatever does not see the failure words. -/
theorem aside_failStore (hT : ∀ tm fs, T { tm with fails := fs } = T tm) (s : State) (c team index : Nat) (grid : Dword)
    (cause : Nat) : Aside T s (failStore s c team index grid cause) := by
  refine aside_modTeam (fun tm => ?_) s c team
  split
  · exact hT tm _
  · rfl

end

end Sys2Proof.Machine

/-! ## Iterators and sweeps (R197, R198) -/

namespace Sys2Proof.Machine

open Sys2Proof.Claims

/-- A word that acts once, for the lowest lane whose guard is true. -/
theorem onceWord_of_lead {i : Instr} {s : State} {g : Grp} {l : Nat} (h : RunsOnce i s g)
    (hl : lowest (active i s g) = some l) (body : State → Grp → Mask → Nat → State) :
    onceWord i s body = .next (body s g (active i s g) l) := by
  obtain ⟨l', hl', hexec⟩ := onceWord_of_runs h body
  rwa [← Option.some.inj (hl.symm.trans hl')] at hexec

theorem addJob_eq (s : State) (g : Grp) (i : Instr) (k : JobKind) :
    addJob s g (i.encode.getD 0) k = withJob s (newJob s g i k) := rfl

theorem curGrp_withJob (s : State) (j : Job) : curGrp (withJob s j) = curGrp s :=
  grpAt_modCore (f := fun x => { x with jobs := x.jobs ++ [j] }) fun _ => rfl

/-- Clamping or wrapping a value of the width leaves it. -/
theorem narrowed_toInt (sat : Bool) (x : BitVec 32) : narrowed sat true 32 x.toInt = x := by
  have hlt := BitVec.toInt_lt (x := x)
  have hle := BitVec.le_toInt (x := x)
  have hkeep : max (lowOf true 32) (min x.toInt (highOf true 32)) = x.toInt := by
    simp only [lowOf, highOf, if_true]
    omega
  rw [narrowed, hkeep, ite_self, BitVec.ofInt_toInt]

/-- The value that a sweep of 32-bit integers gives an element. -/
theorem sweepVal_eq (op : SweepOp) {it : Iter} (hty : it.ty = 0) (flush : Bool) (e b : Nat) :
    sweepVal op it flush e b = sweptInt op it.sat (BitVec.ofNat 32 e) (BitVec.ofNat 32 b) := by
  simp only [sweepVal, hty, if_true, narrowI_eq, sval_32]
  cases op with
  | add => rfl
  | mul => rfl
  | max =>
    simp only [sweptInt]
    split
    · next h => rw [max_eq_left h, narrowed_toInt]
    · next h => rw [max_eq_right (by omega), narrowed_toInt]
  | min =>
    simp only [sweptInt]
    split
    · next h => rw [min_eq_left h, narrowed_toInt]
    · next h => rw [min_eq_right (by omega), narrowed_toInt]
  | set => simp only [sweptInt, narrowed_toInt]

/-- An element's address, one digit of the index for each of the four dimensions. -/
theorem sweepAddr_eq {it : Iter} (hext : it.extent.length = 4) (hstr : it.stride.length = 4) (n : Nat) :
    sweepAddr it n = (elementAddr it n).toNat := by
  obtain ⟨e0, e1, e2, e3, he⟩ : ∃ e0 e1 e2 e3, it.extent = [e0, e1, e2, e3] := by
    match it.extent, hext with
    | [e0, e1, e2, e3], _ => exact ⟨e0, e1, e2, e3, rfl⟩
  obtain ⟨t0, t1, t2, t3, ht⟩ : ∃ t0 t1 t2 t3, it.stride = [t0, t1, t2, t3] := by
    match it.stride, hstr with
    | [t0, t1, t2, t3], _ => exact ⟨t0, t1, t2, t3, rfl⟩
  simp only [sweepAddr, elementAddr, he, ht, digits, wrapI_eq, BitVec.ofInt_add, BitVec.ofInt_natCast, List.zip_cons_cons,
    List.zip_nil_left, List.map_cons, List.map_nil, List.sum_cons, List.sum_nil, List.getD_cons_zero, List.getD_cons_succ,
    add_zero, BitVec.add_assoc, Int.natCast_ediv, Int.natCast_emod]

/-! ### One element in scratchpad -/

/-- A place in no invalid window block can be filled or needs no fill. -/
theorem unfillable_of_backed {tm : Team} {off : Nat} (h : ∀ w b, backingOf tm off ≠ .invalid w b) (s : State) (c : Nat) :
    unfillable s c tm off = none := by
  unfold unfillable
  cases hwin : windowAt tm off with
  | none => rfl
  | some r =>
    obtain ⟨w, wn, b⟩ := r
    have hback := h w b
    simp only [backingOf, hwin] at hback
    dsimp only
    cases hb : wn.blocks[b]? with
    | none => simp [List.getD_eq_getElem?_getD, hb] at hback
    | some blk =>
      cases blk with
      | invalid => simp [List.getD_eq_getElem?_getD, hb] at hback
      | valid pa d => simp [List.getD_eq_getElem?_getD, hb]

section
variable {s : State} {c t off : Nat} {tm : Team} (h : Pad s c t off tm)
include h

theorem agentGet_pad {n : Nat} (hp : windowPoison s tm off n = none) (src : Source) :
    agentGet s src (.scr c t off) n = .ok { bytes := readBytes tm.bytes off n, bad := none, state := s } := by
  have hback := h.backed
  simp only [agentGet, h.team, hp]

theorem directPut_pad (src : Source) (bs : List Byte) : directPut s src (.scr c t off) bs = .ok (writeScr s c t off bs) := by
  have hback := h.backed
  simp only [directPut, h.team]

theorem recordPut_pad (s1 : State) (src : Source) (g : Grp) : recordPut s s1 src c g (.scr c t off) = s1 := by
  simp only [recordPut, putFails, h.team, Option.bind_some, unfillable_of_backed h.backed, Option.bind_none]

/-- A read-modify-write in scratchpad. -/
theorem sweepAt_pad {n : Nat} (hp : windowPoison s tm off n = none) (src : Source) (g : Grp) (gr : Nat) (f : Nat → Nat) :
    sweepAt s src c g { place := .scr c t off, gr := gr, shr := false, nc := false, norepl := false } n f
      = .done none (writeScr s c t off (leBytes n (f (readLe tm.bytes off n)))) := by
  simp only [sweepAt, agentGet_pad h hp, directPut_pad h, recordPut_pad h]
  rfl

end

/-! ### The job and its handle -/

theorem find?_filter_ne (id : Nat) (js : List Job) : ∀ y ∈ js.filter (fun j => decide (j.id ≠ id)), y.id ≠ id := fun y hy => by
  simpa using (List.mem_filter.mp hy).2

/-- The job that an engine moves on is found with its new counters. -/
theorem find?_map_job {f : Job → Job} (hf : ∀ j, (f j).id = j.id) {js : List Job} {j : Job} {id : Nat}
    (h : js.find? (fun y => decide (y.id = id)) = some j) :
    (js.map fun y => if y.id = id then f y else y).find? (fun y => decide (y.id = id)) = some (f j) := by
  have hid : j.id = id := by simpa using List.find?_some h
  have hcomp : ((fun y : Job => decide (y.id = id)) ∘ fun y => if y.id = id then f y else y) = fun y => decide (y.id = id) := by
    funext y
    by_cases hy : y.id = id
    · simp [hy, hf]
    · simp [hy]
  rw [List.find?_map, hcomp, h, Option.map_some, if_pos hid]

theorem handles_stepHandle (h : HReg) (g : Grp) : (stepHandle h g).handles = g.handles.set h.val
    (handleWord ((g.handles.getD h.val 0).toNat / 2 ^ 8 + 1) (bitsOf (g.handles.getD h.val 0).toNat 7 4)
      ((g.handles.getD h.val 0).toNat % 4)) := rfl

/-- A handle's word after one more step, and after the last one. -/
theorem handle_swept {h : HReg} {g : Grp} (hh : h.val < g.handles.length) (last : Bool) :
    let w := (g.handles.getD h.val 0).toNat
    (if last then endHandle h 2 (stepHandle h g) else stepHandle h g).handles.getD h.val 0 = BitVec.ofNat 32
      (min (w / 256 + 1) (2 ^ 24 - 1) * 256 + w / 16 % 16 * 16 + if last then 2 else w % 4) := by
  intro w
  have hstep : (stepHandle h g).handles.getD h.val 0
      = BitVec.ofNat 32 (min (w / 256 + 1) (2 ^ 24 - 1) * 256 + w / 16 % 16 * 16 + w % 4) := by
    rw [handles_stepHandle, List.getD_eq_getElem?_getD, List.getElem?_set_self hh]
    rfl
  cases last with
  | false => exact hstep
  | true =>
    have hlen : h.val < (stepHandle h g).handles.length := by rwa [handles_stepHandle, List.length_set]
    rw [if_pos rfl, handles_endHandle, hstep, List.getD_eq_getElem?_getD, List.getElem?_set_self hlen, Option.getD_some,
      BitVec.toNat_ofNat]
    have hlt : min (w / 256 + 1) (2 ^ 24 - 1) * 256 + w / 16 % 16 * 16 + w % 4 < 2 ^ 32 := by omega
    rw [Nat.mod_eq_of_lt hlt, if_pos rfl]
    congr 1
    omega

theorem handles_of_bareGrp {g g' : Grp} (h : bareGrp g' = bareGrp g) : g'.handles = g.handles := by
  have hh := congrArg Grp.handles h
  exact hh

/-- The jobs of a core once a sweep's element is done. -/
def sweptJobs (last : Bool) (id : Nat) (js : List Job) : List Job :=
  if last then js.filter (fun y => decide (y.id ≠ id)) else js.map fun y => if y.id = id then { y with next := y.next + 1 } else y

/-- A sweep's state once its element has been written to a state `u`. -/
def sweptState (u : State) (c : Nat) (h : HReg) (j : Job) (last : Bool) : State :=
  modGrp (modCore u c fun x => { x with jobs := sweptJobs last j.id x.jobs }) c j.slot fun g =>
    if last then endHandle h 2 (stepHandle h g) else stepHandle h g

section
variable {s : State} {c t off : Nat} {tm : Team} {j : Job} {h : HReg} {op : SweepOp} {it : Iter} {x : Nat} {fl : Bool} {k : Grp}

/-- SWEEP_ELEMENT on an element in scratchpad. -/
theorem evSweepElement_pad (hjob : (coreAt s c).jobs.find? (fun y => decide (y.id = j.id)) = some j)
    (hkind : j.kind = .sweep h op it x fl) (hpaused : j.paused = false) (hg : grpAt s c j.slot = some k)
    (hfrozen : k.frozen = false) (hty : it.ty = 0) (hext : it.extent.length = 4) (hstr : it.stride.length = 4)
    (hpad : Pad s c t off tm) (hpois : windowPoison s tm off 4 = none)
    (hcheck : checkAddr s c k (elementAddr it j.next).toNat 4 .atomic =
      .ok { place := .scr c t off, gr := 512, shr := false, nc := false, norepl := false }) :
    evSweepElement c j.id s = some (sweptState
      (noteAccess (writeScr s c t off (leBytes 4 (sweptInt op it.sat (BitVec.ofNat 32 (readLe tm.bytes off 4)) (BitVec.ofNat 32 x))))
        c k (elementAddr it j.next).toNat .atomic) c h j (decide (j.next + 1 = it.extent.prod))) := by
  have hsize : iterSize it.ty = 4 := by rw [hty]; rfl
  simp only [evSweepElement, hjob, hkind, hg, hpaused, hfrozen, Bool.or_self, Bool.false_eq_true, if_false, sweepAddr_eq hext hstr,
    hsize, hcheck, sweepAt_pad hpad hpois, sweepVal_eq op hty]
  rw [sweptState]
  simp only [sweptJobs, decide_eq_true_eq]

/-- What a sweep's step leaves of a state in which its element has been written. -/
theorem sweptState_effect {u : State} {g : Grp} (hc : c < u.cores.length)
    (hjob : (coreAt u c).jobs.find? (fun y => decide (y.id = j.id)) = some j) (hg : grpAt u c j.slot = some g)
    (hh : h.val < g.handles.length) (last : Bool) :
    (∀ n, teamAt (sweptState u c h j last) c n = teamAt u c n)
    ∧ (last = true → ∀ y ∈ (coreAt (sweptState u c h j last) c).jobs, y.id ≠ j.id)
    ∧ (last = false → (coreAt (sweptState u c h j last) c).jobs.find? (fun y => decide (y.id = j.id))
        = some { j with next := j.next + 1 })
    ∧ ∃ g', grpAt (sweptState u c h j last) c j.slot = some g' ∧ g'.handles.getD h.val 0 = BitVec.ofNat 32
        (min ((g.handles.getD h.val 0).toNat / 256 + 1) (2 ^ 24 - 1) * 256 + (g.handles.getD h.val 0).toNat / 16 % 16 * 16
          + if last then 2 else (g.handles.getD h.val 0).toNat % 4) := by
  have hjobs : (coreAt (sweptState u c h j last) c).jobs = sweptJobs last j.id (coreAt u c).jobs := by
    rw [sweptState, modGrp_keeps Core.jobs fun _ _ => rfl, coreAt_modCore_same _ hc]
  have hgrp : grpAt (modCore u c fun x => { x with jobs := sweptJobs last j.id x.jobs }) c j.slot = some g :=
    (grpAt_modCore (f := fun x => { x with jobs := sweptJobs last j.id x.jobs }) fun _ => rfl).trans hg
  refine ⟨fun n => ?_, fun hlast => ?_, fun hlast => ?_, _, grpAt_modGrp hgrp (by rwa [length_cores_modCore]) _,
    handle_swept hh last⟩
  · rw [sweptState, teamAt_modGrp, teamAt_modCore (f := fun x => { x with jobs := sweptJobs last j.id x.jobs }) fun _ => rfl]
  · rw [hjobs, sweptJobs, if_pos hlast]
    exact find?_filter_ne j.id _
  · rw [hjobs, sweptJobs, if_neg (by rw [hlast]; decide)]
    exact find?_map_job (f := fun y => { y with next := y.next + 1 }) (fun _ => rfl) hjob

end

end Sys2Proof.Machine

namespace Sys2Proof

open Sys2Proof.Machine Sys2Proof.Claims

/-- Settles O35: the two words at issue, and a step's element, job and handle through the frame of a scratchpad write. -/
theorem sweepsChangeTheirElementsInOrder : Obligations.SweepsChangeTheirElementsInOrder := by
  intro gd i a b h op s g l hh hcore va hw
  refine ⟨fun bs s1 it hrun hlow hsnap hcur hturn => ?_, fun hg hempty => ?_, fun hrun it hit => ?_,
    fun c t off j it x fl tm k hjob hkind hpaused hk hfrozen hhk hty hext hstr hpad hpois hcheck => ?_⟩
  · have hexec : exec (.tldi gd i a) s = .next _ := onceWord_of_lead hrun hlow _
    dsimp only at hexec
    rw [show snapRead g l 16 16 4 (getS g a.val 2) s = .ok bs s1 from hsnap] at hexec
    dsimp only at hexec
    refine ⟨fun hdec => ?_, fun hdec => ?_⟩
    · rw [hdec] at hexec
      rw [hexec]
      dsimp only
      rw [modCur_some _ hcur]
    · rw [hdec] at hexec
      rw [hexec, trap_of_curGrp hcur, hturn]
  · have hslot : slotEmpty s i.val = true := by simp only [slotEmpty, hg, Option.any_some, hempty, Option.isNone_none]
    show execTswp gd op h i b s = _
    rw [execTswp, if_pos hslot, trap_of_curGrp hg]
  · have hslot : slotEmpty s i.val = false := by
      simp only [slotEmpty, hrun.1.1, Option.any_some, hit, Option.isNone_some]
    have hexec : exec (.tswp gd op h i b) s = _ :=
      (if_neg (by rw [hslot]; decide)).trans (onceWord_of_runs hrun _).choose_spec.2
    rw [hit] at hexec
    have hstate : handleState (getHandle g h) = hw % 4 := rfl
    refine ⟨fun hpend => ?_, fun hpend => ?_⟩
    · rw [traps, hexec]
      dsimp only
      rw [hstate, if_pos hpend, trap_of_curGrp hrun.1.1]
    · rw [hexec]
      dsimp only
      rw [hstate, if_neg hpend, addJob_eq, modCur_some _ ((curGrp_withJob s _).trans hrun.1.1)]
      rfl
  · intro old w last
    have hev := evSweepElement_pad hjob hkind hpaused hk hfrozen hty hext hstr hpad hpois hcheck
    have hexec : exec (.sweepElement c j.id) s = stepOr s ((evSweepElement c j.id s).map (retireDone c)) := rfl
    rw [hev, Option.map_some, stepOr, Option.getD_some] at hexec
    have haside := (aside_writeScr s c t off (leBytes 4 (sweptInt op it.sat old (BitVec.ofNat 32 x)))).trans
      (aside_noteAccess _ c k (elementAddr it j.next).toNat .atomic)
    obtain ⟨g, hg, hbare⟩ := haside.grpAt hk
    have hhandles := handles_of_bareGrp hbare
    obtain ⟨hteam, hlast, hnext, k', hk', hhandle⟩ := sweptState_effect (h := h) (haside.length.symm ▸ hpad.core)
      ((haside.jobs c).symm ▸ hjob) hg (hhandles.symm ▸ hhk) last
    rw [hhandles] at hhandle
    refine ⟨_, teamWritten off (leBytes 4 (sweptInt op it.sat old (BitVec.ofNat 32 x))) tm, k', hexec, ?_,
      stored_teamWritten off 4 _ hpad.wf, hlast, hnext, hk', hhandle⟩
    rw [hteam, (aside_noteAccess (T := id) _ c k _ .atomic).teamAt_eq, teamAt_writeScr hpad.core, if_pos ⟨rfl, rfl⟩, hpad.team,
      Option.map_some]

end Sys2Proof

/-! ## Byte barriers: the records (R186, R187) -/

namespace Sys2Proof.Machine

open Sys2Proof.Claims

theorem toNat_append_add {m n : Nat} (x : BitVec m) (y : BitVec n) : (x ++ y).toNat = x.toNat * 2 ^ n + y.toNat := by
  rw [BitVec.toNat_append, Nat.shiftLeft_eq, Nat.mul_comm, ← Nat.two_pow_add_eq_or_of_lt y.isLt]

/-- A record laid out as its four fields. -/
theorem packBar_eq (b : ByteBar) : packBar b = (barRecord b.count b.phase b.over_ b.armed).toNat := by
  have hlow := (BitVec.ofInt 32 b.count).isLt
  have hphase := b.phase.toNat_le
  have hover := b.over_.toNat_le
  have harmed := b.armed.toNat_le
  simp only [packBar, barRecord, wrapI_eq, BitVec.toNat_setWidth, toNat_append_add, BitVec.toNat_ofBool]
  omega

theorem unpackBar_count {v : Nat} : (unpackBar v).count = barCount (BitVec.ofNat 64 v) := by
  have hlow : (BitVec.ofNat 64 v).extractLsb' 0 32 = BitVec.ofNat 32 v := by
    apply BitVec.eq_of_toNat_eq
    simp only [BitVec.extractLsb'_toNat, BitVec.toNat_ofNat, Nat.shiftRight_zero]
    omega
  rw [unpackBar, barCount, hlow, sval_32]

theorem unpackBar_bit {v i : Nat} (hi : i < 64) : Nat.testBit v i = (BitVec.ofNat 64 v).getLsbD i := by
  rw [BitVec.getLsbD_ofNat]
  simp [hi]

theorem unpackBar_phase (v : Nat) : (unpackBar v).phase = barPhase (BitVec.ofNat 64 v) := unpackBar_bit (by decide)
theorem unpackBar_over (v : Nat) : (unpackBar v).over_ = (BitVec.ofNat 64 v).getLsbD 33 := unpackBar_bit (by decide)
theorem unpackBar_armed (v : Nat) : (unpackBar v).armed = (BitVec.ofNat 64 v).getLsbD 34 := unpackBar_bit (by decide)

theorem barCount_bounds (v : BitVec 64) : -2 ^ 31 ≤ barCount v ∧ barCount v ≤ 2 ^ 31 - 1 := by
  have hlt := BitVec.toInt_lt (x := v.extractLsb' 0 32)
  have hle := BitVec.le_toInt (x := v.extractLsb' 0 32)
  simp only [barCount]
  omega

/-- post on a record (R187). -/
theorem postBar_eq (n v : Nat) : packBar (postBar n (unpackBar v)).1 = (posted (BitVec.ofNat 64 v) n).1.toNat
    ∧ (postBar n (unpackBar v)).2 = (posted (BitVec.ofNat 64 v) n).2 := by
  obtain ⟨hlo, hhi⟩ := barCount_bounds (BitVec.ofNat 64 v)
  have hclamp : clampCount (barCount (BitVec.ofNat 64 v) + n)
      = (min (2 ^ 31 - 1) (barCount (BitVec.ofNat 64 v) + n), decide (2 ^ 31 ≤ barCount (BitVec.ofNat 64 v) + n)) := by
    unfold clampCount
    by_cases h : barCount (BitVec.ofNat 64 v) + n > 2 ^ 31 - 1
    · rw [if_pos h, min_eq_left (by omega), decide_eq_true (by omega)]
    · rw [if_neg h, if_neg (by omega), min_eq_right (by omega), decide_eq_false (by omega)]
  simp only [postBar, posted, unpackBar_count, hclamp, gt_iff_lt]
  split
  · simp only [packBar_eq, unpackBar_phase, unpackBar_over, and_self]
  · simp only [packBar_eq, flipBar, unpackBar_phase, unpackBar_over, and_self]

/-- arrive on a record (R187). -/
theorem arriveBar_eq (n v : Nat) : packBar (arriveBar n (unpackBar v)).1 = (arrivedAt (BitVec.ofNat 64 v) n).1.toNat := by
  obtain ⟨hlo, hhi⟩ := barCount_bounds (BitVec.ofNat 64 v)
  have hclamp : clampCount (barCount (BitVec.ofNat 64 v) - n)
      = (max (-2 ^ 31) (barCount (BitVec.ofNat 64 v) - n), decide (barCount (BitVec.ofNat 64 v) - n < -2 ^ 31)) := by
    unfold clampCount
    rw [if_neg (by omega)]
    by_cases h : barCount (BitVec.ofNat 64 v) - n < -2 ^ 31
    · rw [if_pos h, max_eq_left (by omega), decide_eq_true h]
    · rw [if_neg h, max_eq_right (by omega), decide_eq_false h]
  simp only [arriveBar, arrivedAt, unpackBar_count, unpackBar_armed, hclamp]
  split
  · simp only [packBar_eq, flipBar, unpackBar_phase, unpackBar_over]
  · simp only [packBar_eq, unpackBar_phase, unpackBar_over]

theorem packBar_unpackBar_zero : packBar (unpackBar 0) = 0 := by decide

/-! ### Operations on a record in scratchpad -/

/-- Two states that a barrier word takes alike: turn, clock and the shapes of the teams. -/
structure BarAlike (s t : State) : Prop where
  cur : t.cur = s.cur
  clock : t.clock = s.clock
  mem : t.mem = s.mem
  length : t.cores.length = s.cores.length
  team : ∀ c n, (teamAt t c n).map teamShape = (teamAt s c n).map teamShape

theorem BarAlike.refl (s : State) : BarAlike s s := ⟨rfl, rfl, rfl, rfl, fun _ _ => rfl⟩

theorem BarAlike.trans {s t u : State} (h : BarAlike s t) (h' : BarAlike t u) : BarAlike s u :=
  ⟨h'.cur.trans h.cur, h'.clock.trans h.clock, h'.mem.trans h.mem, h'.length.trans h.length,
    fun c n => (h'.team c n).trans (h.team c n)⟩

/-- The operands of a barrier word read the same. -/
theorem BarAlike.envOf {s t : State} (h : BarAlike s t) (g : Grp) (l : Nat) : envOf t g l = envOf s g l := by
  have hccore : (teamAt t s.cur.core g.team).map (·.ccore) = (teamAt s s.cur.core g.team).map (·.ccore) := by
    have hteam := congrArg (Option.map Team.ccore) (h.team s.cur.core g.team)
    rwa [Option.map_map, Option.map_map] at hteam
  simp only [Machine.envOf, h.cur, hccore, meridian, h.clock]

theorem barAlike_writeScr (s : State) (c t off : Nat) (bs : List Byte) : BarAlike s (writeScr s c t off bs) :=
  let h := aside_writeScr s c t off bs
  ⟨h.cur, h.clock, mem_writeScr _ _ _ _ _, h.length, h.teamAt fun _ => rfl⟩

theorem coreAt_mapCores {s t : State} {f : Core → Core} (ht : t.cores = s.cores.map f) (c : Nat) :
    coreAt t c = if c < s.cores.length then f (coreAt s c) else coreAt s c := by
  by_cases hc : c < s.cores.length
  · simp [coreAt, ht, hc]
  · simp [coreAt, ht, hc]

theorem teamAt_wakeBar (s : State) (p : Place) (c n : Nat) : teamAt (wakeBar s p) c n = teamAt s c n := by
  rw [teamAt, coreAt_mapCores (s := s) rfl]
  split <;> rfl

theorem barAlike_wakeBar (s : State) (p : Place) : BarAlike s (wakeBar s p) :=
  ⟨rfl, rfl, rfl, List.length_map .., fun c n => by rw [teamAt_wakeBar]⟩

/-- A lane that parks at a barrier, once that barrier has flipped. -/
def releasedLane (p : Place) (ln : Lane) : Lane :=
  if ln.wait = .barw p then { ln with wait := .ready, pc := ln.pc + 8 } else ln

theorem laneAt_mapAll (g : Grp) {f : Lane → Lane} (hf : f Lane.empty = Lane.empty) (l : Nat) :
    laneAt { g with lanes := g.lanes.map f } l = f (laneAt g l) := by
  by_cases hl : l < g.lanes.length
  · simp [laneAt, hl]
  · simp [laneAt, hl, hf]

/-- The lanes of a core at reset wait for nothing. -/
theorem wait_reset {c k : Nat} {g : Grp} (h : grpIn (Core.reset c) k = some g) (l : Nat) : (laneAt g l).wait = .ready := by
  cases k with
  | zero =>
    obtain rfl : Grp.supervisorReset = g := Option.some.inj h
    by_cases hl : l < 64
    · simp [laneAt, Grp.supervisorReset, hl, Lane.empty]
    · simp [laneAt, Grp.supervisorReset, hl, Lane.empty]
  | succ k =>
    have hnone : (List.replicate 95 (none : Option Grp)).getD k none = some g := h
    rw [List.getD_eq_getElem?_getD, List.getElem?_replicate] at hnone
    split at hnone <;> simp at hnone

/-- A flip releases every lane of the package that is parked at the barrier. -/
theorem grpAt_wakeBar {s : State} {c k : Nat} {g : Grp} (p : Place) (hg : grpAt s c k = some g) :
    ∃ g', grpAt (wakeBar s p) c k = some g' ∧ ∀ l, laneAt g' l = releasedLane p (laneAt g l) := by
  rw [grpAt, coreAt_mapCores (s := s) rfl]
  split
  · refine ⟨{ g with lanes := g.lanes.map (releasedLane p) }, ?_, laneAt_mapAll g rfl⟩
    simp only [grpAt, grpIn, List.getD_eq_getElem?_getD] at hg
    simp only [grpIn, List.getD_eq_getElem?_getD, List.getElem?_map]
    cases hk : (coreAt s c).groups[k]? with
    | none => simp [hk] at hg
    | some og =>
      simp only [hk, Option.getD_some] at hg
      rw [hg]
      rfl
  · next hc =>
    refine ⟨g, hg, fun l => ?_⟩
    have hreset : grpIn (Core.reset c) k = some g := by
      rw [← hg, grpAt, coreAt, List.getD_eq_getElem?_getD, List.getElem?_eq_none (Nat.le_of_not_lt hc), Option.getD_none]
    rw [releasedLane, wait_reset hreset, if_neg (by simp)]

theorem laneAt_released {ln ln1 : Lane} (p : Place) (h : ln1 = { ln with resv := ln1.resv }) :
    releasedLane p ln1 = { (if ln.wait = .barw p then { ln with wait := .ready, pc := ln.pc + 8 } else ln) with
      resv := (releasedLane p ln1).resv } := by
  rw [h, releasedLane]
  dsimp only
  split <;> rfl

section
variable {s : State} {tc tn off : Nat} {tm : Team}

/-- A scratchpad write beside every lane but its reservation, and then a flip's release or none. -/
theorem released_writeScr (s : State) (tc tn off : Nat) (bs : List Byte) (p : Place) (flipped : Bool) :
    Released s (if flipped then wakeBar (writeScr s tc tn off bs) p else writeScr s tc tn off bs) p flipped := by
  intro c k g hg
  obtain ⟨g1, hg1, hbare⟩ := (aside_writeScr s tc tn off bs).grpAt hg
  have hlane := laneAt_of_bareGrp hbare
  cases flipped with
  | false => exact ⟨g1, hg1, fun l => by simpa using hlane l⟩
  | true =>
    obtain ⟨g2, hg2, hreleased⟩ := grpAt_wakeBar p hg1
    refine ⟨g2, hg2, fun l => ?_⟩
    simp only [true_and, hreleased l]
    exact laneAt_released p (hlane l)

/-- One operation on the record at a place of a scratchpad. -/
theorem barStep_effect (hc : tc < s.cores.length) (hteam : teamAt s tc tn = some tm) (hwf : Memory.wf tm.bytes = true)
    (f : ByteBar → ByteBar × Bool) :
    let r := f (unpackBar (readLe tm.bytes off 8))
    let t := barStep f s (.scr tc tn off)
    BarAlike s t ∧ Released s t (.scr tc tn off) r.2
    ∧ ∃ tm', teamAt t tc tn = some tm' ∧ Memory.wf tm'.bytes = true ∧ Stored tm.bytes tm'.bytes off 8 (packBar r.1) := by
  intro r t
  have hread : readBar s (.scr tc tn off) = unpackBar (readLe tm.bytes off 8) := by
    simp only [readBar, readScr, hteam, readLe]
  have ht : t = if r.2 then wakeBar (writeScr s tc tn off (leBytes 8 (packBar r.1))) (.scr tc tn off)
      else writeScr s tc tn off (leBytes 8 (packBar r.1)) := by
    simp only [t, barStep, hread]
    rfl
  have hwritten : teamAt (writeScr s tc tn off (leBytes 8 (packBar r.1))) tc tn
      = some (teamWritten off (leBytes 8 (packBar r.1)) tm) := by
    rw [teamAt_writeScr hc, if_pos ⟨rfl, rfl⟩, hteam, Option.map_some]
  refine ⟨?_, ht ▸ released_writeScr s tc tn off _ _ _, teamWritten off (leBytes 8 (packBar r.1)) tm, ?_,
    writeBytes_wf off _ hwf, stored_teamWritten off 8 _ hwf⟩
  · rw [ht]
    split
    · exact (barAlike_writeScr ..).trans (barAlike_wakeBar ..)
    · exact barAlike_writeScr ..
  · rw [ht]
    split
    · rw [teamAt_wakeBar, hwritten]
    · exact hwritten

/-- The record that an operation leaves. -/
theorem recordAt_of_stored {m : Memory} {tm' : Team} {v : BitVec 64} (h : Stored m tm'.bytes off 8 v.toNat) :
    recordAt tm' off = v := by
  rw [recordAt, readLe_of_stored h]
  apply BitVec.eq_of_toNat_eq
  have hlt := v.isLt
  rw [BitVec.toNat_ofNat]
  omega

/-- Another record keeps its value. -/
theorem recordAt_stored_other {tm' : Team} {v o : Nat} (h : Stored tm.bytes tm'.bytes off 8 v) (hoff : off % 8 = 0)
    (ho : o % 8 = 0) (hne : o ≠ off) : recordAt tm' o = recordAt tm o := by
  rw [recordAt, readLe_stored_outside h (by omega), recordAt]

/-- Operations on records at multiples of 8, one after another, each as `f` says of the record that it meets. -/
theorem foldl_barStep {offs : Nat → Nat} {op : State → Nat → ByteBar → ByteBar × Bool} {f : Nat → BitVec 64 → BitVec 64}
    (ls : List Nat) (hoffs : ∀ j ∈ ls, offs j % 8 = 0)
    (hop : ∀ u j v, BarAlike s u → j ∈ ls → packBar (op u j (unpackBar v)).1 = (f j (BitVec.ofNat 64 v)).toNat)
    (hc : tc < s.cores.length) :
    ∀ (u : State) (tm : Team), BarAlike s u → teamAt u tc tn = some tm → Memory.wf tm.bytes = true →
    let t := ls.foldl (fun u j => barStep (op u j) u (.scr tc tn (offs j))) u
    BarAlike s t ∧ ∃ tm', teamAt t tc tn = some tm' ∧ ∀ o, o % 8 = 0 →
      recordAt tm' o = (ls.filter fun j => offs j = o).foldl (fun v j => f j v) (recordAt tm o) := by
  induction ls with
  | nil => exact fun u tm hu htm _ => ⟨hu, tm, htm, fun _ _ => rfl⟩
  | cons j ls ih =>
    intro u tm hu htm hwf
    obtain ⟨halike, -, tm1, htm1, hwf1, hstored⟩ := barStep_effect (off := offs j) (hu.length.symm ▸ hc) htm hwf (op u j)
    rw [hop u j _ hu List.mem_cons_self] at hstored
    obtain ⟨ht, tm', htm', hrec⟩ := ih (fun i hi => hoffs i (List.mem_cons_of_mem _ hi))
      (fun u i v hu hi => hop u i v hu (List.mem_cons_of_mem _ hi)) _ tm1 (hu.trans halike) htm1 hwf1
    refine ⟨ht, tm', htm', fun o ho => ?_⟩
    rw [hrec o ho]
    by_cases hjo : offs j = o
    · subst hjo
      rw [recordAt_of_stored hstored, List.filter_cons_of_pos (by simp), List.foldl_cons, recordAt]
    · rw [recordAt_stored_other hstored (hoffs j List.mem_cons_self) ho (Ne.symm hjo), List.filter_cons_of_neg (by simpa using hjo)]

end

end Sys2Proof.Machine

/-! ## The barrier words (R188) -/

namespace Sys2Proof.Machine

open Sys2Proof.Claims

/-- The lanes for which a barrier word acts: one under an S code, else each lane whose guard is true. -/
def barLeads (a : Reg) (gm : Mask) : List Nat := if regIsS a then (lowest gm).toList else lanesOf gm

theorem lanesOf_oneLane {l : Nat} (h : l < 64) : lanesOf (oneLane l) = [l] := by
  have hall : ∀ l : Fin 64, lanesOf (oneLane l.val) = [l.val] := by decide +kernel
  exact hall ⟨l, h⟩

/-- A scratchpad place, as the checks of R169 give it. -/
def scrTarget (c t off : Nat) : Target := { place := .scr c t off, gr := 512, shr := false, nc := false, norepl := false }

theorem touchFor_backed {s : State} {c t off : Nat} {tm : Team} (hteam : teamAt s c t = some tm)
    (hback : ∀ w b, backingOf tm off ≠ .invalid w b) : touchFor s (.scr c t off) = (s, true) := by
  have hwait : waitOn s (.scr c t off) 8 = none := by
    simp only [waitOn, hteam]
  simp only [touchFor, hwait, Option.getD_none, hteam]

/-- Touch a list of places in order: the state, and whether all can be used. -/
theorem foldl_touchFor {s : State} (ps : List (Nat × Place)) (h : ∀ p ∈ ps, touchFor s p.2 = (s, true)) :
    ps.foldl (fun acc p => let r := touchFor acc.1 p.2; (r.1, acc.2 && r.2)) (s, true) = (s, true) := by
  induction ps with
  | nil => rfl
  | cons p ps ih =>
    rw [List.foldl_cons]
    dsimp only
    rw [h p List.mem_cons_self]
    exact ih fun q hq => h q (List.mem_cons_of_mem _ hq)

section
variable {i : Instr} {a : Reg} {ty : AccessType} {s : State} {g : Grp}

/-- A barrier word all of whose checks pass, and whose places can be used, has its effect there. -/
theorem barWord_places {more : Env → Option Failed} {tc tn : Nat} {off : Nat → Nat} {tm : Team} (h : RunsOnce i s g)
    (hteam : teamAt s tc tn = some tm)
    (hok : ∀ l ∈ barLeads a (active i s g), (∀ w b, backingOf tm (off l) ≠ .invalid w b)
      ∧ barCheck s g (opI (envOf s g l) 2 a.op) ty = .ok (scrTarget tc tn (off l)) ∧ more (envOf s g l) = none)
    (effect : State → Grp → Mask → List (Nat × Place) → State) :
    barWord i a ty more s effect = .next (effect s g (active i s g)
      ((barLeads a (active i s g)).map fun l => (l, .scr tc tn (off l)))) := by
  have hchk : ((barLeads a (active i s g)).map fun l =>
        (l, opI (envOf s g l) 2 a.op, barCheck s g (opI (envOf s g l) 2 a.op) ty, more (envOf s g l)))
      = (barLeads a (active i s g)).map fun l => (l, opI (envOf s g l) 2 a.op, .ok (scrTarget tc tn (off l)), none) :=
    List.map_congr_left fun l hl => by rw [(hok l hl).2.1, (hok l hl).2.2]
  rw [barWord, withoutTxn_of_runs h.1 h.2.1]
  dsimp only
  rw [← barLeads, hchk, List.filterMap_map, List.filterMap_map]
  have hbads : ∀ ls : List Nat, (ls.filterMap fun l => (none : Option (Nat × Failed))) = [] := fun ls => by simp
  have hplaces : ∀ ls : List Nat, (ls.filterMap fun l => some (l, Place.scr tc tn (off l)))
      = ls.map fun l => (l, Place.scr tc tn (off l)) := fun ls => by simp
  simp only [Function.comp_def, scrTarget, hbads, hplaces, firstFailure]
  rw [foldl_touchFor _ fun p hp => by
    obtain ⟨l, hl, rfl⟩ := List.mem_map.mp hp
    exact touchFor_backed hteam (hok l hl).1]
  rfl

/-- The barrier of a word's own check traps (R188). -/
theorem barWord_traps {more : Env → Option Failed} {t : Target} {f : Failed} {l : Nat} (h : RunsOnce i s g)
    (hlead : barLeads a (active i s g) = [l]) (hl : l < 64) (hmask : regIsS a = true ∨ active i s g = oneLane l)
    (hok : barCheck s g (opI (envOf s g l) 2 a.op) ty = .ok t) (hmore : more (envOf s g l) = some f)
    (effect : State → Grp → Mask → List (Nat × Place) → State) :
    barWord i a ty more s effect = .next (trap s f.cause (active i s g) (opI (envOf s g l) 2 a.op) 0) := by
  have hfirst : firstFailure [(l, f)] = some (f.cause, oneLane l) := by
    refine firstFailure_of_least (o := f.order) List.mem_cons_self rfl ?_ ?_ fun j hj => ?_
    · simp
    · simp
    · rw [getLsbD_oneLane l j hl]
      simp [eq_comm]
  have hmask' : (if regIsS a = true then active i s g else oneLane l) = active i s g := by
    rcases hmask with hS | hone
    · rw [if_pos hS]
    · rw [hone, ite_self]
  rw [barWord, withoutTxn_of_runs h.1 h.2.1]
  dsimp only
  rw [← barLeads, hlead]
  simp only [List.map_cons, List.map_nil, hok, hmore, List.filterMap_cons, List.filterMap_nil, hfirst, hmask',
    List.find?_cons, getLsbD_oneLane l l hl, decide_true]

/-! ### One record -/

theorem barLeads_one {tc tn off l : Nat} {tm : Team} (h : OneBar i a ty s g l tc tn off tm) :
    barLeads a (active i s g) = [l] := by
  have hl : l < 64 := BitVec.lt_of_getLsbD (lowest_mem h.lead)
  unfold barLeads
  split
  · rw [h.lead]
    rfl
  · next hS =>
    rcases h.one with hone | ⟨r, rfl⟩
    · rw [hone, lanesOf_oneLane hl]
    · exact absurd rfl hS

theorem barWord_one {more : Env → Option Failed} {l tc tn off : Nat} {tm : Team} (h : OneBar i a ty s g l tc tn off tm)
    (hmore : more (envOf s g l) = none) (effect : State → Grp → Mask → List (Nat × Place) → State) :
    barWord i a ty more s effect = .next (effect s g (active i s g) [(l, .scr tc tn off)]) := by
  have hlead := barLeads_one h
  have hexec := barWord_places (a := a) (ty := ty) (more := more) (off := fun _ => off) h.once h.team (fun j hj => by
    rw [hlead, List.mem_singleton] at hj
    subst hj
    exact ⟨h.backed, h.good, hmore⟩) effect
  rwa [hlead] at hexec

/-- The lanes of a word, whose one record is of its one lane. -/
theorem barLanes_one {gm : Mask} {l : Nat} (hgm : gm = oneLane l) (hl : l < 64) (p : Place) : barLanes gm a [(l, p)] = [(l, p)] := by
  unfold barLanes
  split
  · rw [hgm, lanesOf_oneLane hl]
    rfl
  · rfl

/-! ### Each lane's record -/

theorem barLeads_lanes {tc tn : Nat} {off : Nat → Nat} {tm : Team} (h : LaneBars i a ty s g tc tn off tm) :
    barLeads a (active i s g) = lanesOf (active i s g) := by
  obtain ⟨r, rfl⟩ := h.vector
  rfl

theorem barWord_lanes {more : Env → Option Failed} {tc tn : Nat} {off : Nat → Nat} {tm : Team}
    (h : LaneBars i a ty s g tc tn off tm)
    (hmore : ∀ l, (active i s g).getLsbD l = true → more (envOf s g l) = none)
    (effect : State → Grp → Mask → List (Nat × Place) → State) :
    barWord i a ty more s effect = .next (effect s g (active i s g)
      ((lanesOf (active i s g)).map fun l => (l, .scr tc tn (off l)))) := by
  have hlead := barLeads_lanes h
  rw [← hlead]
  refine barWord_places h.once h.team (fun j hj => ?_) effect
  rw [hlead, mem_lanesOf] at hj
  obtain ⟨-, hback, hgood⟩ := h.good j hj
  exact ⟨hback, hgood, hmore j hj⟩

/-! ### BARW and BART -/

theorem readBar_phase {tc tn : Nat} {tm : Team} (hteam : teamAt s tc tn = some tm) (off : Nat) :
    (readBar s (.scr tc tn off)).phase = barPhase (recordAt tm off) := by
  simp only [readBar, readScr, hteam, unpackBar_phase, recordAt, readLe]

theorem prop_eq_iff_decide (x : Bool) (q : Prop) [Decidable q] : ((x = true) = q) ↔ x = decide q := by
  by_cases hq : q <;> cases x <;> simp [hq]

/-- BARW at places of a scratchpad: the lanes whose phase stands park. -/
theorem groupLanes_barw {tc tn : Nat} {tm : Team} (hlen : g.lanes.length = 64) (hg : curGrp s = some g)
    (hteam : teamAt s tc tn = some tm) (ls : List Nat) (hls : ∀ j ∈ ls, j < 64) (off : Nat → Nat) (b : Operand) :
    let stay := (ls.map fun l => (l, Place.scr tc tn (off l))).filter fun p =>
      (readBar s p.2).phase = (opI (envOf s g p.1) 1 b % 2 = 1)
    let parked := maskOf fun l => stay.any fun p => p.1 = l
    GroupLanes s g (fun j => if j ∈ ls ∧ barPhase (recordAt tm (off j)) = decide (opI (envOf s g j) 1 b % 2 = 1) then
        { laneAt g j with wait := .barw (.scr tc tn (off j)) } else passed s (laneAt g j) j)
      (modCur s fun g2 => parkLanes parked (fun l => match stay.find? fun p => p.1 = l with | some p => .barw p.2 | none => .ready)
        (advance (s.cur.mask &&& ~~~parked) g2)) := by
  intro stay parked
  have hstay (p : Nat × Place) : p ∈ stay ↔ p.1 ∈ ls ∧ p.2 = .scr tc tn (off p.1)
      ∧ barPhase (recordAt tm (off p.1)) = decide (opI (envOf s g p.1) 1 b % 2 = 1) := by
    simp only [stay, List.mem_filter, List.mem_map, decide_eq_true_eq, prop_eq_iff_decide]
    constructor
    · rintro ⟨⟨l, hl, rfl⟩, hphase⟩
      rw [readBar_phase hteam] at hphase
      exact ⟨hl, rfl, hphase⟩
    · rintro ⟨hl, hp, hphase⟩
      refine ⟨⟨p.1, hl, Prod.ext rfl hp.symm⟩, ?_⟩
      rw [hp, readBar_phase hteam, hphase]
  have hparked (j : Nat) : parked.getLsbD j = true
      ↔ j ∈ ls ∧ barPhase (recordAt tm (off j)) = decide (opI (envOf s g j) 1 b % 2 = 1) := by
    simp only [parked, getLsbD_maskOf, Bool.and_eq_true, decide_eq_true_eq, List.any_eq_true]
    constructor
    · rintro ⟨-, p, hp, rfl⟩
      obtain ⟨hl, -, hphase⟩ := (hstay p).mp hp
      exact ⟨hl, hphase⟩
    · rintro ⟨hl, hphase⟩
      exact ⟨hls j hl, (j, .scr tc tn (off j)), (hstay _).mpr ⟨hl, rfl, hphase⟩, rfl⟩
  have hwait (j : Nat) (hj : parked.getLsbD j = true) :
      stay.find? (fun p => p.1 = j) = some (j, .scr tc tn (off j)) := by
    obtain ⟨hl, hphase⟩ := (hparked j).mp hj
    cases hfind : stay.find? fun p => p.1 = j with
    | none =>
      have hnot := List.find?_eq_none.mp hfind (j, .scr tc tn (off j)) ((hstay _).mpr ⟨hl, rfl, hphase⟩)
      simp at hnot
    | some p =>
      have hpj : p.1 = j := by simpa using List.find?_some hfind
      obtain ⟨-, hplace, -⟩ := (hstay p).mp (List.mem_of_find?_eq_some hfind)
      rw [hpj] at hplace
      exact congrArg some (Prod.ext hpj hplace)
  rw [modCur_some _ hg]
  obtain ⟨g', ht, hg', hlanes⟩ := groupLanes_park (s := s) hlen parked
    (fun l => match stay.find? fun p => p.1 = l with | some p => .barw p.2 | none => .ready)
  refine ⟨g', ht, hg', fun j => ?_⟩
  rw [hlanes j]
  dsimp only
  by_cases hj : parked.getLsbD j = true
  · rw [if_pos hj, if_pos ((hparked j).mp hj), hwait j hj]
  · rw [if_neg hj, if_neg fun h => hj ((hparked j).mpr h)]

/-- The predicate that BART gives a lane. -/
theorem bart_predicate {tc tn : Nat} {tm : Team} (hteam : teamAt s tc tn = some tm) (off n : Nat) :
    ((readBar s (.scr tc tn off)).phase != decide (n % 2 = 1))
      = !decide (barPhase (recordAt tm off) = decide (n % 2 = 1)) := by
  rw [readBar_phase hteam]
  cases barPhase (recordAt tm off) <;> cases decide (n % 2 = 1) <;> rfl

end

theorem foldl_const {α β : Type} (x : β) (xs : List α) (v : β) : xs.foldl (fun _ _ => x) v = if xs = [] then v else x := by
  induction xs generalizing v with
  | nil => rfl
  | cons y ys ih =>
    rw [List.foldl_cons, ih, ite_self, if_neg (List.cons_ne_nil y ys)]

/-- Changes of the lanes of a mask, one after another. -/
theorem groupLanes_foldl {s : State} {g : Grp} (hlen : g.lanes.length = 64) (gm : Mask) (f : Nat → Lane → Lane) :
    GroupLanes s g (fun j => if gm.getLsbD j then f j (laneAt g j) else laneAt g j)
      (setCurGrp s ((lanesOf gm).foldl (fun g j => modLane g j (f j)) g)) := by
  refine ⟨_, rfl, foldl_modLane_frame f _ g, fun j => ?_⟩
  by_cases hj : j < 64
  · rw [laneAt_foldl_modLane f _ (nodup_lanesOf gm) g (by omega)]
    simp only [mem_lanesOf]
  · rw [laneAt_out _ j (by rw [foldl_modLane_length]; omega)]
    simp only [laneAt_out g j (by omega), BitVec.getLsbD_of_ge gm j (by omega), Bool.false_eq_true, if_false]

/-- BARX's own check (R188). -/
def barxLimit (b : Operand) (e : Env) : Option Failed :=
  if opI e 1 b > 0x7FFFFFFF then some { order := 9, cause := 0x0F } else none

theorem exec_barx (gd : Guard) (a : Reg) (b : Operand) (s : State) : exec (.barx gd a b) s =
    barWord (.barx gd a b) a .store (barxLimit b) s fun s gr _ ps =>
      finishWord (ps.foldl (fun s p => barStep (postBar (opI (envOf s gr p.1) 1 b)) s p.2) s) := rfl

end Sys2Proof.Machine

namespace Sys2Proof

open Sys2Proof.Machine Sys2Proof.Claims

/-- Settles O33: every word reaches its places through `barWord`, and acts there by `barStep` or reads the phases there. -/
theorem barrierWordsActOnTheirRecord : Obligations.BarrierWordsActOnTheirRecord := by
  intro gd a b p s g l tc tn off tm hlen v n stays stored
  refine ⟨fun h => ?_, fun h => ⟨fun hn => ?_, fun hn => ?_⟩, fun h hone => ?_, fun h hone => ?_, fun offs => ?_⟩
  · have hexec : exec (.bari gd a) s = execBari gd a s := rfl
    rw [execBari, barWord_one (more := fun _ => none) h rfl] at hexec
    refine ⟨_, hexec, ⟨_, ?_, stored_teamWritten off 8 _ h.wf⟩, mem_writeScr _ _ _ _ _⟩
    show teamAt (writeScr s tc tn off (leBytes 8 (packBar (unpackBar 0)))) tc tn = _
    rw [packBar_unpackBar_zero, teamAt_writeScr h.core, if_pos ⟨rfl, rfl⟩, h.team, Option.map_some]
    rfl
  · have hexec := exec_barx gd a b s
    rw [barWord_one (more := barxLimit b) h (if_neg (by simpa using hn))] at hexec
    obtain ⟨halike, hreleased, tm', htm', -, hst⟩ := barStep_effect (off := off) h.core h.team h.wf (postBar n)
    obtain ⟨hrec, hflip⟩ := postBar_eq n (readLe tm.bytes off 8)
    rw [hrec] at hst
    rw [hflip] at hreleased
    exact ⟨_, hexec, ⟨tm', htm', hst⟩, halike.mem, hreleased⟩
  · have hl : l < 64 := BitVec.lt_of_getLsbD (lowest_mem h.lead)
    have hmask : regIsS a = true ∨ active (.barx gd a b) s g = oneLane l :=
      h.one.symm.imp (fun ⟨r, hr⟩ => hr ▸ rfl) id
    have hexec := exec_barx gd a b s
    rw [barWord_traps (more := barxLimit b) h.once (barLeads_one h) hl hmask h.good (if_pos hn)] at hexec
    rw [traps, hexec, trap_of_curGrp h.once.1.1]
  · have hl : l < 64 := BitVec.lt_of_getLsbD (lowest_mem h.lead)
    have hexec : exec (.barw gd a b) s = execBarw gd a b s := rfl
    rw [execBarw, barWord_one (more := fun _ => none) h rfl] at hexec
    dsimp only at hexec
    rw [barLanes_one hone hl] at hexec
    obtain ⟨g', ht, hg', hlanes⟩ := groupLanes_barw hlen h.once.1.1 h.team [l] (by simpa using hl) (fun _ => off) b
    refine ⟨_, hexec, g', ht, hg', fun j => ?_⟩
    rw [hlanes j]
    by_cases hj : j = l
    · subst hj
      simp only [List.mem_singleton, true_and, and_true]
      rfl
    · simp only [List.mem_singleton, hj, false_and, and_false, if_false]
  · have hl : l < 64 := BitVec.lt_of_getLsbD (lowest_mem h.lead)
    have hexec : exec (.bart gd p a b) s = execBart gd p a b s := rfl
    rw [execBart, barWord_one (more := fun _ => none) h rfl] at hexec
    rw [barLanes_one hone hl, modCur_some _ h.once.1.1] at hexec
    simp only [List.foldl_cons, List.foldl_nil, bart_predicate h.team] at hexec
    exact hexec
  · intro count keeps at_
    refine ⟨fun h => ?_, fun h hn => ?_, fun h => ?_, fun h => ?_⟩
    · have hexec : exec (.bari gd a) s = execBari gd a s := rfl
      rw [execBari, barWord_lanes (more := fun _ => none) h fun _ _ => rfl] at hexec
      simp only [List.foldl_map] at hexec
      obtain ⟨halike, tm', htm', hrec⟩ := foldl_barStep (op := fun _ _ _ => (unpackBar 0, false)) (f := fun _ _ => 0)
        (lanesOf (active (.bari gd a) s g)) (fun j hj => (h.good j ((mem_lanesOf _ j).mp hj)).1)
        (fun _ _ _ _ _ => packBar_unpackBar_zero) h.core s tm (.refl s) h.team h.wf
      refine ⟨_, tm', hexec, halike.mem, htm', fun o ho => ?_⟩
      rw [hrec o ho, foldl_const]
      rfl
    · have hexec := exec_barx gd a b s
      rw [barWord_lanes (more := barxLimit b) h fun j hj => if_neg (by simpa using hn j hj)] at hexec
      simp only [List.foldl_map] at hexec
      obtain ⟨halike, tm', htm', hrec⟩ := foldl_barStep (op := fun u j => postBar (opI (envOf u g j) 1 b))
        (f := fun j v => (posted v (count j)).1)
        (lanesOf (active (.barx gd a b) s g)) (fun j hj => (h.good j ((mem_lanesOf _ j).mp hj)).1)
        (fun u j v hu _ => by rw [hu.envOf, (postBar_eq _ v).1]) h.core s tm (.refl s) h.team h.wf
      exact ⟨_, tm', hexec, halike.mem, htm', hrec⟩
    · obtain ⟨r, rfl⟩ := h.vector
      have hexec : exec (.barw gd (.v r) b) s = execBarw gd (.v r) b s := rfl
      rw [execBarw, barWord_lanes (more := fun _ => none) h fun _ _ => rfl] at hexec
      obtain ⟨g', ht, hg', hlanes⟩ := groupLanes_barw hlen h.once.1.1 h.team (lanesOf (active (.barw gd (.v r) b) s g))
        (fun j hj => BitVec.lt_of_getLsbD ((mem_lanesOf _ j).mp hj)) offs b
      refine ⟨_, hexec, g', ht, hg', fun j => ?_⟩
      rw [hlanes j]
      simp only [mem_lanesOf, keeps, decide_eq_true_eq]
      rfl
    · obtain ⟨r, rfl⟩ := h.vector
      have hexec : exec (.bart gd p (.v r) b) s = execBart gd p (.v r) b s := rfl
      rw [execBart, barWord_lanes (more := fun _ => none) h fun _ _ => rfl] at hexec
      rw [modCur_some _ h.once.1.1] at hexec
      refine ⟨_, hexec, ?_⟩
      simp only [barLanes, regIsS, Bool.false_eq_true, if_false, List.foldl_map, bart_predicate h.team]
      exact groupLanes_foldl hlen _ _

end Sys2Proof

/-! ## The reads and writes of an engine stand aside (R192, R193) -/

namespace Sys2Proof.Machine

open Sys2Proof.Claims

/-! ### Reads -/

section
variable {T : Team → Team} {s : State} {src : Source}

theorem aside_keptLine (s : State) (m : Memory) (ls : List Nat) : Aside T s { s with mem := m, hostCache := ls } :=
  aside_of_cores rfl rfl

theorem aside_keptCopy (s : State) (m : Memory) (ks : List FabricCopy) : Aside T s { s with mem := m, copies := ks } :=
  aside_of_cores rfl rfl

theorem aside_keepLine (s : State) (since pa : Nat) : Aside T s (keepLine s since pa) := by
  unfold keepLine
  split
  · dsimp only
    split
    · exact .refl s
    · exact aside_keptLine _ _ _
  · dsimp only
    split
    · exact .refl s
    · exact aside_keptCopy _ _ _

theorem aside_strayRead (s : State) (shr : Bool) (pa : Nat) : Aside T s (strayRead s shr pa) := by
  unfold strayRead
  split
  · exact aside_of_cores rfl rfl
  · exact .refl s

theorem aside_endRequest (s : State) (o : Outstanding) : Aside T s (endRequest s o) := aside_of_cores rfl rfl

theorem aside_agentRead {pa n : Nat} {r : ReadIn} (h : agentRead s src pa n = .ok r) : Aside T s r.state := by
  unfold agentRead at h
  dsimp only at h
  split at h
  · split at h
    · cases h
    · split at h
      · cases h
        exact .refl s
      · split at h
        · split at h
          · cases h
          · cases h
            exact .refl s
        · next o _ =>
          split at h
          · cases h
            exact aside_endRequest s o
          · split at h
            · cases h
              exact (aside_endRequest s o).trans (aside_foldl (fun _ _ => aside_keepLine _ _ _) _ _)
            · split at h
              · cases h
                exact aside_endRequest s o
              · cases h
                exact aside_endRequest s o
  · split at h
    · cases h
      exact .refl s
    · split at h
      · split at h
        · cases h
          exact .refl s
        · cases h
          exact aside_noteReads _ _ _ _
      · cases h

theorem aside_agentGet {p : Place} {n : Nat} {r : ReadIn} (h : agentGet s src p n = .ok r) : Aside T s r.state := by
  cases p with
  | glob pa => exact aside_agentRead h
  | scr c t off =>
    unfold agentGet at h
    dsimp only at h
    split at h
    · cases h
      exact .refl s
    · split at h
      · split at h
        · cases h
          exact .refl s
        · cases h
      · split at h
        · cases h
          exact .refl s
        · cases h
          exact .refl s

/-- An engine's pieces in order: where all succeed, each stands to the one before it as every piece does. -/
theorem engAcc_foldl {α β : Type} {f : EngAcc α → β → EngAcc α} {R : α → α → Prop} (hrefl : ∀ r, R r r)
    (htrans : ∀ r r' r'', R r r' → R r' r'' → R r r'')
    (hstep : ∀ acc p r', f acc p = .ok r' → ∃ r, acc = .ok r ∧ R r r') (ps : List β) {acc : EngAcc α} {r' : α}
    (h : ps.foldl f acc = .ok r') : ∃ r, acc = .ok r ∧ R r r' := by
  induction ps generalizing acc with
  | nil => exact ⟨r', h, hrefl r'⟩
  | cons p ps ih =>
    obtain ⟨r1, h1, hr1⟩ := ih h
    obtain ⟨r, hr, hrr1⟩ := hstep acc p r1 h1
    exact ⟨r, hr, htrans _ _ _ hrr1 hr1⟩

theorem aside_readPiece {acc : EngAcc ReadIn} {p : Target × Nat × Nat} {r' : ReadIn} (h : readPiece src acc p = .ok r') :
    ∃ r, acc = .ok r ∧ Aside T r.state r'.state := by
  unfold readPiece at h
  split at h
  · next r =>
    refine ⟨r, rfl, ?_⟩
    split at h
    · cases h
    · next q hq =>
      cases h
      dsimp only
      split
      · exact (aside_agentGet hq).trans (aside_strayRead _ _ _)
      · exact aside_agentGet hq
  · next hacc => exact absurd h (hacc r')

theorem aside_engRead {c va n : Nat} {g : Grp} {q : ReadIn} (h : engRead s src c g va n = .ok q) : Aside T s q.state := by
  unfold engRead at h
  split at h
  · cases h
  · obtain ⟨r, hr, haside⟩ := engAcc_foldl (R := fun r r' : ReadIn => Aside T r.state r'.state) (fun r => .refl r.state)
      (fun _ _ _ h h' => h.trans h') (fun _ _ _ h => aside_readPiece h) _ h
    cases hr
    exact haside

/-- The reads of a unit's elements. -/
theorem aside_readParts {c : Nat} {g : Grp} {ps : List (Nat × Nat × Nat × Nat)} {r' : PartsIn}
    (h : readParts s src c g ps = .ok r') : Aside T s r'.state := by
  unfold readParts at h
  obtain ⟨r, hr, haside⟩ := engAcc_foldl (R := fun r r' : PartsIn => Aside T r.state r'.state) (fun r => .refl r.state)
    (fun _ _ _ h h' => h.trans h') (fun acc p r1 h1 => by
      split at h1
      · next r =>
        refine ⟨r, rfl, ?_⟩
        split at h1
        · next q hq =>
          cases h1
          exact aside_engRead hq
        · cases h1
        · cases h1
      · next hacc => exact absurd h1 (hacc r1)) _ h
  cases hr
  exact haside

theorem aside_directWrite {pa : Nat} {bs : List Byte} {s' : State} (h : directWrite s src pa bs = .ok s') : Aside T s s' := by
  unfold directWrite at h
  split at h
  · cases h
    exact .refl s
  · split at h
    · split at h
      · split at h
        · cases h
        · cases h
          exact aside_of_cores rfl rfl
      · split at h
        · cases h
        · cases h
          exact .refl s
    · split at h
      · cases h
        exact aside_noteBadPage _ _
      · dsimp only at h
        split at h
        · split at h
          · cases h
            exact aside_of_cores rfl rfl
          · cases h
        · split at h
          · cases h
            exact aside_performBytes _ _ _ _
          · cases h

end

/-! ### Writes: the allotments keep their form -/

/-- A step beside the shapes of the teams, which leaves every allotment in canonical form. -/
structure Kept (s t : State) : Prop where
  aside : Aside teamShape s t
  wf : ∀ c n tm tm', teamAt s c n = some tm → teamAt t c n = some tm' → Memory.wf tm.bytes = true → Memory.wf tm'.bytes = true

section
variable {s t u : State}

/-- A team after a step beside its shape. -/
theorem Aside.team (h : Aside teamShape s t) {c n : Nat} {tm : Team} (htm : Machine.teamAt s c n = some tm) :
    ∃ tm', Machine.teamAt t c n = some tm' ∧ teamShape tm' = teamShape tm := by
  have hteam := h.teamAt (fun _ => rfl) c n
  rw [htm, Option.map_some] at hteam
  exact Option.map_eq_some_iff.mp hteam

theorem Kept.trans (h : Kept s t) (h' : Kept t u) : Kept s u :=
  ⟨h.aside.trans h'.aside, fun c n tm tm' htm htm' hwf => by
    obtain ⟨tm1, htm1, -⟩ := h.aside.team htm
    exact h'.wf c n tm1 tm' htm1 htm' (h.wf c n tm tm1 htm htm1 hwf)⟩

theorem Kept.of_aside (h : Aside id s t) : Kept s t :=
  ⟨h.weaken, fun c n tm tm' htm htm' hwf => by
    rw [h.teamAt_eq, htm] at htm'
    exact Option.some.inj htm' ▸ hwf⟩

theorem Kept.refl (s : State) : Kept s s := .of_aside (.refl s)

theorem kept_modTeam {f : Team → Team} (hshape : ∀ tm, teamShape (f tm) = teamShape tm)
    (hwf : ∀ tm, Memory.wf tm.bytes = true → Memory.wf (f tm).bytes = true) (s : State) (c t : Nat) :
    Kept s (modTeam s c t f) := by
  have hnum (tm : Team) : (f tm).num = tm.num := by
    have h := congrArg Team.num (hshape tm)
    exact h
  refine ⟨aside_modTeam hshape s c t, fun c' n tm tm' htm htm' h => ?_⟩
  by_cases hc : c < s.cores.length
  · rw [teamAt_modTeam hc hnum] at htm'
    split at htm'
    · next e =>
      rw [e.1, e.2] at htm
      rw [htm, Option.map_some, Option.some.injEq] at htm'
      exact htm' ▸ hwf tm h
    · rw [htm, Option.some.injEq] at htm'
      exact htm' ▸ h
  · have hsame : modTeam s c t f = s := by
      simp only [modTeam, modCore, setCore, List.set_eq_of_length_le (Nat.le_of_not_lt hc)]
    rw [hsame, htm, Option.some.injEq] at htm'
    exact htm' ▸ h

theorem kept_writeScr (s : State) (c t off : Nat) (bs : List Byte) : Kept s (writeScr s c t off bs) :=
  (kept_modTeam (fun tm => teamShape_markDirty off bs.length _ tm) (fun _ h => writeBytes_wf off bs h) s c t).trans
    (.of_aside (aside_writeScr_teams s c t off bs))

theorem kept_failStore (s : State) (c team index : Nat) (grid : Dword) (cause : Nat) :
    Kept s (failStore s c team index grid cause) := by
  refine kept_modTeam (fun tm => ?_) (fun tm h => ?_) s c team
  · split <;> rfl
  · split
    · exact h
    · exact h

theorem kept_recordPut (s0 s : State) (src : Source) (c : Nat) (g : Grp) (p : Place) : Kept s (recordPut s0 s src c g p) := by
  unfold recordPut
  split
  · split
    · exact .refl s
    · exact kept_failStore _ _ _ _ _ _
  · exact .refl s

theorem kept_directPut {src : Source} {p : Place} {bs : List Byte} (h : directPut s src p bs = .ok t) : Kept s t := by
  cases p with
  | glob pa => exact .of_aside (aside_directWrite h)
  | scr c n off =>
    unfold directPut at h
    dsimp only at h
    split at h
    · cases h
      exact .refl s
    · split at h
      · split at h
        · cases h
          exact .of_aside (aside_noteBadPage _ _)
        · cases h
      · cases h
        exact kept_writeScr _ _ _ _ _

theorem kept_writePiece {src : Source} {c : Nat} {g : Grp} {bs : List Byte} {acc : EngAcc State} {p : Target × Nat × Nat}
    (h : writePiece src c g bs acc p = .ok t) : ∃ s, acc = .ok s ∧ Kept s t := by
  unfold writePiece at h
  split at h
  · next s =>
    refine ⟨s, rfl, ?_⟩
    split at h
    · cases h
    · next s1 hs1 =>
      cases h
      exact (kept_directPut hs1).trans (kept_recordPut _ _ _ _ _ _)
  · next hacc => exact absurd h (hacc t)

/-- The bytes of an element written. -/
theorem kept_engWrite {src : Source} {c va : Nat} {g : Grp} {bs : List Byte} (h : engWrite s src c g va bs = .ok t) : Kept s t := by
  unfold engWrite at h
  split at h
  · cases h
  · obtain ⟨s', hs', hkept⟩ := engAcc_foldl (R := Kept) Kept.refl (fun _ _ _ h h' => h.trans h')
      (fun _ _ _ h => kept_writePiece h) _ h
    cases hs'
    exact hkept

/-! ### Apertures -/

/-- What an aperture address asks of a team. -/
theorem teamShape_fields {tm tm' : Team} (h : teamShape tm' = teamShape tm) :
    tm'.num = tm.num ∧ tm'.grid = tm.grid ∧ tm'.cluster = tm.cluster ∧ tm'.place = tm.place ∧ tm'.shared = tm.shared := by
  have hnum := congrArg Team.num h
  have hgrid := congrArg Team.grid h
  have hcluster := congrArg Team.cluster h
  have hplace := congrArg Team.place h
  have hshared := congrArg Team.shared h
  exact ⟨hnum, hgrid, hcluster, hplace, hshared⟩

/-- A place of an aperture depends on the shapes of the teams alone. -/
theorem Aside.aperture (h : Aside teamShape s t) (c : Nat) (g : Grp) (a : Nat) :
    Machine.aperture t c g a = Machine.aperture s c g a := by
  have hteam := h.teamAt (fun _ => rfl) c g.team
  have hfind (pc : Nat) (grid : Dword) (cluster cc : Nat) :
      ((coreAt t pc).teams.find? fun x => x.grid = grid ∧ x.cluster = cluster ∧ x.ccore = cc).map teamShape
        = ((coreAt s pc).teams.find? fun x => x.grid = grid ∧ x.cluster = cluster ∧ x.ccore = cc).map teamShape := by
    have hteams := congrArg Core.teams (h.core pc)
    have hmap : (coreAt t pc).teams.map teamShape = (coreAt s pc).teams.map teamShape := hteams
    have hpull (ts : List Team) : (ts.find? fun x => x.grid = grid ∧ x.cluster = cluster ∧ x.ccore = cc).map teamShape
        = (ts.map teamShape).find? fun x => x.grid = grid ∧ x.cluster = cluster ∧ x.ccore = cc := by
      rw [List.find?_map]
      rfl
    rw [hpull, hpull, hmap]
  unfold Machine.aperture
  cases htm : Machine.teamAt s c g.team with
  | none =>
    rw [htm, Option.map_none, Option.map_eq_none_iff] at hteam
    rw [hteam]
  | some tm =>
    obtain ⟨tm', htm', hshape⟩ := h.team htm
    obtain ⟨hnum, hgrid, hcluster, hplace, hshared⟩ := teamShape_fields hshape
    simp only [htm', hnum, hgrid, hcluster, hplace, hshared]
    split
    · rfl
    · cases tm.place[(a - peerAperture) / 2 ^ 24]? with
      | none => rfl
      | some pc =>
        specialize hfind pc tm.grid tm.cluster ((a - peerAperture) / 2 ^ 24)
        dsimp only
        cases hs : (coreAt s pc).teams.find? fun x =>
            x.grid = tm.grid ∧ x.cluster = tm.cluster ∧ x.ccore = (a - peerAperture) / 2 ^ 24 with
        | none =>
          rw [hs, Option.map_none, Option.map_eq_none_iff] at hfind
          rw [hfind]
        | some t =>
          rw [hs, Option.map_some] at hfind
          obtain ⟨t', ht', hpeer⟩ := Option.map_eq_some_iff.mp hfind
          obtain ⟨hnum, -, -, -, hshared⟩ := teamShape_fields hpeer
          simp only [ht', hnum, hshared]

end

/-! ## Copies at issue (R190 to R192) -/

theorem crsExtent_eq (c : Course) (d : Nat) :
    crsExtent c d = (c.dims.getD d { bcast := false, sstride := 0, dstride := 0, extent := 1 }).extent := by
  rw [crsExtent, List.getD_eq_getElem?_getD]
  cases c.dims[d]? <;> rfl

section
variable {i : Instr} {gd : Guard} {a b : SReg} {s s1 s2 s3 : State} {g : Grp} {l : Nat} {hd ds ls : List Byte}

/-- A course record that breaks a limit. -/
theorem copyWord_course {idx : Option SReg} (h : RunsOnce i s g) (hlow : lowest (active i s g) = some l)
    (hhead : snapRead g l 16 16 3 (getS g a.val 2) s = .ok hd s1)
    (hdims : snapRead g l 16 16 (fieldAt hd 40 4 % 16) (getS g a.val 2 + 48) s1 = .ok ds s2) (hg : curGrp s2 = some g)
    (hcur : s2.cur = s.cur) (hbad : courseOk s2 g (hd ++ ds) (decodeCourse (hd ++ ds)) idx.isSome = false) :
    copyWord i a idx s = .next (takeTrap s2 s.cur.core s.cur.slot
      (mkRec g s.cur.slot (active i s g) (curPc s2) (getS g a.val 2) 0 0x10 0)) := by
  have hexec : copyWord i a idx s = .next _ := onceWord_of_lead h hlow _
  dsimp only at hexec
  rw [hhead] at hexec
  dsimp only at hexec
  rw [hdims] at hexec
  dsimp only at hexec
  rw [hbad, trap_of_curGrp hg, hcur] at hexec
  exact hexec

/-- A panel whose bytes are all backed, or a course to linear bytes. -/
theorem panel_fits {c : Course} (h : crsTarget c = 1 → panelMiss s g c = none) :
    (if crsTarget c = 1 then panelMiss s g c else none) = none := by
  split
  · next hc => exact h hc
  · rfl

theorem exec_cpy (h : RunsOnce (.cpy gd a) s g) (hlow : lowest (active (.cpy gd a) s g) = some l)
    (hhead : snapRead g l 16 16 3 (getS g a.val 2) s = .ok hd s1)
    (hdims : snapRead g l 16 16 (fieldAt hd 40 4 % 16) (getS g a.val 2 + 48) s1 = .ok ds s2)
    (hok : courseOk s2 g (hd ++ ds) (decodeCourse (hd ++ ds)) false = true)
    (hfit : crsTarget (decodeCourse (hd ++ ds)) = 1 → panelMiss s2 g (decodeCourse (hd ++ ds)) = none) :
    exec (.cpy gd a) s = .next (finishWord (withJob s2
      (newJob s2 g (.cpy gd a) (.cpy (getS g a.val 2) 0 (decodeCourse (hd ++ ds)) none)))) := by
  have hexec : exec (.cpy gd a) s = .next _ := onceWord_of_lead h hlow _
  dsimp only at hexec
  rw [hhead] at hexec
  dsimp only at hexec
  rw [hdims] at hexec
  dsimp only at hexec
  rw [if_neg (by rw [Option.isSome_none, hok]; decide), panel_fits hfit] at hexec
  exact hexec

theorem exec_cpyg (h : RunsOnce (.cpyg gd a b) s g) (hlow : lowest (active (.cpyg gd a b) s g) = some l)
    (hhead : snapRead g l 16 16 3 (getS g a.val 2) s = .ok hd s1)
    (hdims : snapRead g l 16 16 (fieldAt hd 40 4 % 16) (getS g a.val 2 + 48) s1 = .ok ds s2)
    (hok : courseOk s2 g (hd ++ ds) (decodeCourse (hd ++ ds)) true = true)
    (hlist : indexList g l (crsExtent (decodeCourse (hd ++ ds)) (fieldAt hd 40 4 % 16 - 1)) (getS g b.val 2) s2 = .ok ls s3)
    (hfit : crsTarget (decodeCourse (hd ++ ds)) = 1 → panelMiss s3 g (decodeCourse (hd ++ ds)) = none) :
    exec (.cpyg gd a b) s = .next (finishWord (withJob s3
      (newJob s3 g (.cpyg gd a b) (.cpy (getS g a.val 2) (getS g b.val 2) (decodeCourse (hd ++ ds))
        (some ((List.range (crsExtent (decodeCourse (hd ++ ds)) (fieldAt hd 40 4 % 16 - 1))).map fun k => fieldAt ls (4 * k) 4)))))) := by
  have hexec : exec (.cpyg gd a b) s = .next _ := onceWord_of_lead h hlow _
  dsimp only at hexec
  rw [hhead] at hexec
  dsimp only at hexec
  rw [hdims] at hexec
  dsimp only at hexec
  rw [if_neg (by rw [Option.isSome_some, hok]; decide), hlist] at hexec
  dsimp only at hexec
  rw [panel_fits hfit] at hexec
  exact hexec

end

/-! ## The units of a copy (R193) -/

/-- The jobs of a core once the next unit of a copy is done, none being done early. -/
def copiedJobs (j : Job) (total : Nat) (js : List Job) : List Job :=
  if total ≤ j.next + 1 then js.filter (·.id ≠ j.id)
  else js.map fun y => if y.id = j.id then { y with next := j.next + 1, extra := [] } else y

section
variable {s s1 : State} {c t off : Nat} {j : Job} {course : Course} {ix : Option (List Nat)} {g : Grp} {r0 : PartsIn}

/-- The translations that a unit's accesses leave behind. -/
def notedUnit (s : State) (c : Nat) (g : Grp) (u : CopyUnit) : State :=
  u.parts.foldl (fun s p => noteAccess s c g p.1 .load) (noteAccess s c g u.dst .store)

theorem aside_notedUnit (s : State) (c : Nat) (g : Grp) (u : CopyUnit) : Aside id s (notedUnit s c g u) :=
  (aside_noteAccess _ _ _ _ _).trans (aside_foldl (fun _ _ => aside_noteAccess _ _ _ _ _) _ _)

/-- The state in which the next unit of a copy has been counted. -/
def counted (s : State) (c : Nat) (j : Job) (total : Nat) : State :=
  modCore s c fun x => { x with jobs := copiedJobs j total x.jobs }

theorem copyDone_next {p : Place} {n : Nat} (hextra : j.extra = [])
    (hbar : aperture (counted s c j (copyUnits course)) c g course.bar = some p) :
    copyDone s c g j course j.next n = barStep (arriveBar n) (counted s c j (copyUnits course)) p := by
  simp only [counted, copiedJobs] at hbar ⊢
  simp only [copyDone, if_true, hextra, List.foldl_nil, hbar]

/-- The next unit of a copy, where its reads and its write succeed. -/
theorem evCopyWrite_next {rec_ ls : Nat} {tm : Team} (hjob : (coreAt s c).jobs.find? (fun y => decide (y.id = j.id)) = some j)
    (hkind : j.kind = .cpy rec_ ls course ix) (hpaused : j.paused = false) (hextra : j.extra = [])
    (hunits : j.next < copyUnits course) (hg : grpAt s c j.slot = some g) (hfrozen : g.frozen = false)
    (hbar : aperture s c g course.bar = some (.scr c t off)) (hpad : Pad s c t off tm)
    (hread : readParts s (.turn (.copyWrite c j.id j.next) 0) c g (unitOf course ix j.next).parts = .ok r0) (hbad : r0.bad = none)
    (hwrite : engWrite r0.state (.turn (.copyWrite c j.id j.next) 0) c g (unitOf course ix j.next).dst
      (leBytes (unitOf course ix j.next).bytes (unitValue (unitOf course ix j.next) r0.vals)) = .ok s1) :
    evCopyWrite c j.id j.next s = some (copyDone (notedUnit s1 c g (unitOf course ix j.next)) c g j course j.next
      (unitOf course ix j.next).bytes) := by
  have hgo : (j.paused || g.frozen || decide (j.next < j.next) || decide (j.next + earlyUnits < j.next)
      || decide (copyUnits course ≤ j.next) || j.extra.contains j.next) = false := by
    simp [hpaused, hfrozen, hextra, hunits]
  simp only [evCopyWrite, hjob, hkind, hg, hgo, hbar, Option.getD_some, touchFor_backed hpad.team hpad.backed, Bool.not_true,
    Bool.false_eq_true, if_false, hread, hwrite, hbad]
  rfl

theorem aperture_modCore {f : Core → Core} (hf : ∀ x, (f x).teams = x.teams) (s : State) (c c' : Nat) (g : Grp) (a : Nat) :
    aperture (modCore s c f) c' g a = aperture s c' g a := by
  simp only [aperture, teamAt_modCore hf, modCore_keeps Core.teams hf]

/-- An operation on a barrier leaves the copy engine's jobs. -/
theorem jobs_barStep (f : ByteBar → ByteBar × Bool) (s : State) (c t off c' : Nat) :
    (coreAt (barStep f s (.scr c t off)) c').jobs = (coreAt s c').jobs := by
  have hwrite (bs : List Byte) : (coreAt (writeScr s c t off bs) c').jobs = (coreAt s c').jobs :=
    (aside_writeScr s c t off bs).jobs c'
  unfold barStep
  dsimp only
  split
  · rw [coreAt_mapCores (t := wakeBar _ _) rfl]
    split
    · exact hwrite _
    · exact hwrite _
  · exact hwrite _

/-- What the end of a unit leaves of the state in which its bytes have been written. -/
theorem copyDone_effect {u : State} {n : Nat} {tm : Team} (hkept : Kept s u) (hc : c < s.cores.length)
    (hextra : j.extra = []) (hbar : aperture s c g course.bar = some (.scr c t off)) (hteam : teamAt s c t = some tm)
    (hwf : Memory.wf tm.bytes = true) :
    ∃ tm1 tm', teamAt u c t = some tm1 ∧ teamAt (copyDone u c g j course j.next n) c t = some tm'
      ∧ Stored tm1.bytes tm'.bytes off 8 (arrivedAt (recordAt tm1 off) n).1.toNat
      ∧ (coreAt (copyDone u c g j course j.next n) c).jobs = copiedJobs j (copyUnits course) (coreAt s c).jobs := by
  have hcu : c < u.cores.length := hkept.aside.length.symm ▸ hc
  have hteams (c' n' : Nat) : teamAt (counted u c j (copyUnits course)) c' n' = teamAt u c' n' :=
    teamAt_modCore (f := fun x => { x with jobs := copiedJobs j (copyUnits course) x.jobs }) (fun _ => rfl) c c' n'
  obtain ⟨tm1, htm1, -⟩ := hkept.aside.team hteam
  have hwf1 := hkept.wf c t tm tm1 hteam htm1 hwf
  have hcounted : aperture (counted u c j (copyUnits course)) c g course.bar = some (.scr c t off) := by
    rw [counted, aperture_modCore (f := fun x => { x with jobs := copiedJobs j (copyUnits course) x.jobs }) fun _ => rfl,
      hkept.aside.aperture, hbar]
  obtain ⟨-, -, tm', htm', -, hstored⟩ := barStep_effect (off := off) (by rwa [counted, length_cores_modCore])
    ((hteams c t).trans htm1) hwf1 (arriveBar n)
  rw [copyDone_next hextra hcounted]
  refine ⟨tm1, tm', htm1, htm', ?_, ?_⟩
  · rw [arriveBar_eq] at hstored
    exact hstored
  · rw [jobs_barStep, counted, coreAt_modCore_same _ hcu, hkept.aside.jobs]

end

end Sys2Proof.Machine

namespace Sys2Proof

open Sys2Proof.Machine Sys2Proof.Claims

/-- Settles O36: the two words at issue; a unit's reads and writes keep jobs, apertures and allotments, and its bytes then
arrive at the record. -/
theorem copiesRunUnitByUnit : Obligations.CopiesRunUnitByUnit := by
  constructor
  · intro gd a b s s1 s2 s3 g l hd ds ls rec_ course dims n hlow hhead hdims hg hcur
    refine ⟨fun hrun => ⟨fun hok hfit => exec_cpy hrun hlow hhead hdims hok hfit,
        fun hbad => copyWord_course (idx := none) hrun hlow hhead hdims hg hcur hbad⟩,
      fun hrun hbad => copyWord_course (idx := some b) hrun hlow hhead hdims hg hcur hbad,
      fun hrun hok _ hlist _ _ hfit => ?_⟩
    have hn : n = crsExtent course (dims - 1) := (crsExtent_eq _ _).symm
    rw [hn] at hlist ⊢
    exact exec_cpyg hrun hlow hhead hdims hok hlist hfit
  · intro s s1 c j rec_ ls course ix g r0 t off tm u src hjob hkind hpaused hextra hunits hg hfrozen hbar hpad hread hbad hwrite
    have hev := evCopyWrite_next hjob hkind hpaused hextra hunits hg hfrozen hbar hpad hread hbad hwrite
    have hexec : exec (.copyWrite c j.id j.next) s = stepOr s ((evCopyWrite c j.id j.next s).map (retireDone c)) := rfl
    rw [hev, Option.map_some, stepOr, Option.getD_some] at hexec
    have hnoted := aside_notedUnit s1 c g u
    have hkept := ((Kept.of_aside (aside_readParts hread)).trans (kept_engWrite hwrite)).trans (.of_aside hnoted)
    obtain ⟨tm1, tm', htm1, htm', hstored, hjobs⟩ := copyDone_effect (n := u.bytes) hkept hpad.core hextra hbar hpad.team hpad.wf
    refine ⟨_, tm1, tm', hexec, hnoted.teamAt_eq c t ▸ htm1, htm', hstored, fun hlast => ?_, fun hmore => ?_⟩
    · rw [hjobs, copiedJobs, if_pos (by omega)]
      exact find?_filter_ne j.id _
    · rw [hjobs, copiedJobs, if_neg (by omega), find?_map_job (f := fun y => { y with next := j.next + 1, extra := [] })
        (fun _ => rfl) hjob, hextra.symm]

end Sys2Proof

/-! ## Windows emptied and cleaned (R182, R185) -/

namespace Sys2Proof.Machine

open Sys2Proof.Claims

/-! ### A block lies in one region -/

/-- Two addresses of one block lie on the same side of every multiple of 512. -/
theorem lt_block {p q : Nat} (h : p / 512 = q / 512) (n : Nat) : p < n * 512 ↔ q < n * 512 := by
  rw [← Nat.div_lt_iff_lt_mul (by decide), h, Nat.div_lt_iff_lt_mul (by decide)]

theorem le_block {p q : Nat} (h : p / 512 = q / 512) (n : Nat) : n * 512 ≤ p ↔ n * 512 ≤ q := by
  rw [← Nat.not_lt, lt_block h, Nat.not_lt]

/-- An address of a host's interrupt page. -/
theorem regionOf_irq {p : Nat} (h : 0xF0000000000 ≤ p ∧ p < 0xF0000000000 + 4096 * 64) :
    regionOf p = .irq ((p - 0xF0000000000) / 4096) ((p - 0xF0000000000) % 4096) := by
  have hbelow : ¬p < 0x6000000000 ∧ ¬p < 0x8000000000 ∧ ¬p < 0x10000000000 ∧ ¬p < 0x50000000000
      ∧ ¬(0x80000000000 ≤ p ∧ p < 0xC0000000000) := by omega
  obtain ⟨hhbm, hhole, hlpddr, hhost, hdev⟩ := hbelow
  rw [regionOf, if_neg hhbm, if_neg hhole, if_neg hlpddr, if_neg hhost, if_neg hdev, if_pos h]

/-- The addresses of a block of 512 bytes are of one region, or of one host's interrupt page. -/
theorem regionOf_block {p q : Nat} (h : p / 512 = q / 512) :
    regionOf p = regionOf q ∨ ∃ k o o', regionOf p = .irq k o ∧ regionOf q = .irq k o' := by
  have hend : (p - 0x1000000000000) / 2 ^ 44 = (q - 0x1000000000000) / 2 ^ 44 := by
    rw [show 0x1000000000000 = 2 ^ 44 * 16 by norm_num, Nat.sub_mul_div, Nat.sub_mul_div, show p / 2 ^ 44 = q / 2 ^ 44 by omega]
  have hport : p / 2 ^ 40 = q / 2 ^ 40 := by omega
  have hpage : (p - 0xF0000000000) / 4096 = (q - 0xF0000000000) / 4096 := by
    rw [show 0xF0000000000 = 4096 * 0xF0000000 by norm_num, Nat.sub_mul_div, Nat.sub_mul_div, show p / 4096 = q / 4096 by omega]
  have hhbm : p < 0x6000000000 ↔ q < 0x6000000000 := lt_block h 0x30000000
  have hhole : p < 0x8000000000 ↔ q < 0x8000000000 := lt_block h 0x40000000
  have hlpddr : p < 0x10000000000 ↔ q < 0x10000000000 := lt_block h 0x80000000
  have hhost : p < 0x50000000000 ↔ q < 0x50000000000 := lt_block h 0x280000000
  have hdev : (0x80000000000 ≤ p ∧ p < 0xC0000000000) ↔ (0x80000000000 ≤ q ∧ q < 0xC0000000000) :=
    and_congr (le_block h 0x400000000) (lt_block h 0x600000000)
  have hirq : (0xF0000000000 ≤ p ∧ p < 0xF0000000000 + 4096 * 64) ↔ (0xF0000000000 ≤ q ∧ q < 0xF0000000000 + 4096 * 64) :=
    and_congr (le_block h 0x780000000) (lt_block h 0x780000200)
  have hfabric : (0x1000000000000 ≤ p ∧ p < 0x1000000000000 + 1024 * 2 ^ 44)
      ↔ (0x1000000000000 ≤ q ∧ q < 0x1000000000000 + 1024 * 2 ^ 44) :=
    and_congr (le_block h 0x8000000000) (lt_block h 0x208000000000)
  by_cases hq : 0xF0000000000 ≤ q ∧ q < 0xF0000000000 + 4096 * 64
  · have hp := regionOf_irq (hirq.mpr hq)
    rw [hpage] at hp
    exact .inr ⟨_, _, _, hp, regionOf_irq hq⟩
  · exact .inl (by simp only [regionOf, hhbm, hhole, hlpddr, hhost, hdev, hirq, if_neg hq, hfabric, hport, hend])

theorem viaWindow_block {p q : Nat} (h : p / 512 = q / 512) (s : State) : viaWindow s p = viaWindow s q := by
  unfold viaWindow
  obtain hsame | ⟨k, o, o', hp, hq⟩ := regionOf_block h
  · rw [hsame]
  · rw [hp, hq]

theorem homeSlice_block {p q : Nat} (h : p / 512 = q / 512) : homeSlice p = homeSlice q := by
  have hhbm : p / 2 ^ 9 = q / 2 ^ 9 := h
  have hlpddr : (p - 0x8000000000) / 2 ^ 9 = (q - 0x8000000000) / 2 ^ 9 := by omega
  have hfabric (e : Nat) : (p - 0x1000000000000 - e * 2 ^ 44) / 2 ^ 9 = (q - 0x1000000000000 - e * 2 ^ 44) / 2 ^ 9 := by omega
  have hother : p % 2 ^ 40 / 2 ^ 9 = q % 2 ^ 40 / 2 ^ 9 := by omega
  unfold homeSlice
  obtain hsame | ⟨k, o, o', hp, hq⟩ := regionOf_block h
  · simp only [hsame, hbmStack, hhbm, hlpddr, hfabric, hother]
  · simp only [hp, hq, hother]

theorem backed_block {p q : Nat} (h : p / 512 = q / 512) (s : State) : backed s p = backed s q := by
  have hhbm : p / 2 ^ 9 = q / 2 ^ 9 := h
  have hpage : p / 4096 = q / 4096 := by omega
  unfold backed lostAddr
  obtain hsame | ⟨k, o, o', hp, hq⟩ := regionOf_block h
  · simp only [hsame, homeSlice_block h, hbmStack, hhbm, hpage]
  · simp only [hp, hq, hpage]

/-! ### What emptying a window keeps -/

/-- A team beside its failure words. -/
def unfailed (tm : Team) : Team := { tm with fails := [] }

/-- A team beside its failure words and what its window slots hold. -/
def unwindowed (tm : Team) : Team := { tm with fails := [], wins := tm.wins.map fun _ => none }

/-- The addresses, the turn and the teams beside their windows and failure words. -/
structure Emptied (s t : State) : Prop where
  fixed : fixedPart t = fixedPart s
  length : t.cores.length = s.cores.length
  team : ∀ c n, (teamAt t c n).map unwindowed = (teamAt s c n).map unwindowed

section
variable {T : Team → Team} {s t u : State}

theorem Emptied.refl (s : State) : Emptied s s := ⟨rfl, rfl, fun _ _ => rfl⟩

theorem Emptied.trans (h : Emptied s t) (h' : Emptied t u) : Emptied s u :=
  ⟨h'.fixed.trans h.fixed, h'.length.trans h.length, fun c n => (h'.team c n).trans (h.team c n)⟩

theorem emptied_of_aside (h : Aside unwindowed s t) : Emptied s t := ⟨h.fixed, h.length, h.teamAt fun _ => rfl⟩

theorem emptied_foldl {α : Type} {f : State → α → State} (h : ∀ s x, Emptied s (f s x)) (s : State) (xs : List α) :
    Emptied s (xs.foldl f s) := by
  induction xs generalizing s with
  | nil => exact .refl s
  | cons x xs ih => exact (h s x).trans (ih _)

theorem Emptied.teamAt (h : Emptied s t) {c n : Nat} {tm : Team} (htm : Machine.teamAt s c n = some tm) :
    ∃ tm', Machine.teamAt t c n = some tm' ∧ tm'.bytes = tm.bytes ∧ tm'.wins.length = tm.wins.length := by
  have hteam := h.team c n
  rw [htm, Option.map_some] at hteam
  obtain ⟨tm', htm', hsame⟩ := Option.map_eq_some_iff.mp hteam
  have hbytes := congrArg Team.bytes hsame
  have hwins := congrArg (List.length ∘ Team.wins) hsame
  simp only [Function.comp_apply, unwindowed, List.length_map] at hwins
  exact ⟨tm', htm', hbytes, hwins⟩

theorem aside_pushOut (s : State) (c : Nat) (a : Acc) : Aside T s (modCore s c fun x => { x with outb := x.outb ++ [a] }) :=
  aside_modCore (f := fun x => { x with outb := x.outb ++ [a] }) (fun _ => rfl) s c

theorem aside_nextId (s : State) (n : Nat) : Aside T s { s with nextId := n } := aside_of_cores rfl rfl

theorem aside_backThrough (s : State) (c pa : Nat) (a : Acc) (bs : List Byte) : Aside T s (backThrough s c pa a bs) := by
  unfold backThrough
  dsimp only
  split
  · exact (aside_keptLine s (writeBytes s.mem pa bs) s.hostCache).trans ((aside_nextId _ _).trans (aside_pushOut _ _ _))
  · exact (aside_nextId s _).trans (aside_pushOut _ _ _)

theorem aside_backSector (hT : ∀ tm fs, T { tm with fails := fs } = T tm) (s : State) (c t pa : Nat) (who : Option Acc)
    (bs : List Byte) : Aside T s (backSector s c t pa who bs) := by
  unfold backSector
  split
  · exact aside_backThrough _ _ _ _ _
  · split
    · exact (aside_setBytes _ _ _).trans (aside_wroteHomes _ _ _)
    · split
      · exact aside_performBytes _ _ _ _
      · exact (aside_noteBadPage _ _).trans (aside_failStore hT _ _ _ _ _ _)

theorem aside_writeBack (hT : ∀ tm fs, T { tm with fails := fs } = T tm) (s : State) (c t lo pa : Nat) (d : BitVec 16)
    (who : Option Acc) : Aside T s (writeBack s c t lo pa d who) :=
  aside_foldl (fun _ _ => aside_backSector hT _ _ _ _ _ _) _ _

/-- Setting a block leaves a team beside its windows. -/
theorem unwindowed_setBlock (w b : Nat) (v : Block) (tm : Team) : unwindowed { tm with
      wins := modAt (fun ow => ow.map fun wn => { wn with blocks := wn.blocks.set b v }) w tm.wins } = unwindowed tm := by
  simp only [unwindowed, List.map_const', length_modAt]

theorem emptied_setBlock (s : State) (c t w b : Nat) (v : Block) : Emptied s (setBlock s c t w b v) :=
  emptied_of_aside (aside_modTeam (unwindowed_setBlock w b v) s c t)

theorem emptied_modCore {f : Core → Core} (hf : ∀ x, (f x).teams = x.teams) (s : State) (c : Nat) : Emptied s (modCore s c f) :=
  ⟨rfl, length_cores_modCore .., fun c' n => by rw [teamAt_modCore hf]⟩

theorem emptied_rewatch (s : State) (c pa : Nat) : Emptied s (rewatch s c pa) := by
  unfold rewatch
  exact emptied_modCore (by exact fun _ => rfl) s c

theorem emptied_leaveBlock (s : State) (c t w b pa : Nat) : Emptied s (leaveBlock s c t w b pa) :=
  ((emptied_rewatch s c pa).trans (emptied_of_aside (aside_foldl (fun _ _ => aside_putHome _ _) _ _))).trans
    (emptied_setBlock _ _ _ _ _ _)

theorem mem_leaveBlock (s : State) (c t w b pa : Nat) : (leaveBlock s c t w b pa).mem = s.mem :=
  foldl_keeps State.mem (f := fun s a => putHome s { homeOf s a _ with owner := _, asked := false }) (fun _ _ => rfl)
    (rewatch s c pa) _

/-! ### One block of a sweep -/

/-- What a sweep of a window does with a block. -/
def sweepBlock (c t w off : Nat) (back keep : Bool) (who : Option Acc) (s : State) (ib : Nat × Block) : State :=
  match ib.2 with
  | .invalid => s
  | .valid pa d =>
    let s1 := if back then writeBack s c t (off + 512 * ib.1) pa d who else s
    if keep then setBlock s1 c t w ib.1 (.valid pa 0)
    else leaveBlock s1 c t w ib.1 pa

theorem sweepWindow_some {c t w : Nat} {wn : Window} (h : windowOf s c t w = some wn) (back keep : Bool) (who : Option Acc) :
    sweepWindow s c t w back keep who = (mapFrom Prod.mk 0 wn.blocks).foldl (sweepBlock c t w wn.off back keep who) s := by
  simp only [sweepWindow, h]
  rfl

theorem sweepWindow_none {c t w : Nat} (h : windowOf s c t w = none) (back keep : Bool) (who : Option Acc) :
    sweepWindow s c t w back keep who = s := by
  simp only [sweepWindow, h]

theorem emptied_writeBack (s : State) (c t lo pa : Nat) (d : BitVec 16) (who : Option Acc) :
    Emptied s (writeBack s c t lo pa d who) :=
  emptied_of_aside (aside_writeBack (fun _ _ => rfl) _ _ _ _ _ _ _)

theorem emptied_sweepBlock (c t w off : Nat) (back keep : Bool) (who : Option Acc) (s : State) (ib : Nat × Block) :
    Emptied s (sweepBlock c t w off back keep who s ib) := by
  obtain ⟨i, b⟩ := ib
  cases b with
  | invalid => exact .refl s
  | valid pa d =>
    have hback : Emptied s (if back then writeBack s c t (off + 512 * i) pa d who else s) := by
      split
      · exact emptied_writeBack _ _ _ _ _ _ _
      · exact .refl s
    cases keep with
    | true => exact hback.trans (emptied_setBlock _ _ _ _ _ _)
    | false => exact hback.trans (emptied_leaveBlock _ _ _ _ _ _)

theorem emptied_sweepWindow (s : State) (c t w : Nat) (back keep : Bool) (who : Option Acc) :
    Emptied s (sweepWindow s c t w back keep who) := by
  cases h : windowOf s c t w with
  | none =>
    rw [sweepWindow_none h]
    exact .refl s
  | some wn =>
    rw [sweepWindow_some h]
    exact emptied_foldl (emptied_sweepBlock c t w wn.off back keep who) _ _

/-- A sweep that writes nothing back leaves memory. -/
theorem mem_sweepWindow_drop (s : State) (c t w : Nat) (who : Option Acc) : (sweepWindow s c t w false false who).mem = s.mem := by
  cases h : windowOf s c t w with
  | none => rw [sweepWindow_none h]
  | some wn =>
    rw [sweepWindow_some h]
    refine foldl_keeps State.mem (fun s ib => ?_) _ _
    obtain ⟨i, b⟩ := ib
    cases b with
    | invalid => rfl
    | valid pa d => exact mem_leaveBlock _ _ _ _ _ _

end

/-! ### Bytes sent back -/

/-- Between two states that emptying keeps alike, bytes of an allotment have gone to memory: `D q o` where the byte at `o`
goes to address `q`. -/
structure SentBack (bytes : Memory) (D : Nat → Nat → Prop) (s t : State) : Prop where
  kept : Emptied s t
  wf : Memory.wf t.mem = true
  given : ∀ q o, D q o → viaWindow s q = false → backed s q = true → sget t.mem q = sget bytes o
  rest : ∀ q, (∀ o, ¬D q o) → sget t.mem q = sget s.mem q

section
variable {bytes : Memory} {D D' : Nat → Nat → Prop} {s t u : State}

theorem sentBack_of_mem (h : Emptied s t) (hmem : t.mem = s.mem) (hwf : Memory.wf s.mem = true) (hD : ∀ q o, ¬D q o) :
    SentBack bytes D s t :=
  ⟨h, hmem.symm ▸ hwf, fun q o hqo => absurd hqo (hD q o), fun q _ => by rw [hmem]⟩

theorem SentBack.then_keep (h : SentBack bytes D s t) (hkept : Emptied t u) (hmem : u.mem = t.mem) : SentBack bytes D s u :=
  ⟨h.kept.trans hkept, hmem.symm ▸ h.wf, fun q o hD hvia hback => hmem.symm ▸ h.given q o hD hvia hback,
    fun q hD => hmem.symm ▸ h.rest q hD⟩

theorem SentBack.congr (h : SentBack bytes D s t) (hD : ∀ q o, D q o ↔ D' q o) : SentBack bytes D' s t := by
  have hsame : D = D' := funext fun q => funext fun o => propext (hD q o)
  exact hsame ▸ h

theorem SentBack.trans (h : SentBack bytes D s t) (h' : SentBack bytes D' t u)
    (hagree : ∀ q o o', D q o ∨ D' q o → D' q o' → o = o') :
    SentBack bytes (fun q o => D q o ∨ D' q o) s u := by
  refine ⟨h.kept.trans h'.kept, h'.wf, fun q o hqo hvia hback => ?_, fun q hq => ?_⟩
  · have hvia' : viaWindow t q = false := (viaWindow_of_fixed h.kept.fixed q).trans hvia
    have hback' : backed t q = true := (backed_of_fixed h.kept.fixed q).trans hback
    by_cases hlater : ∃ o', D' q o'
    · obtain ⟨o', ho'⟩ := hlater
      rw [h'.given q o' ho' hvia' hback', hagree q o o' hqo ho']
    · have hfirst : D q o := hqo.resolve_right fun hD' => hlater ⟨o, hD'⟩
      rw [h'.rest q fun o' ho' => hlater ⟨o', ho'⟩, h.given q o hfirst hvia hback]
  · rw [h'.rest q fun o ho => hq o (.inr ho), h.rest q fun o ho => hq o (.inl ho)]

/-- A list of steps, of which no two give one address two bytes. -/
theorem sentBack_foldl {α : Type} {D : α → Nat → Nat → Prop} {f : State → α → State} (xs : List α) {s : State}
    (hstep : ∀ x ∈ xs, ∀ u, Emptied s u → Memory.wf u.mem = true → SentBack bytes (D x) u (f u x))
    (hagree : ∀ x ∈ xs, ∀ y ∈ xs, ∀ q o o', D x q o → D y q o' → o = o') (hwf : Memory.wf s.mem = true) :
    SentBack bytes (fun q o => ∃ x ∈ xs, D x q o) s (xs.foldl f s) := by
  induction xs generalizing s with
  | nil => exact sentBack_of_mem (.refl s) rfl hwf fun q o => by simp
  | cons x xs ih =>
    have hfirst := hstep x List.mem_cons_self s (.refl s) hwf
    have hrest := ih (fun y hy u hu => hstep y (List.mem_cons_of_mem _ hy) u (hfirst.kept.trans hu))
      (fun y hy z hz => hagree y (List.mem_cons_of_mem _ hy) z (List.mem_cons_of_mem _ hz)) hfirst.wf
    refine (hfirst.trans hrest fun q o o' hqo hqo' => ?_).congr fun q o => by simp
    obtain ⟨z, hz, hDz⟩ := hqo'
    obtain hx | ⟨y, hy, hDy⟩ := hqo
    · exact hagree x List.mem_cons_self z (List.mem_cons_of_mem _ hz) q o o' hx hDz
    · exact hagree y (List.mem_cons_of_mem _ hy) z (List.mem_cons_of_mem _ hz) q o o' hDy hDz

/-! ### Sectors and blocks -/

/-- Sector `k` of a block at `pa` whose bytes lie from `lo` on. -/
def sectorAt (lo pa k q o : Nat) : Prop := pa + 32 * k ≤ q ∧ q < pa + 32 * k + 32 ∧ o = lo + (q - pa)

theorem mem_failStore (s : State) (c team index : Nat) (grid : Dword) (cause : Nat) :
    (failStore s c team index grid cause).mem = s.mem := rfl

theorem mem_faultEntry (s : State) (pa kind source count : Nat) : (faultEntry s pa kind source count).mem = s.mem := by
  unfold faultEntry
  dsimp only
  split
  · rfl
  · split
    · rfl
    · rfl

theorem mem_faultQueue (s : State) (pa kind source : Nat) : (faultQueue s pa kind source).mem = s.mem := by
  have hrows : (if kind = 1 then addRow (addRow s pa false) pa true else if kind = 2 then addRow s pa false else s).mem = s.mem := by
    split
    · rfl
    · split
      · rfl
      · rfl
  unfold faultQueue
  dsimp only
  generalize (if kind = 1 then addRow (addRow s pa false) pa true else if kind = 2 then addRow s pa false else s) = s1 at hrows ⊢
  split
  · rw [mem_faultEntry, mem_faultEntry, hrows]
  · rw [mem_faultEntry, hrows]

theorem mem_noteBadPage (s : State) (pa : Nat) : (noteBadPage s pa).mem = s.mem := by
  unfold noteBadPage
  split
  · exact mem_faultQueue _ _ _ _
  · rfl

/-- Whether a sector that a word writes back arrives: always where memory is backed and no window holds it. -/
theorem mem_backSector (s : State) (c t pa : Nat) (a : Acc) (bs : List Byte) : ∃ arrives : Bool,
    (backSector s c t pa (some a) bs).mem = (if arrives then writeBytes s.mem pa bs else s.mem)
      ∧ (viaWindow s pa = false → backed s pa = true → arrives = true) := by
  unfold backSector
  split
  · next hvia =>
    refine ⟨cachedHere s pa bs.length, ?_, fun h => absurd h (by simp [hvia])⟩
    unfold backThrough
    dsimp only
    split
    · rfl
    · rfl
  · dsimp only
    split
    · exact ⟨true, mem_performBytes _ _ _ _, fun _ _ => rfl⟩
    · next hback => exact ⟨false, mem_noteBadPage _ _, fun _ h => absurd h hback⟩

/-- A sector that a word writes back. -/
theorem backSector_sent {c t lo pa k : Nat} {tm : Team} {a : Acc} (hteam : teamAt s c t = some tm) (hpa : pa % 512 = 0) (hk : k < 16)
    (hwf : Memory.wf s.mem = true) : SentBack tm.bytes (sectorAt lo pa k) s
      (backSector s c t (pa + 32 * k) (some a) (readScr s c t (lo + 32 * k) 32)) := by
  have hread : readScr s c t (lo + 32 * k) 32 = readBytes tm.bytes (lo + 32 * k) 32 := by simp only [readScr, hteam]
  have hkept : Emptied s (backSector s c t (pa + 32 * k) (some a) (readScr s c t (lo + 32 * k) 32)) :=
    emptied_of_aside (aside_backSector (fun _ _ => rfl) _ _ _ _ _ _)
  obtain ⟨arrives, hmem, hsure⟩ := mem_backSector s c t (pa + 32 * k) a (readScr s c t (lo + 32 * k) 32)
  refine ⟨hkept, ?_, fun q o hqo hvia hback => ?_, fun q hq => ?_⟩
  · rw [hmem]
    split
    · exact writeBytes_wf _ _ hwf
    · exact hwf
  · obtain ⟨hlo, hhi, ho⟩ := hqo
    have hblock : (pa + 32 * k) / 512 = q / 512 := by omega
    rw [hmem, hsure ((viaWindow_block hblock s).trans hvia) ((backed_block hblock s).trans hback), if_pos rfl,
      sget_writeBytes _ _ hwf, hread, length_readBytes, if_pos ⟨hlo, hhi⟩, List.getD_eq_getElem?_getD,
      getElem?_readBytes _ (by omega), Option.getD_some, ho]
    congr 1
    omega
  · rw [hmem]
    split
    · rw [sget_writeBytes _ _ hwf, hread, length_readBytes, if_neg fun h => hq _ ⟨h.1, h.2, rfl⟩]
    · rfl

/-- The dirty sectors `d` of a block at `pa` whose bytes lie from `lo` on. -/
def dirtyOf (lo pa : Nat) (d : BitVec 16) (q o : Nat) : Prop :=
  pa ≤ q ∧ q < pa + 512 ∧ d.getLsbD ((q - pa) / 32) = true ∧ o = lo + (q - pa)

/-- The dirty sectors of a block that a word writes back. -/
theorem writeBack_sent {c t lo pa : Nat} {tm : Team} {a : Acc} (d : BitVec 16) (hteam : teamAt s c t = some tm) (hpa : pa % 512 = 0)
    (hwf : Memory.wf s.mem = true) : SentBack tm.bytes (dirtyOf lo pa d) s (writeBack s c t lo pa d (some a)) := by
  refine (sentBack_foldl (D := sectorAt lo pa) ((List.range 16).filter fun k => d.getLsbD k) (fun k hk u hu hwf => ?_)
    (fun k _ k' _ q o o' h h' => h.2.2.trans h'.2.2.symm) hwf).congr fun q o => ⟨?_, ?_⟩
  · have hk16 : k < 16 := List.mem_range.mp (List.mem_filter.mp hk).1
    obtain ⟨tm', htm', hbytes, -⟩ := hu.teamAt hteam
    exact hbytes ▸ backSector_sent htm' hpa hk16 hwf
  · rintro ⟨k, hk, hlo, hhi, ho⟩
    obtain ⟨hk16, hdirty⟩ := List.mem_filter.mp hk
    rw [List.mem_range] at hk16
    exact ⟨by omega, by omega, by rwa [show (q - pa) / 32 = k by omega], ho⟩
  · rintro ⟨hlo, hhi, hdirty, ho⟩
    exact ⟨(q - pa) / 32, List.mem_filter.mpr ⟨List.mem_range.mpr (by omega), hdirty⟩, by omega, by omega, ho⟩

/-- What block `i` of a window gives back. -/
def dirtyIn (off : Nat) (ib : Nat × Block) (q o : Nat) : Prop :=
  ∃ pa d, ib.2 = .valid pa d ∧ dirtyOf (off + 512 * ib.1) pa d q o

theorem mem_setBlock (s : State) (c t w b : Nat) (v : Block) : (setBlock s c t w b v).mem = s.mem := rfl

theorem sweepBlock_sent {c t w off : Nat} {tm : Team} {a : Acc} (keep : Bool) (ib : Nat × Block) (hteam : teamAt s c t = some tm)
    (hpa : ∀ pa d, ib.2 = .valid pa d → pa % 512 = 0) (hwf : Memory.wf s.mem = true) :
    SentBack tm.bytes (dirtyIn off ib) s (sweepBlock c t w off true keep (some a) s ib) := by
  obtain ⟨i, b⟩ := ib
  cases b with
  | invalid => exact sentBack_of_mem (.refl s) rfl hwf fun q o ⟨_, _, h, _⟩ => by cases h
  | valid pa d =>
    have hsent := (writeBack_sent (lo := off + 512 * i) (a := a) d hteam (hpa pa d rfl) hwf).congr (D' := dirtyIn off (i, .valid pa d))
      fun q o => ⟨fun h => ⟨pa, d, rfl, h⟩, fun ⟨pa', d', e, h⟩ => by
        cases e
        exact h⟩
    cases keep with
    | true => exact hsent.then_keep (emptied_setBlock _ _ _ _ _ _) (mem_setBlock _ _ _ _ _ _)
    | false => exact hsent.then_keep (emptied_leaveBlock _ _ _ _ _ _) (mem_leaveBlock _ _ _ _ _ _)

/-! ### The sweep of a window -/

theorem mem_mapFrom_mk {α : Type} (k i : Nat) (x : α) (xs : List α) :
    (i, x) ∈ mapFrom Prod.mk k xs ↔ k ≤ i ∧ xs[i - k]? = some x := by
  induction xs generalizing k with
  | nil => simp [mapFrom]
  | cons y ys ih =>
    rw [mapFrom, List.mem_cons, ih]
    by_cases hi : i = k
    · subst hi
      simp [eq_comm]
    · have hne : (i, x) ≠ (k, y) := fun e => hi (congrArg Prod.fst e)
      rw [or_iff_right hne]
      by_cases hlt : k < i
      · rw [show i - k = (i - (k + 1)) + 1 by omega, List.getElem?_cons_succ]
        exact and_congr_left' (by omega)
      · exact iff_of_false (fun h => by omega) fun h => by omega

/-- WFLUSH: the dirty sectors of a window's blocks, each at its own address (R185). -/
theorem sweepWindow_writtenBack {c t w : Nat} {tm : Team} {wn : Window} {a : Acc} (keep : Bool) (hwn : windowOf s c t w = some wn)
    (hteam : teamAt s c t = some tm) (hwf : Memory.wf s.mem = true) (hapart : BlocksApart wn) :
    WrittenBack s (sweepWindow s c t w true keep (some a)).mem tm wn := by
  obtain ⟨haligned, hdisjoint⟩ := hapart
  have hmem (ib : Nat × Block) : ib ∈ mapFrom Prod.mk 0 wn.blocks ↔ wn.blocks[ib.1]? = some ib.2 := by
    have h := mem_mapFrom_mk 0 ib.1 ib.2 wn.blocks
    simpa using h
  have hsent := sentBack_foldl (bytes := tm.bytes) (D := dirtyIn wn.off) (f := sweepBlock c t w wn.off true keep (some a))
    (mapFrom Prod.mk 0 wn.blocks) (s := s) (fun ib hib u hu hwf => by
      obtain ⟨tm', htm', hbytes, -⟩ := hu.teamAt hteam
      exact hbytes ▸ sweepBlock_sent keep ib htm' (fun pa d e => haligned ib.1 pa d (((hmem ib).mp hib).trans (congrArg some e)))
        hwf)
    (fun x hx y hy q o o' ⟨pa, d, hb, hlo, hhi, _, ho⟩ ⟨pa', d', hb', hlo', hhi', _, ho'⟩ => by
      have hx' : validBlock wn x.1 pa d := ((hmem x).mp hx).trans (congrArg some hb)
      have hy' : validBlock wn y.1 pa' d' := ((hmem y).mp hy).trans (congrArg some hb')
      have hsame : x.1 = y.1 := by
        by_contra hne
        have h := hdisjoint _ _ _ _ _ _ hne hx' hy'
        omega
      have hpa : pa = pa' := by
        rw [hsame] at hx'
        have h := Option.some.inj (hx'.symm.trans hy')
        cases h
        rfl
      rw [ho, ho', hsame, hpa]) hwf
  have hdirty (q o : Nat) : (∃ ib ∈ mapFrom Prod.mk 0 wn.blocks, dirtyIn wn.off ib q o) ↔ dirtyAt wn q o := by
    constructor
    · rintro ⟨ib, hib, pa, d, hb, h⟩
      exact ⟨ib.1, pa, d, ((hmem ib).mp hib).trans (congrArg some hb), h⟩
    · rintro ⟨i, pa, d, hvalid, h⟩
      exact ⟨(i, .valid pa d), (hmem _).mpr hvalid, pa, d, rfl, h⟩
  have hsent := hsent.congr hdirty
  rw [sweepWindow_some hwn]
  exact ⟨hsent.given, hsent.rest⟩

/-! ### The slot of a window -/

theorem windowOf_of_team {c t w : Nat} {tm : Team} (h : teamAt s c t = some tm) : windowOf s c t w = tm.wins.getD w none := by
  rw [windowOf, h]
  rfl

/-- A team whose window slots have changed. -/
def withWins (f : List (Option Window) → List (Option Window)) (tm : Team) : Team := { tm with wins := f tm.wins }

theorem windowOf_withWins {c : Nat} (hc : c < s.cores.length) (f : List (Option Window) → List (Option Window)) (t w : Nat) :
    windowOf (modTeam s c t (withWins f)) c t w = ((teamAt s c t).map fun tm => (f tm.wins).getD w none).join := by
  rw [windowOf, teamAt_modTeam hc (f := withWins f) fun _ => rfl, if_pos ⟨rfl, rfl⟩, Option.map_map]
  rfl

theorem setBlock_eq (s : State) (c t w b : Nat) (v : Block) : setBlock s c t w b v
    = modTeam s c t (withWins (modAt (Option.map fun wn => { wn with blocks := wn.blocks.set b v }) w)) := rfl

theorem unmapWindow_eq (s : State) (c t w : Nat) : unmapWindow s c t w = modTeam s c t (withWins fun ws => ws.set w none) := rfl

theorem windowOf_setBlock {c t w : Nat} (hc : c < s.cores.length) (b : Nat) (v : Block) :
    windowOf (setBlock s c t w b v) c t w
      = (windowOf s c t w).map fun wn => { wn with blocks := wn.blocks.set b v } := by
  rw [setBlock_eq, windowOf_withWins hc, windowOf]
  cases teamAt s c t with
  | none => rfl
  | some tm =>
    simp only [Option.map_some, Option.join_some]
    by_cases hw : w < tm.wins.length
    · rw [getD_modAt _ _ _ _ _ hw, if_pos rfl]
    · rw [List.getD_eq_default _ _ (by rw [length_modAt]; omega), List.getD_eq_default _ _ (by omega), Option.map_none]

theorem windowOf_of_unfailed {c n : Nat} (h : Aside unfailed s t) (w : Nat) : windowOf t c n w = windowOf s c n w := by
  have hteam := congrArg (Option.map fun tm : Team => tm.wins.getD w none) (h.teamAt (fun _ => rfl) c n)
  simp only [Option.map_map] at hteam
  exact congrArg Option.join hteam

/-- A sweep that keeps its blocks leaves the valid ones clean. -/
theorem windowOf_sweepBlocks {c t w off : Nat} {who : Option Acc} {wn : Window} (bs pre : List Block) {s : State}
    (hc : c < s.cores.length) (h : windowOf s c t w = some { wn with blocks := pre ++ bs }) :
    windowOf ((mapFrom Prod.mk pre.length bs).foldl (sweepBlock c t w off true true who) s) c t w
      = some { wn with blocks := pre ++ bs.map cleanBlock } := by
  induction bs generalizing pre s with
  | nil => exact h
  | cons b bs ih =>
    have hnext : windowOf (sweepBlock c t w off true true who s (pre.length, b)) c t w
        = some { wn with blocks := (pre ++ [cleanBlock b]) ++ bs } := by
      cases b with
      | invalid =>
        rw [List.append_assoc]
        exact h
      | valid pa d =>
        have haside := aside_writeBack (T := unfailed) (fun _ _ => rfl) s c t (off + 512 * pre.length) pa d who
        show windowOf (setBlock (writeBack s c t (off + 512 * pre.length) pa d who) c t w pre.length (.valid pa 0)) c t w = _
        rw [windowOf_setBlock (haside.length.symm ▸ hc), windowOf_of_unfailed haside, h]
        simp [cleanBlock]
    have h' := ih (pre ++ [cleanBlock b]) ((emptied_sweepBlock ..).length.symm ▸ hc) hnext
    rw [List.length_append, List.length_singleton, List.append_assoc] at h'
    exact h'

/-- An emptied slot. -/
theorem windowOf_emptyWindow {c : Nat} (hc : c < s.cores.length) (t w : Nat) (back : Bool) (who : Option Acc) :
    windowOf (emptyWindow s c t w back who) c t w = none := by
  rw [emptyWindow, unmapWindow_eq, windowOf_withWins ((emptied_sweepWindow ..).length.symm ▸ hc)]
  cases teamAt (sweepWindow s c t w back false who) c t with
  | none => rfl
  | some tm =>
    simp only [Option.map_some, Option.join_some, List.getD_eq_getElem?_getD, List.getElem?_set_self']
    cases tm.wins[w]? <;> rfl

theorem emptied_unmapWindow (s : State) (c t w : Nat) : Emptied s (unmapWindow s c t w) :=
  emptied_of_aside (aside_modTeam (fun tm => by simp only [unwindowed, List.map_const', List.length_set]) s c t)

theorem emptied_emptyWindow (s : State) (c t w : Nat) (back : Bool) (who : Option Acc) : Emptied s (emptyWindow s c t w back who) :=
  (emptied_sweepWindow ..).trans (emptied_unmapWindow ..)

theorem windowOf_mapped {c t w : Nat} {tm : Team} (hc : c < s.cores.length) (hteam : teamAt s c t = some tm)
    (hw : w < tm.wins.length) (wn : Window) :
    windowOf (modTeam s c t (withWins fun ws => ws.set w (some wn))) c t w = some wn := by
  rw [windowOf_withWins hc, hteam]
  simp [hw]

/-! ### The limits of a mapping -/

/-- Whether slot `v` holds a window that a mapping would overlap. -/
def clashes (tm : Team) (v off len : Nat) : Bool := (tm.wins.getD v none).any fun wn => off < wn.off + wn.len && wn.off < off + len

theorem clashes_iff (tm : Team) (v off len : Nat) : clashes tm v off len = true
    ↔ ∃ wn, tm.wins.getD v none = some wn ∧ off < wn.off + wn.len ∧ wn.off < off + len := by
  rw [clashes, Option.any_eq_true]
  simp

theorem badMap_eq (tm : Team) (w va off len : Nat) : badMap tm w va off len
    = (decide (va % 512 ≠ 0) || decide (off % 512 ≠ 0) || decide (len % 512 ≠ 0) || decide (len = 0)
      || decide (tm.shared < off + len) || !canonical (va + len - 1)
      || (List.range 4).any fun v => decide (v ≠ w) && clashes tm v off len) := by
  unfold badMap clashes
  congr 2
  funext v
  cases tm.wins.getD v none <;> rfl

theorem badMap_iff (tm : Team) (w va off len : Nat) : badMap tm w va off len = true ↔ ¬MapOk tm w va off len := by
  have hclash : (∀ v wn, v < 4 → v ≠ w → tm.wins.getD v none = some wn → off + len ≤ wn.off ∨ wn.off + wn.len ≤ off)
      ↔ ¬∃ v < 4, v ≠ w ∧ clashes tm v off len = true := by
    constructor
    · rintro h ⟨v, hv, hne, hclash⟩
      obtain ⟨wn, hwn, hlo, hhi⟩ := (clashes_iff tm v off len).mp hclash
      have := h v wn hv hne hwn
      omega
    · intro h v wn hv hne hwn
      by_contra hover
      exact h ⟨v, hv, hne, (clashes_iff tm v off len).mpr ⟨wn, hwn, by omega, by omega⟩⟩
  have hany : ((List.range 4).any fun v => decide (v ≠ w) && clashes tm v off len) = true
      ↔ ∃ v < 4, v ≠ w ∧ clashes tm v off len = true := by
    simp [List.any_eq_true]
  rw [badMap_eq, MapOk, hclash, Bool.or_eq_true, hany]
  simp only [Bool.or_eq_true, decide_eq_true_eq, Bool.not_eq_true', not_and_or, not_not, or_assoc, ne_eq, Nat.not_le, Bool.not_eq_true]

end

end Sys2Proof.Machine

namespace Sys2Proof

open Sys2Proof.Machine Sys2Proof.Claims

/-- Settles O31: the limits of WMAP, what the sweep of a window sends back, and what it leaves in the slot. -/
theorem windowWordsMapFlushAndDrop : Obligations.WindowWordsMapFlushAndDrop := by
  intro gd w a b c un s g tm hc hteam hwins hwf va off len slot
  have hw : w.val < 4 := w.isLt
  refine ⟨fun hrun => ?_, fun hrun => ?_, fun hrun => ?_⟩
  · obtain ⟨l, -, hexec⟩ := onceWord_of_runs hrun _
    have hexec : exec (.wmap gd w a b c) s = _ := hexec
    dsimp only at hexec
    rw [hteam] at hexec
    dsimp only at hexec
    refine ⟨fun hok => ?_, fun hbad => ?_⟩
    · rw [if_neg fun h => (badMap_iff ..).mp h hok] at hexec
      have hkept := (emptied_emptyWindow s s.cur.core g.team w.val true (some (backStore s g l)))
      obtain ⟨tm', htm', -, hlen⟩ := hkept.teamAt hteam
      exact ⟨_, hexec, windowOf_mapped (hkept.length.symm ▸ hc) htm' (by omega) _⟩
    · rw [if_pos ((badMap_iff ..).mpr hbad), trap_of_curGrp hrun.1.1] at hexec
      exact hexec
  · obtain ⟨l, -, hexec⟩ := onceWord_of_runs hrun _
    have hexec : exec (.wflush gd un w) s = _ := hexec
    refine ⟨_, hexec, ?_⟩
    cases un with
    | true =>
      refine ⟨fun _ => .inr rfl, fun wn hslot hapart => ⟨?_, windowOf_emptyWindow hc _ _ _ _⟩⟩
      exact sweepWindow_writtenBack false hslot hteam hwf hapart
    | false =>
      refine ⟨fun hslot => .inl (sweepWindow_none hslot _ _ _), fun wn hslot hapart => ⟨?_, ?_⟩⟩
      · exact sweepWindow_writtenBack true hslot hteam hwf hapart
      · have hclean := windowOf_sweepBlocks (off := wn.off) (who := some (backStore s g l)) wn.blocks [] hc hslot
        show windowOf (sweepWindow s s.cur.core g.team w.val true true (some (backStore s g l))) s.cur.core g.team w.val = _
        rw [sweepWindow_some hslot]
        exact hclean.trans (congrArg (fun bs => some { wn with blocks := bs }) (List.map_congr_left fun b _ => by cases b <;> rfl))
  · obtain ⟨l, -, hexec⟩ := onceWord_of_runs hrun _
    have hexec : exec (.wdrop gd w) s = _ := hexec
    exact ⟨_, hexec, windowOf_emptyWindow hc _ _ _ _, mem_sweepWindow_drop _ _ _ _ _⟩

end Sys2Proof
